-- ==== Sys2Proof/Word.lean ====
section
/-! DEFINITION. The word types of the Denindaris DX8 (R2, R12). Everything is little-endian. -/

namespace Sys2Proof

/-- A byte of memory. -/
abbrev Byte := BitVec 8

/-- A 32-bit register or instruction word. -/
abbrev Word := BitVec 32

/-- A 64-bit register pair or address. -/
abbrev DWord := BitVec 64

/-- One bit per thread of a group: an activity mask, a predicate or a fault mask (R9). -/
abbrev Mask := BitVec 96

/-- The threads of a group, in ascending order. -/
def threads : List Nat := List.range 96

end Sys2Proof
end

