-- ==== Sys2Proof/Config.lean ====
section
/-! DEFINITION. What an implementation fixes and the values the manual leaves open. Every constant here is
opaque: no proof can learn a value of it. Each is named in an assumption-log entry. -/

namespace Sys2Proof.Config

/-- Device revision, CAPCORE.REV (R429: no reset value). Log entry 4. -/
opaque rev : BitVec 8

/-- Free supply: value number `k` of the values the manual leaves open. Log entry 5. -/
opaque freeWord : Nat → BitVec 32

/-- The result bits of special function number `f` (0 FRCP to 7 FTANH) on an operand whose result R120 does not
list: the same on every core of one revision (R119). Log entry 6. -/
opaque specialFn : Nat → Word → Word

/-- SHA-384 of a byte string, as a list of 48 bytes (R457, R459). Log entry 7. -/
opaque sha384 : List Byte → List Byte

/-- RSASSA-PSS verification: modulus, message, signature (R459). Log entry 7. -/
opaque rsaVerify : List Byte → List Byte → List Byte → Bool

/-- SLH-DSA-SHA2-192s verification: public key, message, signature (R459). Log entry 7. -/
opaque slhVerify : List Byte → List Byte → List Byte → Bool

/-- The UP port that carries a peer access, by a function of the address (R434). Log entry 16. -/
opaque uaRoute : Nat → Nat

/-- Bytes of one ECC word (R455 names no size). Log entry 15. -/
opaque eccBytes : Nat

/-- Bytes of save pool that a team's state of the given architectural size takes (R420: the format is private).
Log entry 11. -/
opaque saveBytes : Nat → Nat

/-- The home L3 slice of an address (R273: a fixed function that programs do not see). Log entry 18. -/
opaque l3Slice : Nat → Nat

/-- The home L2 slice of an address: which of its saddle's four compute dies it lies on (R273). Log entry 18. -/
opaque l2Slice : Nat → Nat

/-- The code of element `i` of a NaN block that the converters write as .e4m3b or .e5m2b (R52 gives only its scale). Log
entry 49. -/
opaque nanCode : Nat → BitVec 8

/-- Telemetry word `w` of HEALTH page `page` at reading number `k` (R469). Log entry 13. -/
opaque telemetry : Nat → Nat → Nat → DWord

end Sys2Proof.Config
end

