-- ==== Sys2Proof/Syntax.lean ====
section
/-! DEFINITION. The steps of the Denindaris DX8: one constructor for each row of the opcode table. The words
of clauses and blocks (R83) carry their operands. The rows without an encoding are steps of the device and of the
outside; which agent, queue entry or datum such a step concerns stands in `StepArgs`. -/

namespace Sys2Proof

/-- A register number named by a 6-bit field (R74). -/
abbrev Reg := Fin 64

/-- A predicate number (R72). -/
abbrev Pred := Fin 12

/-- A core of the device by die and logical index (R35). -/
structure CoreId where
  die : Nat
  core : Nat
  deriving DecidableEq, Repr

/-- A group slot of a core (R151): quadrant q's slot i has number 16q + i. -/
structure GroupId where
  die : Nat
  core : Nat
  slot : Nat
  deriving DecidableEq, Repr

/-- The guard field (R72): 15 is unguarded, 0 to 11 name a predicate. -/
inductive Guard where
  | always
  | pred (p : Pred)
  deriving DecidableEq, Repr

/-- The b operand (R75): b.sel chooses the register file. -/
inductive BOp where
  | v (n : Reg)
  | s (n : Reg)
  deriving DecidableEq, Repr

/-- Memory segments (R77). -/
inductive Seg where
  | gl | sh | cn | lo
  deriving DecidableEq, Repr

/-- Scopes (R78), narrowest first. -/
inductive Scope where
  | grp | core | die | dev | sys
  deriving DecidableEq, Repr

/-- Memory orders (R78). -/
inductive Order where
  | rlx | acq | rel | acqrel | sc
  deriving DecidableEq, Repr

/-- Compare conditions (R80). -/
inductive Cond where
  | eq | ne | lt | le | gt | ge | un | ord
  deriving DecidableEq, Repr

/-- SHIFTI kinds (R97). -/
inductive ShiftKind where
  | shl | shr | sar | rot
  deriving DecidableEq, Repr

/-- SHFLI kinds (R207). -/
inductive ShflKind where
  | up | down | xor | rot
  deriving DecidableEq, Repr

/-- REDI operations (R207). -/
inductive RedOp where
  | add | min | max | minn | maxn | and | or | xor
  deriving DecidableEq, Repr

/-- Barrier levels (R167). -/
inductive BarLevel where
  | team | cluster | launch
  deriving DecidableEq, Repr

/-- Number of barriers of a level (R167). -/
def BarLevel.count : BarLevel → Nat
  | .team => 16
  | .cluster => 8
  | .launch => 4

/-- PREF levels (R347). -/
inductive PrefLevel where
  | l1 | l2 | l3
  deriving DecidableEq, Repr

/-- The fields of a spatial operator word after its opcode (R87). -/
structure SFields where
  qa : Fin 16
  qb : Fin 16
  dl : Fin 128
  dq : Fin 16
  g : Bool
  l : Bool
  f : Bool
  c : Bool
  w : Bool
  deriving DecidableEq, Repr

/-- External ports (R434, R449). -/
inductive Port where
  | ua (n : Fin 16)
  | host
  | cap (n : Fin 2)
  deriving DecidableEq, Repr

/-- Completions that a portal receives (R341). -/
inductive PortalResult where
  | done | refused | lost
  deriving DecidableEq, Repr

/-- Read-modify-write operations (R333, R340, R342). -/
inductive AtomOp where
  | fetchAdd | swap | cas | addF32 | addF64 | addBf16 | minI32 | maxI32 | and | or | xor
  deriving DecidableEq, Repr

/-- Cell operations (R251). -/
inductive CellOp where
  | propose | read | wait | init | rst
  deriving DecidableEq, Repr

/-- Requests that arrive from a peer device (R436). The identifier of the requesting task stands with the
operations of R249. -/
inductive PeerReq where
  | load (pa len : Nat)
  | store (pa : Nat) (data : List Byte)
  | atomic (op : AtomOp) (pa size x cmp : Nat)
  | cell (op : CellOp) (pa : Nat) (gen : Word) (value : DWord) (task : Word)
  | lock (acquire : Bool) (pa : Nat) (task : Word)
  | qrsv (pa : Nat) (task : Word)
  | qput (pa : Nat) (payload : DWord) (task : Word)
  | qget (pa : Nat)
  | succDecrement (succ : Word)
  | succLink (task succ : Word)
  | predIncrement (succ : Word)
  deriving DecidableEq, Repr

/-- What the firmware counts and finds in its bring-up (R429, R449, R463 step 4): cores, spare cores and L2 slices of each
die, L3 slices, and a word of R469 for each of the two ports' sixteen target expanders. -/
structure Found where
  cores : List Nat := List.replicate 8 320
  spare : List Nat := List.replicate 8 16
  l2s : List Nat := List.replicate 8 48
  l3s : Nat := 128
  expanders : List Word := []
  deriving DecidableEq, Repr

/-- Outcomes of the firmware's bring-up (R463 step 4): ready, with the stacks that trained, the capacity ports that
came up, the hash masks the firmware wrote and what it found; or failed with a reason. -/
inductive BootResult where
  | ready (inService : BitVec 12) (caps : BitVec 2) (hmask : List (BitVec 23)) (found : Found)
  | failed (reason : Byte)
  deriving DecidableEq, Repr

/-- What a step without an encoding concerns. A step reads the fields that its meaning names and no other. -/
structure StepArgs where
  /-- the core of the step -/
  core : CoreId := ⟨0, 0⟩
  /-- the group of the step -/
  group : GroupId := ⟨0, 0, 0⟩
  /-- an index into a queue of the state: an outstanding instruction, store, copy, message, register, slot or unit -/
  k : Nat := 0
  /-- a second number: a quadrant, a count of bytes, a die or a context -/
  n : Nat := 0
  /-- a thread, lane or length -/
  t : Nat := 0
  /-- a task identifier -/
  task : Word := 0
  /-- a physical address or line -/
  pa : Nat := 0
  /-- a virtual address, datum or register-space word -/
  x : DWord := 0
  /-- a second datum -/
  y : DWord := 0
  /-- bytes written, `none` for a read -/
  data : Option (List Byte) := none
  /-- whether the step succeeds, where the outside decides it -/
  ok : Bool := true
  port : Port := .host
  reply : PortalResult := .done
  atom : AtomOp := .fetchAdd
  peer : PeerReq := .load 0 0
  boot : BootResult := .failed 0
  deriving DecidableEq, Repr

/-- The rows of the opcode table. -/
inductive Instr where
  /-- NOP (R98) -/
  | nop
  /-- MOVI (R98) -/
  | movi (g : Guard) (d : Reg) (imm : BitVec 14)
  /-- MOVL (R98) -/
  | movl (g : Guard) (d : Reg) (lit : Word)
  /-- MOV (R98) -/
  | mov (g : Guard) (d : Reg) (b : BOp)
  /-- MOVX (R99) -/
  | movx (g : Guard) (d : Reg) (sb : Reg) (k : Fin 64)
  /-- MOVY (R99) -/
  | movy (g : Guard) (d : Reg) (sb : Reg) (k : Fin 64)
  /-- IADD (R101) -/
  | iadd (g : Guard) (d : Reg) (a : Reg) (b : BOp) (sat : Bool)
  /-- ISUB (R101) -/
  | isub (g : Guard) (d : Reg) (a : Reg) (b : BOp) (sat : Bool)
  /-- IADDI (R101) -/
  | iaddi (g : Guard) (d : Reg) (a : Reg) (imm : BitVec 8)
  /-- IMUL (R101) -/
  | imul (g : Guard) (d : Reg) (a : Reg) (b : BOp)
  /-- IMULH (R101) -/
  | imulh (g : Guard) (d : Reg) (a : Reg) (b : BOp) (n : Bool)
  /-- IMAD (R101) -/
  | imad (g : Guard) (d : Reg) (a : Reg) (b : BOp)
  /-- IMADW (R102) -/
  | imadw (g : Guard) (d : Reg) (a : Reg) (b : BOp) (n : Bool)
  /-- IADD64 (R102) -/
  | iadd64 (g : Guard) (d : Reg) (a : Reg) (b : BOp) (w : Bool)
  /-- IMIN (R101) -/
  | imin (g : Guard) (d : Reg) (a : Reg) (b : BOp) (n : Bool)
  /-- IMAX (R101) -/
  | imax (g : Guard) (d : Reg) (a : Reg) (b : BOp) (n : Bool)
  /-- IABS (R101) -/
  | iabs (g : Guard) (d : Reg) (b : BOp) (sat : Bool)
  /-- AND (R103) -/
  | and (g : Guard) (d : Reg) (a : Reg) (b : BOp)
  /-- OR (R103) -/
  | or (g : Guard) (d : Reg) (a : Reg) (b : BOp)
  /-- XOR (R103) -/
  | xor (g : Guard) (d : Reg) (a : Reg) (b : BOp)
  /-- ANDN (R103) -/
  | andn (g : Guard) (d : Reg) (a : Reg) (b : BOp)
  /-- SHL (R104) -/
  | shl (g : Guard) (d : Reg) (a : Reg) (b : BOp)
  /-- SHR (R104) -/
  | shr (g : Guard) (d : Reg) (a : Reg) (b : BOp) (ar : Bool)
  /-- ROT (R104) -/
  | rot (g : Guard) (d : Reg) (a : Reg) (b : BOp) (r : Bool)
  /-- SHIFTI (R104) -/
  | shifti (g : Guard) (d : Reg) (a : Reg) (kind : ShiftKind) (n : Fin 64)
  /-- BFE (R106) -/
  | bfe (g : Guard) (d : Reg) (a : Reg) (b : BOp) (s : Bool)
  /-- BFI (R107) -/
  | bfi (g : Guard) (d : Reg) (a : Reg) (b : BOp)
  /-- POPC (R105) -/
  | popc (g : Guard) (d : Reg) (b : BOp)
  /-- CLZ (R105) -/
  | clz (g : Guard) (d : Reg) (b : BOp)
  /-- BREV (R105) -/
  | brev (g : Guard) (d : Reg) (b : BOp)
  /-- ICMP (R108) -/
  | icmp (g : Guard) (pair : Fin 6) (cond : Cond) (a : Reg) (b : BOp) (w : Bool)
  /-- ICMPN (R108) -/
  | icmpn (g : Guard) (pair : Fin 6) (cond : Cond) (a : Reg) (b : BOp) (w : Bool)
  /-- SEL (R109) -/
  | sel (p : Pred) (d : Reg) (a : Reg) (b : BOp)
  /-- SMOVI (R98) -/
  | smovi (d : Reg) (imm : BitVec 14)
  /-- SMOVL (R98) -/
  | smovl (d : Reg) (lit : Word)
  /-- SADD (R110) -/
  | sadd (d : Reg) (a : Reg) (b : Reg)
  /-- SSUB (R110) -/
  | ssub (d : Reg) (a : Reg) (b : Reg)
  /-- SMUL (R110) -/
  | smul (d : Reg) (a : Reg) (b : Reg)
  /-- SAND (R103) -/
  | sand (d : Reg) (a : Reg) (b : Reg)
  /-- SOR (R103) -/
  | sor (d : Reg) (a : Reg) (b : Reg)
  /-- SXOR (R103) -/
  | sxor (d : Reg) (a : Reg) (b : Reg)
  /-- SSHL (R104) -/
  | sshl (d : Reg) (a : Reg) (b : Reg)
  /-- SSHR (R104) -/
  | sshr (d : Reg) (a : Reg) (b : Reg) (ar : Bool)
  /-- SCMP (R108) -/
  | scmp (pair : Fin 6) (cond : Cond) (a : Reg) (b : Reg) (n : Bool)
  /-- READL (R100) -/
  | readl (d : Reg) (a : Reg) (k : Fin 96)
  /-- WRITEL (R100) -/
  | writel (d : Reg) (a : Reg) (k : Fin 96)
  /-- FADD_F32 (R116) -/
  | faddF32 (g : Guard) (d : Reg) (a : Reg) (b : BOp)
  /-- FADD_F64 (R116) -/
  | faddF64 (g : Guard) (d : Reg) (a : Reg) (b : BOp)
  /-- FADD_H2 (R116) -/
  | faddH2 (g : Guard) (d : Reg) (a : Reg) (b : BOp)
  /-- FADD_BH2 (R116) -/
  | faddBH2 (g : Guard) (d : Reg) (a : Reg) (b : BOp)
  /-- FSUB_F32 (R116) -/
  | fsubF32 (g : Guard) (d : Reg) (a : Reg) (b : BOp)
  /-- FSUB_F64 (R116) -/
  | fsubF64 (g : Guard) (d : Reg) (a : Reg) (b : BOp)
  /-- FSUB_H2 (R116) -/
  | fsubH2 (g : Guard) (d : Reg) (a : Reg) (b : BOp)
  /-- FSUB_BH2 (R116) -/
  | fsubBH2 (g : Guard) (d : Reg) (a : Reg) (b : BOp)
  /-- FMUL_F32 (R116) -/
  | fmulF32 (g : Guard) (d : Reg) (a : Reg) (b : BOp)
  /-- FMUL_F64 (R116) -/
  | fmulF64 (g : Guard) (d : Reg) (a : Reg) (b : BOp)
  /-- FMUL_H2 (R116) -/
  | fmulH2 (g : Guard) (d : Reg) (a : Reg) (b : BOp)
  /-- FMUL_BH2 (R116) -/
  | fmulBH2 (g : Guard) (d : Reg) (a : Reg) (b : BOp)
  /-- FFMA_F32 (R116) -/
  | ffmaF32 (g : Guard) (d : Reg) (a : Reg) (b : BOp) (neg : Bool)
  /-- FFMA_F64 (R116) -/
  | ffmaF64 (g : Guard) (d : Reg) (a : Reg) (b : BOp) (neg : Bool)
  /-- FFMA_H2 (R116) -/
  | ffmaH2 (g : Guard) (d : Reg) (a : Reg) (b : BOp) (neg : Bool)
  /-- FFMA_BH2 (R116) -/
  | ffmaBH2 (g : Guard) (d : Reg) (a : Reg) (b : BOp) (neg : Bool)
  /-- FMIN_F32 (R117) -/
  | fminF32 (g : Guard) (d : Reg) (a : Reg) (b : BOp) (nan : Bool)
  /-- FMIN_F64 (R117) -/
  | fminF64 (g : Guard) (d : Reg) (a : Reg) (b : BOp) (nan : Bool)
  /-- FMIN_H2 (R117) -/
  | fminH2 (g : Guard) (d : Reg) (a : Reg) (b : BOp) (nan : Bool)
  /-- FMIN_BH2 (R117) -/
  | fminBH2 (g : Guard) (d : Reg) (a : Reg) (b : BOp) (nan : Bool)
  /-- FMAX_F32 (R117) -/
  | fmaxF32 (g : Guard) (d : Reg) (a : Reg) (b : BOp) (nan : Bool)
  /-- FMAX_F64 (R117) -/
  | fmaxF64 (g : Guard) (d : Reg) (a : Reg) (b : BOp) (nan : Bool)
  /-- FMAX_H2 (R117) -/
  | fmaxH2 (g : Guard) (d : Reg) (a : Reg) (b : BOp) (nan : Bool)
  /-- FMAX_BH2 (R117) -/
  | fmaxBH2 (g : Guard) (d : Reg) (a : Reg) (b : BOp) (nan : Bool)
  /-- FCMP_F32 (R118) -/
  | fcmpF32 (g : Guard) (pair : Fin 6) (cond : Cond) (a : Reg) (b : BOp) (sig : Bool)
  /-- FCMP_F64 (R118) -/
  | fcmpF64 (g : Guard) (pair : Fin 6) (cond : Cond) (a : Reg) (b : BOp) (sig : Bool)
  /-- FCMP_H2 (R118) -/
  | fcmpH2 (g : Guard) (pair : Fin 6) (cond : Cond) (a : Reg) (b : BOp) (hi : Bool)
  /-- FCMP_BH2 (R118) -/
  | fcmpBH2 (g : Guard) (pair : Fin 6) (cond : Cond) (a : Reg) (b : BOp) (hi : Bool)
  /-- FRCP (R120) -/
  | frcp (g : Guard) (d : Reg) (b : BOp)
  /-- FRSQ (R120) -/
  | frsq (g : Guard) (d : Reg) (b : BOp)
  /-- FSQRT (R120) -/
  | fsqrt (g : Guard) (d : Reg) (b : BOp)
  /-- FEXP2 (R120) -/
  | fexp2 (g : Guard) (d : Reg) (b : BOp)
  /-- FLOG2 (R120) -/
  | flog2 (g : Guard) (d : Reg) (b : BOp)
  /-- FSIN (R120) -/
  | fsin (g : Guard) (d : Reg) (b : BOp)
  /-- FCOS (R120) -/
  | fcos (g : Guard) (d : Reg) (b : BOp)
  /-- FTANH (R120) -/
  | ftanh (g : Guard) (d : Reg) (b : BOp)
  /-- CVT_F32_F64 (R122) -/
  | cvtF32F64 (g : Guard) (d : Reg) (b : BOp)
  /-- CVT_F64_F32 (R122) -/
  | cvtF64F32 (g : Guard) (d : Reg) (b : BOp)
  /-- CVT_F32_H2 (R122) -/
  | cvtF32H2 (g : Guard) (d : Reg) (b : BOp) (hi : Bool)
  /-- CVT_H2_F32 (R122) -/
  | cvtH2F32 (g : Guard) (d : Reg) (a : Reg) (b : BOp)
  /-- CVT_F32_BH2 (R122) -/
  | cvtF32Bh2 (g : Guard) (d : Reg) (b : BOp) (hi : Bool)
  /-- CVT_BH2_F32 (R122) -/
  | cvtBh2F32 (g : Guard) (d : Reg) (a : Reg) (b : BOp)
  /-- CVT_F32_I32 (R122) -/
  | cvtF32I32 (g : Guard) (d : Reg) (b : BOp)
  /-- CVT_F32_N32 (R122) -/
  | cvtF32N32 (g : Guard) (d : Reg) (b : BOp)
  /-- CVT_I32_F32 (R122) -/
  | cvtI32F32 (g : Guard) (d : Reg) (b : BOp) (rz : Bool)
  /-- CVT_N32_F32 (R122) -/
  | cvtN32F32 (g : Guard) (d : Reg) (b : BOp) (rz : Bool)
  /-- CVT_F64_I32 (R122) -/
  | cvtF64I32 (g : Guard) (d : Reg) (b : BOp)
  /-- CVT_I32_F64 (R122) -/
  | cvtI32F64 (g : Guard) (d : Reg) (b : BOp) (rz : Bool)
  /-- CVTP_E4M3 (R123) -/
  | cvtpE4m3 (g : Guard) (d : Reg) (a : Reg) (b : BOp) (hi : Bool)
  /-- CVTP_E5M2 (R123) -/
  | cvtpE5m2 (g : Guard) (d : Reg) (a : Reg) (b : BOp) (hi : Bool)
  /-- CVTU_E4M3 (R124) -/
  | cvtuE4m3 (g : Guard) (d : Reg) (b : BOp) (hi : Bool)
  /-- CVTU_E5M2 (R124) -/
  | cvtuE5m2 (g : Guard) (d : Reg) (b : BOp) (hi : Bool)
  /-- BRA_ANY (R129) -/
  | braAny (g : Guard) (disp : BitVec 20)
  /-- BRA_ALL (R129) -/
  | braAll (g : Guard) (disp : BitVec 20)
  /-- BRA_NONE (R129) -/
  | braNone (g : Guard) (disp : BitVec 20)
  /-- JMP (R130) -/
  | jmp (disp : BitVec 20)
  /-- CALL (R130) -/
  | call (disp : BitVec 20)
  /-- CALLR (R130) -/
  | callr (a : Reg)
  /-- RET (R130) -/
  | ret (a : Reg)
  /-- MSKAND (R131) -/
  | mskand (d : Reg) (p : Pred) (not : Bool)
  /-- MSKSET (R131) -/
  | mskset (a : Reg) (p : Option Pred)
  /-- EXIT (R132) -/
  | exit (g : Guard)
  /-- LD_S8 (R135) -/
  | ldS8 (g : Guard) (d : Reg) (a : Reg) (seg : Seg) (off : Fin 8)
  /-- LD_N8 (R135) -/
  | ldN8 (g : Guard) (d : Reg) (a : Reg) (seg : Seg) (off : Fin 8)
  /-- LD_S16 (R135) -/
  | ldS16 (g : Guard) (d : Reg) (a : Reg) (seg : Seg) (off : Fin 8)
  /-- LD_N16 (R135) -/
  | ldN16 (g : Guard) (d : Reg) (a : Reg) (seg : Seg) (off : Fin 8)
  /-- LD_B32 (R135) -/
  | ldB32 (g : Guard) (d : Reg) (a : Reg) (seg : Seg) (off : Fin 8)
  /-- LD_B64 (R135) -/
  | ldB64 (g : Guard) (d : Reg) (a : Reg) (seg : Seg) (off : Fin 8)
  /-- LD_B128 (R135) -/
  | ldB128 (g : Guard) (d : Reg) (a : Reg) (seg : Seg) (off : Fin 8)
  /-- ST_B8 (R136) -/
  | stB8 (g : Guard) (d : Reg) (a : Reg) (seg : Seg) (off : Fin 8)
  /-- ST_B16 (R136) -/
  | stB16 (g : Guard) (d : Reg) (a : Reg) (seg : Seg) (off : Fin 8)
  /-- ST_B32 (R136) -/
  | stB32 (g : Guard) (d : Reg) (a : Reg) (seg : Seg) (off : Fin 8)
  /-- ST_B64 (R136) -/
  | stB64 (g : Guard) (d : Reg) (a : Reg) (seg : Seg) (off : Fin 8)
  /-- ST_B128 (R136) -/
  | stB128 (g : Guard) (d : Reg) (a : Reg) (seg : Seg) (off : Fin 8)
  /-- LDAQ_B32 (R329) -/
  | ldaqB32 (g : Guard) (d : Reg) (a : Reg) (seg : Seg) (sc : Scope) (off : Fin 8)
  /-- LDAQ_B64 (R329) -/
  | ldaqB64 (g : Guard) (d : Reg) (a : Reg) (seg : Seg) (sc : Scope) (off : Fin 8)
  /-- STRL_B32 (R330) -/
  | strlB32 (g : Guard) (d : Reg) (a : Reg) (seg : Seg) (sc : Scope) (off : Fin 8)
  /-- STRL_B64 (R330) -/
  | strlB64 (g : Guard) (d : Reg) (a : Reg) (seg : Seg) (sc : Scope) (off : Fin 8)
  /-- TRAP (R142) -/
  | trap (g : Guard) (code : BitVec 14)
  /-- SRR (R143) -/
  | srr (d : Reg) (num : BitVec 14)
  /-- SWR (R143) -/
  | swr (d : Reg) (num : BitVec 14)
  /-- SEGSET (R144) -/
  | segset (k : Fin 4) (a : Reg)
  /-- ERET (R406) -/
  | eret
  /-- TLBINV (R146) -/
  | tlbinv (sc : Scope) (all : Bool) (a : Reg)
  /-- CTXSV (R148) -/
  | ctxsv (a : Reg) (b : Reg)
  /-- CTXLD (R149) -/
  | ctxld (d : Reg) (a : Reg)
  /-- SHFL (R209) -/
  | shfl (g : Guard) (d : Reg) (a : Reg) (b : BOp) (x : Bool)
  /-- SHFLI (R209) -/
  | shfli (g : Guard) (d : Reg) (a : Reg) (kind : ShflKind) (n : Fin 64)
  /-- PTOS (R210) -/
  | ptos (d : Reg) (p : Pred) (b : Reg) (cnt : Bool)
  /-- STOP (R211) -/
  | stop (g : Guard) (p : Pred) (a : Reg) (not : Bool)
  /-- PLOP (R212) -/
  | plop (g : Guard) (pd : Pred) (pa : Pred) (pb : Pred) (tt : BitVec 4)
  /-- VCONF (R213) -/
  | vconf (g : Guard) (d : Reg) (a : Reg) (b : BOp) (last : Bool)
  /-- VRANK (R213) -/
  | vrank (g : Guard) (d : Reg) (a : Reg) (b : BOp) (n : Bool)
  /-- RSUMK (R214) -/
  | rsumk (g : Guard) (d : Reg) (a : Reg) (b : BOp) (i : Bool)
  /-- REDI (R215) -/
  | redi (g : Guard) (op : RedOp) (d : Reg) (b : BOp) (toS : Bool)
  /-- REDF (R216) -/
  | redf (g : Guard) (f64 : Bool) (d : Reg) (b : BOp) (toS : Bool)
  /-- BAR (R217) -/
  | bar (lv : BarLevel) (n : Fin 16)
  /-- BARA (R217) -/
  | bara (lv : BarLevel) (n : Fin 16)
  /-- BARW (R217) -/
  | barw (lv : BarLevel) (n : Fin 16)
  /-- SPAT (R219) -/
  | spat (a : Reg)
  /-- GROW (R220) -/
  | grow (n : BitVec 14)
  /-- SHRNK (R221) -/
  | shrnk (n : BitVec 14)
  /-- TLAUNCH (R265) -/
  | tlaunch (g : Guard) (d : Reg) (a : Reg) (seg : Seg)
  /-- TSUCC (R266) -/
  | tsucc (g : Guard) (d : Reg) (a : Reg) (seg : Seg)
  /-- PROPOSE (R267) -/
  | propose (g : Guard) (d : Reg) (a : Reg) (seg : Seg) (sc : Scope) (mo : Order)
  /-- CELLRD (R267) -/
  | cellrd (g : Guard) (d : Reg) (a : Reg) (seg : Seg) (sc : Scope) (mo : Order)
  /-- CELLWT (R267) -/
  | cellwt (g : Guard) (d : Reg) (a : Reg) (seg : Seg) (sc : Scope) (mo : Order)
  /-- CELLINIT (R267) -/
  | cellinit (g : Guard) (d : Reg) (a : Reg) (seg : Seg) (sc : Scope) (mo : Order)
  /-- CELLRST (R267) -/
  | cellrst (g : Guard) (d : Reg) (a : Reg) (seg : Seg) (sc : Scope) (mo : Order)
  /-- LKACQ (R268) -/
  | lkacq (g : Guard) (d : Reg) (a : Reg) (seg : Seg) (sc : Scope) (mo : Order)
  /-- LKREL (R268) -/
  | lkrel (g : Guard) (d : Reg) (a : Reg) (seg : Seg) (sc : Scope) (mo : Order)
  /-- QRSV (R269) -/
  | qrsv (g : Guard) (d : Reg) (a : Reg) (seg : Seg)
  /-- QPUT (R269) -/
  | qput (g : Guard) (d : Reg) (a : Reg) (seg : Seg) (sc : Scope) (mo : Order)
  /-- QGET (R269) -/
  | qget (g : Guard) (d : Reg) (a : Reg) (seg : Seg) (sc : Scope) (mo : Order)
  /-- ATADD_I32 (R333) -/
  | ataddI32 (g : Guard) (d : Reg) (a : Reg) (seg : Seg) (sc : Scope) (mo : Order)
  /-- ATADD_I64 (R333) -/
  | ataddI64 (g : Guard) (d : Reg) (a : Reg) (seg : Seg) (sc : Scope) (mo : Order)
  /-- ATADD_F32 (R333) -/
  | ataddF32 (g : Guard) (d : Reg) (a : Reg) (seg : Seg) (sc : Scope) (mo : Order)
  /-- ATMIN_I32 (R333) -/
  | atminI32 (g : Guard) (d : Reg) (a : Reg) (seg : Seg) (sc : Scope) (mo : Order)
  /-- ATMAX_I32 (R333) -/
  | atmaxI32 (g : Guard) (d : Reg) (a : Reg) (seg : Seg) (sc : Scope) (mo : Order)
  /-- ATAND_B32 (R333) -/
  | atandB32 (g : Guard) (d : Reg) (a : Reg) (seg : Seg) (sc : Scope) (mo : Order)
  /-- ATOR_B32 (R333) -/
  | atorB32 (g : Guard) (d : Reg) (a : Reg) (seg : Seg) (sc : Scope) (mo : Order)
  /-- ATXOR_B32 (R333) -/
  | atxorB32 (g : Guard) (d : Reg) (a : Reg) (seg : Seg) (sc : Scope) (mo : Order)
  /-- ATXCH_B32 (R333) -/
  | atxchB32 (g : Guard) (d : Reg) (a : Reg) (seg : Seg) (sc : Scope) (mo : Order)
  /-- ATXCH_B64 (R333) -/
  | atxchB64 (g : Guard) (d : Reg) (a : Reg) (seg : Seg) (sc : Scope) (mo : Order)
  /-- ATCAS_B32 (R333) -/
  | atcasB32 (g : Guard) (d : Reg) (a : Reg) (seg : Seg) (sc : Scope) (mo : Order)
  /-- ATCAS_B64 (R333) -/
  | atcasB64 (g : Guard) (d : Reg) (a : Reg) (seg : Seg) (sc : Scope) (mo : Order)
  /-- REDST_F32 (R338) -/
  | redstF32 (g : Guard) (d : Reg) (a : Reg) (seg : Seg) (sc : Scope) (mo : Order)
  /-- FENCE (R344) -/
  | fence (sc : Scope) (mo : Order)
  /-- PUBLISH (R346) -/
  | publish (d : Reg) (a : Reg) (sc : Scope)
  /-- PREF (R347) -/
  | pref (g : Guard) (lv : PrefLevel) (a : Reg) (seg : Seg) (off : Fin 8)
  /-- TDEF (R377) -/
  | tdef (t : Fin 256)
  /-- TINV (R377) -/
  | tinv (t : Fin 256)
  /-- TCOPY (R380) -/
  | tcopy (t : Fin 256) (a : Reg) (b : Reg)
  /-- TSTORE (R380) -/
  | tstore (t : Fin 256) (a : Reg) (b : Reg)
  /-- MMA (R381) -/
  | mma (fmt : Fin 32) (ac : Bool) (ra : Bool) (rb : Bool) (a : Reg)
  /-- MDRAIN (R383) -/
  | mdrain (t : Fin 256) (a : Reg) (b : Reg)
  /-- XBEXP (R384) -/
  | xbexp (n : Fin 16) (b : Reg)
  /-- XBWAIT (R385) -/
  | xbwait (n : Fin 16) (k : Option Reg)
  /-- SLOTSET (R386) -/
  | slotset (buf : Fin 8) (slot : Fin 16) (full : Bool)
  /-- SLOTWT (R386) -/
  | slotwt (buf : Fin 8) (slot : Fin 16) (full : Bool)
  /-- BUFDEF (R378) -/
  | bufdef (buf : Fin 8) (a : Reg) (b : Reg)
  /-- BUFDEF_FREE (R378) -/
  | bufdefFree (buf : Fin 8)
  /-- TXBEG (R413) -/
  | txbeg (disp : BitVec 20)
  /-- TXEND (R416) -/
  | txend
  /-- TXABT (R414) -/
  | txabt (code : BitVec 8)
  /-- TXST (R416) -/
  | txst (d : Reg)
  /-- SRC (R226) -/
  | src (o : SFields)
  /-- SNK (R226) -/
  | snk (o : SFields)
  /-- CTR (R229) -/
  | ctr (o : SFields)
  /-- STEER (R230) -/
  | steer (o : SFields)
  /-- MERGE (R230) -/
  | merge (o : SFields)
  /-- ACC (R231) -/
  | acc (o : SFields)
  /-- ORD (R228) -/
  | ord (o : SFields)
  /-- CONV (R232) -/
  | conv (o : SFields)
  /-- RDREG (R233) -/
  | rdreg (o : SFields)
  /-- WRREG (R233) -/
  | wrreg (o : SFields)
  /-- MTOK (R234) -/
  | mtok (o : SFields)
  /-- DUP (R235) -/
  | dup (o : SFields)
  /-- ALU_OPERATOR_FIRE (R222) -/
  | aluOperatorFire (op : BitVec 8) (o : SFields)
  /-- CORE_RESET (R40) -/
  | coreReset
  /-- DEVICE_RESET (R463) -/
  | deviceReset
  /-- CLAUSE_FETCH (R17) -/
  | clauseFetch
  /-- CLAUSE_DECODE (R17) -/
  | clauseDecode
  /-- CLAUSE_START (R23) -/
  | clauseStart
  /-- ISSUE_SELECT (R161) -/
  | issueSelect
  /-- RESULT_WRITEBACK (R24) -/
  | resultWriteback
  /-- TRAP_ENTRY (R402) -/
  | trapEntry
  /-- MIGRATION_COMPLETE (R300) -/
  | migrationComplete
  /-- DELAYED_FAULT_DELIVERY (R375) -/
  | delayedFaultDelivery
  /-- GROUP_END (R132) -/
  | groupEnd
  /-- TEAM_START (R244) -/
  | teamStart
  /-- TEAM_BALANCE (R243) -/
  | teamBalance
  /-- POOL_GRANT (R164) -/
  | poolGrant
  /-- BARRIER_RELEASE (R167) -/
  | barrierRelease
  /-- LAUNCH_WINDOW_SCAN (R241) -/
  | launchWindowScan
  /-- SUCCESSOR_DECREMENT (R245) -/
  | successorDecrement
  /-- CELL_REQUEST (R251) -/
  | cellRequest
  /-- LOCK_REQUEST (R268) -/
  | lockRequest
  /-- QUEUE_REQUEST (R269) -/
  | queueRequest
  /-- WAITING_WORD_RETRY (R255) -/
  | waitingWordRetry
  /-- REMOTE_WAKE (R437) -/
  | remoteWake
  /-- REMOTE_SLEEPER_RETRY (R437) -/
  | remoteSleeperRetry
  /-- ATOMIC_PERFORM (R333) -/
  | atomicPerform
  /-- STORE_PERFORM (R283) -/
  | storePerform
  /-- LOAD_PERFORM (R293) -/
  | loadPerform
  /-- COHERENCE_INVALIDATION (R284) -/
  | coherenceInvalidation
  /-- INVALIDATION_ACK (R284) -/
  | invalidationAck
  /-- LINE_WRITEBACK (R283) -/
  | lineWriteback
  /-- DIRECTORY_EVICTION (R285) -/
  | directoryEviction
  /-- BANK_READ (R276) -/
  | bankRead
  /-- BANK_WRITE (R276) -/
  | bankWrite
  /-- ADD_ON_STORE (R276) -/
  | addOnStore
  /-- BANK_ATOMIC (R276) -/
  | bankAtomic
  /-- CHAINED_ADD_ON_STORE (R277) -/
  | chainedAddOnStore
  /-- LINE_ADD_ON_STORE (R338) -/
  | lineAddOnStore
  /-- TILE_DRAIN_UPDATE (R369) -/
  | tileDrainUpdate
  /-- PAGE_WALK (R390) -/
  | pageWalk
  /-- TLBINV_COMPLETE (R146) -/
  | tlbinvComplete
  /-- HMASK_APPLY (R350) -/
  | hmaskApply
  /-- PORTAL_COMPLETION (R341) -/
  | portalCompletion
  /-- COMPLETION_TIMEOUT (R401) -/
  | completionTimeout
  /-- HOST_ATOMIC_OP (R342) -/
  | hostAtomicOp
  /-- GRAPH_DESCRIPTOR_READ (R176) -/
  | graphDescriptorRead
  /-- BLOCK_FETCH (R177) -/
  | blockFetch
  /-- BLOCK_READ_AHEAD (R178) -/
  | blockReadAhead
  /-- RIG_PLACEMENT (R181) -/
  | rigPlacement
  /-- MATRIX_NODE_CLAIM (R183) -/
  | matrixNodeClaim
  /-- CONFIG_ITEM_ARRIVAL (R198) -/
  | configItemArrival
  /-- SOURCE_START (R175) -/
  | sourceStart
  /-- TOKEN_ARRIVAL (R191) -/
  | tokenArrival
  /-- SLOT_RETURN (R187) -/
  | slotReturn
  /-- QUIESCENCE (R201) -/
  | quiescence
  /-- RIG_STUCK (R204) -/
  | rigStuck
  /-- PORT_REPLY (R228) -/
  | portReply
  /-- COPY_START (R357) -/
  | copyStart
  /-- WALK_AHEAD (R358) -/
  | walkAhead
  /-- ARRIVAL_POST (R363) -/
  | arrivalPost
  /-- XBWAIT_RESUME (R385) -/
  | xbwaitResume
  /-- MATRIX_TOKEN_FIRE (R367) -/
  | matrixTokenFire
  /-- MDRAIN_READ (R369) -/
  | mdrainRead
  /-- CHAIN_STAGE_ADD (R370) -/
  | chainStageAdd
  /-- CHAIN_SLOT_ENABLE (R441) -/
  | chainSlotEnable
  /-- CHAIN_SLOT_RESET (R443) -/
  | chainSlotReset
  /-- PREEMPTION_TIMEOUT (R418) -/
  | preemptionTimeout
  /-- TEAM_SAVE (R420) -/
  | teamSave
  /-- TEAM_RESTORE (R420) -/
  | teamRestore
  /-- RIG_SAVE (R421) -/
  | rigSave
  /-- RIG_SAVE_TIMEOUT (R421) -/
  | rigSaveTimeout
  /-- TX_ABORT (R415) -/
  | txAbort
  /-- TX_COMMIT (R416) -/
  | txCommit
  /-- KILL (R424) -/
  | kill
  /-- RECLAIM (R395) -/
  | reclaim
  /-- RETIRE (R425) -/
  | retire
  /-- CONTEXT_ENABLE (R431) -/
  | contextEnable
  /-- CONTEXT_DISABLE (R431) -/
  | contextDisable
  /-- REGISTER_SPACE_WRITE (R428) -/
  | registerSpaceWrite
  /-- LINK_RETRAIN (R434) -/
  | linkRetrain
  /-- LINK_DOWN_ENABLE (R434) -/
  | linkDownEnable
  /-- LINK_TRAINED (R434) -/
  | linkTrained
  /-- LINK_FAILURE (R401) -/
  | linkFailure
  /-- LANE_REMAP (R454) -/
  | laneRemap
  /-- PEER_REQUEST (R436) -/
  | peerRequest
  /-- HOST_MEM_ACCESS (R448) -/
  | hostMemAccess
  /-- HOST_SNOOP (R445) -/
  | hostSnoop
  /-- BI_RESPONSE (R447) -/
  | biResponse
  /-- CAPACITY_DECODER_ENABLE (R450) -/
  | capacityDecoderEnable
  /-- CHECKPOINT_SAVE (R453) -/
  | checkpointSave
  /-- CHECKPOINT_LOAD (R452) -/
  | checkpointLoad
  /-- CHECKPOINT_COPY_DONE (R453) -/
  | checkpointCopyDone
  /-- SLICE_RETIRE (R454) -/
  | sliceRetire
  /-- ECC_CORRECTABLE_ERROR (R455) -/
  | eccCorrectableError
  /-- ECC_UNCORRECTABLE_ERROR (R455) -/
  | eccUncorrectableError
  /-- SCRUB_INTERVAL (R455) -/
  | scrubInterval
  /-- GROOM_LOAD (R465) -/
  | groomLoad
  /-- GROOM_TRAIN (R465) -/
  | groomTrain
  /-- GROOM_ROW_REPAIR (R454) -/
  | groomRowRepair
  /-- GROOM_PC_SPARE (R454) -/
  | groomPcSpare
  /-- GROOM_SCRUB (R465) -/
  | groomScrub
  /-- GROOM_TELEMETRY (R465) -/
  | groomTelemetry
  /-- STAGING_WINDOW_WRITE (R460) -/
  | stagingWindowWrite
  /-- FWLOAD (R463) -/
  | fwload
  /-- FIRMWARE_VERIFIED (R463) -/
  | firmwareVerified
  /-- FIRMWARE_INIT_DONE (R463) -/
  | firmwareInitDone
  /-- CODEVERIFY (R466) -/
  | codeverify
  /-- SVNCOMMIT (R461) -/
  | svncommit
  /-- KEYPROG (R461) -/
  | keyprog
  /-- KEYREVOKE (R461) -/
  | keyrevoke
  /-- HEALTH (R469) -/
  | health
  /-- PSC_RETIRE (R461) -/
  | pscRetire
  /-- PSC_KILL (R461) -/
  | pscKill
  /-- PLDM_REQUEST (R469) -/
  | pldmRequest
  /-- CYC_INCREMENT (R36) -/
  | cycIncrement
  /-- CLEAN_LINE_DROP (R284) -/
  | cleanLineDrop
  /-- UNLISTED_COMMAND (R461) -/
  | unlistedCommand
  deriving DecidableEq, Repr

end Sys2Proof
end

