-- ==== Sys2Proof/WellFormed.lean ====
section
/-! DEFINITION. Well-formed steps: the operand limits that the types of Syntax.lean do not carry (R74, R80, R97,
R128, R141, R143, R207, R263, R331, R376, R412). The decoder refuses an ill-formed word. -/

namespace Sys2Proof

/-- A pair starting at `r` does not run past register 63 (R74). -/
def pairOk (r : Reg) : Bool := decide (r.val ≤ 62)

/-- A triple starting at `r` does not run past register 63. -/
def tripleOk (r : Reg) : Bool := decide (r.val ≤ 61)

/-- A quad starting at `r` does not run past register 63. -/
def quadOk (r : Reg) : Bool := decide (r.val ≤ 60)

/-- A b operand that names a pair does not run past register 63. -/
def BOp.pairOk : BOp → Bool
  | .v n => Sys2Proof.pairOk n
  | .s n => Sys2Proof.pairOk n

/-- Conditions that ICMP, ICMPN and SCMP accept (R80). -/
def Cond.isInt : Cond → Bool
  | .un => false
  | .ord => false
  | _ => true

/-- Scopes that TLBINV accepts (R141). -/
def Scope.isTlbScope : Scope → Bool
  | .core => true
  | .die => true
  | .dev => true
  | _ => false

/-- The address register of a format M word: a pair for gl (R77, R133). -/
def addrOk (seg : Seg) (a : Reg) : Bool := !(seg == .gl) || pairOk a

/-- A register budget (R13): a multiple of 8 from 8 to 256. -/
def budgetOk (n : Nat) : Bool := decide (8 ≤ n) && decide (n ≤ 256) && n % 8 == 0

/-- HMASKi.s numbers (R297): 0x0100 + 8s + i with i below 6 and s below 12. -/
def isHmaskNum (n : Nat) : Bool := decide (0x100 ≤ n) && decide (n < 0x160) && decide (n % 8 < 6)

/-- Special registers that are pairs (R143). -/
def isPairNum (n : Nat) : Bool := n == 0x04 || n == 0x34 || n == 0x38

/-- Special registers that SRR may read (R35, R143, R297, R395, R403, R429). -/
def srrNum (n : Nat) : Bool :=
  decide (n ≤ 0x04) || n == 0x10 || n == 0x11 || n == 0x20 || n == 0x21 || (decide (0x30 ≤ n) && decide (n ≤ 0x34)) ||
    n == 0x36 || n == 0x37 || n == 0x38 || (decide (0x3A ≤ n) && decide (n ≤ 0x3D)) ||
    (decide (0x40 ≤ n) && decide (n ≤ 0x5B)) || isHmaskNum n || n == 0x163

/-- Special registers that SWR may write (R143). -/
def swrNum (n : Nat) : Bool :=
  n == 0x10 || n == 0x11 || n == 0x38 || (decide (0x3A ≤ n) && decide (n ≤ 0x3D)) ||
    (decide (0x40 ≤ n) && decide (n ≤ 0x43)) || isHmaskNum n || (decide (0x160 ≤ n) && decide (n ≤ 0x162))

/-- An SRR of number `n` into `d` (R143). -/
def srrOk (n : Nat) (d : Reg) : Bool := srrNum n && (!isPairNum n || pairOk d)

/-- An SWR of number `n` from `d` (R143). -/
def swrOk (n : Nat) (d : Reg) : Bool := swrNum n && (!isPairNum n || pairOk d)

/-- A core index of the device (R35). -/
def CoreId.ok (c : CoreId) : Bool := decide (c.die < 8) && decide (c.core < 320)

/-- A group slot of the device (R151). -/
def GroupId.ok (g : GroupId) : Bool := decide (g.die < 8) && decide (g.core < 320) && decide (g.slot < 64)

/-- A spatial operator word's codes: 15 rejects (R87). -/
def SFields.ok (o : SFields) : Bool := decide (o.qa.val ≠ 15) && decide (o.qb.val ≠ 15) && decide (o.dq.val ≠ 15)

/-- ALU opcodes that a spatial operator word accepts (R88). -/
def aluOperatorOp (op : Nat) : Bool :=
  op == 0x04 || op == 0x07 || op == 0x08 || (decide (0x0A ≤ op) && decide (op ≤ 0x0C)) || (decide (0x0F ≤ op) && decide (op ≤ 0x18)) ||
    (decide (0x1A ≤ op) && decide (op ≤ 0x21)) || (decide (0x30 ≤ op) && decide (op ≤ 0x63))

/-- Well-formed steps. -/
def Instr.wf : Instr → Bool
  | .nop => true
  | .movi _ _ _ => true
  | .movl _ _ _ => true
  | .mov _ _ _ => true
  | .movx _ _ _ _ => true
  | .movy _ _ _ _ => true
  | .iadd _ _ _ _ _ => true
  | .isub _ _ _ _ _ => true
  | .iaddi _ _ _ _ => true
  | .imul _ _ _ _ => true
  | .imulh _ _ _ _ _ => true
  | .imad _ _ _ _ => true
  | .imadw _ d _ _ _ => pairOk d
  | .iadd64 _ d a b w => pairOk d && pairOk a && (!w || b.pairOk)
  | .imin _ _ _ _ _ => true
  | .imax _ _ _ _ _ => true
  | .iabs _ _ _ _ => true
  | .and _ _ _ _ => true
  | .or _ _ _ _ => true
  | .xor _ _ _ _ => true
  | .andn _ _ _ _ => true
  | .shl _ _ _ _ => true
  | .shr _ _ _ _ _ => true
  | .rot _ _ _ _ _ => true
  | .shifti _ _ _ _ _ => true
  | .bfe _ _ _ _ _ => true
  | .bfi _ _ _ _ => true
  | .popc _ _ _ => true
  | .clz _ _ _ => true
  | .brev _ _ _ => true
  | .icmp _ _ cond a b w => cond.isInt && (!w || (pairOk a && b.pairOk))
  | .icmpn _ _ cond a b w => cond.isInt && (!w || (pairOk a && b.pairOk))
  | .sel _ _ _ _ => true
  | .smovi _ _ => true
  | .smovl _ _ => true
  | .sadd _ _ _ => true
  | .ssub _ _ _ => true
  | .smul _ _ _ => true
  | .sand _ _ _ => true
  | .sor _ _ _ => true
  | .sxor _ _ _ => true
  | .sshl _ _ _ => true
  | .sshr _ _ _ _ => true
  | .scmp _ cond _ _ _ => cond.isInt
  | .readl _ _ _ => true
  | .writel _ _ _ => true
  | .faddF32 _ _ _ _ => true
  | .faddF64 _ d a b => pairOk d && pairOk a && b.pairOk
  | .faddH2 _ _ _ _ => true
  | .faddBH2 _ _ _ _ => true
  | .fsubF32 _ _ _ _ => true
  | .fsubF64 _ d a b => pairOk d && pairOk a && b.pairOk
  | .fsubH2 _ _ _ _ => true
  | .fsubBH2 _ _ _ _ => true
  | .fmulF32 _ _ _ _ => true
  | .fmulF64 _ d a b => pairOk d && pairOk a && b.pairOk
  | .fmulH2 _ _ _ _ => true
  | .fmulBH2 _ _ _ _ => true
  | .ffmaF32 _ _ _ _ _ => true
  | .ffmaF64 _ d a b _ => pairOk d && pairOk a && b.pairOk
  | .ffmaH2 _ _ _ _ _ => true
  | .ffmaBH2 _ _ _ _ _ => true
  | .fminF32 _ _ _ _ _ => true
  | .fminF64 _ d a b _ => pairOk d && pairOk a && b.pairOk
  | .fminH2 _ _ _ _ _ => true
  | .fminBH2 _ _ _ _ _ => true
  | .fmaxF32 _ _ _ _ _ => true
  | .fmaxF64 _ d a b _ => pairOk d && pairOk a && b.pairOk
  | .fmaxH2 _ _ _ _ _ => true
  | .fmaxBH2 _ _ _ _ _ => true
  | .fcmpF32 _ _ _ _ _ _ => true
  | .fcmpF64 _ _ _ a b _ => pairOk a && b.pairOk
  | .fcmpH2 _ _ _ _ _ _ => true
  | .fcmpBH2 _ _ _ _ _ _ => true
  | .frcp _ _ _ => true
  | .frsq _ _ _ => true
  | .fsqrt _ _ _ => true
  | .fexp2 _ _ _ => true
  | .flog2 _ _ _ => true
  | .fsin _ _ _ => true
  | .fcos _ _ _ => true
  | .ftanh _ _ _ => true
  | .cvtF32F64 _ _ b => b.pairOk
  | .cvtF64F32 _ d _ => pairOk d
  | .cvtF32H2 _ _ _ _ => true
  | .cvtH2F32 _ _ _ _ => true
  | .cvtF32Bh2 _ _ _ _ => true
  | .cvtBh2F32 _ _ _ _ => true
  | .cvtF32I32 _ _ _ => true
  | .cvtF32N32 _ _ _ => true
  | .cvtI32F32 _ _ _ _ => true
  | .cvtN32F32 _ _ _ _ => true
  | .cvtF64I32 _ d _ => pairOk d
  | .cvtI32F64 _ _ b _ => b.pairOk
  | .cvtpE4m3 _ _ _ _ _ => true
  | .cvtpE5m2 _ _ _ _ _ => true
  | .cvtuE4m3 _ d _ _ => pairOk d
  | .cvtuE5m2 _ d _ _ => pairOk d
  | .braAny _ _ => true
  | .braAll _ _ => true
  | .braNone _ _ => true
  | .jmp _ => true
  | .call _ => true
  | .callr a => pairOk a
  | .ret a => pairOk a
  | .mskand d _ _ => decide (d.val ≤ 57)
  | .mskset a _ => tripleOk a
  | .exit _ => true
  | .ldS8 _ _ a seg _ => addrOk seg a
  | .ldN8 _ _ a seg _ => addrOk seg a
  | .ldS16 _ _ a seg _ => addrOk seg a
  | .ldN16 _ _ a seg _ => addrOk seg a
  | .ldB32 _ _ a seg _ => addrOk seg a
  | .ldB64 _ d a seg _ => addrOk seg a && pairOk d
  | .ldB128 _ d a seg _ => addrOk seg a && quadOk d
  | .stB8 _ _ a seg _ => addrOk seg a
  | .stB16 _ _ a seg _ => addrOk seg a
  | .stB32 _ _ a seg _ => addrOk seg a
  | .stB64 _ d a seg _ => addrOk seg a && pairOk d
  | .stB128 _ d a seg _ => addrOk seg a && quadOk d
  | .ldaqB32 _ _ a seg _ _ => addrOk seg a
  | .ldaqB64 _ d a seg _ _ => addrOk seg a && pairOk d
  | .strlB32 _ _ a seg _ _ => addrOk seg a
  | .strlB64 _ d a seg _ _ => addrOk seg a && pairOk d
  | .trap _ _ => true
  | .srr d num => srrOk num.toNat d
  | .swr d num => swrOk num.toNat d
  | .segset _ a => quadOk a
  | .eret => true
  | .tlbinv sc all a => sc.isTlbScope && pairOk a && (!all || a.val == 0)
  | .ctxsv a _ => pairOk a
  | .ctxld _ a => pairOk a
  | .shfl _ _ _ _ _ => true
  | .shfli _ _ _ kind n => (kind != .rot || decide (n.val < 32))
  | .ptos d _ b cnt => (cnt || tripleOk d) && tripleOk b
  | .stop _ _ a _ => tripleOk a
  | .plop _ _ _ _ _ => true
  | .vconf _ _ _ _ _ => true
  | .vrank _ _ _ _ _ => true
  | .rsumk _ _ _ _ _ => true
  | .redi g _ _ _ toS => !toS || g == .always
  | .redf g f64 d b toS => (!toS || g == .always) && (!f64 || (pairOk d && b.pairOk))
  | .bar lv n => decide (n.val < lv.count)
  | .bara lv n => decide (n.val < lv.count)
  | .barw lv n => decide (n.val < lv.count)
  | .spat a => pairOk a
  | .grow n => budgetOk n.toNat
  | .shrnk n => budgetOk n.toNat
  | .tlaunch _ _ a _ => pairOk a
  | .tsucc _ _ a _ => pairOk a
  | .propose _ d a _ _ mo => (mo == .acqrel || mo == .sc) && pairOk a && tripleOk d
  | .cellrd _ d a _ _ mo => (mo == .acq || mo == .sc) && pairOk a && tripleOk d
  | .cellwt _ d a _ _ mo => (mo == .acq || mo == .sc) && pairOk a && tripleOk d
  | .cellinit _ d a _ _ mo => (mo == .rlx || mo == .rel || mo == .sc) && pairOk a && tripleOk d
  | .cellrst _ d a _ _ mo => (mo == .rlx || mo == .rel || mo == .sc) && pairOk a && tripleOk d
  | .lkacq _ _ a _ _ mo => (mo == .acq || mo == .sc) && pairOk a
  | .lkrel _ _ a _ _ mo => (mo == .rel || mo == .sc) && pairOk a
  | .qrsv _ _ a _ => pairOk a
  | .qput _ d a _ _ mo => (mo == .rel || mo == .sc) && pairOk a && pairOk d
  | .qget _ d a _ _ mo => (mo == .acq || mo == .sc) && pairOk a && tripleOk d
  | .ataddI32 _ _ a seg _ _ => addrOk seg a
  | .ataddI64 _ d a seg _ _ => addrOk seg a && pairOk d
  | .ataddF32 _ _ a seg _ _ => addrOk seg a
  | .atminI32 _ _ a seg _ _ => addrOk seg a
  | .atmaxI32 _ _ a seg _ _ => addrOk seg a
  | .atandB32 _ _ a seg _ _ => addrOk seg a
  | .atorB32 _ _ a seg _ _ => addrOk seg a
  | .atxorB32 _ _ a seg _ _ => addrOk seg a
  | .atxchB32 _ _ a seg _ _ => addrOk seg a
  | .atxchB64 _ d a seg _ _ => addrOk seg a && pairOk d
  | .atcasB32 _ d a seg _ _ => addrOk seg a && pairOk d
  | .atcasB64 _ d a seg _ _ => addrOk seg a && quadOk d
  | .redstF32 _ _ a seg _ mo => addrOk seg a && (mo == .rlx || mo == .rel)
  | .fence _ mo => mo != .rlx
  | .publish _ a _ => pairOk a
  | .pref _ _ a seg _ => addrOk seg a
  | .tdef _ => true
  | .tinv _ => true
  | .tcopy _ a _ => decide (a.val ≤ 59)
  | .tstore _ a _ => decide (a.val ≤ 59)
  | .mma fmt _ _ _ _ => decide (fmt.val ≠ 0) && decide (fmt.val ≤ 11)
  | .mdrain _ a _ => decide (a.val ≤ 59)
  | .xbexp _ _ => true
  | .xbwait _ _ => true
  | .slotset _ _ _ => true
  | .slotwt _ _ _ => true
  | .bufdef _ _ _ => true
  | .bufdefFree _ => true
  | .txbeg _ => true
  | .txend => true
  | .txabt _ => true
  | .txst _ => true
  | .src o => o.ok
  | .snk o => o.ok
  | .ctr o => o.ok
  | .steer o => o.ok
  | .merge o => o.ok
  | .acc o => o.ok
  | .ord o => o.ok
  | .conv o => o.ok
  | .rdreg o => o.ok
  | .wrreg o => o.ok
  | .mtok o => o.ok
  | .dup o => o.ok
  | .aluOperatorFire op o => aluOperatorOp op.toNat && o.ok
  | .coreReset => true
  | .deviceReset => true
  | .clauseFetch => true
  | .clauseDecode => true
  | .clauseStart => true
  | .issueSelect => true
  | .resultWriteback => true
  | .trapEntry => true
  | .migrationComplete => true
  | .delayedFaultDelivery => true
  | .groupEnd => true
  | .teamStart => true
  | .teamBalance => true
  | .poolGrant => true
  | .barrierRelease => true
  | .launchWindowScan => true
  | .successorDecrement => true
  | .cellRequest => true
  | .lockRequest => true
  | .queueRequest => true
  | .waitingWordRetry => true
  | .remoteWake => true
  | .remoteSleeperRetry => true
  | .atomicPerform => true
  | .storePerform => true
  | .loadPerform => true
  | .coherenceInvalidation => true
  | .invalidationAck => true
  | .lineWriteback => true
  | .directoryEviction => true
  | .bankRead => true
  | .bankWrite => true
  | .addOnStore => true
  | .bankAtomic => true
  | .chainedAddOnStore => true
  | .lineAddOnStore => true
  | .tileDrainUpdate => true
  | .pageWalk => true
  | .tlbinvComplete => true
  | .hmaskApply => true
  | .portalCompletion => true
  | .completionTimeout => true
  | .hostAtomicOp => true
  | .graphDescriptorRead => true
  | .blockFetch => true
  | .blockReadAhead => true
  | .rigPlacement => true
  | .matrixNodeClaim => true
  | .configItemArrival => true
  | .sourceStart => true
  | .tokenArrival => true
  | .slotReturn => true
  | .quiescence => true
  | .rigStuck => true
  | .portReply => true
  | .copyStart => true
  | .walkAhead => true
  | .arrivalPost => true
  | .xbwaitResume => true
  | .matrixTokenFire => true
  | .mdrainRead => true
  | .chainStageAdd => true
  | .chainSlotEnable => true
  | .chainSlotReset => true
  | .preemptionTimeout => true
  | .teamSave => true
  | .teamRestore => true
  | .rigSave => true
  | .rigSaveTimeout => true
  | .txAbort => true
  | .txCommit => true
  | .kill => true
  | .reclaim => true
  | .retire => true
  | .contextEnable => true
  | .contextDisable => true
  | .registerSpaceWrite => true
  | .linkRetrain => true
  | .linkDownEnable => true
  | .linkTrained => true
  | .linkFailure => true
  | .laneRemap => true
  | .peerRequest => true
  | .hostMemAccess => true
  | .hostSnoop => true
  | .biResponse => true
  | .capacityDecoderEnable => true
  | .checkpointSave => true
  | .checkpointLoad => true
  | .checkpointCopyDone => true
  | .sliceRetire => true
  | .eccCorrectableError => true
  | .eccUncorrectableError => true
  | .scrubInterval => true
  | .groomLoad => true
  | .groomTrain => true
  | .groomRowRepair => true
  | .groomPcSpare => true
  | .groomScrub => true
  | .groomTelemetry => true
  | .stagingWindowWrite => true
  | .fwload => true
  | .firmwareVerified => true
  | .firmwareInitDone => true
  | .codeverify => true
  | .svncommit => true
  | .keyprog => true
  | .keyrevoke => true
  | .health => true
  | .pscRetire => true
  | .pscKill => true
  | .pldmRequest => true
  | .cycIncrement => true
  | .cleanLineDrop => true
  | .unlistedCommand => true

/-- Clause classes (R68, R69). -/
inductive Cls where
  | alu | mem | eng | ctrl | sys | tx
  deriving DecidableEq, Repr

/-- The class of a clause word: `none` for a spatial operator and for a step without an encoding. NOP belongs to every
class, and stands here as ALU (R69). -/
def Instr.cls : Instr → Option Cls
  | .nop => some .alu
  | .movi _ _ _ => some .alu
  | .movl _ _ _ => some .alu
  | .mov _ _ _ => some .alu
  | .movx _ _ _ _ => some .alu
  | .movy _ _ _ _ => some .alu
  | .iadd _ _ _ _ _ => some .alu
  | .isub _ _ _ _ _ => some .alu
  | .iaddi _ _ _ _ => some .alu
  | .imul _ _ _ _ => some .alu
  | .imulh _ _ _ _ _ => some .alu
  | .imad _ _ _ _ => some .alu
  | .imadw _ _ _ _ _ => some .alu
  | .iadd64 _ _ _ _ _ => some .alu
  | .imin _ _ _ _ _ => some .alu
  | .imax _ _ _ _ _ => some .alu
  | .iabs _ _ _ _ => some .alu
  | .and _ _ _ _ => some .alu
  | .or _ _ _ _ => some .alu
  | .xor _ _ _ _ => some .alu
  | .andn _ _ _ _ => some .alu
  | .shl _ _ _ _ => some .alu
  | .shr _ _ _ _ _ => some .alu
  | .rot _ _ _ _ _ => some .alu
  | .shifti _ _ _ _ _ => some .alu
  | .bfe _ _ _ _ _ => some .alu
  | .bfi _ _ _ _ => some .alu
  | .popc _ _ _ => some .alu
  | .clz _ _ _ => some .alu
  | .brev _ _ _ => some .alu
  | .icmp _ _ _ _ _ _ => some .alu
  | .icmpn _ _ _ _ _ _ => some .alu
  | .sel _ _ _ _ => some .alu
  | .smovi _ _ => some .alu
  | .smovl _ _ => some .alu
  | .sadd _ _ _ => some .alu
  | .ssub _ _ _ => some .alu
  | .smul _ _ _ => some .alu
  | .sand _ _ _ => some .alu
  | .sor _ _ _ => some .alu
  | .sxor _ _ _ => some .alu
  | .sshl _ _ _ => some .alu
  | .sshr _ _ _ _ => some .alu
  | .scmp _ _ _ _ _ => some .alu
  | .readl _ _ _ => some .alu
  | .writel _ _ _ => some .alu
  | .faddF32 _ _ _ _ => some .alu
  | .faddF64 _ _ _ _ => some .alu
  | .faddH2 _ _ _ _ => some .alu
  | .faddBH2 _ _ _ _ => some .alu
  | .fsubF32 _ _ _ _ => some .alu
  | .fsubF64 _ _ _ _ => some .alu
  | .fsubH2 _ _ _ _ => some .alu
  | .fsubBH2 _ _ _ _ => some .alu
  | .fmulF32 _ _ _ _ => some .alu
  | .fmulF64 _ _ _ _ => some .alu
  | .fmulH2 _ _ _ _ => some .alu
  | .fmulBH2 _ _ _ _ => some .alu
  | .ffmaF32 _ _ _ _ _ => some .alu
  | .ffmaF64 _ _ _ _ _ => some .alu
  | .ffmaH2 _ _ _ _ _ => some .alu
  | .ffmaBH2 _ _ _ _ _ => some .alu
  | .fminF32 _ _ _ _ _ => some .alu
  | .fminF64 _ _ _ _ _ => some .alu
  | .fminH2 _ _ _ _ _ => some .alu
  | .fminBH2 _ _ _ _ _ => some .alu
  | .fmaxF32 _ _ _ _ _ => some .alu
  | .fmaxF64 _ _ _ _ _ => some .alu
  | .fmaxH2 _ _ _ _ _ => some .alu
  | .fmaxBH2 _ _ _ _ _ => some .alu
  | .fcmpF32 _ _ _ _ _ _ => some .alu
  | .fcmpF64 _ _ _ _ _ _ => some .alu
  | .fcmpH2 _ _ _ _ _ _ => some .alu
  | .fcmpBH2 _ _ _ _ _ _ => some .alu
  | .frcp _ _ _ => some .alu
  | .frsq _ _ _ => some .alu
  | .fsqrt _ _ _ => some .alu
  | .fexp2 _ _ _ => some .alu
  | .flog2 _ _ _ => some .alu
  | .fsin _ _ _ => some .alu
  | .fcos _ _ _ => some .alu
  | .ftanh _ _ _ => some .alu
  | .cvtF32F64 _ _ _ => some .alu
  | .cvtF64F32 _ _ _ => some .alu
  | .cvtF32H2 _ _ _ _ => some .alu
  | .cvtH2F32 _ _ _ _ => some .alu
  | .cvtF32Bh2 _ _ _ _ => some .alu
  | .cvtBh2F32 _ _ _ _ => some .alu
  | .cvtF32I32 _ _ _ => some .alu
  | .cvtF32N32 _ _ _ => some .alu
  | .cvtI32F32 _ _ _ _ => some .alu
  | .cvtN32F32 _ _ _ _ => some .alu
  | .cvtF64I32 _ _ _ => some .alu
  | .cvtI32F64 _ _ _ _ => some .alu
  | .cvtpE4m3 _ _ _ _ _ => some .alu
  | .cvtpE5m2 _ _ _ _ _ => some .alu
  | .cvtuE4m3 _ _ _ _ => some .alu
  | .cvtuE5m2 _ _ _ _ => some .alu
  | .braAny _ _ => some .ctrl
  | .braAll _ _ => some .ctrl
  | .braNone _ _ => some .ctrl
  | .jmp _ => some .ctrl
  | .call _ => some .ctrl
  | .callr _ => some .ctrl
  | .ret _ => some .ctrl
  | .mskand _ _ _ => some .ctrl
  | .mskset _ _ => some .ctrl
  | .exit _ => some .ctrl
  | .ldS8 _ _ _ _ _ => some .mem
  | .ldN8 _ _ _ _ _ => some .mem
  | .ldS16 _ _ _ _ _ => some .mem
  | .ldN16 _ _ _ _ _ => some .mem
  | .ldB32 _ _ _ _ _ => some .mem
  | .ldB64 _ _ _ _ _ => some .mem
  | .ldB128 _ _ _ _ _ => some .mem
  | .stB8 _ _ _ _ _ => some .mem
  | .stB16 _ _ _ _ _ => some .mem
  | .stB32 _ _ _ _ _ => some .mem
  | .stB64 _ _ _ _ _ => some .mem
  | .stB128 _ _ _ _ _ => some .mem
  | .ldaqB32 _ _ _ _ _ _ => some .mem
  | .ldaqB64 _ _ _ _ _ _ => some .mem
  | .strlB32 _ _ _ _ _ _ => some .mem
  | .strlB64 _ _ _ _ _ _ => some .mem
  | .trap _ _ => some .sys
  | .srr _ _ => some .sys
  | .swr _ _ => some .sys
  | .segset _ _ => some .sys
  | .eret => some .sys
  | .tlbinv _ _ _ => some .sys
  | .ctxsv _ _ => some .sys
  | .ctxld _ _ => some .sys
  | .shfl _ _ _ _ _ => some .alu
  | .shfli _ _ _ _ _ => some .alu
  | .ptos _ _ _ _ => some .alu
  | .stop _ _ _ _ => some .alu
  | .plop _ _ _ _ _ => some .alu
  | .vconf _ _ _ _ _ => some .alu
  | .vrank _ _ _ _ _ => some .alu
  | .rsumk _ _ _ _ _ => some .alu
  | .redi _ _ _ _ _ => some .alu
  | .redf _ _ _ _ _ => some .alu
  | .bar _ _ => some .ctrl
  | .bara _ _ => some .ctrl
  | .barw _ _ => some .ctrl
  | .spat _ => some .ctrl
  | .grow _ => some .ctrl
  | .shrnk _ => some .ctrl
  | .tlaunch _ _ _ _ => some .ctrl
  | .tsucc _ _ _ _ => some .ctrl
  | .propose _ _ _ _ _ _ => some .ctrl
  | .cellrd _ _ _ _ _ _ => some .ctrl
  | .cellwt _ _ _ _ _ _ => some .ctrl
  | .cellinit _ _ _ _ _ _ => some .ctrl
  | .cellrst _ _ _ _ _ _ => some .ctrl
  | .lkacq _ _ _ _ _ _ => some .ctrl
  | .lkrel _ _ _ _ _ _ => some .ctrl
  | .qrsv _ _ _ _ => some .ctrl
  | .qput _ _ _ _ _ _ => some .ctrl
  | .qget _ _ _ _ _ _ => some .ctrl
  | .ataddI32 _ _ _ _ _ _ => some .mem
  | .ataddI64 _ _ _ _ _ _ => some .mem
  | .ataddF32 _ _ _ _ _ _ => some .mem
  | .atminI32 _ _ _ _ _ _ => some .mem
  | .atmaxI32 _ _ _ _ _ _ => some .mem
  | .atandB32 _ _ _ _ _ _ => some .mem
  | .atorB32 _ _ _ _ _ _ => some .mem
  | .atxorB32 _ _ _ _ _ _ => some .mem
  | .atxchB32 _ _ _ _ _ _ => some .mem
  | .atxchB64 _ _ _ _ _ _ => some .mem
  | .atcasB32 _ _ _ _ _ _ => some .mem
  | .atcasB64 _ _ _ _ _ _ => some .mem
  | .redstF32 _ _ _ _ _ _ => some .mem
  | .fence _ _ => some .mem
  | .publish _ _ _ => some .mem
  | .pref _ _ _ _ _ => some .mem
  | .tdef _ => some .eng
  | .tinv _ => some .eng
  | .tcopy _ _ _ => some .eng
  | .tstore _ _ _ => some .eng
  | .mma _ _ _ _ _ => some .eng
  | .mdrain _ _ _ => some .eng
  | .xbexp _ _ => some .eng
  | .xbwait _ _ => some .eng
  | .slotset _ _ _ => some .eng
  | .slotwt _ _ _ => some .eng
  | .bufdef _ _ _ => some .eng
  | .bufdefFree _ => some .eng
  | .txbeg _ => some .tx
  | .txend => some .tx
  | .txabt _ => some .tx
  | .txst _ => some .tx
  | .src _ => none
  | .snk _ => none
  | .ctr _ => none
  | .steer _ => none
  | .merge _ => none
  | .acc _ => none
  | .ord _ => none
  | .conv _ => none
  | .rdreg _ => none
  | .wrreg _ => none
  | .mtok _ => none
  | .dup _ => none
  | .aluOperatorFire _ _ => none
  | .coreReset => none
  | .deviceReset => none
  | .clauseFetch => none
  | .clauseDecode => none
  | .clauseStart => none
  | .issueSelect => none
  | .resultWriteback => none
  | .trapEntry => none
  | .migrationComplete => none
  | .delayedFaultDelivery => none
  | .groupEnd => none
  | .teamStart => none
  | .teamBalance => none
  | .poolGrant => none
  | .barrierRelease => none
  | .launchWindowScan => none
  | .successorDecrement => none
  | .cellRequest => none
  | .lockRequest => none
  | .queueRequest => none
  | .waitingWordRetry => none
  | .remoteWake => none
  | .remoteSleeperRetry => none
  | .atomicPerform => none
  | .storePerform => none
  | .loadPerform => none
  | .coherenceInvalidation => none
  | .invalidationAck => none
  | .lineWriteback => none
  | .directoryEviction => none
  | .bankRead => none
  | .bankWrite => none
  | .addOnStore => none
  | .bankAtomic => none
  | .chainedAddOnStore => none
  | .lineAddOnStore => none
  | .tileDrainUpdate => none
  | .pageWalk => none
  | .tlbinvComplete => none
  | .hmaskApply => none
  | .portalCompletion => none
  | .completionTimeout => none
  | .hostAtomicOp => none
  | .graphDescriptorRead => none
  | .blockFetch => none
  | .blockReadAhead => none
  | .rigPlacement => none
  | .matrixNodeClaim => none
  | .configItemArrival => none
  | .sourceStart => none
  | .tokenArrival => none
  | .slotReturn => none
  | .quiescence => none
  | .rigStuck => none
  | .portReply => none
  | .copyStart => none
  | .walkAhead => none
  | .arrivalPost => none
  | .xbwaitResume => none
  | .matrixTokenFire => none
  | .mdrainRead => none
  | .chainStageAdd => none
  | .chainSlotEnable => none
  | .chainSlotReset => none
  | .preemptionTimeout => none
  | .teamSave => none
  | .teamRestore => none
  | .rigSave => none
  | .rigSaveTimeout => none
  | .txAbort => none
  | .txCommit => none
  | .kill => none
  | .reclaim => none
  | .retire => none
  | .contextEnable => none
  | .contextDisable => none
  | .registerSpaceWrite => none
  | .linkRetrain => none
  | .linkDownEnable => none
  | .linkTrained => none
  | .linkFailure => none
  | .laneRemap => none
  | .peerRequest => none
  | .hostMemAccess => none
  | .hostSnoop => none
  | .biResponse => none
  | .capacityDecoderEnable => none
  | .checkpointSave => none
  | .checkpointLoad => none
  | .checkpointCopyDone => none
  | .sliceRetire => none
  | .eccCorrectableError => none
  | .eccUncorrectableError => none
  | .scrubInterval => none
  | .groomLoad => none
  | .groomTrain => none
  | .groomRowRepair => none
  | .groomPcSpare => none
  | .groomScrub => none
  | .groomTelemetry => none
  | .stagingWindowWrite => none
  | .fwload => none
  | .firmwareVerified => none
  | .firmwareInitDone => none
  | .codeverify => none
  | .svncommit => none
  | .keyprog => none
  | .keyrevoke => none
  | .health => none
  | .pscRetire => none
  | .pscKill => none
  | .pldmRequest => none
  | .cycIncrement => none
  | .cleanLineDrop => none
  | .unlistedCommand => none

/-- Words that end their clause (R70). -/
def Instr.endsClause : Instr → Bool
  | .braAny _ _ => true
  | .braAll _ _ => true
  | .braNone _ _ => true
  | .jmp _ => true
  | .call _ => true
  | .callr _ => true
  | .ret _ => true
  | .exit _ => true
  | .trap _ _ => true
  | .eret => true
  | .spat _ => true
  | .txend => true
  | .txabt _ => true
  | _ => false

/-- NOP (R69). -/
def Instr.isNop : Instr → Bool
  | .nop => true
  | _ => false

/-- Literal words that follow the instruction word (R18). -/
def Instr.literals : Instr → Nat
  | .movl _ _ _ => 1
  | .smovl _ _ => 1
  | _ => 0

end Sys2Proof
end

