-- ==== Sys2Proof/Decode.lean ====
section
/-! DEFINITION. The decoder of clause words, operator words and headers (R68 to R88), total on any bytes and refusing
by name; after it the encoder, written from the same tables. -/

namespace Sys2Proof

/-- Why a word is refused. Each raises ILLEGAL in a clause and FABRIC_CONFIG in a block. -/
inductive DecodeError where
  | unassignedOpcode   -- R83
  | badGuard           -- guard 12 to 14, or a guard the instruction does not take (R72)
  | unusedNotZero      -- R73
  | operandRange       -- a field value outside its table (R73, R74)
  | missingLiteral     -- an L-format word in the last position (R18)
  | illFormed          -- a limit of WellFormed.lean
  | badHeader          -- R68
  | truncated          -- fewer than four bytes
  deriving DecidableEq, Repr

/-- The value of the field of `w` at bit `lo` with `n` values. -/
def field (w lo n : Nat) : Nat := w / 2 ^ lo % n

/-- The register named by the 6 bits at `lo`. -/
def regAt (w lo : Nat) : Reg := ⟨w / 2 ^ lo % 64, Nat.mod_lt _ (by decide)⟩

/-- Bit `lo` of `w`. -/
def bitAt (w lo : Nat) : Bool := field w lo 2 == 1

/-- A number below `n` in the field at `lo` with `m` values. -/
def finAt (n w lo m : Nat) : Except DecodeError (Fin n) :=
  if h : field w lo m < n then .ok ⟨field w lo m, h⟩ else .error .operandRange

/-- The guard field (R72). -/
def guardOf (w : Nat) : Except DecodeError Guard :=
  if field w 20 16 = 15 then .ok .always
  else if h : field w 20 16 < 12 then .ok (.pred ⟨field w 20 16, h⟩)
  else .error .badGuard

/-- The word must carry guard 15 (R14, R127). -/
def unguarded (w : Nat) : Except DecodeError Unit :=
  if field w 20 16 = 15 then .ok () else .error .badGuard

/-- A field that the instruction does not use must be zero (R73). -/
def mustBeZero (w lo n : Nat) : Except DecodeError Unit :=
  if field w lo n = 0 then .ok () else .error .unusedNotZero

/-- The b operand (R75). -/
def bAt (w : Nat) : BOp := if bitAt w 7 then .s (regAt w 1) else .v (regAt w 1)

/-- A scalar b operand: b.sel must be 1 (R75). -/
def scalarAt (w : Nat) : Except DecodeError Reg :=
  if bitAt w 7 then .ok (regAt w 1) else .error .operandRange

/-- The literal word (R18). -/
def literalOf : Option Word → Except DecodeError Word
  | some l => .ok l
  | none => .error .missingLiteral

/-- PUBLISH carries order release only (R345). -/
def releaseOnly (w : Nat) : Except DecodeError Unit :=
  if field w 0 8 = 2 then .ok () else .error .operandRange

/-- The segment codes (R77). -/
def segOf : Nat → Seg
  | 0 => .gl
  | 1 => .sh
  | 2 => .cn
  | _ => .lo

/-- The scope codes (R78). -/
def scopeOf : Nat → Except DecodeError Scope
  | 0 => .ok .grp
  | 1 => .ok .core
  | 2 => .ok .die
  | 3 => .ok .dev
  | 4 => .ok .sys
  | _ => .error .operandRange

/-- The order codes (R78). -/
def orderOf : Nat → Except DecodeError Order
  | 0 => .ok .rlx
  | 1 => .ok .acq
  | 2 => .ok .rel
  | 3 => .ok .acqrel
  | 4 => .ok .sc
  | _ => .error .operandRange

/-- The condition codes (R80). -/
def condOf : Nat → Cond
  | 0 => .eq
  | 1 => .ne
  | 2 => .lt
  | 3 => .le
  | 4 => .gt
  | 5 => .ge
  | 6 => .un
  | _ => .ord

/-- SHIFTI kinds (R97). -/
def shiftKindOf : Nat → ShiftKind
  | 0 => .shl
  | 1 => .shr
  | 2 => .sar
  | _ => .rot

/-- SHFLI kinds (R207). -/
def shflKindOf : Nat → ShflKind
  | 0 => .up
  | 1 => .down
  | 2 => .xor
  | _ => .rot

/-- REDI operations (R207). -/
def redOpOf : Nat → Except DecodeError RedOp
  | 0 => .ok .add
  | 1 => .ok .min
  | 2 => .ok .max
  | 3 => .ok .minn
  | 4 => .ok .maxn
  | 5 => .ok .and
  | 6 => .ok .or
  | 7 => .ok .xor
  | _ => .error .operandRange

/-- A field that is 0 or 1. -/
def boolOf : Nat → Except DecodeError Bool
  | 0 => .ok false
  | 1 => .ok true
  | _ => .error .operandRange

/-- Barrier levels (R207). -/
def barLevelOf : Nat → Except DecodeError BarLevel
  | 0 => .ok .team
  | 1 => .ok .cluster
  | 2 => .ok .launch
  | _ => .error .operandRange

/-- PREF levels (R347). -/
def prefLevelOf : Nat → Except DecodeError PrefLevel
  | 0 => .ok .l1
  | 1 => .ok .l2
  | 2 => .ok .l3
  | _ => .error .operandRange

/-- MSKSET's optional predicate: f = 1 takes b.sel = 0 and b.idx below 12; f = 0 takes b zero (R128). -/
def optPredOf (w : Nat) : Except DecodeError (Option Pred) :=
  if bitAt w 0 then
    if h : field w 1 128 < 12 then .ok (some ⟨field w 1 128, h⟩) else .error .operandRange
  else if field w 1 128 = 0 then .ok none else .error .unusedNotZero

/-- XBWAIT's optional phase register: imm[13] = 1 with imm[5:0] the register, imm[12:6] zero (R376). -/
def optRegOf (w : Nat) : Except DecodeError (Option Reg) :=
  if field w 6 128 ≠ 0 then .error .unusedNotZero
  else if bitAt w 13 then .ok (some (regAt w 0))
  else if field w 0 64 = 0 then .ok none else .error .unusedNotZero

/-- The fields of a spatial operator word (R87). -/
def sFieldsAt (w : Nat) : SFields where
  qa := ⟨field w 20 16, Nat.mod_lt _ (by decide)⟩
  qb := ⟨field w 16 16, Nat.mod_lt _ (by decide)⟩
  dl := ⟨field w 9 128, Nat.mod_lt _ (by decide)⟩
  dq := ⟨field w 5 16, Nat.mod_lt _ (by decide)⟩
  g := bitAt w 4
  l := bitAt w 3
  f := bitAt w 2
  c := bitAt w 1
  w := bitAt w 0

/-- The clause word `w` with the word that follows it: R72 to R84. Field limits not carried by the types are left to
`decodeWord`. -/
def decodeRaw (w : Nat) (lit : Option Word) : Except DecodeError Instr :=
  match field w 24 256 with
  | 0x01 => do unguarded w; mustBeZero w 14 64; mustBeZero w 0 16384; pure (.nop)
  | 0x02 => do let g ← guardOf w; pure (.movi g (regAt w 14) (BitVec.ofNat 14 (field w 0 16384)))
  | 0x03 => do let g ← guardOf w; let lit ← literalOf lit; mustBeZero w 0 16384; pure (.movl g (regAt w 14) lit)
  | 0x04 => do let g ← guardOf w; mustBeZero w 8 64; mustBeZero w 0 2; pure (.mov g (regAt w 14) (bAt w))
  | 0x05 => do let g ← guardOf w; let sb ← scalarAt w; mustBeZero w 0 2; pure (.movx g (regAt w 14) sb (regAt w 8))
  | 0x06 => do let g ← guardOf w; let sb ← scalarAt w; mustBeZero w 0 2; pure (.movy g (regAt w 14) sb (regAt w 8))
  | 0x07 => do let g ← guardOf w; pure (.iadd g (regAt w 14) (regAt w 8) (bAt w) (bitAt w 0))
  | 0x08 => do let g ← guardOf w; pure (.isub g (regAt w 14) (regAt w 8) (bAt w) (bitAt w 0))
  | 0x09 => do let g ← guardOf w; pure (.iaddi g (regAt w 14) (regAt w 8) (BitVec.ofNat 8 (field w 0 256)))
  | 0x0A => do let g ← guardOf w; mustBeZero w 0 2; pure (.imul g (regAt w 14) (regAt w 8) (bAt w))
  | 0x0B => do let g ← guardOf w; pure (.imulh g (regAt w 14) (regAt w 8) (bAt w) (bitAt w 0))
  | 0x0C => do let g ← guardOf w; mustBeZero w 0 2; pure (.imad g (regAt w 14) (regAt w 8) (bAt w))
  | 0x0D => do let g ← guardOf w; pure (.imadw g (regAt w 14) (regAt w 8) (bAt w) (bitAt w 0))
  | 0x0E => do let g ← guardOf w; pure (.iadd64 g (regAt w 14) (regAt w 8) (bAt w) (bitAt w 0))
  | 0x0F => do let g ← guardOf w; pure (.imin g (regAt w 14) (regAt w 8) (bAt w) (bitAt w 0))
  | 0x10 => do let g ← guardOf w; pure (.imax g (regAt w 14) (regAt w 8) (bAt w) (bitAt w 0))
  | 0x11 => do let g ← guardOf w; mustBeZero w 8 64; pure (.iabs g (regAt w 14) (bAt w) (bitAt w 0))
  | 0x12 => do let g ← guardOf w; mustBeZero w 0 2; pure (.and g (regAt w 14) (regAt w 8) (bAt w))
  | 0x13 => do let g ← guardOf w; mustBeZero w 0 2; pure (.or g (regAt w 14) (regAt w 8) (bAt w))
  | 0x14 => do let g ← guardOf w; mustBeZero w 0 2; pure (.xor g (regAt w 14) (regAt w 8) (bAt w))
  | 0x15 => do let g ← guardOf w; mustBeZero w 0 2; pure (.andn g (regAt w 14) (regAt w 8) (bAt w))
  | 0x16 => do let g ← guardOf w; mustBeZero w 0 2; pure (.shl g (regAt w 14) (regAt w 8) (bAt w))
  | 0x17 => do let g ← guardOf w; pure (.shr g (regAt w 14) (regAt w 8) (bAt w) (bitAt w 0))
  | 0x18 => do let g ← guardOf w; pure (.rot g (regAt w 14) (regAt w 8) (bAt w) (bitAt w 0))
  | 0x19 => do let g ← guardOf w; pure (.shifti g (regAt w 14) (regAt w 8) (shiftKindOf (field w 6 4)) (regAt w 0))
  | 0x1A => do let g ← guardOf w; pure (.bfe g (regAt w 14) (regAt w 8) (bAt w) (bitAt w 0))
  | 0x1B => do let g ← guardOf w; mustBeZero w 0 2; pure (.bfi g (regAt w 14) (regAt w 8) (bAt w))
  | 0x1C => do let g ← guardOf w; mustBeZero w 8 64; mustBeZero w 0 2; pure (.popc g (regAt w 14) (bAt w))
  | 0x1D => do let g ← guardOf w; mustBeZero w 8 64; mustBeZero w 0 2; pure (.clz g (regAt w 14) (bAt w))
  | 0x1E => do let g ← guardOf w; mustBeZero w 8 64; mustBeZero w 0 2; pure (.brev g (regAt w 14) (bAt w))
  | 0x1F => do let g ← guardOf w; let pair ← finAt 6 w 17 8; pure (.icmp g pair (condOf (field w 14 8)) (regAt w 8) (bAt w) (bitAt w 0))
  | 0x20 => do let g ← guardOf w; let pair ← finAt 6 w 17 8; pure (.icmpn g pair (condOf (field w 14 8)) (regAt w 8) (bAt w) (bitAt w 0))
  | 0x21 => do let p ← finAt 12 w 20 16; mustBeZero w 0 2; pure (.sel p (regAt w 14) (regAt w 8) (bAt w))
  | 0x22 => do unguarded w; pure (.smovi (regAt w 14) (BitVec.ofNat 14 (field w 0 16384)))
  | 0x23 => do unguarded w; let lit ← literalOf lit; mustBeZero w 0 16384; pure (.smovl (regAt w 14) lit)
  | 0x24 => do unguarded w; let b ← scalarAt w; mustBeZero w 0 2; pure (.sadd (regAt w 14) (regAt w 8) b)
  | 0x25 => do unguarded w; let b ← scalarAt w; mustBeZero w 0 2; pure (.ssub (regAt w 14) (regAt w 8) b)
  | 0x26 => do unguarded w; let b ← scalarAt w; mustBeZero w 0 2; pure (.smul (regAt w 14) (regAt w 8) b)
  | 0x27 => do unguarded w; let b ← scalarAt w; mustBeZero w 0 2; pure (.sand (regAt w 14) (regAt w 8) b)
  | 0x28 => do unguarded w; let b ← scalarAt w; mustBeZero w 0 2; pure (.sor (regAt w 14) (regAt w 8) b)
  | 0x29 => do unguarded w; let b ← scalarAt w; mustBeZero w 0 2; pure (.sxor (regAt w 14) (regAt w 8) b)
  | 0x2A => do unguarded w; let b ← scalarAt w; mustBeZero w 0 2; pure (.sshl (regAt w 14) (regAt w 8) b)
  | 0x2B => do unguarded w; let b ← scalarAt w; pure (.sshr (regAt w 14) (regAt w 8) b (bitAt w 0))
  | 0x2C => do unguarded w; let pair ← finAt 6 w 17 8; let b ← scalarAt w; pure (.scmp pair (condOf (field w 14 8)) (regAt w 8) b (bitAt w 0))
  | 0x2D => do unguarded w; let k ← finAt 96 w 0 256; pure (.readl (regAt w 14) (regAt w 8) k)
  | 0x2E => do unguarded w; let k ← finAt 96 w 0 256; pure (.writel (regAt w 14) (regAt w 8) k)
  | 0x30 => do let g ← guardOf w; mustBeZero w 0 2; pure (.faddF32 g (regAt w 14) (regAt w 8) (bAt w))
  | 0x31 => do let g ← guardOf w; mustBeZero w 0 2; pure (.faddF64 g (regAt w 14) (regAt w 8) (bAt w))
  | 0x32 => do let g ← guardOf w; mustBeZero w 0 2; pure (.faddH2 g (regAt w 14) (regAt w 8) (bAt w))
  | 0x33 => do let g ← guardOf w; mustBeZero w 0 2; pure (.faddBH2 g (regAt w 14) (regAt w 8) (bAt w))
  | 0x34 => do let g ← guardOf w; mustBeZero w 0 2; pure (.fsubF32 g (regAt w 14) (regAt w 8) (bAt w))
  | 0x35 => do let g ← guardOf w; mustBeZero w 0 2; pure (.fsubF64 g (regAt w 14) (regAt w 8) (bAt w))
  | 0x36 => do let g ← guardOf w; mustBeZero w 0 2; pure (.fsubH2 g (regAt w 14) (regAt w 8) (bAt w))
  | 0x37 => do let g ← guardOf w; mustBeZero w 0 2; pure (.fsubBH2 g (regAt w 14) (regAt w 8) (bAt w))
  | 0x38 => do let g ← guardOf w; mustBeZero w 0 2; pure (.fmulF32 g (regAt w 14) (regAt w 8) (bAt w))
  | 0x39 => do let g ← guardOf w; mustBeZero w 0 2; pure (.fmulF64 g (regAt w 14) (regAt w 8) (bAt w))
  | 0x3A => do let g ← guardOf w; mustBeZero w 0 2; pure (.fmulH2 g (regAt w 14) (regAt w 8) (bAt w))
  | 0x3B => do let g ← guardOf w; mustBeZero w 0 2; pure (.fmulBH2 g (regAt w 14) (regAt w 8) (bAt w))
  | 0x3C => do let g ← guardOf w; pure (.ffmaF32 g (regAt w 14) (regAt w 8) (bAt w) (bitAt w 0))
  | 0x3D => do let g ← guardOf w; pure (.ffmaF64 g (regAt w 14) (regAt w 8) (bAt w) (bitAt w 0))
  | 0x3E => do let g ← guardOf w; pure (.ffmaH2 g (regAt w 14) (regAt w 8) (bAt w) (bitAt w 0))
  | 0x3F => do let g ← guardOf w; pure (.ffmaBH2 g (regAt w 14) (regAt w 8) (bAt w) (bitAt w 0))
  | 0x40 => do let g ← guardOf w; pure (.fminF32 g (regAt w 14) (regAt w 8) (bAt w) (bitAt w 0))
  | 0x41 => do let g ← guardOf w; pure (.fminF64 g (regAt w 14) (regAt w 8) (bAt w) (bitAt w 0))
  | 0x42 => do let g ← guardOf w; pure (.fminH2 g (regAt w 14) (regAt w 8) (bAt w) (bitAt w 0))
  | 0x43 => do let g ← guardOf w; pure (.fminBH2 g (regAt w 14) (regAt w 8) (bAt w) (bitAt w 0))
  | 0x44 => do let g ← guardOf w; pure (.fmaxF32 g (regAt w 14) (regAt w 8) (bAt w) (bitAt w 0))
  | 0x45 => do let g ← guardOf w; pure (.fmaxF64 g (regAt w 14) (regAt w 8) (bAt w) (bitAt w 0))
  | 0x46 => do let g ← guardOf w; pure (.fmaxH2 g (regAt w 14) (regAt w 8) (bAt w) (bitAt w 0))
  | 0x47 => do let g ← guardOf w; pure (.fmaxBH2 g (regAt w 14) (regAt w 8) (bAt w) (bitAt w 0))
  | 0x48 => do let g ← guardOf w; let pair ← finAt 6 w 17 8; pure (.fcmpF32 g pair (condOf (field w 14 8)) (regAt w 8) (bAt w) (bitAt w 0))
  | 0x49 => do let g ← guardOf w; let pair ← finAt 6 w 17 8; pure (.fcmpF64 g pair (condOf (field w 14 8)) (regAt w 8) (bAt w) (bitAt w 0))
  | 0x4A => do let g ← guardOf w; let pair ← finAt 6 w 17 8; pure (.fcmpH2 g pair (condOf (field w 14 8)) (regAt w 8) (bAt w) (bitAt w 0))
  | 0x4B => do let g ← guardOf w; let pair ← finAt 6 w 17 8; pure (.fcmpBH2 g pair (condOf (field w 14 8)) (regAt w 8) (bAt w) (bitAt w 0))
  | 0x4C => do let g ← guardOf w; mustBeZero w 8 64; mustBeZero w 0 2; pure (.frcp g (regAt w 14) (bAt w))
  | 0x4D => do let g ← guardOf w; mustBeZero w 8 64; mustBeZero w 0 2; pure (.frsq g (regAt w 14) (bAt w))
  | 0x4E => do let g ← guardOf w; mustBeZero w 8 64; mustBeZero w 0 2; pure (.fsqrt g (regAt w 14) (bAt w))
  | 0x4F => do let g ← guardOf w; mustBeZero w 8 64; mustBeZero w 0 2; pure (.fexp2 g (regAt w 14) (bAt w))
  | 0x50 => do let g ← guardOf w; mustBeZero w 8 64; mustBeZero w 0 2; pure (.flog2 g (regAt w 14) (bAt w))
  | 0x51 => do let g ← guardOf w; mustBeZero w 8 64; mustBeZero w 0 2; pure (.fsin g (regAt w 14) (bAt w))
  | 0x52 => do let g ← guardOf w; mustBeZero w 8 64; mustBeZero w 0 2; pure (.fcos g (regAt w 14) (bAt w))
  | 0x53 => do let g ← guardOf w; mustBeZero w 8 64; mustBeZero w 0 2; pure (.ftanh g (regAt w 14) (bAt w))
  | 0x54 => do let g ← guardOf w; mustBeZero w 8 64; mustBeZero w 0 2; pure (.cvtF32F64 g (regAt w 14) (bAt w))
  | 0x55 => do let g ← guardOf w; mustBeZero w 8 64; mustBeZero w 0 2; pure (.cvtF64F32 g (regAt w 14) (bAt w))
  | 0x56 => do let g ← guardOf w; mustBeZero w 8 64; pure (.cvtF32H2 g (regAt w 14) (bAt w) (bitAt w 0))
  | 0x57 => do let g ← guardOf w; mustBeZero w 0 2; pure (.cvtH2F32 g (regAt w 14) (regAt w 8) (bAt w))
  | 0x58 => do let g ← guardOf w; mustBeZero w 8 64; pure (.cvtF32Bh2 g (regAt w 14) (bAt w) (bitAt w 0))
  | 0x59 => do let g ← guardOf w; mustBeZero w 0 2; pure (.cvtBh2F32 g (regAt w 14) (regAt w 8) (bAt w))
  | 0x5A => do let g ← guardOf w; mustBeZero w 8 64; mustBeZero w 0 2; pure (.cvtF32I32 g (regAt w 14) (bAt w))
  | 0x5B => do let g ← guardOf w; mustBeZero w 8 64; mustBeZero w 0 2; pure (.cvtF32N32 g (regAt w 14) (bAt w))
  | 0x5C => do let g ← guardOf w; mustBeZero w 8 64; pure (.cvtI32F32 g (regAt w 14) (bAt w) (bitAt w 0))
  | 0x5D => do let g ← guardOf w; mustBeZero w 8 64; pure (.cvtN32F32 g (regAt w 14) (bAt w) (bitAt w 0))
  | 0x5E => do let g ← guardOf w; mustBeZero w 8 64; mustBeZero w 0 2; pure (.cvtF64I32 g (regAt w 14) (bAt w))
  | 0x5F => do let g ← guardOf w; mustBeZero w 8 64; pure (.cvtI32F64 g (regAt w 14) (bAt w) (bitAt w 0))
  | 0x60 => do let g ← guardOf w; pure (.cvtpE4m3 g (regAt w 14) (regAt w 8) (bAt w) (bitAt w 0))
  | 0x61 => do let g ← guardOf w; pure (.cvtpE5m2 g (regAt w 14) (regAt w 8) (bAt w) (bitAt w 0))
  | 0x62 => do let g ← guardOf w; mustBeZero w 8 64; pure (.cvtuE4m3 g (regAt w 14) (bAt w) (bitAt w 0))
  | 0x63 => do let g ← guardOf w; mustBeZero w 8 64; pure (.cvtuE5m2 g (regAt w 14) (bAt w) (bitAt w 0))
  | 0x68 => do let g ← guardOf w; pure (.braAny g (BitVec.ofNat 20 (field w 0 1048576)))
  | 0x69 => do let g ← guardOf w; pure (.braAll g (BitVec.ofNat 20 (field w 0 1048576)))
  | 0x6A => do let g ← guardOf w; pure (.braNone g (BitVec.ofNat 20 (field w 0 1048576)))
  | 0x6B => do unguarded w; pure (.jmp (BitVec.ofNat 20 (field w 0 1048576)))
  | 0x6C => do unguarded w; pure (.call (BitVec.ofNat 20 (field w 0 1048576)))
  | 0x6D => do unguarded w; mustBeZero w 14 64; mustBeZero w 1 128; mustBeZero w 0 2; pure (.callr (regAt w 8))
  | 0x6E => do unguarded w; mustBeZero w 14 64; mustBeZero w 1 128; mustBeZero w 0 2; pure (.ret (regAt w 8))
  | 0x6F => do unguarded w; let p ← finAt 12 w 8 64; mustBeZero w 1 128; pure (.mskand (regAt w 14) p (bitAt w 0))
  | 0x70 => do unguarded w; let p ← optPredOf w; mustBeZero w 14 64; pure (.mskset (regAt w 8) p)
  | 0x71 => do let g ← guardOf w; mustBeZero w 14 64; mustBeZero w 0 16384; pure (.exit g)
  | 0x78 => do let g ← guardOf w; mustBeZero w 3 8; pure (.ldS8 g (regAt w 14) (regAt w 8) (segOf (field w 6 4)) (⟨field w 0 8, Nat.mod_lt _ (by decide)⟩))
  | 0x79 => do let g ← guardOf w; mustBeZero w 3 8; pure (.ldN8 g (regAt w 14) (regAt w 8) (segOf (field w 6 4)) (⟨field w 0 8, Nat.mod_lt _ (by decide)⟩))
  | 0x7A => do let g ← guardOf w; mustBeZero w 3 8; pure (.ldS16 g (regAt w 14) (regAt w 8) (segOf (field w 6 4)) (⟨field w 0 8, Nat.mod_lt _ (by decide)⟩))
  | 0x7B => do let g ← guardOf w; mustBeZero w 3 8; pure (.ldN16 g (regAt w 14) (regAt w 8) (segOf (field w 6 4)) (⟨field w 0 8, Nat.mod_lt _ (by decide)⟩))
  | 0x7C => do let g ← guardOf w; mustBeZero w 3 8; pure (.ldB32 g (regAt w 14) (regAt w 8) (segOf (field w 6 4)) (⟨field w 0 8, Nat.mod_lt _ (by decide)⟩))
  | 0x7D => do let g ← guardOf w; mustBeZero w 3 8; pure (.ldB64 g (regAt w 14) (regAt w 8) (segOf (field w 6 4)) (⟨field w 0 8, Nat.mod_lt _ (by decide)⟩))
  | 0x7E => do let g ← guardOf w; mustBeZero w 3 8; pure (.ldB128 g (regAt w 14) (regAt w 8) (segOf (field w 6 4)) (⟨field w 0 8, Nat.mod_lt _ (by decide)⟩))
  | 0x7F => do let g ← guardOf w; mustBeZero w 3 8; pure (.stB8 g (regAt w 14) (regAt w 8) (segOf (field w 6 4)) (⟨field w 0 8, Nat.mod_lt _ (by decide)⟩))
  | 0x80 => do let g ← guardOf w; mustBeZero w 3 8; pure (.stB16 g (regAt w 14) (regAt w 8) (segOf (field w 6 4)) (⟨field w 0 8, Nat.mod_lt _ (by decide)⟩))
  | 0x81 => do let g ← guardOf w; mustBeZero w 3 8; pure (.stB32 g (regAt w 14) (regAt w 8) (segOf (field w 6 4)) (⟨field w 0 8, Nat.mod_lt _ (by decide)⟩))
  | 0x82 => do let g ← guardOf w; mustBeZero w 3 8; pure (.stB64 g (regAt w 14) (regAt w 8) (segOf (field w 6 4)) (⟨field w 0 8, Nat.mod_lt _ (by decide)⟩))
  | 0x83 => do let g ← guardOf w; mustBeZero w 3 8; pure (.stB128 g (regAt w 14) (regAt w 8) (segOf (field w 6 4)) (⟨field w 0 8, Nat.mod_lt _ (by decide)⟩))
  | 0x84 => do let g ← guardOf w; let sc ← scopeOf (field w 3 8); pure (.ldaqB32 g (regAt w 14) (regAt w 8) (segOf (field w 6 4)) sc (⟨field w 0 8, Nat.mod_lt _ (by decide)⟩))
  | 0x85 => do let g ← guardOf w; let sc ← scopeOf (field w 3 8); pure (.ldaqB64 g (regAt w 14) (regAt w 8) (segOf (field w 6 4)) sc (⟨field w 0 8, Nat.mod_lt _ (by decide)⟩))
  | 0x86 => do let g ← guardOf w; let sc ← scopeOf (field w 3 8); pure (.strlB32 g (regAt w 14) (regAt w 8) (segOf (field w 6 4)) sc (⟨field w 0 8, Nat.mod_lt _ (by decide)⟩))
  | 0x87 => do let g ← guardOf w; let sc ← scopeOf (field w 3 8); pure (.strlB64 g (regAt w 14) (regAt w 8) (segOf (field w 6 4)) sc (⟨field w 0 8, Nat.mod_lt _ (by decide)⟩))
  | 0x88 => do let g ← guardOf w; mustBeZero w 14 64; pure (.trap g (BitVec.ofNat 14 (field w 0 16384)))
  | 0x89 => do unguarded w; pure (.srr (regAt w 14) (BitVec.ofNat 14 (field w 0 16384)))
  | 0x8A => do unguarded w; pure (.swr (regAt w 14) (BitVec.ofNat 14 (field w 0 16384)))
  | 0x8B => do unguarded w; let k ← finAt 4 w 14 64; mustBeZero w 1 128; mustBeZero w 0 2; pure (.segset k (regAt w 8))
  | 0x8C => do unguarded w; mustBeZero w 14 64; mustBeZero w 0 16384; pure (.eret)
  | 0x8D => do unguarded w; let sc ← scopeOf (field w 14 64); mustBeZero w 1 128; pure (.tlbinv sc (bitAt w 0) (regAt w 8))
  | 0x8E => do unguarded w; let b ← scalarAt w; mustBeZero w 14 64; mustBeZero w 0 2; pure (.ctxsv (regAt w 8) b)
  | 0x8F => do unguarded w; mustBeZero w 1 128; mustBeZero w 0 2; pure (.ctxld (regAt w 14) (regAt w 8))
  | 0x98 => do let g ← guardOf w; pure (.shfl g (regAt w 14) (regAt w 8) (bAt w) (bitAt w 0))
  | 0x99 => do let g ← guardOf w; pure (.shfli g (regAt w 14) (regAt w 8) (shflKindOf (field w 6 4)) (regAt w 0))
  | 0x9A => do unguarded w; let p ← finAt 12 w 8 64; let b ← scalarAt w; pure (.ptos (regAt w 14) p b (bitAt w 0))
  | 0x9B => do let g ← guardOf w; let p ← finAt 12 w 14 64; mustBeZero w 1 128; pure (.stop g p (regAt w 8) (bitAt w 0))
  | 0x9C => do let g ← guardOf w; let pd ← finAt 12 w 16 16; let pa ← finAt 12 w 12 16; let pb ← finAt 12 w 8 16; mustBeZero w 0 16; pure (.plop g pd pa pb (BitVec.ofNat 4 (field w 4 16)))
  | 0x9D => do let g ← guardOf w; pure (.vconf g (regAt w 14) (regAt w 8) (bAt w) (bitAt w 0))
  | 0x9E => do let g ← guardOf w; pure (.vrank g (regAt w 14) (regAt w 8) (bAt w) (bitAt w 0))
  | 0x9F => do let g ← guardOf w; pure (.rsumk g (regAt w 14) (regAt w 8) (bAt w) (bitAt w 0))
  | 0xA0 => do let g ← guardOf w; let op ← redOpOf (field w 8 64); pure (.redi g op (regAt w 14) (bAt w) (bitAt w 0))
  | 0xA1 => do let g ← guardOf w; let f64 ← boolOf (field w 8 64); pure (.redf g f64 (regAt w 14) (bAt w) (bitAt w 0))
  | 0xA2 => do unguarded w; let n ← finAt 16 w 14 64; let lv ← barLevelOf (field w 0 4); mustBeZero w 2 4096; pure (.bar lv n)
  | 0xA3 => do unguarded w; let n ← finAt 16 w 14 64; let lv ← barLevelOf (field w 0 4); mustBeZero w 2 4096; pure (.bara lv n)
  | 0xA4 => do unguarded w; let n ← finAt 16 w 14 64; let lv ← barLevelOf (field w 0 4); mustBeZero w 2 4096; pure (.barw lv n)
  | 0xA5 => do unguarded w; mustBeZero w 14 64; mustBeZero w 1 128; mustBeZero w 0 2; pure (.spat (regAt w 8))
  | 0xA6 => do unguarded w; mustBeZero w 14 64; pure (.grow (BitVec.ofNat 14 (field w 0 16384)))
  | 0xA7 => do unguarded w; mustBeZero w 14 64; pure (.shrnk (BitVec.ofNat 14 (field w 0 16384)))
  | 0xB0 => do let g ← guardOf w; mustBeZero w 3 8; mustBeZero w 0 8; pure (.tlaunch g (regAt w 14) (regAt w 8) (segOf (field w 6 4)))
  | 0xB1 => do let g ← guardOf w; mustBeZero w 3 8; mustBeZero w 0 8; pure (.tsucc g (regAt w 14) (regAt w 8) (segOf (field w 6 4)))
  | 0xB2 => do let g ← guardOf w; let sc ← scopeOf (field w 3 8); let mo ← orderOf (field w 0 8); pure (.propose g (regAt w 14) (regAt w 8) (segOf (field w 6 4)) sc mo)
  | 0xB3 => do let g ← guardOf w; let sc ← scopeOf (field w 3 8); let mo ← orderOf (field w 0 8); pure (.cellrd g (regAt w 14) (regAt w 8) (segOf (field w 6 4)) sc mo)
  | 0xB4 => do let g ← guardOf w; let sc ← scopeOf (field w 3 8); let mo ← orderOf (field w 0 8); pure (.cellwt g (regAt w 14) (regAt w 8) (segOf (field w 6 4)) sc mo)
  | 0xB5 => do let g ← guardOf w; let sc ← scopeOf (field w 3 8); let mo ← orderOf (field w 0 8); pure (.cellinit g (regAt w 14) (regAt w 8) (segOf (field w 6 4)) sc mo)
  | 0xB6 => do let g ← guardOf w; let sc ← scopeOf (field w 3 8); let mo ← orderOf (field w 0 8); pure (.cellrst g (regAt w 14) (regAt w 8) (segOf (field w 6 4)) sc mo)
  | 0xB7 => do let g ← guardOf w; let sc ← scopeOf (field w 3 8); let mo ← orderOf (field w 0 8); pure (.lkacq g (regAt w 14) (regAt w 8) (segOf (field w 6 4)) sc mo)
  | 0xB8 => do let g ← guardOf w; let sc ← scopeOf (field w 3 8); let mo ← orderOf (field w 0 8); pure (.lkrel g (regAt w 14) (regAt w 8) (segOf (field w 6 4)) sc mo)
  | 0xB9 => do let g ← guardOf w; mustBeZero w 3 8; mustBeZero w 0 8; pure (.qrsv g (regAt w 14) (regAt w 8) (segOf (field w 6 4)))
  | 0xBA => do let g ← guardOf w; let sc ← scopeOf (field w 3 8); let mo ← orderOf (field w 0 8); pure (.qput g (regAt w 14) (regAt w 8) (segOf (field w 6 4)) sc mo)
  | 0xBB => do let g ← guardOf w; let sc ← scopeOf (field w 3 8); let mo ← orderOf (field w 0 8); pure (.qget g (regAt w 14) (regAt w 8) (segOf (field w 6 4)) sc mo)
  | 0xC0 => do let g ← guardOf w; let sc ← scopeOf (field w 3 8); let mo ← orderOf (field w 0 8); pure (.ataddI32 g (regAt w 14) (regAt w 8) (segOf (field w 6 4)) sc mo)
  | 0xC1 => do let g ← guardOf w; let sc ← scopeOf (field w 3 8); let mo ← orderOf (field w 0 8); pure (.ataddI64 g (regAt w 14) (regAt w 8) (segOf (field w 6 4)) sc mo)
  | 0xC2 => do let g ← guardOf w; let sc ← scopeOf (field w 3 8); let mo ← orderOf (field w 0 8); pure (.ataddF32 g (regAt w 14) (regAt w 8) (segOf (field w 6 4)) sc mo)
  | 0xC3 => do let g ← guardOf w; let sc ← scopeOf (field w 3 8); let mo ← orderOf (field w 0 8); pure (.atminI32 g (regAt w 14) (regAt w 8) (segOf (field w 6 4)) sc mo)
  | 0xC4 => do let g ← guardOf w; let sc ← scopeOf (field w 3 8); let mo ← orderOf (field w 0 8); pure (.atmaxI32 g (regAt w 14) (regAt w 8) (segOf (field w 6 4)) sc mo)
  | 0xC5 => do let g ← guardOf w; let sc ← scopeOf (field w 3 8); let mo ← orderOf (field w 0 8); pure (.atandB32 g (regAt w 14) (regAt w 8) (segOf (field w 6 4)) sc mo)
  | 0xC6 => do let g ← guardOf w; let sc ← scopeOf (field w 3 8); let mo ← orderOf (field w 0 8); pure (.atorB32 g (regAt w 14) (regAt w 8) (segOf (field w 6 4)) sc mo)
  | 0xC7 => do let g ← guardOf w; let sc ← scopeOf (field w 3 8); let mo ← orderOf (field w 0 8); pure (.atxorB32 g (regAt w 14) (regAt w 8) (segOf (field w 6 4)) sc mo)
  | 0xC8 => do let g ← guardOf w; let sc ← scopeOf (field w 3 8); let mo ← orderOf (field w 0 8); pure (.atxchB32 g (regAt w 14) (regAt w 8) (segOf (field w 6 4)) sc mo)
  | 0xC9 => do let g ← guardOf w; let sc ← scopeOf (field w 3 8); let mo ← orderOf (field w 0 8); pure (.atxchB64 g (regAt w 14) (regAt w 8) (segOf (field w 6 4)) sc mo)
  | 0xCA => do let g ← guardOf w; let sc ← scopeOf (field w 3 8); let mo ← orderOf (field w 0 8); pure (.atcasB32 g (regAt w 14) (regAt w 8) (segOf (field w 6 4)) sc mo)
  | 0xCB => do let g ← guardOf w; let sc ← scopeOf (field w 3 8); let mo ← orderOf (field w 0 8); pure (.atcasB64 g (regAt w 14) (regAt w 8) (segOf (field w 6 4)) sc mo)
  | 0xCC => do let g ← guardOf w; let sc ← scopeOf (field w 3 8); let mo ← orderOf (field w 0 8); pure (.redstF32 g (regAt w 14) (regAt w 8) (segOf (field w 6 4)) sc mo)
  | 0xCD => do unguarded w; let sc ← scopeOf (field w 3 8); let mo ← orderOf (field w 0 8); mustBeZero w 14 64; mustBeZero w 8 64; mustBeZero w 6 4; pure (.fence sc mo)
  | 0xCE => do unguarded w; let sc ← scopeOf (field w 3 8); releaseOnly w; mustBeZero w 6 4; pure (.publish (regAt w 14) (regAt w 8) sc)
  | 0xCF => do let g ← guardOf w; let lv ← prefLevelOf (field w 14 64); mustBeZero w 3 8; pure (.pref g lv (regAt w 8) (segOf (field w 6 4)) (⟨field w 0 8, Nat.mod_lt _ (by decide)⟩))
  | 0xD0 => do unguarded w; mustBeZero w 0 4096; pure (.tdef (⟨field w 12 256, Nat.mod_lt _ (by decide)⟩))
  | 0xD1 => do unguarded w; mustBeZero w 0 4096; pure (.tinv (⟨field w 12 256, Nat.mod_lt _ (by decide)⟩))
  | 0xD2 => do unguarded w; pure (.tcopy (⟨field w 12 256, Nat.mod_lt _ (by decide)⟩) (regAt w 6) (regAt w 0))
  | 0xD3 => do unguarded w; pure (.tstore (⟨field w 12 256, Nat.mod_lt _ (by decide)⟩) (regAt w 6) (regAt w 0))
  | 0xD4 => do unguarded w; mustBeZero w 0 64; pure (.mma (⟨field w 15 32, Nat.mod_lt _ (by decide)⟩) (bitAt w 14) (bitAt w 13) (bitAt w 12) (regAt w 6))
  | 0xD5 => do unguarded w; pure (.mdrain (⟨field w 12 256, Nat.mod_lt _ (by decide)⟩) (regAt w 6) (regAt w 0))
  | 0xD6 => do unguarded w; let n ← finAt 16 w 14 64; let b ← scalarAt w; mustBeZero w 8 64; mustBeZero w 0 2; pure (.xbexp n b)
  | 0xD7 => do unguarded w; let n ← finAt 16 w 14 64; let k ← optRegOf w; pure (.xbwait n k)
  | 0xD8 => do unguarded w; let buf ← finAt 8 w 14 64; let slot ← finAt 16 w 8 64; mustBeZero w 1 128; pure (.slotset buf slot (bitAt w 0))
  | 0xD9 => do unguarded w; let buf ← finAt 8 w 14 64; let slot ← finAt 16 w 8 64; mustBeZero w 1 128; pure (.slotwt buf slot (bitAt w 0))
  | 0xDA => if bitAt w 0 then do unguarded w; let buf ← finAt 8 w 14 64; mustBeZero w 8 64; mustBeZero w 1 128; pure (.bufdefFree buf) else do unguarded w; let buf ← finAt 8 w 14 64; let b ← scalarAt w; pure (.bufdef buf (regAt w 8) b)
  | 0xE0 => do unguarded w; pure (.txbeg (BitVec.ofNat 20 (field w 0 1048576)))
  | 0xE1 => do unguarded w; mustBeZero w 14 64; mustBeZero w 0 16384; pure (.txend)
  | 0xE2 => do unguarded w; mustBeZero w 14 64; mustBeZero w 8 64; pure (.txabt (BitVec.ofNat 8 (field w 0 256)))
  | 0xE3 => do unguarded w; mustBeZero w 0 16384; pure (.txst (regAt w 14))
  | 0xF0 => .ok (.src (sFieldsAt w))
  | 0xF1 => .ok (.snk (sFieldsAt w))
  | 0xF2 => .ok (.ctr (sFieldsAt w))
  | 0xF3 => .ok (.steer (sFieldsAt w))
  | 0xF4 => .ok (.merge (sFieldsAt w))
  | 0xF5 => .ok (.acc (sFieldsAt w))
  | 0xF6 => .ok (.ord (sFieldsAt w))
  | 0xF7 => .ok (.conv (sFieldsAt w))
  | 0xF8 => .ok (.rdreg (sFieldsAt w))
  | 0xF9 => .ok (.wrreg (sFieldsAt w))
  | 0xFA => .ok (.mtok (sFieldsAt w))
  | 0xFB => .ok (.dup (sFieldsAt w))
  | _ => .error .unassignedOpcode

/-- The limits of WellFormed.lean, checked on a decoded word. -/
def wellFormedOnly : Except DecodeError Instr → Except DecodeError Instr
  | .ok i => if i.wf then .ok i else .error .illFormed
  | .error e => .error e

/-- The instruction of word `w`, with the word after it for a literal. -/
def decodeWord (w : Word) (lit : Option Word) : Except DecodeError Instr :=
  wellFormedOnly (decodeRaw w.toNat lit)

/-- The operator of a spatial block's word: R87 and R88. -/
def decodeOperator (w : Word) : Except DecodeError Instr :=
  if 0xF0 ≤ field w.toNat 24 256 then decodeWord w none
  else if aluOperatorOp (field w.toNat 24 256) then
    wellFormedOnly (.ok (.aluOperatorFire (BitVec.ofNat 8 (field w.toNat 24 256)) (sFieldsAt w.toNat)))
  else .error .unassignedOpcode

/-- A clause header (R68). -/
structure Header where
  n : Nat
  cls : Cls
  wait : BitVec 8
  setc : Fin 8
  yield : Bool
  serial : Bool
  deriving DecidableEq, Repr

/-- The class codes (R68). -/
def clsOf : Nat → Except DecodeError Cls
  | 0 => .ok .alu
  | 1 => .ok .mem
  | 2 => .ok .eng
  | 3 => .ok .ctrl
  | 4 => .ok .sys
  | 5 => .ok .tx
  | _ => .error .badHeader

/-- The fields of a clause header, N = 0 and a class of 6 or 7 refused (R68). -/
def decodeHeader (w : Word) : Except DecodeError Header :=
  if field w.toNat 28 16 = 0 ∨ field w.toNat 0 4096 ≠ 0 then .error .badHeader
  else do
    let c ← clsOf (field w.toNat 25 8)
    pure { n := field w.toNat 28 16, cls := c, wait := BitVec.ofNat 8 (field w.toNat 17 256),
           setc := ⟨field w.toNat 14 8, Nat.mod_lt _ (by decide)⟩, yield := bitAt w.toNat 13, serial := bitAt w.toNat 12 }

/-- The word of four bytes, lowest address first (R2). -/
def wordOfBytes (b0 b1 b2 b3 : Byte) : Word :=
  BitVec.ofNat 32 (b0.toNat + b1.toNat * 256 + b2.toNat * 65536 + b3.toNat * 16777216)

/-- The bytes of a word, lowest address first (R2). -/
def bytesOfWord (w : Word) : List Byte :=
  [BitVec.ofNat 8 w.toNat, BitVec.ofNat 8 (w.toNat / 256), BitVec.ofNat 8 (w.toNat / 65536), BitVec.ofNat 8 (w.toNat / 16777216)]

/-- The word at the front of a byte list, if there is one. -/
def frontWord : List Byte → Option Word
  | b0 :: b1 :: b2 :: b3 :: _ => some (wordOfBytes b0 b1 b2 b3)
  | _ => none

/-- The instruction at the front of a byte list, and the bytes after it. -/
def decodeBytes (bs : List Byte) : Except DecodeError (Instr × List Byte) :=
  match frontWord bs with
  | none => .error .truncated
  | some w => do
    let i ← decodeWord w (frontWord (bs.drop 4))
    pure (i, bs.drop (4 + 4 * i.literals))

/-- Guard codes (R72). -/
def Guard.code : Guard → Nat
  | .always => 15
  | .pred p => p.val

/-- The seven bits of a b operand: b.sel, then b.idx (R75). -/
def BOp.code : BOp → Nat
  | .v n => n.val
  | .s n => 64 + n.val

/-- Segment codes (R77). -/
def Seg.code : Seg → Nat
  | .gl => 0
  | .sh => 1
  | .cn => 2
  | .lo => 3

/-- Scope codes (R78). -/
def Scope.code : Scope → Nat
  | .grp => 0
  | .core => 1
  | .die => 2
  | .dev => 3
  | .sys => 4

/-- Order codes (R78). -/
def Order.code : Order → Nat
  | .rlx => 0
  | .acq => 1
  | .rel => 2
  | .acqrel => 3
  | .sc => 4

/-- Condition codes (R80). -/
def Cond.code : Cond → Nat
  | .eq => 0
  | .ne => 1
  | .lt => 2
  | .le => 3
  | .gt => 4
  | .ge => 5
  | .un => 6
  | .ord => 7

/-- SHIFTI kind codes (R97). -/
def ShiftKind.code : ShiftKind → Nat
  | .shl => 0
  | .shr => 1
  | .sar => 2
  | .rot => 3

/-- SHFLI kind codes (R207). -/
def ShflKind.code : ShflKind → Nat
  | .up => 0
  | .down => 1
  | .xor => 2
  | .rot => 3

/-- REDI operation codes (R207). -/
def RedOp.code : RedOp → Nat
  | .add => 0
  | .min => 1
  | .max => 2
  | .minn => 3
  | .maxn => 4
  | .and => 5
  | .or => 6
  | .xor => 7

/-- Barrier level codes (R207). -/
def BarLevel.code : BarLevel → Nat
  | .team => 0
  | .cluster => 1
  | .launch => 2

/-- PREF level codes (R347). -/
def PrefLevel.code : PrefLevel → Nat
  | .l1 => 0
  | .l2 => 1
  | .l3 => 2

/-- MSKSET's b and f fields (R128). -/
def optPredCode : Option Pred → Nat
  | none => 0
  | some p => p.val * 2 + 1

/-- XBWAIT's immediate (R376). -/
def optRegCode : Option Reg → Nat
  | none => 0
  | some k => 8192 + k.val

/-- Bits [23:0] of a spatial operator word (R87). -/
def SFields.code (o : SFields) : Nat :=
  o.qa.val * 1048576 + o.qb.val * 65536 + o.dl.val * 512 + o.dq.val * 32 + o.g.toNat * 16 + o.l.toNat * 8 + o.f.toNat * 4 +
    o.c.toNat * 2 + o.w.toNat

/-- The instruction word of a step with an encoding, and its literal: the encoding tables read the other way. -/
def encodeNat : Instr → Option (Nat × Option Word)
  | .nop => some (0x01 * 16777216 + 15 * 1048576, none)
  | .movi g d imm => some (0x02 * 16777216 + g.code * 1048576 + d.val * 16384 + imm.toNat, none)
  | .movl g d lit => some (0x03 * 16777216 + g.code * 1048576 + d.val * 16384, some lit)
  | .mov g d b => some (0x04 * 16777216 + g.code * 1048576 + d.val * 16384 + b.code * 2, none)
  | .movx g d sb k => some (0x05 * 16777216 + g.code * 1048576 + d.val * 16384 + k.val * 256 + (64 + sb.val) * 2, none)
  | .movy g d sb k => some (0x06 * 16777216 + g.code * 1048576 + d.val * 16384 + k.val * 256 + (64 + sb.val) * 2, none)
  | .iadd g d a b sat => some (0x07 * 16777216 + g.code * 1048576 + d.val * 16384 + a.val * 256 + b.code * 2 + sat.toNat, none)
  | .isub g d a b sat => some (0x08 * 16777216 + g.code * 1048576 + d.val * 16384 + a.val * 256 + b.code * 2 + sat.toNat, none)
  | .iaddi g d a imm => some (0x09 * 16777216 + g.code * 1048576 + d.val * 16384 + a.val * 256 + imm.toNat, none)
  | .imul g d a b => some (0x0A * 16777216 + g.code * 1048576 + d.val * 16384 + a.val * 256 + b.code * 2, none)
  | .imulh g d a b n => some (0x0B * 16777216 + g.code * 1048576 + d.val * 16384 + a.val * 256 + b.code * 2 + n.toNat, none)
  | .imad g d a b => some (0x0C * 16777216 + g.code * 1048576 + d.val * 16384 + a.val * 256 + b.code * 2, none)
  | .imadw g d a b n => some (0x0D * 16777216 + g.code * 1048576 + d.val * 16384 + a.val * 256 + b.code * 2 + n.toNat, none)
  | .iadd64 g d a b w => some (0x0E * 16777216 + g.code * 1048576 + d.val * 16384 + a.val * 256 + b.code * 2 + w.toNat, none)
  | .imin g d a b n => some (0x0F * 16777216 + g.code * 1048576 + d.val * 16384 + a.val * 256 + b.code * 2 + n.toNat, none)
  | .imax g d a b n => some (0x10 * 16777216 + g.code * 1048576 + d.val * 16384 + a.val * 256 + b.code * 2 + n.toNat, none)
  | .iabs g d b sat => some (0x11 * 16777216 + g.code * 1048576 + d.val * 16384 + b.code * 2 + sat.toNat, none)
  | .and g d a b => some (0x12 * 16777216 + g.code * 1048576 + d.val * 16384 + a.val * 256 + b.code * 2, none)
  | .or g d a b => some (0x13 * 16777216 + g.code * 1048576 + d.val * 16384 + a.val * 256 + b.code * 2, none)
  | .xor g d a b => some (0x14 * 16777216 + g.code * 1048576 + d.val * 16384 + a.val * 256 + b.code * 2, none)
  | .andn g d a b => some (0x15 * 16777216 + g.code * 1048576 + d.val * 16384 + a.val * 256 + b.code * 2, none)
  | .shl g d a b => some (0x16 * 16777216 + g.code * 1048576 + d.val * 16384 + a.val * 256 + b.code * 2, none)
  | .shr g d a b ar => some (0x17 * 16777216 + g.code * 1048576 + d.val * 16384 + a.val * 256 + b.code * 2 + ar.toNat, none)
  | .rot g d a b r => some (0x18 * 16777216 + g.code * 1048576 + d.val * 16384 + a.val * 256 + b.code * 2 + r.toNat, none)
  | .shifti g d a kind n => some (0x19 * 16777216 + g.code * 1048576 + d.val * 16384 + a.val * 256 + kind.code * 64 + n.val, none)
  | .bfe g d a b s => some (0x1A * 16777216 + g.code * 1048576 + d.val * 16384 + a.val * 256 + b.code * 2 + s.toNat, none)
  | .bfi g d a b => some (0x1B * 16777216 + g.code * 1048576 + d.val * 16384 + a.val * 256 + b.code * 2, none)
  | .popc g d b => some (0x1C * 16777216 + g.code * 1048576 + d.val * 16384 + b.code * 2, none)
  | .clz g d b => some (0x1D * 16777216 + g.code * 1048576 + d.val * 16384 + b.code * 2, none)
  | .brev g d b => some (0x1E * 16777216 + g.code * 1048576 + d.val * 16384 + b.code * 2, none)
  | .icmp g pair cond a b w => some (0x1F * 16777216 + g.code * 1048576 + a.val * 256 + b.code * 2 + pair.val * 131072 + cond.code * 16384 + w.toNat, none)
  | .icmpn g pair cond a b w => some (0x20 * 16777216 + g.code * 1048576 + a.val * 256 + b.code * 2 + pair.val * 131072 + cond.code * 16384 + w.toNat, none)
  | .sel p d a b => some (0x21 * 16777216 + p.val * 1048576 + d.val * 16384 + a.val * 256 + b.code * 2, none)
  | .smovi d imm => some (0x22 * 16777216 + 15 * 1048576 + d.val * 16384 + imm.toNat, none)
  | .smovl d lit => some (0x23 * 16777216 + 15 * 1048576 + d.val * 16384, some lit)
  | .sadd d a b => some (0x24 * 16777216 + 15 * 1048576 + d.val * 16384 + a.val * 256 + (64 + b.val) * 2, none)
  | .ssub d a b => some (0x25 * 16777216 + 15 * 1048576 + d.val * 16384 + a.val * 256 + (64 + b.val) * 2, none)
  | .smul d a b => some (0x26 * 16777216 + 15 * 1048576 + d.val * 16384 + a.val * 256 + (64 + b.val) * 2, none)
  | .sand d a b => some (0x27 * 16777216 + 15 * 1048576 + d.val * 16384 + a.val * 256 + (64 + b.val) * 2, none)
  | .sor d a b => some (0x28 * 16777216 + 15 * 1048576 + d.val * 16384 + a.val * 256 + (64 + b.val) * 2, none)
  | .sxor d a b => some (0x29 * 16777216 + 15 * 1048576 + d.val * 16384 + a.val * 256 + (64 + b.val) * 2, none)
  | .sshl d a b => some (0x2A * 16777216 + 15 * 1048576 + d.val * 16384 + a.val * 256 + (64 + b.val) * 2, none)
  | .sshr d a b ar => some (0x2B * 16777216 + 15 * 1048576 + d.val * 16384 + a.val * 256 + (64 + b.val) * 2 + ar.toNat, none)
  | .scmp pair cond a b n => some (0x2C * 16777216 + 15 * 1048576 + a.val * 256 + (64 + b.val) * 2 + pair.val * 131072 + cond.code * 16384 + n.toNat, none)
  | .readl d a k => some (0x2D * 16777216 + 15 * 1048576 + d.val * 16384 + a.val * 256 + k.val, none)
  | .writel d a k => some (0x2E * 16777216 + 15 * 1048576 + d.val * 16384 + a.val * 256 + k.val, none)
  | .faddF32 g d a b => some (0x30 * 16777216 + g.code * 1048576 + d.val * 16384 + a.val * 256 + b.code * 2, none)
  | .faddF64 g d a b => some (0x31 * 16777216 + g.code * 1048576 + d.val * 16384 + a.val * 256 + b.code * 2, none)
  | .faddH2 g d a b => some (0x32 * 16777216 + g.code * 1048576 + d.val * 16384 + a.val * 256 + b.code * 2, none)
  | .faddBH2 g d a b => some (0x33 * 16777216 + g.code * 1048576 + d.val * 16384 + a.val * 256 + b.code * 2, none)
  | .fsubF32 g d a b => some (0x34 * 16777216 + g.code * 1048576 + d.val * 16384 + a.val * 256 + b.code * 2, none)
  | .fsubF64 g d a b => some (0x35 * 16777216 + g.code * 1048576 + d.val * 16384 + a.val * 256 + b.code * 2, none)
  | .fsubH2 g d a b => some (0x36 * 16777216 + g.code * 1048576 + d.val * 16384 + a.val * 256 + b.code * 2, none)
  | .fsubBH2 g d a b => some (0x37 * 16777216 + g.code * 1048576 + d.val * 16384 + a.val * 256 + b.code * 2, none)
  | .fmulF32 g d a b => some (0x38 * 16777216 + g.code * 1048576 + d.val * 16384 + a.val * 256 + b.code * 2, none)
  | .fmulF64 g d a b => some (0x39 * 16777216 + g.code * 1048576 + d.val * 16384 + a.val * 256 + b.code * 2, none)
  | .fmulH2 g d a b => some (0x3A * 16777216 + g.code * 1048576 + d.val * 16384 + a.val * 256 + b.code * 2, none)
  | .fmulBH2 g d a b => some (0x3B * 16777216 + g.code * 1048576 + d.val * 16384 + a.val * 256 + b.code * 2, none)
  | .ffmaF32 g d a b neg => some (0x3C * 16777216 + g.code * 1048576 + d.val * 16384 + a.val * 256 + b.code * 2 + neg.toNat, none)
  | .ffmaF64 g d a b neg => some (0x3D * 16777216 + g.code * 1048576 + d.val * 16384 + a.val * 256 + b.code * 2 + neg.toNat, none)
  | .ffmaH2 g d a b neg => some (0x3E * 16777216 + g.code * 1048576 + d.val * 16384 + a.val * 256 + b.code * 2 + neg.toNat, none)
  | .ffmaBH2 g d a b neg => some (0x3F * 16777216 + g.code * 1048576 + d.val * 16384 + a.val * 256 + b.code * 2 + neg.toNat, none)
  | .fminF32 g d a b nan => some (0x40 * 16777216 + g.code * 1048576 + d.val * 16384 + a.val * 256 + b.code * 2 + nan.toNat, none)
  | .fminF64 g d a b nan => some (0x41 * 16777216 + g.code * 1048576 + d.val * 16384 + a.val * 256 + b.code * 2 + nan.toNat, none)
  | .fminH2 g d a b nan => some (0x42 * 16777216 + g.code * 1048576 + d.val * 16384 + a.val * 256 + b.code * 2 + nan.toNat, none)
  | .fminBH2 g d a b nan => some (0x43 * 16777216 + g.code * 1048576 + d.val * 16384 + a.val * 256 + b.code * 2 + nan.toNat, none)
  | .fmaxF32 g d a b nan => some (0x44 * 16777216 + g.code * 1048576 + d.val * 16384 + a.val * 256 + b.code * 2 + nan.toNat, none)
  | .fmaxF64 g d a b nan => some (0x45 * 16777216 + g.code * 1048576 + d.val * 16384 + a.val * 256 + b.code * 2 + nan.toNat, none)
  | .fmaxH2 g d a b nan => some (0x46 * 16777216 + g.code * 1048576 + d.val * 16384 + a.val * 256 + b.code * 2 + nan.toNat, none)
  | .fmaxBH2 g d a b nan => some (0x47 * 16777216 + g.code * 1048576 + d.val * 16384 + a.val * 256 + b.code * 2 + nan.toNat, none)
  | .fcmpF32 g pair cond a b sig => some (0x48 * 16777216 + g.code * 1048576 + a.val * 256 + b.code * 2 + pair.val * 131072 + cond.code * 16384 + sig.toNat, none)
  | .fcmpF64 g pair cond a b sig => some (0x49 * 16777216 + g.code * 1048576 + a.val * 256 + b.code * 2 + pair.val * 131072 + cond.code * 16384 + sig.toNat, none)
  | .fcmpH2 g pair cond a b hi => some (0x4A * 16777216 + g.code * 1048576 + a.val * 256 + b.code * 2 + pair.val * 131072 + cond.code * 16384 + hi.toNat, none)
  | .fcmpBH2 g pair cond a b hi => some (0x4B * 16777216 + g.code * 1048576 + a.val * 256 + b.code * 2 + pair.val * 131072 + cond.code * 16384 + hi.toNat, none)
  | .frcp g d b => some (0x4C * 16777216 + g.code * 1048576 + d.val * 16384 + b.code * 2, none)
  | .frsq g d b => some (0x4D * 16777216 + g.code * 1048576 + d.val * 16384 + b.code * 2, none)
  | .fsqrt g d b => some (0x4E * 16777216 + g.code * 1048576 + d.val * 16384 + b.code * 2, none)
  | .fexp2 g d b => some (0x4F * 16777216 + g.code * 1048576 + d.val * 16384 + b.code * 2, none)
  | .flog2 g d b => some (0x50 * 16777216 + g.code * 1048576 + d.val * 16384 + b.code * 2, none)
  | .fsin g d b => some (0x51 * 16777216 + g.code * 1048576 + d.val * 16384 + b.code * 2, none)
  | .fcos g d b => some (0x52 * 16777216 + g.code * 1048576 + d.val * 16384 + b.code * 2, none)
  | .ftanh g d b => some (0x53 * 16777216 + g.code * 1048576 + d.val * 16384 + b.code * 2, none)
  | .cvtF32F64 g d b => some (0x54 * 16777216 + g.code * 1048576 + d.val * 16384 + b.code * 2, none)
  | .cvtF64F32 g d b => some (0x55 * 16777216 + g.code * 1048576 + d.val * 16384 + b.code * 2, none)
  | .cvtF32H2 g d b hi => some (0x56 * 16777216 + g.code * 1048576 + d.val * 16384 + b.code * 2 + hi.toNat, none)
  | .cvtH2F32 g d a b => some (0x57 * 16777216 + g.code * 1048576 + d.val * 16384 + a.val * 256 + b.code * 2, none)
  | .cvtF32Bh2 g d b hi => some (0x58 * 16777216 + g.code * 1048576 + d.val * 16384 + b.code * 2 + hi.toNat, none)
  | .cvtBh2F32 g d a b => some (0x59 * 16777216 + g.code * 1048576 + d.val * 16384 + a.val * 256 + b.code * 2, none)
  | .cvtF32I32 g d b => some (0x5A * 16777216 + g.code * 1048576 + d.val * 16384 + b.code * 2, none)
  | .cvtF32N32 g d b => some (0x5B * 16777216 + g.code * 1048576 + d.val * 16384 + b.code * 2, none)
  | .cvtI32F32 g d b rz => some (0x5C * 16777216 + g.code * 1048576 + d.val * 16384 + b.code * 2 + rz.toNat, none)
  | .cvtN32F32 g d b rz => some (0x5D * 16777216 + g.code * 1048576 + d.val * 16384 + b.code * 2 + rz.toNat, none)
  | .cvtF64I32 g d b => some (0x5E * 16777216 + g.code * 1048576 + d.val * 16384 + b.code * 2, none)
  | .cvtI32F64 g d b rz => some (0x5F * 16777216 + g.code * 1048576 + d.val * 16384 + b.code * 2 + rz.toNat, none)
  | .cvtpE4m3 g d a b hi => some (0x60 * 16777216 + g.code * 1048576 + d.val * 16384 + a.val * 256 + b.code * 2 + hi.toNat, none)
  | .cvtpE5m2 g d a b hi => some (0x61 * 16777216 + g.code * 1048576 + d.val * 16384 + a.val * 256 + b.code * 2 + hi.toNat, none)
  | .cvtuE4m3 g d b hi => some (0x62 * 16777216 + g.code * 1048576 + d.val * 16384 + b.code * 2 + hi.toNat, none)
  | .cvtuE5m2 g d b hi => some (0x63 * 16777216 + g.code * 1048576 + d.val * 16384 + b.code * 2 + hi.toNat, none)
  | .braAny g disp => some (0x68 * 16777216 + g.code * 1048576 + disp.toNat, none)
  | .braAll g disp => some (0x69 * 16777216 + g.code * 1048576 + disp.toNat, none)
  | .braNone g disp => some (0x6A * 16777216 + g.code * 1048576 + disp.toNat, none)
  | .jmp disp => some (0x6B * 16777216 + 15 * 1048576 + disp.toNat, none)
  | .call disp => some (0x6C * 16777216 + 15 * 1048576 + disp.toNat, none)
  | .callr a => some (0x6D * 16777216 + 15 * 1048576 + a.val * 256, none)
  | .ret a => some (0x6E * 16777216 + 15 * 1048576 + a.val * 256, none)
  | .mskand d p not => some (0x6F * 16777216 + 15 * 1048576 + d.val * 16384 + p.val * 256 + not.toNat, none)
  | .mskset a p => some (0x70 * 16777216 + 15 * 1048576 + a.val * 256 + optPredCode p, none)
  | .exit g => some (0x71 * 16777216 + g.code * 1048576, none)
  | .ldS8 g d a seg off => some (0x78 * 16777216 + g.code * 1048576 + d.val * 16384 + a.val * 256 + seg.code * 64 + off.val, none)
  | .ldN8 g d a seg off => some (0x79 * 16777216 + g.code * 1048576 + d.val * 16384 + a.val * 256 + seg.code * 64 + off.val, none)
  | .ldS16 g d a seg off => some (0x7A * 16777216 + g.code * 1048576 + d.val * 16384 + a.val * 256 + seg.code * 64 + off.val, none)
  | .ldN16 g d a seg off => some (0x7B * 16777216 + g.code * 1048576 + d.val * 16384 + a.val * 256 + seg.code * 64 + off.val, none)
  | .ldB32 g d a seg off => some (0x7C * 16777216 + g.code * 1048576 + d.val * 16384 + a.val * 256 + seg.code * 64 + off.val, none)
  | .ldB64 g d a seg off => some (0x7D * 16777216 + g.code * 1048576 + d.val * 16384 + a.val * 256 + seg.code * 64 + off.val, none)
  | .ldB128 g d a seg off => some (0x7E * 16777216 + g.code * 1048576 + d.val * 16384 + a.val * 256 + seg.code * 64 + off.val, none)
  | .stB8 g d a seg off => some (0x7F * 16777216 + g.code * 1048576 + d.val * 16384 + a.val * 256 + seg.code * 64 + off.val, none)
  | .stB16 g d a seg off => some (0x80 * 16777216 + g.code * 1048576 + d.val * 16384 + a.val * 256 + seg.code * 64 + off.val, none)
  | .stB32 g d a seg off => some (0x81 * 16777216 + g.code * 1048576 + d.val * 16384 + a.val * 256 + seg.code * 64 + off.val, none)
  | .stB64 g d a seg off => some (0x82 * 16777216 + g.code * 1048576 + d.val * 16384 + a.val * 256 + seg.code * 64 + off.val, none)
  | .stB128 g d a seg off => some (0x83 * 16777216 + g.code * 1048576 + d.val * 16384 + a.val * 256 + seg.code * 64 + off.val, none)
  | .ldaqB32 g d a seg sc off => some (0x84 * 16777216 + g.code * 1048576 + d.val * 16384 + a.val * 256 + seg.code * 64 + sc.code * 8 + off.val, none)
  | .ldaqB64 g d a seg sc off => some (0x85 * 16777216 + g.code * 1048576 + d.val * 16384 + a.val * 256 + seg.code * 64 + sc.code * 8 + off.val, none)
  | .strlB32 g d a seg sc off => some (0x86 * 16777216 + g.code * 1048576 + d.val * 16384 + a.val * 256 + seg.code * 64 + sc.code * 8 + off.val, none)
  | .strlB64 g d a seg sc off => some (0x87 * 16777216 + g.code * 1048576 + d.val * 16384 + a.val * 256 + seg.code * 64 + sc.code * 8 + off.val, none)
  | .trap g code => some (0x88 * 16777216 + g.code * 1048576 + code.toNat, none)
  | .srr d num => some (0x89 * 16777216 + 15 * 1048576 + d.val * 16384 + num.toNat, none)
  | .swr d num => some (0x8A * 16777216 + 15 * 1048576 + d.val * 16384 + num.toNat, none)
  | .segset k a => some (0x8B * 16777216 + 15 * 1048576 + k.val * 16384 + a.val * 256, none)
  | .eret => some (0x8C * 16777216 + 15 * 1048576, none)
  | .tlbinv sc all a => some (0x8D * 16777216 + 15 * 1048576 + sc.code * 16384 + a.val * 256 + all.toNat, none)
  | .ctxsv a b => some (0x8E * 16777216 + 15 * 1048576 + a.val * 256 + (64 + b.val) * 2, none)
  | .ctxld d a => some (0x8F * 16777216 + 15 * 1048576 + d.val * 16384 + a.val * 256, none)
  | .shfl g d a b x => some (0x98 * 16777216 + g.code * 1048576 + d.val * 16384 + a.val * 256 + b.code * 2 + x.toNat, none)
  | .shfli g d a kind n => some (0x99 * 16777216 + g.code * 1048576 + d.val * 16384 + a.val * 256 + kind.code * 64 + n.val, none)
  | .ptos d p b cnt => some (0x9A * 16777216 + 15 * 1048576 + d.val * 16384 + p.val * 256 + (64 + b.val) * 2 + cnt.toNat, none)
  | .stop g p a not => some (0x9B * 16777216 + g.code * 1048576 + p.val * 16384 + a.val * 256 + not.toNat, none)
  | .plop g pd pa pb tt => some (0x9C * 16777216 + g.code * 1048576 + pd.val * 65536 + pa.val * 4096 + pb.val * 256 + tt.toNat * 16, none)
  | .vconf g d a b last => some (0x9D * 16777216 + g.code * 1048576 + d.val * 16384 + a.val * 256 + b.code * 2 + last.toNat, none)
  | .vrank g d a b n => some (0x9E * 16777216 + g.code * 1048576 + d.val * 16384 + a.val * 256 + b.code * 2 + n.toNat, none)
  | .rsumk g d a b i => some (0x9F * 16777216 + g.code * 1048576 + d.val * 16384 + a.val * 256 + b.code * 2 + i.toNat, none)
  | .redi g op d b toS => some (0xA0 * 16777216 + g.code * 1048576 + d.val * 16384 + op.code * 256 + b.code * 2 + toS.toNat, none)
  | .redf g f64 d b toS => some (0xA1 * 16777216 + g.code * 1048576 + d.val * 16384 + f64.toNat * 256 + b.code * 2 + toS.toNat, none)
  | .bar lv n => some (0xA2 * 16777216 + 15 * 1048576 + n.val * 16384 + lv.code, none)
  | .bara lv n => some (0xA3 * 16777216 + 15 * 1048576 + n.val * 16384 + lv.code, none)
  | .barw lv n => some (0xA4 * 16777216 + 15 * 1048576 + n.val * 16384 + lv.code, none)
  | .spat a => some (0xA5 * 16777216 + 15 * 1048576 + a.val * 256, none)
  | .grow n => some (0xA6 * 16777216 + 15 * 1048576 + n.toNat, none)
  | .shrnk n => some (0xA7 * 16777216 + 15 * 1048576 + n.toNat, none)
  | .tlaunch g d a seg => some (0xB0 * 16777216 + g.code * 1048576 + d.val * 16384 + a.val * 256 + seg.code * 64, none)
  | .tsucc g d a seg => some (0xB1 * 16777216 + g.code * 1048576 + d.val * 16384 + a.val * 256 + seg.code * 64, none)
  | .propose g d a seg sc mo => some (0xB2 * 16777216 + g.code * 1048576 + d.val * 16384 + a.val * 256 + seg.code * 64 + sc.code * 8 + mo.code, none)
  | .cellrd g d a seg sc mo => some (0xB3 * 16777216 + g.code * 1048576 + d.val * 16384 + a.val * 256 + seg.code * 64 + sc.code * 8 + mo.code, none)
  | .cellwt g d a seg sc mo => some (0xB4 * 16777216 + g.code * 1048576 + d.val * 16384 + a.val * 256 + seg.code * 64 + sc.code * 8 + mo.code, none)
  | .cellinit g d a seg sc mo => some (0xB5 * 16777216 + g.code * 1048576 + d.val * 16384 + a.val * 256 + seg.code * 64 + sc.code * 8 + mo.code, none)
  | .cellrst g d a seg sc mo => some (0xB6 * 16777216 + g.code * 1048576 + d.val * 16384 + a.val * 256 + seg.code * 64 + sc.code * 8 + mo.code, none)
  | .lkacq g d a seg sc mo => some (0xB7 * 16777216 + g.code * 1048576 + d.val * 16384 + a.val * 256 + seg.code * 64 + sc.code * 8 + mo.code, none)
  | .lkrel g d a seg sc mo => some (0xB8 * 16777216 + g.code * 1048576 + d.val * 16384 + a.val * 256 + seg.code * 64 + sc.code * 8 + mo.code, none)
  | .qrsv g d a seg => some (0xB9 * 16777216 + g.code * 1048576 + d.val * 16384 + a.val * 256 + seg.code * 64, none)
  | .qput g d a seg sc mo => some (0xBA * 16777216 + g.code * 1048576 + d.val * 16384 + a.val * 256 + seg.code * 64 + sc.code * 8 + mo.code, none)
  | .qget g d a seg sc mo => some (0xBB * 16777216 + g.code * 1048576 + d.val * 16384 + a.val * 256 + seg.code * 64 + sc.code * 8 + mo.code, none)
  | .ataddI32 g d a seg sc mo => some (0xC0 * 16777216 + g.code * 1048576 + d.val * 16384 + a.val * 256 + seg.code * 64 + sc.code * 8 + mo.code, none)
  | .ataddI64 g d a seg sc mo => some (0xC1 * 16777216 + g.code * 1048576 + d.val * 16384 + a.val * 256 + seg.code * 64 + sc.code * 8 + mo.code, none)
  | .ataddF32 g d a seg sc mo => some (0xC2 * 16777216 + g.code * 1048576 + d.val * 16384 + a.val * 256 + seg.code * 64 + sc.code * 8 + mo.code, none)
  | .atminI32 g d a seg sc mo => some (0xC3 * 16777216 + g.code * 1048576 + d.val * 16384 + a.val * 256 + seg.code * 64 + sc.code * 8 + mo.code, none)
  | .atmaxI32 g d a seg sc mo => some (0xC4 * 16777216 + g.code * 1048576 + d.val * 16384 + a.val * 256 + seg.code * 64 + sc.code * 8 + mo.code, none)
  | .atandB32 g d a seg sc mo => some (0xC5 * 16777216 + g.code * 1048576 + d.val * 16384 + a.val * 256 + seg.code * 64 + sc.code * 8 + mo.code, none)
  | .atorB32 g d a seg sc mo => some (0xC6 * 16777216 + g.code * 1048576 + d.val * 16384 + a.val * 256 + seg.code * 64 + sc.code * 8 + mo.code, none)
  | .atxorB32 g d a seg sc mo => some (0xC7 * 16777216 + g.code * 1048576 + d.val * 16384 + a.val * 256 + seg.code * 64 + sc.code * 8 + mo.code, none)
  | .atxchB32 g d a seg sc mo => some (0xC8 * 16777216 + g.code * 1048576 + d.val * 16384 + a.val * 256 + seg.code * 64 + sc.code * 8 + mo.code, none)
  | .atxchB64 g d a seg sc mo => some (0xC9 * 16777216 + g.code * 1048576 + d.val * 16384 + a.val * 256 + seg.code * 64 + sc.code * 8 + mo.code, none)
  | .atcasB32 g d a seg sc mo => some (0xCA * 16777216 + g.code * 1048576 + d.val * 16384 + a.val * 256 + seg.code * 64 + sc.code * 8 + mo.code, none)
  | .atcasB64 g d a seg sc mo => some (0xCB * 16777216 + g.code * 1048576 + d.val * 16384 + a.val * 256 + seg.code * 64 + sc.code * 8 + mo.code, none)
  | .redstF32 g d a seg sc mo => some (0xCC * 16777216 + g.code * 1048576 + d.val * 16384 + a.val * 256 + seg.code * 64 + sc.code * 8 + mo.code, none)
  | .fence sc mo => some (0xCD * 16777216 + 15 * 1048576 + sc.code * 8 + mo.code, none)
  | .publish d a sc => some (0xCE * 16777216 + 15 * 1048576 + d.val * 16384 + a.val * 256 + sc.code * 8 + 2, none)
  | .pref g lv a seg off => some (0xCF * 16777216 + g.code * 1048576 + lv.code * 16384 + a.val * 256 + seg.code * 64 + off.val, none)
  | .tdef t => some (0xD0 * 16777216 + 15 * 1048576 + t.val * 4096, none)
  | .tinv t => some (0xD1 * 16777216 + 15 * 1048576 + t.val * 4096, none)
  | .tcopy t a b => some (0xD2 * 16777216 + 15 * 1048576 + t.val * 4096 + a.val * 64 + b.val, none)
  | .tstore t a b => some (0xD3 * 16777216 + 15 * 1048576 + t.val * 4096 + a.val * 64 + b.val, none)
  | .mma fmt ac ra rb a => some (0xD4 * 16777216 + 15 * 1048576 + fmt.val * 32768 + ac.toNat * 16384 + ra.toNat * 8192 + rb.toNat * 4096 + a.val * 64, none)
  | .mdrain t a b => some (0xD5 * 16777216 + 15 * 1048576 + t.val * 4096 + a.val * 64 + b.val, none)
  | .xbexp n b => some (0xD6 * 16777216 + 15 * 1048576 + n.val * 16384 + (64 + b.val) * 2, none)
  | .xbwait n k => some (0xD7 * 16777216 + 15 * 1048576 + n.val * 16384 + optRegCode k, none)
  | .slotset buf slot full => some (0xD8 * 16777216 + 15 * 1048576 + buf.val * 16384 + slot.val * 256 + full.toNat, none)
  | .slotwt buf slot full => some (0xD9 * 16777216 + 15 * 1048576 + buf.val * 16384 + slot.val * 256 + full.toNat, none)
  | .bufdef buf a b => some (0xDA * 16777216 + 15 * 1048576 + buf.val * 16384 + a.val * 256 + (64 + b.val) * 2, none)
  | .bufdefFree buf => some (0xDA * 16777216 + 15 * 1048576 + buf.val * 16384 + 1, none)
  | .txbeg disp => some (0xE0 * 16777216 + 15 * 1048576 + disp.toNat, none)
  | .txend => some (0xE1 * 16777216 + 15 * 1048576, none)
  | .txabt code => some (0xE2 * 16777216 + 15 * 1048576 + code.toNat, none)
  | .txst d => some (0xE3 * 16777216 + 15 * 1048576 + d.val * 16384, none)
  | .src o => some (0xF0 * 16777216 + o.code, none)
  | .snk o => some (0xF1 * 16777216 + o.code, none)
  | .ctr o => some (0xF2 * 16777216 + o.code, none)
  | .steer o => some (0xF3 * 16777216 + o.code, none)
  | .merge o => some (0xF4 * 16777216 + o.code, none)
  | .acc o => some (0xF5 * 16777216 + o.code, none)
  | .ord o => some (0xF6 * 16777216 + o.code, none)
  | .conv o => some (0xF7 * 16777216 + o.code, none)
  | .rdreg o => some (0xF8 * 16777216 + o.code, none)
  | .wrreg o => some (0xF9 * 16777216 + o.code, none)
  | .mtok o => some (0xFA * 16777216 + o.code, none)
  | .dup o => some (0xFB * 16777216 + o.code, none)
  | .aluOperatorFire op o => some (op.toNat * 16777216 + o.code, none)
  | .coreReset => none
  | .deviceReset => none
  | .clauseFetch => none
  | .clauseDecode => none
  | .clauseStart => none
  | .issueSelect => none
  | .resultWriteback => none
  | .trapEntry => none
  | .migrationComplete => none
  | .delayedFaultDelivery => none
  | .groupEnd => none
  | .teamStart => none
  | .teamBalance => none
  | .poolGrant => none
  | .barrierRelease => none
  | .launchWindowScan => none
  | .successorDecrement => none
  | .cellRequest => none
  | .lockRequest => none
  | .queueRequest => none
  | .waitingWordRetry => none
  | .remoteWake => none
  | .remoteSleeperRetry => none
  | .atomicPerform => none
  | .storePerform => none
  | .loadPerform => none
  | .coherenceInvalidation => none
  | .invalidationAck => none
  | .lineWriteback => none
  | .directoryEviction => none
  | .bankRead => none
  | .bankWrite => none
  | .addOnStore => none
  | .bankAtomic => none
  | .chainedAddOnStore => none
  | .lineAddOnStore => none
  | .tileDrainUpdate => none
  | .pageWalk => none
  | .tlbinvComplete => none
  | .hmaskApply => none
  | .portalCompletion => none
  | .completionTimeout => none
  | .hostAtomicOp => none
  | .graphDescriptorRead => none
  | .blockFetch => none
  | .blockReadAhead => none
  | .rigPlacement => none
  | .matrixNodeClaim => none
  | .configItemArrival => none
  | .sourceStart => none
  | .tokenArrival => none
  | .slotReturn => none
  | .quiescence => none
  | .rigStuck => none
  | .portReply => none
  | .copyStart => none
  | .walkAhead => none
  | .arrivalPost => none
  | .xbwaitResume => none
  | .matrixTokenFire => none
  | .mdrainRead => none
  | .chainStageAdd => none
  | .chainSlotEnable => none
  | .chainSlotReset => none
  | .preemptionTimeout => none
  | .teamSave => none
  | .teamRestore => none
  | .rigSave => none
  | .rigSaveTimeout => none
  | .txAbort => none
  | .txCommit => none
  | .kill => none
  | .reclaim => none
  | .retire => none
  | .contextEnable => none
  | .contextDisable => none
  | .registerSpaceWrite => none
  | .linkRetrain => none
  | .linkDownEnable => none
  | .linkTrained => none
  | .linkFailure => none
  | .laneRemap => none
  | .peerRequest => none
  | .hostMemAccess => none
  | .hostSnoop => none
  | .biResponse => none
  | .capacityDecoderEnable => none
  | .checkpointSave => none
  | .checkpointLoad => none
  | .checkpointCopyDone => none
  | .sliceRetire => none
  | .eccCorrectableError => none
  | .eccUncorrectableError => none
  | .scrubInterval => none
  | .groomLoad => none
  | .groomTrain => none
  | .groomRowRepair => none
  | .groomPcSpare => none
  | .groomScrub => none
  | .groomTelemetry => none
  | .stagingWindowWrite => none
  | .fwload => none
  | .firmwareVerified => none
  | .firmwareInitDone => none
  | .codeverify => none
  | .svncommit => none
  | .keyprog => none
  | .keyrevoke => none
  | .health => none
  | .pscRetire => none
  | .pscKill => none
  | .pldmRequest => none
  | .cycIncrement => none
  | .cleanLineDrop => none
  | .unlistedCommand => none

/-- The words of a step, its literal included; none for a step without an encoding. -/
def encode (i : Instr) : List Word :=
  match encodeNat i with
  | some (n, none) => [BitVec.ofNat 32 n]
  | some (n, some l) => [BitVec.ofNat 32 n, l]
  | none => []

/-- Class codes (R68). -/
def Cls.code : Cls → Nat
  | .alu => 0
  | .mem => 1
  | .eng => 2
  | .ctrl => 3
  | .sys => 4
  | .tx => 5

/-- The word of a clause header (R68). -/
def encodeHeader (h : Header) : Word :=
  BitVec.ofNat 32 (h.n * 268435456 + h.cls.code * 33554432 + h.wait.toNat * 131072 + h.setc.val * 16384 + h.yield.toNat * 8192 +
    h.serial.toNat * 4096)

/-- The instruction that the decoder reads from the bits `w`, numbered as spec/opcode_table.json numbers them: the
first word in bits 31..0, a literal in bits 63..32. A word of 0xF0 and up is read as an operator word. -/
def decodeTableWord (_nbits w : Nat) : Option Instr :=
  match decodeBytes (bytesOfWord (BitVec.ofNat 32 w) ++ bytesOfWord (BitVec.ofNat 32 (w / 4294967296))) with
  | .ok (i, _) => some i
  | .error _ => none

end Sys2Proof
end

