-- ==== Sys2Proof/Machine/State.lean ====
section
/-! DEFINITION. The state of the Denindaris DX8 as plain data, the ways a step can stop, and the state after reset. -/

namespace Sys2Proof.Machine

/-- A task of a context (R236): context number × 2^32 + identifier. -/
abbrev TaskKey := Nat

/-! ### Memory and locations -/

/-- Bytes by address in one canonical form: addresses strictly rising, no entry equal to 0, which is what an unlisted
address reads as. Log entry 2. -/
abbrev Memory := List Host.Cell

/-- A byte of the device: a shared-store offset of a core (R274), a device physical address (R272), or an offset in
the shared store of a cluster member that is found when the access is performed (R135, R278, R420). -/
inductive Spot where
  | sh (die core off : Nat)
  | pa (addr : Nat)
  | member (task : TaskKey) (lin off : Nat)
  deriving DecidableEq, Repr

/-- Coherence classes (R282). -/
inductive Coh where
  | d | s | u
  deriving DecidableEq, Repr

/-- Consecutive bytes of one access. For a sparse page the spot is the first byte of the group's record, and `sparse` holds
the element width and the logical offset within the group (R292). -/
structure Piece where
  spot : Spot
  len : Nat
  cls : Coh := .d
  sparse : Option (Nat × Nat) := none
  deriving DecidableEq, Repr

/-- One thread's part of a memory instruction, checked and translated: the address, the pieces and the register words
read at issue (R28). -/
structure Target where
  thread : Nat
  va : Nat
  pieces : List Piece
  args : List Word := []
  deriving DecidableEq, Repr

/-- An exact value: a NaN, an infinity or zero with its sign, or m × 2^e with m not 0 (R43, R54). -/
inductive XReal where
  | nan
  | inf (neg : Bool)
  | zero (neg : Bool)
  | fin (m : Int) (e : Int)
  deriving DecidableEq, Repr

/-! ### Groups -/

/-- A segment register (R30). -/
structure Segment where
  base : DWord := 0
  limit : DWord := 0
  deriving DecidableEq, Repr

/-- A register that can be pending (R24, R27). -/
inductive PReg where
  | v (n : Nat)
  | s (n : Nat)
  | p (n : Nat)
  deriving DecidableEq, Repr

/-- A pending bit (R24): the register, its counter, and the place of the instruction in the group's order. -/
structure Pend where
  reg : PReg
  ctr : Fin 8
  seq : Nat
  deriving DecidableEq, Repr

/-- One register of the 96 threads. -/
abbrev VReg := Vector Word 96

/-- Where a group stands at its clause (R17, R23): at a header not fetched, with the words fetched, with the words
decoded, or issuing the words. -/
inductive Stage where
  | header | fetched | decoded | issuing
  deriving DecidableEq, Repr

/-- The clause buffer: the header's address, the fetched words with the header first, and the index of the next word. -/
structure Clause where
  addr : DWord := 0
  words : List Word := []
  next : Nat := 1
  deriving DecidableEq, Repr

/-- Long-latency work (R22, R24). -/
inductive LLKind where
  | load (size : Nat) (signed : Bool) (acq : Option Scope)
  | atomic (op : AtomOp) (size : Nat) (sc : Scope) (mo : Order)
  | cell (op : CellOp) (sc : Scope) (mo : Order)
  | lock (acquire : Bool) (sc : Scope) (mo : Order)
  | qrsv
  | qput (sc : Scope) (mo : Order)
  | qget (sc : Scope) (mo : Order)
  | tlaunch
  | tsucc
  | special
  | tlbinv (sc : Scope) (all : Bool) (va : DWord)
  | publish (sc : Scope) (lo hi : Nat)
  | tdef
  | copy (id : Nat)
  | token (id : Nat)
  | bufdef
  | slotwt (buf slot : Nat) (full : Bool)
  | ctxsv
  | ctxld
  deriving DecidableEq, Repr

/-- An issued long-latency instruction: its place in the group's order, its counter, its destination registers, the
threads not yet performed, the threads whose operation waits (R255), the results obtained and the late faults taken
(R399: thread, code, address). -/
structure Outst where
  seq : Nat
  ctr : Fin 8
  kind : LLKind
  d : Nat := 0
  dst : List PReg := []
  todo : List Target := []
  held : List Target := []
  res : List (Nat × List Word) := []
  late : List (Nat × Nat × Nat) := []
  flags : BitVec 5 := 0
  ready : Bool := true
  deriving DecidableEq, Repr

/-- A store that has issued and is not yet performed (R28): one thread's bytes; `rel` for a release (R330), `add` for
REDST.f32 (R338); `readers` are the threads of the group that have read its bytes already (R304), whose releases wait for
it (R315, R317). -/
structure StoreReq where
  seq : Nat
  thread : Nat
  va : Nat
  parts : List (Piece × List Byte)
  rel : Option Scope := none
  add : Bool := false
  readers : List Nat := []
  deriving DecidableEq, Repr

/-- A port fault record (R409). -/
structure PortRec where
  header : DWord
  lane : Nat
  code : Nat
  iter : Nat
  base : DWord
  stride : Word
  value : Word
  va : DWord
  deriving DecidableEq, Repr

/-- What a trap entry writes (R402 to R405, R408, R470). `raw` is a FAULTCODE that a restore brought back (R149), and `who` the
thread that code and address are taken from (R397). -/
structure FaultRec where
  code : Nat
  mask : Mask
  addr : DWord
  imm : Nat := 0
  write : Bool := false
  late : Bool := false
  widx : Nat
  retpc : DWord
  retw : Nat
  rp : Bool
  fabrec : Option (List Word) := none
  port : Option PortRec := none
  raw : Option Word := none
  who : Nat := 0
  deriving DecidableEq, Repr

/-- What a group held at a waiting word waits for (R160), at an SWR of an HMASK (R350), or at its TXEND (R416). -/
inductive WaitKind where
  | grow (budget : Nat)
  | arrive (lv : BarLevel) (n : Nat) (thenWait : Bool)
  | phase (lv : BarLevel) (n : Nat) (p : Nat)
  | object (seq : Nat)
  | xb (n p : Nat) (own : Bool)
  | launch (seq : Nat)
  | hmask
  | commit
  deriving DecidableEq, Repr

/-- A held waiting word: what it waits for and its satisfied set (R255). -/
structure Wait where
  kind : WaitKind
  satisfied : Mask := 0
  deriving DecidableEq, Repr

/-- Why a group issues or does not (R151). A quadrant held by a rig, an adoption and a sleep are read from the rigs,
frames and teams. -/
inductive RunStatus where
  | running   -- eligible, or stalled at its next word
  | held      -- in a waiting instruction
  | spat      -- parked by its SPAT until the graph ends
  | migrating -- parked until its pages are migrated
  | trapping  -- a fault is recorded and trap entry is to come
  | ending    -- every thread is retired and GROUP_END is to come
  deriving DecidableEq, Repr

/-- An open transaction (R411, R413): abort header, recorded mask, buffered bytes, the newest first, each with the place of its
store in the group's order, granules read and written (64 bytes), and the cause of an abort that has been seen but not yet
taken. -/
structure Tx where
  abortHdr : DWord
  mask : Mask
  buf : List (Nat × Spot × Byte) := []
  reads : List Spot := []
  writes : List Spot := []
  seen : Option (Nat × Nat) := none
  deriving DecidableEq, Repr

/-- A fault that waits for the group's next clause boundary (R375): code, FAULTADDR and WIDX, and whether its word was
issued in the handler (R407). -/
structure Delayed where
  code : Nat
  addr : DWord
  widx : Nat
  handler : Bool := false
  deriving DecidableEq, Repr

/-- Where ERET continues once the clause at RETPC is decoded: the word index, whether that word is replayed, and the
mask to restore (R406). -/
structure Resume where
  widx : Nat
  rp : Bool
  mask : Mask
  deriving DecidableEq, Repr

/-- A resident group (R12, R35, R37, R131, R140, R403). `replay` is the mask to be replayed after a migration and `missed` the
threads that wait for it, each with its address and whether it writes (R397, R398). `posts` are the barrier arrivals
issued whose release is not complete, each with its place in the group's order (R169), `sets` the SLOTSETs of that kind
(buffer, slot, state, place; R386), and `acqCtrs` the counters on which
the result of an MMA or a SLOTWT came in since their last wait (R312). `sat` is the satisfied set of a waiting word that is
still to be performed again after a save (R255), `hsat` that of one of the handler. The spec gives FAULTMASK, FAULTADDR, RETPC, RETW,
RETMASK, SCR0 to SCR3 and PORTREC no value at group start: 0, DESIGN CHOICE, log entry 3. -/
structure Group where
  id : GroupId
  task : TaskKey := 0
  lin : Nat := 0
  gidx : Nat := 0
  pv : Bool := false
  pc : DWord := 0
  stage : Stage := .header
  turn : Bool := false
  clause : Clause := {}
  v : List VReg := []
  s : Vector Word 64 := Vector.replicate 64 0
  p : Vector Mask 12 := Vector.replicate 12 0
  x : Mask := 0
  dc : Vector (BitVec 6) 8 := Vector.replicate 8 0
  pending : List Pend := []
  clauseSeq : Nat := 0
  serial : Option (Nat × Fin 8) := none
  yielding : Bool := false
  fpmode : Word := 0
  fpsr : Word := 0
  seg : Vector Segment 4 := Vector.replicate 4 {}
  faultMask : Mask := 0
  faultCode : Word := 0
  faultAddr : DWord := 0
  retpc : DWord := 0
  retw : Word := 0
  retmask : Mask := 0
  scr : Vector Word 4 := Vector.replicate 4 0
  fabrec : Vector Word 4 := Vector.replicate 4 0
  portrec : Vector Word 8 := Vector.replicate 8 0
  inHandler : Bool := false
  lateMask : Mask := 0
  lateCtrs : List (Fin 8) := []
  lateRec : Option (Nat × DWord) := none
  delayed : List Delayed := []
  status : RunStatus := .running
  wait : Option Wait := none
  fault : Option FaultRec := none
  restore : Option Mask := none
  replay : Option Mask := none
  missed : List (Nat × Nat × Bool) := []
  resume : Option Resume := none
  tx : Option Tx := none
  txStatus : Word := 0
  arrivals : List (BarLevel × Nat × Nat) := []
  posts : List (BarLevel × Nat × Nat) := []
  sets : List (Nat × Nat × Bool × Nat) := []
  xbPhase : List (Nat × Nat) := []
  out : List Outst := []
  stores : List StoreReq := []
  seq : Nat := 0
  fence : List (Scope × Order) := []
  acqCtrs : List (Fin 8) := []
  sat : Mask := 0
  hsat : Mask := 0
  deriving DecidableEq, Repr

/-! ### Teams, tasks, contexts -/

/-- A barrier's phase and the members arrived (R168): group indices for a team barrier, linear team indices above. -/
structure Barrier where
  phase : Nat := 0
  arrived : List Nat := []
  deriving DecidableEq, Repr

/-- A byte-counting barrier (R362): COUNT is a 32-bit signed field; beside the state the fault address, and whether the access
that failed was a write (R404). -/
structure XBar where
  ovf : Bool := false
  exp : Bool := false
  fcode : Nat := 0
  phase : Nat := 0
  count : Int := 0
  faddr : DWord := 0
  fwrite : Bool := false
  deriving DecidableEq, Repr

/-- A slotted buffer (R279): slot 0's offset in the allocation, slot size in bytes, format code, and per slot its
FULL bit and its sparse-form tag (R361). -/
structure SlotBuf where
  base : Nat
  size : Nat
  fmt : Nat
  full : List Bool
  sparse : List Bool
  deriving DecidableEq, Repr

/-- A validated tensor descriptor (R352). -/
structure Tensor where
  base : DWord
  scale : DWord
  dims : List Nat
  strs : List Nat
  box : List Nat
  rank : Nat
  fmt : Nat
  sparse : Bool
  deriving DecidableEq, Repr

/-- A sleeping team (R256, R259): the group whose word waits, the physical address of the object it watches (`none` for a
barrier), the tasks of its owner chain and those of them whose priority it raised (R260). -/
structure Sleep where
  group : GroupId
  obj : Option Nat
  chain : List TaskKey
  raised : List TaskKey
  deriving DecidableEq, Repr

/-- A resident team (R153, R170, R274); `taken` once a pre-emption of it is asked for (R418, R419). -/
structure Team where
  task : TaskKey
  lin : Nat
  core : CoreId
  groups : Nat := 0
  live : BitVec 16 := 0
  shBase : Nat := 0
  shLen : Nat := 0
  bars : Vector Barrier 16 := Vector.replicate 16 {}
  xb : Vector XBar 16 := Vector.replicate 16 {}
  bufs : List (Nat × SlotBuf) := []
  tensors : List (Nat × Tensor) := []
  depth : Nat := 0
  started : Nat := 0
  taken : Bool := false
  sleep : Option Sleep := none
  deriving DecidableEq, Repr

/-- Task states (R238). -/
inductive TaskState where
  | template | pending | ready | running | finished | killed
  deriving DecidableEq, Repr

/-- A launched task: the device's table of the TCB at physical address `pa` (R237, R240). -/
structure Task where
  key : TaskKey
  pa : Nat
  die : Nat
  entry : Vector DWord 3
  roles : Word
  shape : Word
  teams : Nat
  pred : Word
  succ : List Word
  done : Nat
  started : Nat
  traph : DWord
  tensp : DWord
  parent : Word
  waiton : Word
  state : TaskState
  eprio : Nat
  seg : Vector Segment 4
  paddock : Bool
  deriving DecidableEq, Repr

/-- Teams of a task in a die's ready queues: `count` unstarted teams from linear index `first` (R243), or the saved team
`first` (R420). The list of entries is in the order in which they became ready. -/
structure Ready where
  die : Nat
  task : TaskKey
  first : Nat
  count : Nat
  saved : Bool
  deriving DecidableEq, Repr

/-- An enabled context: its number and the descriptor as read at enable (R393, R431), the window's head and whether its doorbell has rung
(R241). -/
structure Ctx where
  n : Nat
  desc : Nat
  root : Nat
  fe : Bool
  priv : Bool
  ldie : Nat
  arena : DWord
  nslot : Nat
  window : Nat
  save : Nat
  savesz : Nat
  head : Nat := 0
  scan : Bool := false
  deriving DecidableEq, Repr

/-- A cluster or launch barrier of a task (R167): `cluster` is `none` for a launch barrier. -/
structure WideBar where
  task : TaskKey
  cluster : Option Nat
  n : Nat
  bar : Barrier := {}
  groups : List (Nat × Nat) := []
  deriving DecidableEq, Repr

/-- A page migration in progress (R300). -/
structure Migration where
  ctx : Nat
  page : Nat
  size : Nat
  entry : Nat
  backing : Nat
  frame : Nat
  wr : Bool
  pte : DWord
  waiters : List GroupId
  copies : List (GroupId × Nat) := []
  lanes : List (GroupId × Nat) := []
  deriving DecidableEq, Repr

/-! ### Rigs -/

/-- A token with its tag (R189). -/
structure Token where
  val : DWord
  tag : Word
  deriving DecidableEq, Repr

/-- The PORT item of a lane (R197). -/
structure PortCfg where
  value : Word
  base : DWord
  stride : Word
  deriving DecidableEq, Repr

/-- The configuration items of a lane (R197). -/
structure LaneCfg where
  depth : List (Nat × Nat) := []
  const : Option DWord := none
  mode : Option Word := none
  ctr : Option (Nat × Word × Word × Nat) := none
  port : Option PortCfg := none
  conv : Option (Nat × Nat) := none
  reg : Option (Bool × Nat × Nat) := none
  arcs : List Nat := []
  mtok : Option Word := none
  deriving DecidableEq, Repr

/-- A spatial block as fetched: header address, all its words, its operators and its lanes' items (R85, R87, R196), and the
physical lines that it was fetched from (R291). -/
structure Block where
  addr : DWord
  words : List Word
  ops : List Word
  cfg : List LaneCfg
  rigLog : Nat
  last : Bool
  mx : Bool
  lines : List Nat := []
  deriving DecidableEq, Repr

/-- A lane of a running rig: queues q0 to q11 with freed slots not yet visible to producers, the predicate, index, port
and done queues, and the operator's own state (R185, R192, R194, R226, R228, R231 to R233). -/
structure Lane where
  loaded : Bool := false
  q : Vector (List Token) 12 := Vector.replicate 12 []
  pq : List Token := []
  iq : List Token := []
  portq : List Token := []
  doneq : List (List Token) := []
  acc : DWord := 0
  wr : Option DWord := none
  group : List Token := []
  outq : List Token := []
  iters : Nat := 0
  fired : Bool := false
  rd : DWord := 0
  deriving DecidableEq, Repr

/-- Where a token in flight goes: a queue code of a lane (0 to 11, 12 predicate, 13 index, 14 port, 15 done arc). -/
structure Flight where
  src : Nat
  lane : Nat
  qc : Nat
  arc : Nat := 0
  tok : Token
  deriving DecidableEq, Repr

/-- A freed slot on its way back to the producers of a queue (R187). -/
structure SlotBack where
  lane : Nat
  qc : Nat
  arc : Nat := 0
  deriving DecidableEq, Repr

/-- A port access that has fired and has not yet replied (R226, R228): the index tokens consumed before it, and `lo` once
the first of the two events of a wide token is performed (R227). -/
structure PortAcc where
  lane : Nat
  iter : Nat
  idx : Token
  data : Option DWord
  lo : Option Word := none
  deriving DecidableEq, Repr

/-- Where a rig stands in R175, R202 and R203; `wait` while its SPAT waits for the group's results (R175 step 1). -/
inductive RigPhase where
  | wait | descriptor | fetch | place | config | running | quiet
  deriving DecidableEq, Repr

/-- The next block as it was read ahead (R178); R199 is asked of it at its load (R366). -/
inductive Ahead where
  | none
  | block (b : Block)
  deriving DecidableEq, Repr

/-- A rig: the graph, the fabric load in it, its pages (physical octets by relative page), its granules by quadrant, its
counter chain and everything that moves in it (R175 to R205); `compact` once other rigs of the core have released pages
(R184); `past` the headers of the graph's earlier blocks. -/
structure Rig where
  group : GroupId
  desc : DWord
  next : DWord := 0
  maxb : Nat := 0
  k : Nat := 0
  block : Option Block := none
  ahead : Ahead := .none
  phase : RigPhase := .descriptor
  pages : List Nat := []
  grans : List (Nat × Nat) := []
  context : BitVec 10 := 0
  chain : List Nat := []
  chainOn : Bool := false
  lanes : List Lane := []
  flight : List Flight := []
  returns : List SlotBack := []
  accs : List PortAcc := []
  recs : List PortRec := []
  open_ : Bool := false
  flags : BitVec 5 := 0
  rm : BitVec 2 := 0
  gated : Bool := false
  compact : Bool := false
  past : List DWord := []
  retpc : DWord := 0
  widx : Nat := 0
  deriving DecidableEq, Repr

/-! ### Engines -/

/-- A copy of the tile copy engine (R356, R357, R379): the issuing instruction's place in its group's order and the group's
sg0, whether it has started, the rows moved so far, `moved` once the last row has moved, and `left` the bytes whose arrival is
still to be posted. -/
structure Copy where
  id : Nat
  group : GroupId
  task : TaskKey
  lin : Nat
  store : Bool
  tensor : Tensor
  org : List Int
  rows : Nat
  xb : Nat
  phase : Nat
  buf : Nat
  slot : Nat
  size : Nat
  seq : Nat := 0
  seg : Segment := {}
  started : Bool := false
  row : Nat := 0
  moved : Bool := false
  left : Nat := 0
  deriving DecidableEq, Repr

/-- An entry of the matrix node's queue: a token, with its MTOK lane and trigger tag when a rig sent it (R364, R366),
or a drain (R383). -/
inductive NodeItem where
  | token (id : Nat) (group : GroupId) (task : TaskKey) (lin : Nat) (word : Word) (lane : Option (Nat × Word))
      (hdr : DWord) (widx : Nat)
  | drain (id : Nat) (group : GroupId) (task : TaskKey) (lin : Nat) (tensor : Tensor) (org : List Int)
      (af xb phase cbase seq : Nat) (seg : Segment)
  deriving DecidableEq, Repr

/-- The chained add-on-store of one bank word (R276, R367): the team of the token and the buffers that it names, the word's
offset in the shared store, the element kind, whether the old value counts as zero, and each element's addends in order. -/
structure ChainUpd where
  token : Nat
  task : TaskKey
  lin : Nat
  bufs : List Nat
  off : Nat
  kind : Nat
  fresh : Bool
  parts : List (List XReal)
  deriving DecidableEq, Repr

/-- A drained tile on its way to its tensor (R369). -/
structure Drain where
  id : Nat
  group : GroupId
  task : TaskKey
  lin : Nat
  tensor : Tensor
  org : List Int
  xb : Nat
  phase : Nat
  seg : Segment
  elems : List DWord
  deriving DecidableEq, Repr

/-- A drain's bytes, performed, whose arrival on a byte-counting barrier is to be posted (R363). -/
structure Arrival where
  task : TaskKey
  lin : Nat
  xb : Nat
  phase : Nat
  left : Nat
  deriving DecidableEq, Repr

/-! ### Cores -/

/-- A cached translation (R391): the page's virtual base, its size and its leaf entry. -/
structure TlbEntry where
  ctx : Nat
  base : Nat
  size : Nat
  pte : DWord
  entry : Nat
  deriving DecidableEq, Repr

/-- An S byte held in an L1 (R286). -/
structure L1Byte where
  pa : Nat
  val : Byte
  dirty : Bool
  deriving DecidableEq, Repr

/-- A decided copy, in a core's L1 or in its die's L2 (R253). -/
structure Decided where
  pa : Nat
  gen : Word
  val : DWord
  deriving DecidableEq, Repr

/-- An adoption frame (R258): the waiting team, the group whose word waits, and the adopted team. -/
structure Frame where
  waiter : TaskKey × Nat
  group : GroupId
  adopted : TaskKey × Nat
  deriving DecidableEq, Repr

/-- A request to the register pool (R164). -/
inductive PoolReq where
  | grow (g : GroupId) (budget : Nat)
  | ctxld (g : GroupId) (d : Nat) (saved : Group)
  | rig (g : GroupId)
  deriving DecidableEq, Repr

/-- A core (R35, R36, R40, R161, R258, R271, R357, R367). Its CYC counts for itself (R5). The spec gives no current slot
before the first selection: slot 0 of each quadrant, DESIGN CHOICE, log entry 3. -/
structure Core where
  id : CoreId
  cyc : DWord := 0
  cur : Vector Nat 4 := #v[0, 16, 32, 48]
  shared : Memory := []
  l1s : List L1Byte := []
  l1d : List Nat := []
  icache : List (Nat × Word) := []
  tlb : List TlbEntry := []
  walkTlb : List TlbEntry := []
  decided : List Decided := []
  frames : List Frame := []
  context : BitVec 10 := 0
  pool : List PoolReq := []
  rigs : List Rig := []
  copies : List Copy := []
  node : List NodeItem := []
  updates : List ChainUpd := []
  drains : List Drain := []
  arrivals : List Arrival := []
  claim : Option GroupId := none
  nextId : Nat := 0
  retired : Bool := false
  deriving DecidableEq, Repr

/-- A saved team (R420): the team, its groups, its shared-store bytes, its rigs, and the room it takes in the pool. -/
structure Saved where
  team : Team
  die : Nat
  groups : List Group
  bytes : List Byte
  rigs : List Rig
  room : Nat
  deriving DecidableEq, Repr

/-! ### The device -/

/-- States of an L2 line (R283). -/
inductive L2State where
  | shared | exclusive | dirty
  deriving DecidableEq, Repr

/-- A line of a die's L2. Line data of D and U lines stands in memory once (log entry 8). -/
structure L2Line where
  die : Nat
  line : Nat
  state : L2State
  deriving DecidableEq, Repr

/-- A line of the device's memory that is held at its home (R271, R273): in its L3 slice, dirty there or not, and with `u` in
its home L2 slice, as a U access leaves it (R287). Its bytes stand in memory once (log entry 8). -/
structure HomeLine where
  line : Nat
  dirty : Bool
  u : Bool
  deriving DecidableEq, Repr

/-- An entry of the home directory (R285): the dies listed as sharers, real or stale, and whether the host holds the
line. -/
structure DirEntry where
  line : Nat
  dies : List Nat
  host : Bool
  deriving DecidableEq, Repr

/-- An invalidation in flight (R284, R447): the line, the listed die (`none` for the host's back-invalidation), whether
the sharer has dropped its copy, whether the device has yielded once, whether a host or peer access alone asks for it, which
aborts no transaction (R326), and whether it is a directory eviction's. -/
structure Inval where
  line : Nat
  die : Option Nat
  dropped : Bool := false
  yielded : Bool := false
  outside : Bool := false
  evict : Bool := false
  deriving DecidableEq, Repr

/-- Link states (R434). -/
inductive LinkState where
  | down | training | up | failed
  deriving DecidableEq, Repr

/-- A link word (R434). -/
structure Link where
  state : LinkState := .down
  spare : Nat := 1
  deriving DecidableEq, Repr

/-- Chain slot states (R442). -/
inductive ChainState where
  | idle | running | stopped | refused
  deriving DecidableEq, Repr

/-- A chain slot (R442): its written words, its state, its round, the local contributions not yet added (offset, value),
the elements come from the previous stage and not yet added, the offsets forwarded in this round (R370), and the device of
the previous stage once an element has come from it (R371). -/
structure Chain where
  en : Bool := false
  ctl : Word := 0
  len : Word := 0
  apbase : DWord := 0
  ctx : Word := 0
  nextDev : Word := 0
  dest : DWord := 0
  done : DWord := 0
  state : ChainState := .idle
  round : Word := 0
  localElems : List (Nat × DWord) := []
  incoming : List (Nat × DWord) := []
  part : List (Nat × Byte) := []
  sent : List Nat := []
  feeder : Option Nat := none
  deriving DecidableEq, Repr

/-- The HDM decoder (R446). -/
structure Hdm where
  hbase : DWord := 0
  hsize : DWord := 0
  dbase : DWord := 0
  enabled : Bool := false
  deriving DecidableEq, Repr

/-- Checkpoint states (R452). -/
inductive CkptState where
  | idle | running | done | failed
  deriving DecidableEq, Repr

/-- The checkpoint block (R452) and the images made (R453): the stacks' cells and the record. -/
structure Ckpt where
  state : CkptState := .idle
  loading : Bool := false
  tgt0 : DWord := 0
  tgt1 : DWord := 0
  gen : Word := 0
  elapsed : DWord := 0
  early : List (Nat × List Byte) := []
  deriving DecidableEq, Repr

/-- Boot states (R460). -/
inductive BootState where
  | waiting | verifying | rejected | init | ready | failed
  deriving DecidableEq, Repr

/-- The fuses (R457). A hash slot holds the value that is read of it, zero until its last fuse is blown (R458); a counter holds
the number of its fuses that are blown. -/
structure Fuses where
  vkh : BitVec 384 := 0
  okh : Vector (BitVec 384) 4 := Vector.replicate 4 0
  okrev : Vector Bool 4 := Vector.replicate 4 false
  fwsvn : Fin 129 := 0
  csvn : Vector (Fin 33) 4 := Vector.replicate 4 0
  deriving DecidableEq, Repr

/-- The PSC: mailbox, boot state, staging window, the running image's FWSVN, and the highest CODESVN accepted for each
slot since reset (R460, R461, R463). -/
structure Psc where
  code : BitVec 16 := 0
  busy : Bool := false
  status : Nat := 0
  args : Vector DWord 8 := Vector.replicate 8 0
  boot : BootState := .waiting
  reason : Nat := 0
  staging : Memory := []
  imageLen : Nat := 0
  fwsvn : Nat := 0
  accepted : Vector Nat 4 := Vector.replicate 4 0
  log : List (Nat × Nat) := []
  readings : Nat := 0
  deriving DecidableEq, Repr

/-- A stack's groom (R454, R465). -/
structure Groom where
  loaded : Bool := false
  trained : Bool := false
  pcSpares : Nat := 2
  rows : List Nat := []
  pcs : List Nat := []
  deriving DecidableEq, Repr

/-- The capability words' counts (R429). -/
structure Caps where
  cores : Vector Nat 8 := Vector.replicate 8 320
  spare : Vector Nat 8 := Vector.replicate 8 16
  l2s : Vector Nat 8 := Vector.replicate 8 48
  l3s : Nat := 128
  inService : BitVec 12 := 0xFFF
  gib : Nat := 0
  deriving DecidableEq, Repr

/-- A step of a task's end that is still to come (R245, R438): the decrement of a successor, or after the last of them
the wake of the sleepers whose chain holds the task (`none`). -/
structure Decr where
  task : TaskKey
  succ : Option Word
  deriving DecidableEq, Repr

/-- A remote watcher at this device's homes (R437). -/
structure Watcher where
  dev : Nat
  pa : Nat
  gen : Word
  deriving DecidableEq, Repr

/-- An HMASK value on its way to a stack's controller (R298, R350), and the group whose SWR waits for it: `none` once that
group is gone. -/
structure HmaskReq where
  stack : Nat
  i : Nat
  val : BitVec 23
  group : Option GroupId
  deriving DecidableEq, Repr

/-- What an outside party is sent: a completion's value, a wake to a peer's watcher, a decrement of a peer's task or a count
of its predecessors, or a denied request. -/
inductive OutMsg where
  | completion (ok : Bool) (data : List Byte)
  | waits (dev pa : Nat)
  | wake (dev pa : Nat)
  | decrement (succ : Word)
  | link (succ : Word)
  | denied (dev : Nat)
  | chain (dev die cid off : Nat) (val : DWord)
  | telemetry (words : List DWord)
  deriving DecidableEq, Repr

/-- What the default step serves (log entry 1): nothing, a group's next word, or a lane's operator. -/
inductive Focus where
  | idle
  | group (g : GroupId)
  | lane (g : GroupId) (n : Nat)
  deriving DecidableEq, Repr

/-- An entry of the schedule (log entry 1): a step with what it concerns, or a group or lane to be served, for a clause word
with the order in which its threads reach a place that they share (R67, R335). -/
inductive Due where
  | step (i : Instr) (a : StepArgs)
  | serve (f : Focus) (order : Option (List Byte) := none)
  deriving DecidableEq, Repr

/-- A poisoned ECC word (R455): of the main memory or a shared store at a spot, of a die's L2 copy by its address, or of an L1 or
an instruction cache, of which the bytes or words that it held are named. -/
inductive Poison where
  | cell (x : Spot)
  | l2 (die word : Nat)
  | l1 (c : CoreId) (a : Nat)
  | ic (c : CoreId) (a : Nat)
  deriving DecidableEq, Repr

/-- The state of the device. `owed` holds the lines for which the device has yielded to the host and whose operation is still to
be performed (R447). `called`, the lines of the host that the step in progress writes, `schedule`, `focus`, `args` and `free` are
the model's own. -/
structure State where
  mem : Memory := []
  poison : List Poison := []
  hmask : Vector (Vector (BitVec 23) 6) 12 := Vector.replicate 12 (Vector.replicate 6 0)
  hmaskQ : List HmaskReq := []
  groups : List Group := []
  cores : List Core := []
  teams : List Team := []
  tasks : List Task := []
  ready : List Ready := []
  saved : List Saved := []
  wide : List WideBar := []
  ctxReg : Vector (Bool × DWord) 256 := Vector.replicate 256 (false, 0)
  ctxs : List Ctx := []
  migrations : List Migration := []
  decrs : List Decr := []
  stale : List TaskKey := []
  watchers : List Watcher := []
  l2 : List L2Line := []
  dir : List DirEntry := []
  homes : List HomeLine := []
  invals : List Inval := []
  owed : List Nat := []
  called : List Nat := []
  dieTlb : Vector (List TlbEntry) 8 := Vector.replicate 8 []
  decidedL2 : Vector (List Decided) 8 := Vector.replicate 8 []
  devidx : Nat := 0
  ua : Vector Link 16 := Vector.replicate 16 {}
  hostLink : Link := {}
  capLink : Vector Link 2 := Vector.replicate 2 {}
  inbound : Vector (BitVec 3) 256 := Vector.replicate 256 0
  chains : Vector Chain 16 := Vector.replicate 16 {}
  hdm : Hdm := {}
  decoders : Vector DWord 16 := Vector.replicate 16 0
  ckpt : Ckpt := {}
  caps : Caps := {}
  expanders : Vector Word 32 := Vector.replicate 32 0
  fuses : Fuses := {}
  psc : Psc := {}
  grooms : Vector Groom 12 := Vector.replicate 12 {}
  held : Bool := false
  outbox : List OutMsg := []
  teamCount : Nat := 0
  schedule : List Due := []
  focus : Focus := .idle
  args : StepArgs := {}
  free : Nat := 0
  deriving DecidableEq, Repr

/-- Why the machine stops. The device itself has no undefined behaviour (R316); these are stops of the model. -/
inductive Fault where
  /-- Raised by a clause word that is executed while the focus names no resident group: the manual gives a word no
  effect outside a group. Safe. -/
  | noGroup
  /-- Raised by an operator word that is executed while the focus names no lane of a running rig. Safe. -/
  | noLane
  deriving DecidableEq, Repr

/-- Why a step has no meaning. -/
inductive Refusal where
  /-- Raised by exec for an instruction that has no meaning yet. Safe. -/
  | notModelled (mnemonic : String)
  deriving DecidableEq, Repr

/-- The machine right after reset (R40, R463): the PSC waits for firmware, no group is resident, every SRAM is clear,
every register of the driver's space at its reset value, and the main memory unlisted. -/
def State.reset : State := {}

end Sys2Proof.Machine
end

