-- ==== Sys2Proof/Machine/Bits.lean ====
section
/-! DEFINITION. Bit and byte helpers of R95, R104 to R107 and R2. -/

namespace Sys2Proof.Machine

/-- The 32-bit pattern of an integer modulo 2^32 (R95). -/
def trunc32 (x : Int) : Word := BitVec.ofInt 32 x

/-- The 64-bit pattern of an integer modulo 2^64 (R95). -/
def trunc64 (x : Int) : DWord := BitVec.ofInt 64 x

/-- The low `w` bits of `x` as a two's-complement number (R95). -/
def sx (x w : Nat) : Int :=
  if x % 2 ^ w < 2 ^ (w - 1) then (x % 2 ^ w : Nat) else (x % 2 ^ w : Nat) - (2 ^ w : Nat)

/-- Saturation to 32 bits (R95). -/
def sat32 (x : Int) : Word := trunc32 (max (-2147483648) (min 2147483647 x))

/-- The 64-bit value of a register pair, low word first (R2). -/
def pairOf (lo hi : Word) : DWord := hi ++ lo

/-- Bits [31:0] of a pair. -/
def loWord (x : DWord) : Word := BitVec.ofNat 32 x.toNat

/-- Bits [63:32] of a pair. -/
def hiWord (x : DWord) : Word := BitVec.ofNat 32 (x.toNat / 4294967296)

/-- The value of a byte string, lowest address first (R2). -/
def bytesToNat : List Byte → Nat
  | [] => 0
  | b :: bs => b.toNat + 256 * bytesToNat bs

/-- The `n` low bytes of `x`, lowest address first (R2). -/
def natToBytes : Nat → Nat → List Byte
  | 0, _ => []
  | n + 1, x => BitVec.ofNat 8 x :: natToBytes n (x / 256)

/-- SHL of R104: amounts above bit 5 are ignored. -/
def shlOf (x sh : Word) : Word := x <<< (sh.toNat % 64)

/-- SHR of R104. -/
def shrOf (x sh : Word) : Word := x >>> (sh.toNat % 64)

/-- SHR.ar of R104. -/
def sarOf (x sh : Word) : Word := x.sshiftRight (sh.toNat % 64)

/-- ROT of R104. -/
def rotlOf (x sh : Word) : Word := x <<< (sh.toNat % 32) ||| x >>> (32 - sh.toNat % 32)

/-- ROT.r of R104. -/
def rotrOf (x sh : Word) : Word := x >>> (sh.toNat % 32) ||| x <<< (32 - sh.toNat % 32)

/-- The number of 1 bits of `x` (R105). -/
def popCount {w : Nat} (x : BitVec w) : Nat := (List.range w).countP fun i => x.getLsbD i

/-- The number of 0 bits above the highest 1 bit of a word (R105). -/
def clzOf (x : Word) : Nat := if x = 0 then 32 else 31 - Nat.log2 x.toNat

/-- Bit i moved to bit 31 - i (R105). -/
def brevOf (x : Word) : Word := x.reverse

/-- The field of a bit-field descriptor, cut at bit 31: offset and width (R106). -/
def bfRange (desc : Word) : Nat × Nat :=
  if field desc.toNat 8 64 = 0 ∨ 32 ≤ field desc.toNat 0 64 then (field desc.toNat 0 64, 0)
  else (field desc.toNat 0 64, min (field desc.toNat 8 64) (32 - field desc.toNat 0 64))

/-- BFE (R106). -/
def bfeOf (x desc : Word) (signed : Bool) : Word :=
  if (bfRange desc).2 = 0 then 0
  else if signed then trunc32 (sx (x.toNat / 2 ^ (bfRange desc).1) (bfRange desc).2)
  else BitVec.ofNat 32 (x.toNat / 2 ^ (bfRange desc).1 % 2 ^ (bfRange desc).2)

/-- BFI (R107). -/
def bfiOf (x desc base : Word) : Word :=
  let m := BitVec.ofNat 32 ((2 ^ (bfRange desc).2 - 1) * 2 ^ (bfRange desc).1)
  base &&& ~~~m ||| BitVec.ofNat 32 (x.toNat % 2 ^ (bfRange desc).2 * 2 ^ (bfRange desc).1)

/-- Whether an address is canonical: bits [63:57] equal bit 56 (R15). -/
def canonical (a : Nat) : Bool := a < 2 ^ 56 || (2 ^ 64 - 2 ^ 56 ≤ a && a < 2 ^ 64)

/-- Bit `i` of a number. -/
def bitOf (x i : Nat) : Bool := x / 2 ^ i % 2 == 1

/-- `x` rounded up to a multiple of `n`. -/
def roundUp (x n : Nat) : Nat := (x + (n - 1)) / n * n

end Sys2Proof.Machine
end

