-- ==== Sys2Proof/Machine/Format.lean ====
section
/-! DEFINITION. Number formats and exact arithmetic (R41 to R66): decoding, one rounding of an exact result, sums and
products, block-scaled formats. -/

namespace Sys2Proof.Machine

/-- Floating-point formats with an encoding of their own in registers and memory (R43). -/
inductive Fmt where
  | f64 | f32 | f16 | bf16 | e5m2 | e4m3
  deriving DecidableEq, Repr

/-- Rounding modes (R37, R53). -/
inductive Rm where
  | rne | rtz | rdn | rup
  deriving DecidableEq, Repr

/-- The mode of FPMODE.RM (R37). -/
def rmOf (x : Nat) : Rm :=
  match x % 4 with
  | 0 => .rne
  | 1 => .rtz
  | 2 => .rdn
  | _ => .rup

/-- Bits of a format (R43). -/
def Fmt.width : Fmt → Nat
  | .f64 => 64
  | .f32 => 32
  | .f16 => 16
  | .bf16 => 16
  | .e5m2 => 8
  | .e4m3 => 8

/-- Fraction bits (R43). -/
def Fmt.mbits : Fmt → Nat
  | .f64 => 52
  | .f32 => 23
  | .f16 => 10
  | .bf16 => 7
  | .e5m2 => 2
  | .e4m3 => 3

/-- Exponent bits (R43). -/
def Fmt.ebits (F : Fmt) : Nat := F.width - 1 - F.mbits

/-- Exponent bias (R43). -/
def Fmt.bias : Fmt → Nat
  | .f64 => 1023
  | .f32 => 127
  | .f16 => 15
  | .bf16 => 127
  | .e5m2 => 15
  | .e4m3 => 7

/-- The canonical NaN, qnan(F) (R47). -/
def Fmt.qnan : Fmt → Nat
  | .f64 => 0x7FF8000000000000
  | .f32 => 0x7FC00000
  | .f16 => 0x7E00
  | .bf16 => 0x7FC0
  | .e5m2 => 0x7E
  | .e4m3 => 0x7F

/-- The code of +infinity; E4M3 has none (R43, R44). -/
def Fmt.infCode (F : Fmt) : Nat := (2 ^ F.ebits - 1) * 2 ^ F.mbits

/-- The code of the largest finite value (R43, R44). -/
def Fmt.maxCode : Fmt → Nat
  | .e4m3 => 0x7E
  | F => F.infCode - 1

/-- The sign bit of a code. -/
def Fmt.neg (F : Fmt) (bits : Nat) : Bool := bitOf bits (F.width - 1)

/-- A code without its sign. -/
def Fmt.mag (F : Fmt) (bits : Nat) : Nat := bits % 2 ^ (F.width - 1)

/-- Whether a code is a NaN (R43, R44). -/
def Fmt.isNan (F : Fmt) (bits : Nat) : Bool :=
  match F with
  | .e4m3 => F.mag bits == 0x7F
  | _ => decide (F.infCode < F.mag bits)

/-- Whether a code is a signalling NaN (R47): E4M3 NaNs are quiet. -/
def Fmt.isSnan (F : Fmt) (bits : Nat) : Bool :=
  match F with
  | .e4m3 => false
  | _ => F.isNan bits && !bitOf bits (F.mbits - 1)

/-- An exact value of integer `m` times 2^e: zero is +0. -/
def XReal.ofDy (m e : Int) : XReal := if m = 0 then .zero false else .fin m e

/-- decode_f (R43 to R47): the value of a code. -/
def decodeF (F : Fmt) (bits : Nat) : XReal :=
  let neg := F.neg bits
  let e := F.mag bits / 2 ^ F.mbits
  let m := F.mag bits % 2 ^ F.mbits
  if F.isNan bits then .nan
  else if F ≠ .e4m3 ∧ F.mag bits = F.infCode then .inf neg
  else if e = 0 ∧ m = 0 then .zero neg
  else
    let sig : Nat := if e = 0 then m else 2 ^ F.mbits + m
    .fin (if neg then -(sig : Int) else sig) ((if e = 0 then 1 else (e : Int)) - F.bias - F.mbits)

/-- FPSR flags (R37): NV, DZ, OF, UF, NX in bits 4 to 0. -/
abbrev Flags := BitVec 5

/-- Invalid operation. -/
def fNV : Flags := 16
/-- Division by zero. -/
def fDZ : Flags := 8
/-- Overflow. -/
def fOF : Flags := 4
/-- Underflow. -/
def fUF : Flags := 2
/-- Inexact. -/
def fNX : Flags := 1

/-- The integer nearest to a × 2^sh in the direction of the mode, for a magnitude `a` of the given sign, and whether it
is exact (R53). -/
def roundMag (rm : Rm) (neg : Bool) (a : Nat) (sh : Int) : Nat × Bool :=
  if 0 ≤ sh then (a * 2 ^ sh.toNat, true)
  else
    let d := 2 ^ (-sh).toNat
    let q := a / d
    let r := a % d
    let up : Bool := match rm with
      | .rne => decide (d < 2 * r) || (decide (2 * r = d) && q % 2 == 1)
      | .rtz => false
      | .rdn => neg && decide (r ≠ 0)
      | .rup => !neg && decide (r ≠ 0)
    (if up then q + 1 else q, decide (r = 0))

/-- Sign bit and magnitude code put together. -/
def Fmt.signed (F : Fmt) (neg : Bool) (mag : Nat) : Nat := if neg then mag + 2 ^ (F.width - 1) else mag

/-- The result of an overflow (R54). -/
def Fmt.overflow (F : Fmt) (rm : Rm) (neg : Bool) : Nat :=
  match F, rm, neg with
  | .e4m3, _, _ => F.signed neg F.maxCode
  | _, .rne, _ => F.signed neg F.infCode
  | _, .rtz, _ => F.signed neg F.maxCode
  | _, .rdn, true => F.signed true F.infCode
  | _, .rdn, false => F.signed false F.maxCode
  | _, .rup, true => F.signed true F.maxCode
  | _, .rup, false => F.signed false F.infCode

/-- The magnitude code of r × 2^q, with q at or above the subnormal spacing's exponent. -/
def Fmt.pack (F : Fmt) (r : Nat) (q : Int) : Nat := (q + F.mbits + F.bias - 1).toNat * 2 ^ F.mbits + r

/-- round_f (R54, R55): the code of an exact result and the flags raised. -/
def roundF (x : XReal) (F : Fmt) (rm : Rm) : Nat × Flags :=
  match x with
  | .nan => (F.qnan, 0)
  | .inf neg => if F = .e4m3 then (F.qnan, fNV) else (F.signed neg F.infCode, 0)
  | .zero neg => (F.signed neg 0, 0)
  | .fin m e =>
    let neg := decide (m < 0)
    let a := m.natAbs
    let q : Int := (Nat.log2 a : Int) + e - F.mbits          -- spacing with an unbounded exponent range
    let qmin : Int := 1 - F.bias - F.mbits                    -- subnormal spacing
    let u := roundMag rm neg a (e - q)
    -- below the smallest normal after rounding: round again at the subnormal spacing
    if q < qmin ∧ ¬ (q + 1 = qmin ∧ u.1 = 2 ^ (F.mbits + 1)) then
      let r := roundMag rm neg a (e - qmin)
      (F.signed neg (F.pack r.1 qmin), if r.2 then 0 else fUF ||| fNX)
    else
      let q' := max q qmin
      let r := if q < qmin then (u.1 / 2, u.2) else u
      let code := F.pack r.1 q'
      if F.maxCode < code then (F.overflow rm neg, fOF ||| fNX)
      else (F.signed neg code, if r.2 then 0 else fNX)

/-- The exact sum with the sign of a zero sum (R58), and whether it is invalid (R57: infinities of opposite sign). -/
def xadd (rm : Rm) : XReal → XReal → XReal × Bool
  | .nan, _ => (.nan, false)
  | _, .nan => (.nan, false)
  | .inf a, .inf b => if a = b then (.inf a, false) else (.nan, true)
  | .inf a, _ => (.inf a, false)
  | _, .inf b => (.inf b, false)
  | .zero a, .zero b => (.zero (if a = b then a else decide (rm = .rdn)), false)
  | .zero _, .fin m e => (.fin m e, false)
  | .fin m e, .zero _ => (.fin m e, false)
  | .fin m e, .fin n f =>
    let lo := min e f
    let z := m * 2 ^ (e - lo).toNat + n * 2 ^ (f - lo).toNat
    (if z = 0 then .zero (decide (rm = .rdn)) else .fin z lo, false)

/-- The exact product, and whether it is invalid (R57: zero times infinity). -/
def xmul : XReal → XReal → XReal × Bool
  | .nan, _ => (.nan, false)
  | _, .nan => (.nan, false)
  | .inf a, .inf b => (.inf (a != b), false)
  | .inf _, .zero _ => (.nan, true)
  | .zero _, .inf _ => (.nan, true)
  | .inf a, .fin m _ => (.inf (a != decide (m < 0)), false)
  | .fin m _, .inf b => (.inf (decide (m < 0) != b), false)
  | .zero a, .zero b => (.zero (a != b), false)
  | .zero a, .fin m _ => (.zero (a != decide (m < 0)), false)
  | .fin m _, .zero b => (.zero (decide (m < 0) != b), false)
  | .fin m e, .fin n f => (.fin (m * n) (e + f), false)

/-- The negated value. -/
def xneg : XReal → XReal
  | .nan => .nan
  | .inf a => .inf !a
  | .zero a => .zero !a
  | .fin m e => .fin (-m) e

/-- The value times 2^k. -/
def xscale (k : Int) : XReal → XReal
  | .fin m e => .fin m (e + k)
  | x => x

/-- Order of two values that are not NaN, with -0 equal to +0: `x < y`. -/
def xlt : XReal → XReal → Bool
  | .nan, _ => false
  | _, .nan => false
  | .inf a, .inf b => a && !b
  | .inf a, _ => a
  | _, .inf b => !b
  | .zero _, .zero _ => false
  | .zero _, .fin n _ => decide (0 < n)
  | .fin m _, .zero _ => decide (m < 0)
  | .fin m e, .fin n f => decide (m * 2 ^ (e - min e f).toNat < n * 2 ^ (f - min e f).toNat)

/-- Equality of two values that are not NaN, with -0 equal to +0. -/
def xeq (x y : XReal) : Bool := x ≠ .nan && y ≠ .nan && !xlt x y && !xlt y x

/-- The magnitude. -/
def xabs : XReal → XReal
  | .inf _ => .inf false
  | .zero _ => .zero false
  | .fin m e => .fin m.natAbs e
  | .nan => .nan

/-- The value of an integer. -/
def xint (n : Int) : XReal := XReal.ofDy n 0

/-- The flags of an operation: NV for a signalling NaN operand or an invalid operation, with the rounding's flags. -/
def opFlags (snan invalid : Bool) (fl : Flags) : Flags := (if snan || invalid then fNV else 0) ||| fl

/-- The sum of two codes in format F, rounded once (R60, R116). -/
def fpAdd (F : Fmt) (rm : Rm) (a b : Nat) : Nat × Flags :=
  let z := xadd rm (decodeF F a) (decodeF F b)
  let r := roundF z.1 F rm
  (r.1, opFlags (F.isSnan a || F.isSnan b) z.2 r.2)

/-- The difference a - b, treated as a + (-b) (R116). -/
def fpSub (F : Fmt) (rm : Rm) (a b : Nat) : Nat × Flags :=
  let z := xadd rm (decodeF F a) (xneg (decodeF F b))
  let r := roundF z.1 F rm
  (r.1, opFlags (F.isSnan a || F.isSnan b) z.2 r.2)

/-- The product of two codes, rounded once. -/
def fpMul (F : Fmt) (rm : Rm) (a b : Nat) : Nat × Flags :=
  let z := xmul (decodeF F a) (decodeF F b)
  let r := roundF z.1 F rm
  (r.1, opFlags (F.isSnan a || F.isSnan b) z.2 r.2)

/-- The fused multiply-add a × b + c, the product negated by `neg` (R60, R116). -/
def fpFma (F : Fmt) (rm : Rm) (neg : Bool) (a b c : Nat) : Nat × Flags :=
  let p := xmul (decodeF F a) (decodeF F b)
  let z := xadd rm (if neg then xneg p.1 else p.1) (decodeF F c)
  let r := roundF z.1 F rm
  (r.1, opFlags (F.isSnan a || F.isSnan b || F.isSnan c) (p.2 || z.2) r.2)

/-- Order for FMIN and FMAX: by value, with -0 below +0 (R117). -/
def minLt (x y : XReal) : Bool :=
  match x, y with
  | .zero a, .zero b => a && !b
  | _, _ => xlt x y

/-- FMIN and FMAX (R117): an operand unchanged or a canonical NaN; NV for a signalling operand. -/
def fpMinMax (F : Fmt) (isMax nanProp : Bool) (a b : Nat) : Nat × Flags :=
  let na := F.isNan a
  let nb := F.isNan b
  let fl : Flags := if F.isSnan a || F.isSnan b then fNV else 0
  let v :=
    if na && nb then F.qnan
    else if na || nb then (if nanProp then F.qnan else if na then b else a)
    else if isMax then (if minLt (decodeF F a) (decodeF F b) then b else a)
    else (if minLt (decodeF F b) (decodeF F a) then b else a)
  (v, fl)

/-- FCMP's condition (R118). -/
def fpCond (F : Fmt) (c : Cond) (a b : Nat) : Bool :=
  let x := decodeF F a
  let y := decodeF F b
  let un := F.isNan a || F.isNan b
  match c with
  | .eq => !un && xeq x y
  | .ne => un || !xeq x y
  | .lt => !un && xlt x y
  | .le => !un && !xlt y x
  | .gt => !un && xlt y x
  | .ge => !un && !xlt x y
  | .un => un
  | .ord => !un

/-- FCMP's flags (R118): NV for a signalling NaN, or for any NaN with `.sig`. -/
def fpCmpFlags (F : Fmt) (sig : Bool) (a b : Nat) : Flags :=
  if F.isSnan a || F.isSnan b || (sig && (F.isNan a || F.isNan b)) then fNV else 0

/-- Conversion between floating formats (R122): one rounding, NV for a signalling source. -/
def fpCvt (F G : Fmt) (rm : Rm) (a : Nat) : Nat × Flags :=
  let r := roundF (decodeF F a) G rm
  (r.1, opFlags (F.isSnan a) false r.2)

/-- Conversion to an integer between `lo` and `hi` (R56). -/
def fpToInt (F : Fmt) (rm : Rm) (lo hi : Int) (a : Nat) : Int × Flags :=
  match decodeF F a with
  | .nan => (0, fNV)
  | .inf neg => (if neg then lo else hi, fNV)
  | .zero _ => (0, 0)
  | .fin m e =>
    let neg := decide (m < 0)
    let r := roundMag rm neg m.natAbs e
    let v : Int := if neg then -(r.1 : Int) else r.1
    if v < lo then (lo, fNV) else if hi < v then (hi, fNV) else (v, if r.2 then 0 else fNX)

/-- Element kinds of the adders and the matrix accumulator (R66, R276): FP32, FP64, 4 × BF16, INT32, INT64. -/
inductive AddKind where
  | f32 | f64 | bf16x4 | i32 | i64
  deriving DecidableEq, Repr

/-- Bytes of one add-on-store of a kind (R276). -/
def AddKind.bytes : AddKind → Nat
  | .f32 => 4
  | .f64 => 8
  | .bf16x4 => 8
  | .i32 => 4
  | .i64 => 8

/-- One add-on-store on a value of the kind's width (R66): RNE, no flag. -/
def addOn (k : AddKind) (x y : Nat) : Nat :=
  match k with
  | .f32 => (fpAdd .f32 .rne x y).1
  | .f64 => (fpAdd .f64 .rne x y).1
  | .bf16x4 =>
    (List.range 4).foldl (fun acc i => acc + (fpAdd .bf16 .rne (field x (16 * i) 65536) (field y (16 * i) 65536)).1 * 2 ^ (16 * i)) 0
  | .i32 => (x + y) % 4294967296
  | .i64 => (x + y) % 18446744073709551616

/-! ### Block-scaled formats (R49 to R52) -/

/-- The value of an E2M1 code other than 0b1000 (R46). -/
def e2m1Value (c : Nat) : XReal :=
  let mag : Int := match c % 8 with
    | 0 => 0
    | 1 => 1
    | 2 => 2
    | 3 => 3
    | 4 => 4
    | 5 => 6
    | 6 => 8
    | _ => 12
  XReal.ofDy (if bitOf c 3 then -mag else mag) (-1)

/-- decode_e2m1m (R51). -/
def decodeE2m1m (code md : Nat) : XReal :=
  let s := field md 8 256
  if s = 0xFF then .nan
  else xscale ((s : Int) - 127) (if code % 16 = 8 then decodeF .e4m3 (field md 0 256) else e2m1Value (code % 16))

/-- An element of .e4m3b or .e5m2b under its block's scale code (R49, R50). -/
def decodeScaled (F : Fmt) (code scale : Nat) : XReal :=
  if scale % 256 = 0xFF then .nan else xscale ((scale % 256 : Nat) - 127) (decodeF F (code % 256))

/-- The exact difference of two values that are finite. -/
def xsub (x y : XReal) : XReal := (xadd .rne x (xneg y)).1

/-- Whether a value is a NaN or an infinity. -/
def isSpecial : XReal → Bool
  | .nan => true
  | .inf _ => true
  | _ => false

/-- The largest magnitude of a list of finite values. -/
def maxAbs (xs : List XReal) : XReal :=
  xs.foldl (fun a x => if xlt a (xabs x) then xabs x else a) (.zero false)

/-- The scale code of a block of finite values (R52): 127 + ceil(log2(amax / top)), clamped to 0..254. -/
def scaleCode (amax : XReal) (top : Nat) : Nat :=
  match amax with
  | .fin m e =>
    let k0 : Int := (Nat.log2 m.natAbs : Int) + e - Nat.log2 top - 2
    let k := ((List.range 5).find? fun i => !xlt (.fin top (k0 + i)) amax).getD 4
    (max 0 (min 254 (127 + k0 + k))).toNat
  | _ => 0x7F

/-- plain(y) of R52: the code of the nearest plain E2M1 value, ties to an even code, zero as 0b0000. -/
def plainCode (y : XReal) : Nat :=
  let neg := xlt y (.zero false)
  let a := xabs y
  let best := (List.range 8).foldl (fun (b : Nat) c =>
    let dc := xabs (xsub a (e2m1Value c))
    let db := xabs (xsub a (e2m1Value b))
    if xlt dc db || (xeq dc db && c % 2 == 0) then c else b) 0
  if best = 0 then 0 else if neg then best + 8 else best

/-- quant_e2m1m (R52): the codes of a block's 64 values and its metadata. -/
def quantE2m1m (xs : List XReal) : List Nat × Nat :=
  if xs.any isSpecial then (xs.map fun _ => 0, 0xFF00)
  else
    let amax := maxAbs xs
    if xeq amax (.zero false) then (xs.map fun _ => 0, 0x7F00)
    else
      let s := scaleCode amax 6
      let ys := xs.map (xscale (127 - (s : Int)))
      let es := ys.map fun y => xabs (xsub y (e2m1Value (plainCode y)))
      let top := maxAbs es
      let j := (es.findIdx? fun e => xeq e top).getD 0
      let mad := if xeq top (.zero false) then 0 else (roundF (ys.getD j (.zero false)) .e4m3 .rne).1
      (ys.map fun y =>
        if xlt (xabs (xsub y (decodeF .e4m3 mad))) (xabs (xsub y (e2m1Value (plainCode y)))) then 8 else plainCode y, s * 256 + mad)

/-- Quantisation to .e4m3b and .e5m2b (R52): the codes of a block and its scale. R52 gives a NaN block its scale 0xFF and no
element codes: they are free values (DESIGN CHOICE, log entry 49). -/
def quantScaled (F : Fmt) (xs : List XReal) : List Nat × Nat :=
  if xs.any isSpecial then (xs.zipIdx.map fun x => (Config.nanCode x.2).toNat, 0xFF)
  else
    let amax := maxAbs xs
    if xeq amax (.zero false) then (xs.map fun _ => 0, 0x7F)
    else
      let s := scaleCode amax (if F = .e4m3 then 448 else 57344)
      (xs.map fun x => (roundF (xscale (127 - (s : Int)) x) F .rne).1, s)

end Sys2Proof.Machine
end

