-- ==== Sys2Proof/Machine/Memory.lean ====
section
/-! DEFINITION. Bytes of memory: the canonical list, the pseudo-channel hash, shared stores, S bytes of an L1, sparse
records. -/

namespace Sys2Proof

/-- Whether a scope acts on the L1 (R286). -/
def Scope.wide (sc : Scope) : Bool := sc ≠ .grp

/-- Whether an order acquires (R312). -/
def Order.acquires : Order → Bool
  | .acq => true
  | .acqrel => true
  | .sc => true
  | _ => false

/-- Whether an order releases (R312). -/
def Order.releases : Order → Bool
  | .rel => true
  | .acqrel => true
  | .sc => true
  | _ => false

end Sys2Proof

namespace Sys2Proof.Machine

/-- The byte at an address. An unlisted address reads 0 (log entry 2). -/
def Memory.read : Memory → Nat → Byte
  | [], _ => 0
  | c :: m, a => if a = c.1 then c.2 else if a < c.1 then 0 else Memory.read m a

/-- Memory with one byte written, in canonical form. -/
def Memory.write : Memory → Nat → Byte → Memory
  | [], a, v => if v = 0 then [] else [(a, v)]
  | c :: m, a, v =>
    if a < c.1 then (if v = 0 then c :: m else (a, v) :: c :: m)
    else if a = c.1 then (if v = 0 then m else (a, v) :: m)
    else c :: Memory.write m a v

/-- The canonical form: addresses strictly rising, no entry 0. -/
def Memory.wf (m : Memory) : Bool :=
  decide (m.Pairwise fun x y => x.1 < y.1) && m.all fun c => c.2 != 0

/-- Consecutive bytes from an address, read. -/
def Memory.readBytes (m : Memory) (a : Nat) : Nat → List Byte
  | 0 => []
  | n + 1 => m.read a :: Memory.readBytes m (a + 1) n

/-- Consecutive bytes from an address, written. -/
def Memory.writeBytes (m : Memory) (a : Nat) : List Byte → Memory
  | [] => m
  | b :: bs => Memory.writeBytes (m.write a b) (a + 1) bs

/-! ### Physical memory -/

/-- Whether a physical address is in HBM4E (R272). -/
def isHbm (a : Nat) : Bool := decide (a < 0xC000000000)

/-- Whether a physical address is in the capacity tier (R272). -/
def isCap (a : Nat) : Bool := decide (0x40000000000 ≤ a ∧ a < 0x80000000000)

/-- Whether a physical address is in the peer range (R272). -/
def isPeer (a : Nat) : Bool := decide (0x1000000000000 ≤ a ∧ a < 0x2000000000000)

/-- Whether a physical address is in host memory (R272). -/
def isHost (a : Nat) : Bool := decide (0x8000000000000 ≤ a ∧ a < 0x10000000000000)

/-- The device index of a peer address (R272). -/
def peerOf (a : Nat) : Nat := field a 40 256

/-- Whether an address lies in memory of the device itself. -/
def isDevice (a : Nat) : Bool := isHbm a || isCap a

/-- Whether lines at an address are copied into the device's L2s: its own memory and the host's (R288). -/
def hasLines (a : Nat) : Bool := isDevice a || isHost a

/-- PCSEL of R296 for an address within a stack. -/
def pcsel (masks : Vector (BitVec 23) 6) (a : Nat) : Nat :=
  ((List.finRange 6).map fun i =>
    ((field a (7 + i.val) 2 + popCount (BitVec.ofNat 23 (a / 8192) &&& masks[i])) % 2) * 2 ^ i.val).sum

/-- The cell that an address reaches (R296): an HBM4E address with PCRAW replaced by PCSEL. -/
def State.cellOf (s : State) (a : Nat) : Nat :=
  if h : a / 2 ^ 36 < 12 then
    if s.hmask[a / 2 ^ 36] = Vector.replicate 6 0 then a
    else a - field a 7 64 * 128 + pcsel s.hmask[a / 2 ^ 36] (a % 2 ^ 36) * 128
  else a

/-- Whether an address is a reserved byte of a launch window (R241): stores are ignored, loads return zero. -/
def State.windowHole (s : State) (a : Nat) : Bool :=
  s.ctxs.any fun c => decide (c.window + 0x808 ≤ a ∧ a < c.window + 0x1000)

/-- The byte at a physical address, as the home returns it. -/
def State.readPa (s : State) (a : Nat) : Byte := if s.windowHole a then 0 else s.mem.read (s.cellOf a)

/-- A physical byte written at the home. -/
def State.writePa (s : State) (a : Nat) (v : Byte) : State :=
  if s.windowHole a then s else { s with mem := s.mem.write (s.cellOf a) v }

/-- Bytes at a physical address. -/
def State.paBytes (s : State) (a : Nat) : Nat → List Byte
  | 0 => []
  | n + 1 => s.readPa a :: State.paBytes s (a + 1) n

/-- The little-endian value of `n` bytes at a physical address (R2). -/
def State.paNat (s : State) (a n : Nat) : Nat := bytesToNat (s.paBytes a n)

/-- Physical bytes written in turn. -/
def State.writePaBytes (s : State) (a : Nat) : List Byte → State
  | [] => s
  | b :: bs => State.writePaBytes (s.writePa a b) (a + 1) bs

/-! ### Cores -/

/-- The core of an identifier. -/
def State.core? (s : State) (c : CoreId) : Option Core := s.cores.find? fun x => x.id = c

/-- The state of a core that has none listed: as core reset leaves it (R40). -/
def Core.fresh (c : CoreId) : Core := { id := c }

/-- A core, as core reset leaves it where the state lists none. -/
def State.coreD (s : State) (c : CoreId) : Core := (s.core? c).getD (Core.fresh c)

/-- The core `f` of a core, stored back. -/
def State.modCore (s : State) (c : CoreId) (f : Core → Core) : State :=
  match s.core? c with
  | some _ => { s with cores := s.cores.map fun x => if x.id = c then f x else x }
  | none => { s with cores := f (Core.fresh c) :: s.cores }

/-- Shared-store bytes of a core (R271). -/
def shSize : Nat := 524288

/-! ### L1 copies of S bytes (R286) -/

/-- The S byte that an L1 holds. -/
def l1Find (l : List L1Byte) (a : Nat) : Option L1Byte := l.find? fun x => x.pa = a

/-- An L1 with one S byte put in. -/
def l1Put (l : List L1Byte) (x : L1Byte) : List L1Byte := x :: l.filter fun y => y.pa ≠ x.pa

/-! ### Spots -/

/-- The spot `i` bytes on. -/
def Spot.shift : Spot → Nat → Spot
  | .sh d c o, i => .sh d c (o + i)
  | .pa a, i => .pa (a + i)
  | .member t l o, i => .member t l (o + i)

/-- A member's spot as the core holds it, `none` while the member has not started or is saved (R135, R420). -/
def State.resolve (s : State) : Spot → Option Spot
  | .member t l o => (s.teams.find? fun x => x.task = t ∧ x.lin = l).map fun x => .sh x.core.die x.core.core o
  | x => some x

/-- The byte of a spot: a shared-store byte, or the home's byte. -/
def State.readSpot (s : State) : Spot → Byte
  | .sh d c o => (s.coreD ⟨d, c⟩).shared.read o
  | .pa a => s.readPa a
  | .member _ _ _ => 0

/-- A spot's byte written, with nothing else done. -/
def State.writeSpot (s : State) (v : Byte) : Spot → State
  | .sh d c o => s.modCore ⟨d, c⟩ fun k => { k with shared := k.shared.write o v }
  | .pa a => s.writePa a v
  | .member _ _ _ => s

/-- The 64-byte granule of a spot (R411). -/
def Spot.granule : Spot → Spot
  | .sh d c o => .sh d c (o / 64 * 64)
  | .pa a => .pa (a / 64 * 64)
  | .member t l o => .member t l (o / 64 * 64)

/-- The offset of a spot in its 4-byte word. -/
def Spot.low : Spot → Nat
  | .sh _ _ o => o % 4
  | .pa a => a % 4
  | .member _ _ o => o % 4

/-- The 4-byte word of a spot. -/
def Spot.word4 : Spot → Spot
  | .sh d c o => .sh d c (o / 4 * 4)
  | .pa a => .pa (a / 4 * 4)
  | .member t l o => .member t l (o / 4 * 4)

/-- The place of a spot among `n` bytes from another. -/
def Spot.index (x : Spot) (n : Nat) (y : Spot) : Option Nat :=
  let at_ := fun (a b : Nat) => if a ≤ b ∧ b < a + n then some (b - a) else none
  match x, y with
  | .sh d c a, .sh e f b => if d = e ∧ c = f then at_ a b else none
  | .pa a, .pa b => at_ a b
  | .member t l a, .member u k b => if t = u ∧ l = k then at_ a b else none
  | _, _ => none

/-- The clean S bytes of a core at the addresses that satisfy `p`, dropped. -/
def Core.dropClean (p : Nat → Bool) (k : Core) : Core := { k with l1s := k.l1s.filter fun x => x.dirty || !p x.pa }

/-- The ECC word that holds a byte of an array (R455). -/
def Spot.ecc : Spot → Spot
  | .sh d c o => .sh d c (o / Config.eccBytes * Config.eccBytes)
  | .pa a => .pa (a / Config.eccBytes * Config.eccBytes)
  | x => x

/-- The ECC word behind a spot, by the cell that an address reaches (R296, R298, R455); of a cluster member's byte, where the member
is. -/
def State.eccOf (s : State) (x : Spot) : Spot :=
  match (s.resolve x).getD x with
  | .pa a => (Spot.pa (s.cellOf a)).ecc
  | y => y.ecc

/-! ### Poison (R455) -/

/-- The 128-byte line of an address (R271). -/
def lineOf (a : Nat) : Nat := a / 128 * 128

/-- The address of the ECC word that holds a byte of a cache's copy (R455). -/
def eccAt (a : Nat) : Nat := a / Config.eccBytes * Config.eccBytes

/-- Whether a die's L2 holds a line. -/
def State.inL2 (s : State) (die line : Nat) : Bool := s.l2.any fun x => decide (x.die = die ∧ x.line = line)

/-- Whether a byte is returned poisoned by its home: of a line that an L2 holds dirty, from that copy. -/
def State.homeBad (s : State) (x : Spot) : Bool :=
  match x with
  | .pa a =>
    (match s.l2.find? fun y => decide (y.line = lineOf a ∧ y.state = .dirty) with
    | some y => s.poison.contains (.l2 y.die (eccAt a))
    | none => s.poison.contains (.cell (s.eccOf x)))
  | _ => s.poison.contains (.cell (s.eccOf x))

/-- Whether some of `n` bytes from a spot are poisoned where the home returns them (R455). -/
def State.poisoned (s : State) (x : Spot) (n : Nat) : Bool :=
  !s.poison.isEmpty && (List.range n).any fun i => s.homeBad (x.shift i)

/-- Whether a byte is returned poisoned to a die: from its L2 where that holds the line. -/
def State.dieBad (s : State) (die : Nat) (x : Spot) : Bool :=
  match x with
  | .pa a => if s.inL2 die (lineOf a) then s.poison.contains (.l2 die (eccAt a)) else s.homeBad x
  | _ => s.homeBad x

/-- Whether some of `n` bytes from a spot are poisoned as a die returns them to its agents past the L1. -/
def State.diePoisoned (s : State) (die : Nat) (x : Spot) (n : Nat) : Bool :=
  !s.poison.isEmpty && (List.range n).any fun i => s.dieBad die (x.shift i)

/-- Whether a byte of a D access of a core is returned poisoned: from its L1 where that holds the line. -/
def State.coreBad (s : State) (c : CoreId) (x : Spot) : Bool :=
  match x with
  | .pa a => if (s.coreD c).l1d.contains (lineOf a) then s.poison.contains (.l1 c a) else s.dieBad c.die x
  | _ => s.homeBad x

/-- The poison that a write of `n` bytes from a spot clears: that of ECC words written whole, at their place and in the copies of
their line (R455). -/
def State.clearPoison (s : State) (x : Spot) (n : Nat) : State :=
  if s.poison.isEmpty then s
  else
    let whole := ((List.range n).filter fun i => decide ((x.shift i).ecc = x.shift i ∧ i + Config.eccBytes ≤ n)).map x.shift
    let cells := whole.map s.eccOf
    { s with poison := s.poison.filter fun e => match e with
      | .cell y => !cells.contains y
      | .l2 _ w => !whole.contains (.pa w)
      | .l1 c a => !(whole.contains (.pa (eccAt a)) && (s.coreD c).l1d.contains (lineOf a))
      | .ic _ _ => true }

/-- The ECC words of a line. -/
def lineWords (line : Nat) : List Nat := ((List.range 128).map fun i => eccAt (line + i)).dedup

/-- The poison of a die's dirty L2 line at its home, as the line leaves the L2 or is shared. -/
def State.landPoison (s : State) (die line : Nat) : State :=
  if s.poison.isEmpty || !s.l2.any fun y => decide (y.die = die ∧ y.line = line ∧ y.state = .dirty) then s
  else
    let cell := fun (w : Nat) => Poison.cell (s.eccOf (.pa w))
    { s with poison := ((lineWords line).filter fun w => s.poison.contains (.l2 die w)).map cell ++
        s.poison.filter fun e => !((lineWords line).map cell).contains e }

/-- The poison of a line that a die's L2 takes from its home. -/
def State.fetchPoison (s : State) (die line : Nat) : State :=
  if s.poison.isEmpty then s
  else
    let words := lineWords line
    { s with poison := (words.filter fun w => s.homeBad (.pa w)).map (.l2 die) ++
        s.poison.filter fun e => !(words.map (.l2 die)).contains e }

/-- The poison of bytes that a core's L1 takes from its die. -/
def State.fillPoison (s : State) (c : CoreId) (as : List Nat) : State :=
  if s.poison.isEmpty then s
  else { s with poison := (as.filter fun a => s.dieBad c.die (.pa a)).map (.l1 c) ++
      s.poison.filter fun e => !(as.map (.l1 c)).contains e }

/-- The poison of `n` S bytes from an address after a store of them into a core's L1: a word not written whole stays poisoned. -/
def State.storePoison (s : State) (c : CoreId) (a n : Nat) : State :=
  if s.poison.isEmpty then s
  else
    let as := (List.range n).map (a + ·)
    let whole := fun (w : Nat) => decide (a ≤ w ∧ w + Config.eccBytes ≤ a + n)
    let bad := fun (b : Nat) => !whole (eccAt b) && (s.coreD c).l1s.any fun x =>
      eccAt x.pa == eccAt b && s.poison.contains (.l1 c x.pa)
    { s with poison := (as.filter bad).map (.l1 c) ++ s.poison.filter fun e => !(as.map (.l1 c)).contains e }

/-- An ECC word poisoned as a byte that is poisoned in an L1 is written back to its die's L2. -/
def State.taint (s : State) (die a : Nat) : State :=
  let e := if s.inL2 die (lineOf a) then Poison.l2 die (eccAt a) else .cell (s.eccOf (.pa a))
  if s.poison.contains e then s else { s with poison := e :: s.poison }

/-- The runs of consecutive bytes that a list of bytes holds of a 64-byte granule. -/
def granuleRuns (buf : List (Spot × Byte)) (x : Spot) : List (Spot × List Byte) :=
  let r := (List.range 64).foldl (fun (acc : List (Spot × List Byte) × Option (Spot × List Byte)) i =>
    match buf.find? fun b => b.1 = x.shift i, acc.2 with
    | some b, some (y, bs) => (acc.1, some (y, bs ++ [b.2]))
    | some b, none => (acc.1, some (x.shift i, [b.2]))
    | none, some run => (acc.1 ++ [run], none)
    | none, none => acc) ([], none)
  r.1 ++ r.2.toList

/-! ### Runs of bytes -/

/-- Whether two runs of bytes meet. -/
def overlaps (a n b m : Nat) : Bool := decide (a < b + m ∧ b < a + n)

/-- Whether two runs of bytes at spots meet. -/
def Spot.meets (x : Spot) (n : Nat) (y : Spot) (m : Nat) : Bool :=
  match x, y with
  | .sh d c a, .sh e f b => decide (d = e ∧ c = f) && overlaps a n b m
  | .pa a, .pa b => overlaps a n b m
  | .member t l a, .member u k b => decide (t = u ∧ l = k) && overlaps a n b m
  | _, _ => false

/-- Whether two lists of pieces share a byte. -/
def meetsAny (ps qs : List Piece) : Bool := ps.any fun p => qs.any fun q => p.spot.meets p.len q.spot q.len

/-- Whether every spot of an access can be reached now (R135, R155). -/
def State.reachable (s : State) (ps : List Piece) : Bool := ps.all fun p => (s.resolve p.spot).isSome

/-- The bank of a shared-store offset (R275). -/
def bankOf (x : Nat) : Nat := x / 8 % 32

/-- The saddle that a line of the device's memory is homed on (R273): that of its stack or its capacity port. -/
def homeSaddle (a : Nat) : Nat :=
  if isHbm a then (if a / 2 ^ 36 < 6 then 0 else 1) else if a < 0x60000000000 then 0 else 1

/-- Whether two lines have the same home L3 slice, one of their saddle's 64 (R271, R273). -/
def sameL3 (a b : Nat) : Bool := homeSaddle a == homeSaddle b && Config.l3Slice a % 64 == Config.l3Slice b % 64

/-- The compute die of a line's home L2 slice: one of the four of its saddle (R273). -/
def homeDie (a : Nat) : Nat := 4 * homeSaddle a + Config.l2Slice a % 4

/-! ### Sparse records (R292 to R294) -/

/-- The bitmap bits of a record, read by `rd`. -/
def sparseBits (rd : Nat → Byte) (recd : Nat) : List Bool :=
  (List.range 512).flatMap fun i => (List.range 8).map fun k => bitOf (rd (recd + i)).toNat k

/-- Stored elements that a record has room for (R292). -/
def sparseRoom (w : Nat) : Nat := 2048 - 512 / w

/-- The place of element `e` among a group's stored ones, where it is stored. -/
def sparseRank (bits : List Bool) (e : Nat) : Option Nat :=
  if bits.getD e false then some ((bits.take e).count true) else none

/-- The expanded bytes from offset `l` of a sparse group: `none` in a malformed group (R293, R294). -/
def sparseBytes (rd : Nat → Byte) (recd w l n : Nat) : Option (List Byte) :=
  let bits := sparseBits rd recd
  if sparseRoom w < bits.count true then none
  else some ((List.range n).map fun i =>
    match sparseRank bits ((l + i) / w) with
    | some k => rd (recd + 512 + k * w + (l + i) % w)
    | none => 0)

/-- The record's bytes that an access of `n` bytes from offset `l` of a sparse group touches: its bitmaps, and the stored
elements that it covers (R293). -/
def sparseRuns (rd : Nat → Byte) (recd w l n : Nat) : List (Nat × Nat) :=
  let bits := sparseBits rd recd
  (recd, 512) :: ((List.range ((l + n + w - 1) / w - l / w)).filterMap fun i =>
    (sparseRank bits (l / w + i)).map fun k => (recd + 512 + k * w, w))

/-- A run of bytes of a sparse page cut at the ends of its groups (R292). -/
def Piece.groups (p : Piece) : List Piece :=
  match p.sparse, p.spot with
  | some (w, l), .pa a =>
    (List.range ((l + p.len + 4096 * w - 1) / (4096 * w))).map fun i =>
      let from_ := if i = 0 then l else 0
      ⟨.pa (a + 2048 * w * i), min (l + p.len - 4096 * w * i) (4096 * w) - from_, p.cls, some (w, from_)⟩
  | _, _ => [p]

/-- A piece as the physical bytes that it touches: a sparse one as its record's (R293). -/
def Piece.plain (rd : Nat → Byte) (p : Piece) : List Piece :=
  match p.sparse, p.spot with
  | some (w, l), .pa a => (sparseRuns rd a w l p.len).map fun r => ⟨.pa r.1, r.2, p.cls, none⟩
  | _, _ => [p]

end Sys2Proof.Machine
end

