-- ==== Sys2Proof/Machine/Group.lean ====
section
/-! DEFINITION. One group: registers, the activity mask, the clause it issues, dependency counters and pending bits. -/

namespace Sys2Proof

/-- The core of a group. -/
def GroupId.coreId (i : GroupId) : CoreId := ⟨i.die, i.core⟩

/-- The quadrant of a group (R151). A slot number of 64 and up is that of an adopted group whose slot below 64 is lent
to it (R257). -/
def GroupId.quad (i : GroupId) : Nat := i.slot % 64 / 16

end Sys2Proof

namespace Sys2Proof.Machine

/-! ### Fault codes (R408) -/

def cIllegal : Nat := 0x01
def cPrivilege : Nat := 0x02
def cHazard : Nat := 0x03
def cMisaligned : Nat := 0x04
def cSegment : Nat := 0x05
def cNonresident : Nat := 0x06
def cProtection : Nat := 0x07
def cPoison : Nat := 0x08
def cLinkLost : Nat := 0x09
def cRemoteAtomic : Nat := 0x0A
def cFabricConfig : Nat := 0x0B
def cFabricToken : Nat := 0x0C
def cBarrierOverflow : Nat := 0x0D
def cCell : Nat := 0x0E
def cAdoptionCycle : Nat := 0x0F
def cTensor : Nat := 0x10
def cCopySize : Nat := 0x11
def cBudget : Nat := 0x12
def cUserTrap : Nat := 0x13
def cLaunch : Nat := 0x14

/-- Whether an operation is that of a waiting instruction (R160). -/
def LLKind.waits : LLKind → Bool
  | .cell .wait _ _ => true
  | .lock true _ _ => true
  | .qget _ _ => true
  | .tlaunch => true
  | _ => false

/-! ### Registers -/

/-- Bit `t` of a mask. -/
def maskBit (m : Mask) (t : Nat) : Bool := m.getLsbD t

/-- The mask whose bit t is `f t`. -/
def maskOf (f : Nat → Bool) : Mask := BitVec.ofFnLE fun t : Fin 96 => f t.val

/-- The mask of a list of threads. -/
def maskOfList (ts : List Nat) : Mask := ts.foldl (fun m t => m ||| BitVec.ofNat 96 (2 ^ t)) 0

/-- Word `i` of a mask: threads 32i to 32i + 31. -/
def maskWord (m : Mask) (i : Nat) : Word := BitVec.ofNat 32 (m.toNat / 2 ^ (32 * i))

/-- A mask of three words. -/
def maskOfWords (a b c : Word) : Mask := c ++ b ++ a

/-- Register v(n) of thread t; a register that does not exist reads 0. -/
def Group.vget (g : Group) (n t : Nat) : Word :=
  match g.v[n]? with
  | some r => r[t]?.getD 0
  | none => 0

/-- The pair v[n:n+1] of thread t (R2). -/
def Group.vpair (g : Group) (n t : Nat) : DWord := pairOf (g.vget n t) (g.vget (n + 1) t)

/-- Scalar register s(n). -/
def Group.sget (g : Group) (n : Nat) : Word := g.s[n]?.getD 0

/-- The pair s[n:n+1]. -/
def Group.spair (g : Group) (n : Nat) : DWord := pairOf (g.sget n) (g.sget (n + 1))

/-- Predicate p(n) of thread t. -/
def Group.pget (g : Group) (n t : Nat) : Bool := maskBit (g.p[n]?.getD 0) t

/-- s(n) written. -/
def Group.sset (g : Group) (n : Nat) (x : Word) : Group := { g with s := g.s.setIfInBounds n x }

/-- s[n:n+1] written. -/
def Group.ssetPair (g : Group) (n : Nat) (x : DWord) : Group := (g.sset n (loWord x)).sset (n + 1) (hiWord x)

/-- The activity mask, s60 to s62 (R9). -/
def Group.mask (g : Group) : Mask := maskOfWords (g.sget 60) (g.sget 61) (g.sget 62)

/-- The activity mask written. -/
def Group.setMask (g : Group) (m : Mask) : Group :=
  ((g.sset 60 (maskWord m 0)).sset 61 (maskWord m 1)).sset 62 (maskWord m 2)

/-- The guard of thread t (R72). -/
def Group.guardBit (g : Group) : Guard → Nat → Bool
  | .always, _ => true
  | .pred p, t => maskBit g.p[p] t

/-- Whether thread t is in `active()` (R9). -/
def Group.isActive (g : Group) (t : Nat) : Bool := maskBit g.mask t

/-- Whether thread t is in `enabled()` (R9). -/
def Group.on (g : Group) (gd : Guard) (t : Nat) : Bool := maskBit g.mask t && g.guardBit gd t

/-- `active()` in ascending order (R9). -/
def Group.active (g : Group) : List Nat := threads.filter g.isActive

/-- `enabled()` in ascending order (R9). -/
def Group.enabled (g : Group) (gd : Guard) : List Nat := threads.filter (g.on gd)

/-- v(d) written with `f t` for each thread of `enabled()`; the other threads keep theirs (R14). -/
def Group.vset (g : Group) (gd : Guard) (d : Nat) (f : Nat → Word) : Group :=
  { g with v := g.v.modify d fun r => Vector.ofFn fun t : Fin 96 => if g.on gd t.val then f t.val else r[t] }

/-- v[d:d+1] written with `f t` for each thread of `enabled()` (R2). -/
def Group.vsetPair (g : Group) (gd : Guard) (d : Nat) (f : Nat → DWord) : Group :=
  (g.vset gd d fun t => loWord (f t)).vset gd (d + 1) fun t => hiWord (f t)

/-- v(d) of thread t written. -/
def Group.vput (g : Group) (d t : Nat) (x : Word) : Group :=
  { g with v := g.v.modify d fun r => r.setIfInBounds t x }

/-- p(d) written for every thread of `enabled()`. -/
def Group.pset (g : Group) (gd : Guard) (d : Pred) (f : Nat → Bool) : Group :=
  { g with p := g.p.set d (maskOf fun t => if g.on gd t then f t else maskBit g.p[d] t) }

/-- v(n) of thread t for a vector b operand, s(n) for a scalar one (R75). -/
def Group.bval (g : Group) : BOp → Nat → Word
  | .v n, t => g.vget n.val t
  | .s n, _ => g.sget n.val

/-- The pair of a b operand (R75). -/
def Group.bpair (g : Group) : BOp → Nat → DWord
  | .v n, t => g.vpair n.val t
  | .s n, _ => g.spair n.val

/-! ### The words of a clause -/

/-- The header word of the clause buffer. -/
def Group.headerWord (g : Group) : Nat := (g.clause.words.headD 0).toNat

/-- SETC of the clause (R68). -/
def Group.setc (g : Group) : Fin 8 := ⟨field g.headerWord 14 8, Nat.mod_lt _ (by decide)⟩

/-- WAIT of the clause (R68). -/
def Group.waitMask (g : Group) : BitVec 8 := BitVec.ofNat 8 (field g.headerWord 17 256)

/-- Y of the clause (R68). -/
def Group.yields (g : Group) : Bool := bitOf g.headerWord 13

/-- S of the clause (R68). -/
def Group.isSerial (g : Group) : Bool := bitOf g.headerWord 12

/-- The address of the word after the clause (R15). -/
def Group.afterClause (g : Group) : DWord := g.clause.addr + BitVec.ofNat 64 (4 * g.clause.words.length)

/-- The mask at the end of a replayed word: the mask at the fault (R398, R406). -/
def Group.restoreMask (g : Group) : Group :=
  match g.restore with
  | some m => { g.setMask m with restore := none }
  | none => g

/-- The clause has ended and the group stands at the header at `pc` (R15, R25, R162). -/
def Group.endClause (g : Group) (pc : DWord) : Group :=
  { g with pc := pc, stage := .header, turn := false, serial := if g.isSerial then some (g.clauseSeq, g.setc) else none,
           yielding := g.yielding || g.yields, clause := {} }

/-- The word of the clause at which the group stands has issued: on to the next word, or to the next header (R15,
R20). `n` is 2 for a word with a literal (R18). -/
def Group.nextWord (g : Group) (n : Nat) : Group :=
  let h := g.restoreMask
  if h.clause.next + n < h.clause.words.length then { h with clause := { h.clause with next := h.clause.next + n } }
  else h.endClause h.afterClause

/-- A branch, jump, call or return to `pc` (R129, R130). -/
def Group.jumpTo (g : Group) (pc : DWord) : Group := g.restoreMask.endClause pc

/-- The header address plus 4 × sx(disp, 20) (R71). -/
def Group.target (g : Group) (disp : BitVec 20) : DWord := g.clause.addr + 4 * disp.signExtend 64

/-! ### Counters and pending bits -/

/-- Whether a register is pending (R27). -/
def Group.isPending (g : Group) (r : PReg) : Bool := g.pending.any fun x => x.reg = r

/-- Whether a register is a vector register at or above the budget (R13). -/
def Group.beyond (g : Group) : PReg → Bool
  | .v n => decide (g.v.length ≤ n)
  | _ => false

/-- The registers s60 to s62 that `active()` reads (R9). -/
def maskRegs : List PReg := [.s 60, .s 61, .s 62]

/-- The register of a guard (R72). -/
def guardRegs : Guard → List PReg
  | .always => []
  | .pred p => [.p p.val]

/-- `n` vector registers from d. -/
def vRegs (d : Nat) : Nat → List PReg
  | 0 => []
  | n + 1 => .v d :: vRegs (d + 1) n

/-- `n` scalar registers from d. -/
def sRegs (d : Nat) : Nat → List PReg
  | 0 => []
  | n + 1 => .s d :: sRegs (d + 1) n

/-- The register of a b operand. -/
def bReg : BOp → PReg
  | .v n => .v n.val
  | .s n => .s n.val

/-- The `n` registers of a b operand. -/
def bRegs (n : Nat) : BOp → List PReg
  | .v r => vRegs r.val n
  | .s r => sRegs r.val n

/-- The first failing check of R471 steps 1 to 3: PRIVILEGE, BUDGET, HAZARD. -/
def Group.issueFault (g : Group) (priv : Bool) (rs : List PReg) : Option Nat :=
  if priv && !g.pv then some cPrivilege
  else if rs.any g.beyond then some cBudget
  else if rs.any g.isPending then some cHazard
  else none

/-- Counter dc(i). -/
def Group.dcGet (g : Group) (i : Fin 8) : BitVec 6 := g.dc[i]

/-- Whether the counter of the clause is at its limit (R26). -/
def Group.counterFull (g : Group) : Bool := g.dcGet g.setc = 63

/-- A long-latency instruction issued (R24): the counter of the clause up by one, its destinations pending. -/
def Group.issueLong (g : Group) (o : Outst) : Group :=
  { g with
    dc := g.dc.set g.setc (g.dcGet g.setc + 1)
    pending := o.dst.map (fun r => ⟨r, g.setc, g.seq⟩) ++ g.pending
    out := g.out ++ [{ o with ctr := g.setc, seq := g.seq }]
    seq := g.seq + 1 }

/-- The result of a long-latency instruction known: its counter down by one (R24). -/
def Group.retireLong (g : Group) (o : Outst) : Group :=
  { g with dc := g.dc.set o.ctr (g.dcGet o.ctr - 1), out := g.out.filter fun x => x.seq ≠ o.seq }

/-- Whether every counter of the WAIT mask reads zero (R23). -/
def Group.waitMet (g : Group) : Bool :=
  (List.finRange 8).all fun i => !g.waitMask.getLsbD i.val || g.dc[i] = 0

/-- Whether an instruction at place `n` of the group's order belongs to a preceding serial clause (R25). -/
def Group.inSerial (g : Group) (n : Nat) : Bool :=
  match g.serial with
  | some k => decide (k.1 ≤ n)
  | none => false

/-- Whether every result of a preceding serial clause is written (R25). -/
def Group.serialMet (g : Group) : Bool := !g.out.any fun o => g.inSerial o.seq

/-- The pending bits cleared as the first word issues (R25): those tagged with a counter of the WAIT mask, and those of a
preceding serial clause. -/
def Group.clearPending (g : Group) : Group :=
  { g with
    pending := g.pending.filter fun x => !(g.waitMask.getLsbD x.ctr.val || g.inSerial x.seq)
    serial := none
    clauseSeq := g.seq }

/-- The pending bits of a preceding serial clause cleared, its results being written (R25). -/
def Group.clearSerial (g : Group) : Group := { g with pending := g.pending.filter fun x => !g.inSerial x.seq, serial := none }

/-- FPSR with flags set (R38). -/
def Group.raiseFlags (g : Group) (fl : Flags) : Group := { g with fpsr := g.fpsr ||| BitVec.ofNat 32 fl.toNat }

/-- Whether an outstanding instruction is a PUBLISH. -/
def Outst.isPublish (o : Outst) : Bool :=
  match o.kind with
  | .publish _ _ _ => true
  | _ => false

/-! ### Reads of a group (R28, R34, R286, R293, R304, R411) -/

/-- The FP32 sums that an add-on-store writes over bytes (R66, R276, R338). -/
def addBytes (old new : List Byte) : List Byte := natToBytes new.length (addOn .f32 (bytesToNat old) (bytesToNat new))

/-- The pieces of a store. -/
def StoreReq.pieces (st : StoreReq) : List Piece := st.parts.map (·.1)

/-- One part of a store that is not performed, laid over the bytes from `x`: its bytes, or its addend added. -/
def overlay (add : Bool) (x : Spot) (bs : List Byte) (p : Piece × List Byte) : List Byte :=
  if add then
    match x.index bs.length p.1.spot with
    | some i =>
      if i + p.2.length ≤ bs.length then
        bs.take i ++ addBytes ((bs.drop i).take p.2.length) p.2 ++ bs.drop (i + p.2.length)
      else bs
    | none => bs
  else
    bs.zipIdx.map fun b =>
      match p.1.spot.index p.2.length (x.shift b.2) with
      | some j => p.2[j]?.getD b.1
      | none => b.1

/-- The earlier stores of the group that are not performed, laid over bytes from `x` in the group's order (R304). -/
def Group.forwarded (g : Group) (seq : Nat) (x : Spot) (bs : List Byte) : List Byte :=
  (g.stores.filter fun st => decide (st.seq < seq)).foldl (fun bs st => st.parts.foldl (overlay st.add x) bs) bs

/-- The S byte of a core's L1 that serves an access: any that the L1 holds where it holds the whole access (`whole`), else a
dirty one (R286, R305). -/
def State.l1Serves (s : State) (c : CoreId) (cls : Coh) (whole : Bool) (a : Nat) : Option L1Byte :=
  if cls = .s then (l1Find (s.coreD c).l1s a).filter fun b => whole || b.dirty else none

/-- Whether a core's L1 holds every byte of an S access. -/
def State.l1Holds (s : State) (c : CoreId) (cls : Coh) (x : Spot) (n : Nat) : Bool :=
  match cls, x with
  | .s, .pa a => (List.range n).all fun i => (l1Find (s.coreD c).l1s (a + i)).isSome
  | _, _ => false

/-- A byte as a core's access of a class returns it. -/
def State.lookByte (s : State) (c : CoreId) (cls : Coh) (whole : Bool) (x : Spot) : Byte :=
  match x with
  | .pa a => ((s.l1Serves c cls whole a).map L1Byte.val).getD (s.readPa a)
  | _ => (s.resolve x).elim 0 s.readSpot

/-- Whether that byte is returned poisoned (R455). -/
def State.lookBad (s : State) (c : CoreId) (cls : Coh) (whole : Bool) (x : Spot) : Bool :=
  match x, cls with
  | .pa a, .s => if (s.l1Serves c cls whole a).isSome then s.poison.contains (.l1 c a) else s.dieBad c.die x
  | .pa _, .d => s.coreBad c x
  | _, _ => s.homeBad x

/-- The bytes from a spot as a core's access of a class returns them: S bytes from the L1 where it holds the whole access,
and its dirty ones in any case, so that the access is one unit (R286, R305). -/
def State.lookBytes (s : State) (c : CoreId) (cls : Coh) (x : Spot) (n : Nat) : List Byte :=
  let whole := s.l1Holds c cls x n
  (List.range n).map fun i => s.lookByte c cls whole (x.shift i)

/-- A byte of a transaction's buffer as an access at place `seq` of the group's order sees it. -/
def Tx.byte? (t : Tx) (seq : Nat) (x : Spot) : Option Byte :=
  (t.buf.find? fun y => decide (y.1 < seq) && y.2.1 == x).map fun y => y.2.2

/-- What a group lays over bytes from a spot that an access at place `seq` reads: its own earlier stores, and its transaction's
buffer over them. -/
def Group.over (g : Group) (seq : Nat) (x : Spot) (bs : List Byte) : List Byte :=
  let bs := g.forwarded seq x bs
  match g.tx with
  | some t => bs.zipIdx.map fun b => (t.byte? seq (x.shift b.2)).getD b.1
  | none => bs

/-- Whether an earlier add-on-store of the group adds to a word of which an access of `n` bytes reads a part. -/
def Group.addsTo (g : Group) (seq : Nat) (x : Spot) (n : Nat) : Bool :=
  g.stores.any fun st => st.add && decide (st.seq < seq) && st.pieces.any fun p => x.meets n p.spot p.len

/-- The bytes of a group's read of a class, with `whole` as in `lookByte`. A word to which it adds is read whole (R304). -/
def State.groupBytesAt (s : State) (g : Group) (seq : Nat) (cls : Coh) (whole : Bool) (x : Spot) (n : Nat) : List Byte :=
  let look := fun (y : Spot) (m : Nat) => (List.range m).map fun i => s.lookByte g.id.coreId cls whole (y.shift i)
  if g.addsTo seq x n then
    let m := (x.low + n + 3) / 4 * 4
    ((g.over seq x.word4 (look x.word4 m)).drop x.low).take n
  else g.over seq x (look x n)

/-- The bytes of a group's read: its transaction's buffer over its own earlier stores over memory. -/
def State.groupBytes (s : State) (g : Group) (seq : Nat) (cls : Coh) (x : Spot) (n : Nat) : List Byte :=
  s.groupBytesAt g seq cls (s.l1Holds g.id.coreId cls x n) x n

/-- A record byte of a sparse page as a group's read sees it. -/
def State.recordByte (s : State) (g : Group) (seq : Nat) (cls : Coh) (whole : Bool) (a : Nat) : Byte :=
  (s.groupBytesAt g seq cls whole (.pa a) 1).headD 0

/-- Whether a core's L1 holds every record byte that an access to a sparse page touches, as `rd` reads the record: one unit, like
a dense access (R293, R305). -/
def State.recordHeld (s : State) (c : CoreId) (rd : Nat → Byte) (p : Piece) : Bool :=
  p.sparse.isSome && (p.plain rd).all fun q => s.l1Holds c q.cls q.spot q.len

/-- Whether the L1 serves a group's access with any byte that it holds. -/
def State.groupWhole (s : State) (g : Group) (seq : Nat) (p : Piece) : Bool :=
  if p.sparse.isSome then s.recordHeld g.id.coreId (s.recordByte g seq p.cls true) p else s.l1Holds g.id.coreId p.cls p.spot p.len

/-- The physical bytes that a group's access touches (R293). -/
def State.plainPieces (s : State) (g : Group) (seq : Nat) (ps : List Piece) : List Piece :=
  ps.flatMap fun p => p.plain (s.recordByte g seq p.cls (s.groupWhole g seq p))

/-- Whether an access at place `seq` takes a byte from the group itself: from its transaction's buffer or an earlier store. -/
def Group.covers (g : Group) (seq : Nat) (x : Spot) : Bool :=
  (g.stores.any fun st => !st.add && decide (st.seq < seq) && st.parts.any fun p => p.1.spot.meets p.2.length x 1) ||
    ((g.tx.bind fun t => t.byte? seq x).isSome)

/-- Whether a group's access reads poison in some bytes (R455). -/
def State.pieceBad (s : State) (g : Group) (seq : Nat) (whole : Bool) (q : Piece) : Bool :=
  !s.poison.isEmpty && (List.range q.len).any fun i =>
    !g.covers seq (q.spot.shift i) && s.lookBad g.id.coreId q.cls whole (q.spot.shift i)

/-- The bytes of one piece; `none` for poison or a malformed sparse group (R294, R455). -/
def State.readPiece (s : State) (g : Group) (seq : Nat) (p : Piece) : Option (List Byte) :=
  let whole := s.groupWhole g seq p
  let rd := s.recordByte g seq p.cls whole
  if (p.plain rd).any (s.pieceBad g seq whole) then none
  else match p.sparse, p.spot with
    | some (w, l), .pa a => sparseBytes rd a w l p.len
    | _, _ => some (s.groupBytesAt g seq p.cls whole p.spot p.len)

/-- The bytes of a thread's access. -/
def State.readTarget (s : State) (g : Group) (seq : Nat) (t : Target) : Option (List Byte) :=
  (t.pieces.mapM (s.readPiece g seq)).map List.flatten

/-- Thread t's read of some bytes noted on the earlier stores of other threads that it took them from (R304, R315). -/
def Group.readBy (g : Group) (seq t : Nat) (ps : List Piece) : Group :=
  let hit := fun (st : StoreReq) => (st.seq < seq : Bool) && st.thread != t && !st.readers.contains t && meetsAny st.pieces ps
  if g.stores.any hit then
    { g with stores := g.stores.map fun st => if hit st then { st with readers := t :: st.readers } else st }
  else g

/-- The register words of a load's bytes (R135). -/
def loadWords (size : Nat) (signed : Bool) (bs : List Byte) : List Word :=
  if size < 4 then [if signed then trunc32 (sx (bytesToNat bs) (8 * size)) else BitVec.ofNat 32 (bytesToNat bs)]
  else (List.range (size / 4)).map fun i => BitVec.ofNat 32 (bytesToNat bs / 2 ^ (32 * i))

/-- A thread's result obtained. -/
def Outst.got (o : Outst) (t : Target) (ws : List Word) : Outst :=
  { o with todo := o.todo.filter fun u => u.thread ≠ t.thread, res := o.res ++ [(t.thread, ws)] }

/-- A thread's late fault taken (R399). -/
def Outst.lost (o : Outst) (t : Target) (code : Nat) : Outst :=
  { o with todo := o.todo.filter fun u => u.thread ≠ t.thread, late := o.late ++ [(t.thread, code, t.va)] }

/-- An outstanding instruction stored back. -/
def Group.putOut (g : Group) (o : Outst) : Group := { g with out := g.out.map fun x => if x.seq = o.seq then o else x }

/-- A load performed for one thread: its bytes, or POISON as a late fault. -/
def State.readInto (s : State) (g : Group) (o : Outst) (t : Target) : Group :=
  match o.kind with
  | .load size signed _ =>
    match s.readTarget g o.seq t with
    | some bs => (g.readBy o.seq t.thread (s.plainPieces g o.seq t.pieces)).putOut (o.got t (loadWords size signed bs))
    | none => g.putOut (o.lost t cPoison)
  | _ => g

/-- Whether an outstanding instruction acquires (R312). -/
def Outst.acquires (o : Outst) : Bool :=
  match o.kind with
  | .load _ _ acq => acq.isSome
  | .atomic _ _ _ mo => mo.acquires
  | _ => false

/-- The loads of a group that are not performed and that `p` admits, performed. -/
def State.settleLoads (s : State) (p : Outst → Target → Bool) (g : Group) : Group :=
  g.out.foldl (fun g o => (o.todo.filter (p o)).foldl (fun g t =>
    match g.out.find? fun x => x.seq = o.seq with
    | some o' => s.readInto g o' t
    | none => g) g) g

/-- Whether an LDAQ that acts on the L1 is among such loads (R286, R329). -/
def State.settlesAcquire (s : State) (p : Outst → Target → Bool) (g : Group) : Bool :=
  g.out.any fun o => match o.kind with
    | .load _ _ (some sc) => sc.wide && o.todo.any fun t => p o t && (s.readTarget g o.seq t).isSome
    | _ => false

/-- Every load of a group that is not performed and can be, performed: what the group of a transaction reads before a write
that conflicts with it, and before it aborts (R325). -/
def State.settleReads (s : State) (g : Group) : Group := s.settleLoads (fun _ t => s.reachable t.pieces) g

end Sys2Proof.Machine
end

