-- ==== Sys2Proof/Machine/Ops.lean ====
section
/-! DEFINITION. The named operations over the device: its groups, teams and tasks, a performed write and what it wakes,
the fault log, the kill of a task, taking a trap and returning from it, and the issue of a word. -/

namespace Sys2Proof.Machine

/-! ### Groups, teams, tasks, contexts -/

/-- The group of an identifier. -/
def State.group? (s : State) (i : GroupId) : Option Group := s.groups.find? fun g => g.id = i

/-- The group in focus: the one whose word executes. -/
def State.cur (s : State) : Option Group :=
  match s.focus with
  | .group i => s.group? i
  | _ => none

/-- A group stored back. -/
def State.put (s : State) (g : Group) : State := { s with groups := s.groups.map fun h => if h.id = g.id then g else h }

/-- Every group changed by `f`, which keeps identifiers. -/
def State.mapGroups (s : State) (f : Group → Group) : State := { s with groups := s.groups.map f }

/-- A team by task and linear index. -/
def State.team? (s : State) (k : TaskKey) (lin : Nat) : Option Team := s.teams.find? fun t => t.task = k ∧ t.lin = lin

/-- A team stored back. -/
def State.putTeam (s : State) (t : Team) : State :=
  { s with teams := s.teams.map fun u => if u.task = t.task ∧ u.lin = t.lin then t else u }

/-- The team of a group. -/
def State.teamOf (s : State) (g : Group) : Option Team := s.team? g.task g.lin

/-- A task by key. -/
def State.task? (s : State) (k : TaskKey) : Option Task := s.tasks.find? fun t => t.key = k

/-- The key of an identifier in a context (R236). -/
def keyOf (ctx : Nat) (id : Word) : TaskKey := ctx * 4294967296 + id.toNat

/-- The identifier of a task (R236). -/
def idOf (k : TaskKey) : Word := BitVec.ofNat 32 k

/-- The context of a task. -/
def ctxOf (k : TaskKey) : Nat := k / 4294967296

/-- The context of a group. -/
def Group.ctx (g : Group) : Nat := ctxOf g.task

/-- An enabled context by number. -/
def State.ctx? (s : State) (n : Nat) : Option Ctx := s.ctxs.find? fun c => c.n = n

/-- A context stored back. -/
def State.putCtx (s : State) (c : Ctx) : State := { s with ctxs := s.ctxs.map fun d => if d.n = c.n then c else d }

/-- Die in [18:16] and core in [8:0] (R35 HELPER, R394). -/
def locWord (c : CoreId) : Word := BitVec.ofNat 32 (c.die * 65536 + c.core)

/-- A value the manual leaves open, and the next supply index (log entry 5). -/
def State.fresh (s : State) : Word × State := (Config.freeWord s.free, { s with free := s.free + 1 })

/-! ### Transactions that see a cause (R414, R415) -/

/-- An abort cause seen by a group with an open transaction: the buffered stores and marks are gone (R415 step 1). -/
def Group.seeAbort (g : Group) (cause code : Nat) : Group :=
  match g.tx with
  | some t => { g with tx := some { t with buf := [], reads := [], writes := [], seen := some (t.seen.getD (cause, code)) },
                       turn := false }
  | none => g

/-- The lines of physical memory that a transaction marks (R411). -/
def Tx.lines (t : Tx) : List Nat := (t.reads ++ t.writes).filterMap fun x => match x with
  | .pa a => some (lineOf a)
  | _ => none

/-- Whether R417 promises that the marked lines of a transaction stay in the L1. -/
def Tx.small (t : Tx) : Bool := decide (t.reads.length ≤ 16) && decide (t.writes.length ≤ 16)

/-- Lines of the host that no operation of the device wants any more: what they were called back for is given up (R447). -/
def State.disown (s : State) (p : Nat → Bool) : State := if s.owed.any p then { s with owed := s.owed.filter fun l => !p l } else s

/-- Whether a group's transaction that has seen no cause marks a clean S line of its core's L1 and is larger than R417 promises for:
it sees CAPACITY as an acquire of the core drops these lines (R286, R414). -/
def State.losesToAcquire (s : State) (g : Group) : Bool :=
  (g.tx.map fun t => t.seen.isNone && !t.small &&
    (s.coreD g.id.coreId).l1s.any fun x => !x.dirty && t.lines.contains (lineOf x.pa)).getD false

/-- The open transactions that `p` admits and that have seen no cause see one (R415). Their outstanding reads are performed
first, so that they agree with one point of the execution (R325); an LDAQ among these acts on the L1. -/
def State.abortWhere (s : State) (p : Group → Tx → Bool) (cause : Nat) : State :=
  let hit := fun (g : Group) => (g.tx.map fun t => t.seen.isNone && p g t).getD false
  let gs := s.groups.filter hit
  if gs.isEmpty then s
  else
    let cs := (gs.filter (s.settlesAcquire fun _ x => s.reachable x.pieces)).map fun g => g.id.coreId
    let t := s.mapGroups fun g =>
      if hit g then (s.settleReads g).seeAbort cause 0
      else if cs.contains g.id.coreId && s.losesToAcquire g then (s.settleReads g).seeAbort 2 0
      else g
    cs.foldl (fun t c => t.modCore c (Core.dropClean fun _ => true))
      (t.disown fun l => gs.any fun g => (g.tx.map fun x => x.lines.contains l).getD false)

/-! ### Lines -/

/-- Marked lines leave the L1s: `p` says which leave which core's. A transaction larger than R417 promises for sees CAPACITY
(R414); the marks of a smaller one stay. -/
def State.loseMarks (s : State) (p : CoreId → Nat → Bool) : State :=
  s.abortWhere (fun g t => !t.small && t.lines.any (p g.id.coreId)) 2

/-- The clean S bytes of a core dropped, for the addresses that satisfy `p` (R286). -/
def State.dropS (s : State) (c : CoreId) (p : Nat → Bool) : State :=
  let out := (s.coreD c).l1s.filter fun x => !x.dirty && p x.pa
  if out.isEmpty then s
  else (s.loseMarks fun k l => decide (k = c) && out.any fun x => lineOf x.pa == l).modCore c (Core.dropClean p)

/-- The L1 action of an acquire at a scope (R286). -/
def State.acquireL1 (s : State) (c : CoreId) (sc : Scope) : State :=
  if sc.wide then s.dropS c fun _ => true else s

/-- The directory entry of a line; one without copies where none is listed. -/
def State.dirOf (s : State) (line : Nat) : DirEntry := (s.dir.find? fun e => e.line = line).getD ⟨line, [], false⟩

/-- A directory entry stored back; an entry without copies is not listed. -/
def State.putDir (s : State) (e : DirEntry) : State :=
  { s with dir := (if e.dies.isEmpty && !e.host then [] else [e]) ++ s.dir.filter fun x => x.line ≠ e.line }

/-- The lines of a die's L2: 48 slices of 2 MiB (R271). -/
def l2Lines : Nat := 786432

/-- The lines of an L3 slice: 8 MiB (R271). -/
def l3Lines : Nat := 65536

/-- A line held at its home: in its L3 slice, from which the oldest line leaves for memory where the slice is full, and with `u`
in its home L2 slice (R271, R273, R287). -/
def State.holdHome (s : State) (line : Nat) (dirty u : Bool) : State :=
  if isDevice line then
    let x := (s.homes.find? fun x => x.line = line).getD ⟨line, false, false⟩
    let rest := s.homes.filter fun x => x.line ≠ line
    let full := decide (l3Lines ≤ rest.length) && decide (l3Lines ≤ rest.countP fun x => sameL3 x.line line)
    let rest := if full then (rest.reverse.eraseP fun x => sameL3 x.line line).reverse else rest
    { s with homes := ⟨line, x.dirty || dirty, x.u || u⟩ :: rest }
  else s

/-- Whether a die's L2 holds a line or has room for it beside the U lines homed there (R271). -/
def State.l2Room (s : State) (die line : Nat) : Bool :=
  s.inL2 die line || decide (s.l2.length + s.homes.length < l2Lines) ||
    decide (s.l2.countP (fun x => x.die = die) + s.homes.countP (fun x => x.u && homeDie x.line == die) < l2Lines)

/-- An L2 line stored; a full L2 takes no line, as if it had left again at once (R271, R284). -/
def State.putL2 (s : State) (die line : Nat) (st : L2State) : State :=
  if s.l2Room die line then
    let t := if s.inL2 die line then s else s.fetchPoison die line
    { t with l2 := ⟨die, line, st⟩ :: s.l2.filter fun x => ¬ (x.die = die ∧ x.line = line) }
  else s

/-- A die's copies of a line dropped: the L2 line and its L1s' D lines (R283). With `quiet` an access from outside the device takes
them, which aborts no transaction (R326, R448). -/
def State.dropLine (s : State) (die line : Nat) (quiet : Bool := false) : State :=
  let s := s.landPoison die line
  let t := if quiet then s else s.loseMarks fun c l => decide (c.die = die ∧ l = line) && (s.coreD c).l1d.contains line
  { t with
    l2 := s.l2.filter fun x => ¬ (x.die = die ∧ x.line = line)
    cores := t.cores.map fun c => if c.id.die = die then { c with l1d := c.l1d.filter fun l => l ≠ line } else c }

/-- Whether the home may let `die` write a line: no other copy is listed and no invalidation is in flight (R283, R284).
`none` is the home slice itself, for which every copy counts (R332). -/
def State.exclusive (s : State) (die : Option Nat) (line : Nat) : Bool :=
  let e := s.dirOf line
  e.dies.all (fun d => some d = die) && !e.host && !s.invals.any fun i => i.line = line

/-- Invalidations of a line sent to some holders; one on its way that the new request asks for as well is the device's from now on
where that is a device agent's. -/
def State.sendInvals (s : State) (line : Nat) (want : List (Option Nat)) (outside evict : Bool) : State :=
  let new := want.filter fun d => !s.invals.any fun i => i.line = line ∧ i.die = d
  { s with invals := (s.invals.map fun i =>
      if i.line = line then { i with outside := i.outside && outside, evict := i.evict && evict } else i) ++
      new.map fun d => { line := line, die := d, outside := outside, evict := evict } }

/-- Invalidations sent to the other listed copies of a line (R283, R447). -/
def State.invalidate (s : State) (die : Option Nat) (line : Nat) : State :=
  let e := s.dirOf line
  s.sendInvals line ((e.dies.filter fun d => some d ≠ die).map some ++ if e.host then [none] else []) false false

/-- Whether a writer on `die` may write at an address now; a peer's memory has no line here (R288). -/
def State.ownable (s : State) (die : Option Nat) (a : Nat) : Bool := !hasLines a || s.exclusive die (lineOf a)

/-- The invalidations that a write at an address asks for (R283, R447). -/
def State.claimLine (s : State) (die : Option Nat) (a : Nat) : State := if hasLines a then s.invalidate die (lineOf a) else s

/-- A line dirty in a die's L2 after a write of that die (R283). -/
def State.takeDirty (s : State) (die a : Nat) : State :=
  if hasLines a && s.l2Room die (lineOf a) then
    let e := s.dirOf (lineOf a)
    (if e.dies.contains die then s else s.putDir { e with dies := die :: e.dies }).putL2 die (lineOf a) .dirty
  else s

/-- The lines of an L1 and of an instruction cache: 128 KiB and 64 KiB (R271). -/
def l1Lines : Nat := 1024
def icLines : Nat := 512

/-- Whether a core's L1 holds a line or has room for it (R271). A line for which there is none is used and leaves at once
(R284, R286). -/
def Core.l1Room (k : Core) (line : Nat) : Bool :=
  decide (k.l1d.length + k.l1s.length < l1Lines) || k.l1d.contains line || k.l1s.any (fun x => lineOf x.pa = line) ||
    decide ((k.l1d ++ k.l1s.map fun x => lineOf x.pa).dedup.length < l1Lines)

/-- Whether a core's instruction cache holds a line or has room for it (R271). -/
def Core.icRoom (k : Core) (line : Nat) : Bool :=
  decide (k.icache.length < icLines) || k.icache.any (fun x => lineOf x.1 = line) ||
    decide ((k.icache.map fun x => lineOf x.1).dedup.length < icLines)

/-- The lines that `n` bytes from an address touch. -/
def linesOf (a n : Nat) : List Nat := (List.range ((a + n + 127) / 128 - a / 128)).map fun i => lineOf a + 128 * i

/-- The lines of a run of bytes held at their homes. -/
def State.holdRun (s : State) (a n : Nat) (dirty u : Bool) : State :=
  (linesOf a n).foldl (fun s l => s.holdHome l dirty u) s

/-- Whether every line of some runs of bytes may be written now (R283, R447). -/
def State.ownableAll (s : State) (die : Option Nat) (rs : List (Nat × Nat)) : Bool :=
  rs.all fun r => (linesOf r.1 r.2).all (s.ownable die)

/-- The invalidations that writes of some runs of bytes ask for. -/
def State.claimAll (s : State) (die : Option Nat) (rs : List (Nat × Nat)) : State :=
  (rs.flatMap fun r => linesOf r.1 r.2).foldl (fun s a => s.claimLine die a) s

/-- The physical run of a piece, where it has one. -/
def Piece.runs (p : Piece) : List (Nat × Nat) :=
  match p.spot with
  | .pa a => [(a, p.len)]
  | _ => []

/-- The die whose copy of a piece's lines may stay when an agent of `die` writes it: none for a U piece (R283, R287). -/
def Piece.writer (die : Nat) (p : Piece) : Option Nat := if p.cls = .u then none else some die

/-- Whether the pieces of a write past the L1 may be written now (R283, R447). -/
def State.piecesOwnable (s : State) (die : Nat) (ps : List Piece) : Bool := ps.all fun p => s.ownableAll (p.writer die) p.runs

/-- The invalidations that such a write asks for. -/
def State.claimPieces (s : State) (die : Nat) (ps : List Piece) : State :=
  ps.foldl (fun s p => s.claimAll (p.writer die) p.runs) s

/-- What such a write leaves in the L2 of its die: its lines dirty, but for U pieces (R283, R287). -/
def State.dirtyPieces (s : State) (die : Nat) (ps : List Piece) : State :=
  ps.foldl (fun s p => if p.cls = .u then s else (p.runs.flatMap fun r => linesOf r.1 r.2).foldl (fun s a => s.takeDirty die a) s) s

/-! ### A performed write -/

/-- Whether a write of `n` bytes at `x` meets the read set or the write set of a transaction (R414); a granule of a cluster
member's store is met where the member is. -/
def State.txHit (s : State) (x : Spot) (n : Nat) (t : Tx) : Bool :=
  (t.reads ++ t.writes).any fun y => x.meets n ((s.resolve y).getD y) 64

/-- The transactions of the groups that `p` admits and with which a write is about to conflict, marked CONFLICT (R324,
R414). -/
def State.markIf (s : State) (p : GroupId → Bool) (x : Spot) (n : Nat) : State :=
  s.abortWhere (fun g t => p g.id && s.txHit x n t) 1

/-- The transactions with which a write of a device agent conflicts: all but the writer's own. -/
def State.markConflicts (s : State) (w : Option GroupId) (x : Spot) (n : Nat) : State := s.markIf (fun i => decide (w ≠ some i)) x n

/-- A waiting operation whose object meets the bytes becomes due again (R255). -/
def Outst.retryAt (x : Spot) (n : Nat) (o : Outst) : Outst :=
  let hit := fun (t : Target) => t.pieces.any fun p => x.meets n p.spot p.len
  { o with todo := o.todo ++ o.held.filter hit, held := o.held.filter fun t => !hit t }

/-- A waiting operation's threads at a peer's object, due again (R437). -/
def Outst.retryPeer (o : Outst) : Outst :=
  let hit := fun (t : Target) => t.pieces.any fun p => match p.spot with
    | .pa a => isPeer a
    | _ => false
  { o with todo := o.todo ++ o.held.filter hit, held := o.held.filter fun t => !hit t }

/-- Every waiting operation of a group due again. -/
def Group.retryAll (g : Group) : Group :=
  { g with out := g.out.map fun o => { o with todo := o.todo ++ o.held, held := [] } }

/-- Tasks whose WAITON or EPRIO a wait has changed: their TCBs are mirrored at the next cycle (R240, log entry 47). -/
def State.lag (s : State) (ks : List TaskKey) : State := { s with stale := s.stale ++ ks.filter fun k => !s.stale.contains k }

/-- EPRIO of a task recomputed: the maximum of PRIO and the EPRIO of every task still sleeping on it (R260). -/
def State.recomputePrio (s : State) (k : TaskKey) : State :=
  { s.lag [k] with tasks := s.tasks.map fun t =>
      if t.key = k then
        { t with eprio := s.teams.foldl (fun e u =>
            match u.sleep with
            | some sl => if sl.raised.contains k then max e (((s.task? u.task).map (·.eprio)).getD 0) else e
            | none => e) (field t.shape.toNat 25 8) }
      else t }

/-- WAITON of a task (R256). -/
def State.setWaiton (s : State) (k : TaskKey) (o : Word) : State :=
  { s.lag [k] with tasks := s.tasks.map fun t => if t.key = k then { t with waiton := o } else t }

/-- A group that loses the issue slot as it is parked (R161). -/
def Group.yieldTurn (g : Group) : Group := { g with turn := false }

/-- The groups of a team parked by an adoption or a sleep (R151, R161). -/
def State.parkTeam (s : State) (t : Team) : State :=
  s.mapGroups fun g => if g.task = t.task ∧ g.lin = t.lin then g.yieldTurn else g

/-- A sleeping team woken (R259): it performs its waiting word again for the threads outside the satisfied set. The tasks that it raised
recompute EPRIO one after another, the deepest of the chain first; R260 gives no order (DESIGN CHOICE, log entry 52). -/
def State.wakeTeam (s : State) (t : Team) : State :=
  match t.sleep with
  | none => s
  | some sl =>
    let s := (s.putTeam { t with sleep := none }).setWaiton t.task 0
    let s := s.mapGroups fun g => if g.task = t.task ∧ g.lin = t.lin then g.retryAll else g
    sl.raised.foldl State.recomputePrio s

/-- The sleepers that satisfy `p`, woken. -/
def State.wakeIf (s : State) (p : Team → Sleep → Bool) : State :=
  (s.teams.filter fun t => (t.sleep.map (p t)).getD false).foldl State.wakeTeam s

/-- The sleepers whose owner chain holds a task, woken (R245, R246, R259). -/
def State.wakeChain (s : State) (k : TaskKey) : State := s.wakeIf fun _ sl => sl.chain.contains k

/-- What waits for a change at the home of the bytes: sleepers, waiting operations and remote watchers (R255, R259, R437).
An object takes at most 32 bytes (R250). -/
def State.wakeAt (s : State) (x : Spot) (n : Nat) : State :=
  match x with
  | .pa a =>
    let s := s.wakeIf fun _ sl => (sl.obj.map fun o => overlaps a n o 32).getD false
    let s := s.mapGroups fun g => { g with out := g.out.map (Outst.retryAt x n) }
    let due := s.watchers.filter fun w => overlaps a n w.pa 32
    if due.isEmpty then s
    else { s with
      watchers := s.watchers.filter fun w => !overlaps a n w.pa 32
      outbox := s.outbox ++ due.map fun w => .wake w.dev w.pa }
  | _ => s

/-- The doorbells that a write rings (R432). -/
def State.ringBell (s : State) (x : Spot) (n : Nat) : State :=
  match x with
  | .pa a =>
    if s.ctxs.any fun c => overlaps a n (c.window + 0x800) 8 then
      { s with ctxs := s.ctxs.map fun c => if overlaps a n (c.window + 0x800) 8 then { c with scan := true } else c }
    else s
  | _ => s

/-- Consecutive bytes written from a spot, with nothing else done. -/
def State.writeSpots (s : State) (x : Spot) : List Byte → State
  | [] => s
  | b :: bs => State.writeSpots (s.writeSpot b x) (x.shift 1) bs

/-- The lines of a write of the device noted: those that the host holds, before whose call back it is not performed, and those for
which the device has yielded once, whose operation it is (R447). -/
def State.noteWrite (s : State) (x : Spot) (n : Nat) : State :=
  match x with
  | .pa a =>
    let ls := linesOf a n
    let host := ls.filter fun l => (s.dirOf l).host
    if host.isEmpty && !ls.any s.owed.contains then s
    else { s with called := s.called ++ host, owed := s.owed.filter fun l => !ls.contains l }
  | _ => s

/-- A write of an agent outside the device, performed at its place: no transaction is aborted (R326). -/
def State.outsideWrite (s : State) (x : Spot) (bs : List Byte) : State :=
  (((s.writeSpots x bs).clearPoison x bs.length).wakeAt x bs.length).ringBell x bs.length

/-- The dirty S bytes of a core at the addresses that satisfy `p`, as runs. -/
def State.dirtyS (s : State) (c : CoreId) (p : Nat → Bool) : List (Nat × Nat) :=
  ((s.coreD c).l1s.filter fun x => x.dirty && p x.pa).map fun x => (x.pa, 1)

/-- Whether the dirty S bytes of a core may be written back now: the L2 treats their lines as D (R282, R283, R447). -/
def State.backable (s : State) (c : CoreId) (p : Nat → Bool) : Bool := s.ownableAll (some c.die) (s.dirtyS c p)

/-- The invalidations that a write-back of a core's dirty S bytes asks for. -/
def State.claimBack (s : State) (c : CoreId) (p : Nat → Bool) : State := s.claimAll (some c.die) (s.dirtyS c p)

/-- Every dirty S byte of a core written back under its mask to the L2, for the addresses that satisfy `p` (R286). The
transactions of the core's own groups have read these bytes in its L1 already. -/
def State.writeBackS (s : State) (c : CoreId) (p : Nat → Bool) : State :=
  let l := (s.coreD c).l1s
  let out := l.filter fun x => x.dirty && p x.pa
  if out.isEmpty then s
  else
    let runs := (out.map fun x => x.pa / 64 * 64).dedup.flatMap fun a => granuleRuns (out.map fun x => (.pa x.pa, x.val)) (.pa a)
    let bad := (out.filter fun x => s.poison.contains (.l1 c x.pa)).map (·.pa)
    let s := runs.foldl (fun s r =>
      ((s.markIf (fun i => decide (i.coreId ≠ c)) r.1 r.2.length).noteWrite r.1 r.2.length).outsideWrite r.1 r.2) s
    let s := out.foldl (fun s x => s.takeDirty c.die x.pa) (s.modCore c fun k =>
      { k with l1s := l.map fun x => if p x.pa then { x with dirty := false } else x })
    bad.foldl (fun s a => s.taint c.die a) s

/-- Whether the L1 action of a release at a scope may be performed now (R286). -/
def State.releasable (s : State) (c : CoreId) (sc : Scope) : Bool := !sc.wide || s.backable c fun _ => true

/-- The L1 action of a release at a scope (R286). -/
def State.releaseL1 (s : State) (c : CoreId) (sc : Scope) : State :=
  if sc.wide then s.writeBackS c fun _ => true else s

/-- A release's step: its L1 action and what follows it, or the invalidations for which it waits. -/
def State.releasing (s : State) (c : CoreId) (sc : Scope) (f : State → State) : State :=
  if s.releasable c sc then f (s.releaseL1 c sc) else s.claimBack c fun _ => true

/-- A write of the device, performed at its place: by a group, or by another agent of the device. -/
def State.deviceWrite (s : State) (w : Option GroupId) (x : Spot) (bs : List Byte) : State :=
  ((s.markConflicts w x bs.length).noteWrite x bs.length).outsideWrite x bs

/-- A write at a place of the device's own in an operation: one that a peer asked for aborts no transaction (R326). -/
def State.homeWrite (s : State) (out : Bool) (x : Spot) (bs : List Byte) : State :=
  if out then (s.noteWrite x bs.length).outsideWrite x bs else s.deviceWrite none x bs

/-! ### Rings and the fault log (R394) -/

/-- A ring as its 16 bytes at physical address `r` describe it: base, entry count, HEAD, TAIL. -/
def State.ring (s : State) (r : Nat) : Nat × Nat × Nat × Nat :=
  let b := s.paNat r 8
  (b / 4096 * 4096, 2 ^ (b % 32), s.paNat (r + 8) 4, s.paNat (r + 12) 4)

/-- Entries in a ring. -/
def State.ringLen (s : State) (r : Nat) : Nat := ((s.ring r).2.2.2 + 4294967296 - (s.ring r).2.2.1) % 4294967296

/-- An entry produced; `none` when the ring is full. -/
def State.ringPush (s : State) (r : Nat) (bs : List Byte) : Option State :=
  let q := s.ring r
  if s.ringLen r = q.2.1 then none
  else some ((s.deviceWrite none (.pa (q.1 + q.2.2.2 % q.2.1 * bs.length)) bs).deviceWrite none (.pa (r + 12))
    (natToBytes 4 (q.2.2.2 + 1)))

/-- An 8-byte entry consumed; `none` when the ring is empty. -/
def State.ringPop (s : State) (r : Nat) : Option (Nat × State) :=
  let q := s.ring r
  if s.ringLen r = 0 then none
  else some (s.paNat (q.1 + q.2.2.1 % q.2.1 * 8) 8, s.deviceWrite none (.pa (r + 8)) (natToBytes 4 (q.2.2.1 + 1)))

/-- An entry in the FLOG of the context whose descriptor lies at `d`: dropped, with FLDROP counted, when the ring is full. -/
def State.flogPush (s : State) (d : Nat) (e : List Byte) : State :=
  (s.ringPush (d + 0xB0) e).getD (s.deviceWrite none (.pa (d + 0x1C)) (natToBytes 4 (s.paNat (d + 0x1C) 4 + 1)))

/-- A FLOG entry of a context (R394). -/
def State.flog (s : State) (k : TaskKey) (code : Nat) (addr : DWord) (loc : Word) (depth : Nat) : State :=
  match s.ctx? (ctxOf k) with
  | none => s
  | some c => s.flogPush c.desc (natToBytes 4 (idOf k).toNat ++ natToBytes 4 code ++ natToBytes 8 addr.toNat ++
      natToBytes 4 loc.toNat ++ natToBytes 4 depth ++ natToBytes 8 0)

/-- Whether a checkpoint's images are being made (R453 steps 2 to 4): launches and starts are held and every resident team is saved. The
device's own agents write nothing then. -/
def State.imaging (s : State) : Bool := s.held && s.teams.all fun t => decide (t.live = 0)

/-! ### Tasks -/

/-- The STATE code (R238). -/
def TaskState.code : TaskState → Nat
  | .template => 0
  | .pending => 1
  | .ready => 2
  | .running => 3
  | .finished => 4
  | .killed => 5

/-- PRIO of a task (R238). -/
def Task.prio (t : Task) : Nat := field t.shape.toNat 25 8

/-- The bytes of a TCB that the device writes, mirrored into memory (R237, R240); `out` for an operation of a peer. -/
def State.mirror (s : State) (t : Task) (out : Bool := false) : State :=
  let a := natToBytes 4 t.pred.toNat ++ natToBytes 4 t.succ.length ++ natToBytes 4 t.done
  let b := natToBytes 4 t.parent.toNat ++ natToBytes 4 t.waiton.toNat ++ natToBytes 4 (t.eprio * 16 + t.state.code) ++
    natToBytes 4 t.started ++ (List.range 12).flatMap fun i => natToBytes 4 (t.succ.getD i 0).toNat
  (s.homeWrite out (.pa (t.pa + 0x24)) a).homeWrite out (.pa (t.pa + 0x40)) b

/-- The TCBs of tasks that a wait has changed mirrored, but for one that software has taken back (R240). -/
def State.mirrorStale (s : State) : State :=
  s.stale.foldl (fun s k => match s.task? k with
    | some t => if s.paNat (t.pa + 0x48) 4 % 16 = 0 then s else s.mirror t
    | none => s) { s with stale := [] }

/-- A task stored back and mirrored. -/
def State.putTask (s : State) (t : Task) (out : Bool := false) : State :=
  let s' : State := { s with tasks := s.tasks.map fun u => if u.key = t.key then t else u }
  s'.mirror t out

/-- The depth of a core's adoption stack (R35). -/
def State.depth (s : State) (c : CoreId) : Nat := ((s.core? c).map fun k => k.frames.length).getD 0

/-- The frame of an adopted team popped (R258): the waiting team resumes at its waiting word. -/
def State.popFrame (s : State) (c : CoreId) (k : TaskKey) (lin : Nat) : State :=
  match (s.coreD c).frames.find? fun f => f.adopted = (k, lin) with
  | none => s
  | some f =>
    let s := s.modCore c fun x => { x with frames := x.frames.filter fun f => f.adopted ≠ (k, lin) }
    let s := s.setWaiton f.waiter.1 0
    s.mapGroups fun g => if g.task = f.waiter.1 ∧ g.lin = f.waiter.2 then g.retryAll else g

/-- The owner that a waiting operation's object names (R255). -/
def State.ownerOf (s : State) (k : LLKind) (pa : Nat) : Word :=
  match k with
  | .cell _ _ _ => BitVec.ofNat 32 (s.paNat (pa + 12) 4)
  | .lock _ _ _ => BitVec.ofNat 32 (s.paNat pa 4)
  | _ => BitVec.ofNat 32 (s.paNat (pa + 8) 4)

/-- The address of a record's access. -/
def Target.pa (t : Target) : Nat :=
  match t.pieces with
  | p :: _ => (match p.spot with
    | .pa a => a
    | _ => 0)
  | [] => 0

/-- The waiting operations of a group on objects of an owner that is killed, due again (R246). -/
def State.retryOwned (s : State) (k : TaskKey) (g : Group) : Group :=
  if g.ctx = ctxOf k then
    { g with out := g.out.map fun o =>
        let hit := fun (t : Target) => s.ownerOf o.kind t.pa == idOf k
        { o with todo := o.todo ++ o.held.filter hit, held := o.held.filter fun t => !hit t } }
  else g

/-- A waiting HMASK value whose group is killed or reset: the spec does not say what becomes of it, and it is still applied,
DESIGN CHOICE, log entry 47. -/
def HmaskReq.orphan (gone : List GroupId) (r : HmaskReq) : HmaskReq :=
  if (r.group.map gone.contains).getD false then { r with group := none } else r

/-- The owner of a node entry. -/
def NodeItem.task : NodeItem → TaskKey
  | .token _ _ k _ _ _ _ _ => k
  | .drain _ _ k _ _ _ _ _ _ _ _ _ => k

/-- The group of a request to the pool. -/
def PoolReq.group : PoolReq → GroupId
  | .grow g _ => g
  | .ctxld g _ _ => g
  | .rig g => g

/-- Rigs without those of some groups; where pages are released, the others are to be looked at for compaction (R184). -/
def dropRigs (p : Rig → Bool) (l : List Rig) : List Rig :=
  let rest := l.filter fun r => !p r
  if l.any fun r => p r && !r.pages.isEmpty then rest.map fun r => { r with compact := true } else rest

/-- What engines, rigs and the pool of a core hold for groups and teams that are gone, abandoned (R372, R424). -/
def Core.abandon (k : TaskKey) (gone : List GroupId) (c : Core) : Core :=
  { c with
    rigs := dropRigs (fun r => gone.contains r.group) c.rigs
    copies := c.copies.filter fun x => x.task ≠ k
    node := c.node.filter fun x => x.task ≠ k
    updates := c.updates.filter fun x => x.task ≠ k
    drains := c.drains.filter fun x => x.task ≠ k
    arrivals := c.arrivals.filter fun x => x.task ≠ k
    pool := c.pool.filter fun x => !gone.contains x.group
    claim := if (c.claim.map gone.contains).getD false then none else c.claim }

/-- The tokens of a core's node whose updates, and those of every earlier token, are applied: complete (R374, R382). -/
def State.tokensDone (s : State) (c : CoreId) : State :=
  let k := s.coreD c
  let queued := k.node.map fun x => match x with
    | .token id _ _ _ _ _ _ _ => id
    | .drain id _ _ _ _ _ _ _ _ _ _ _ => id
  let done := fun (id : Nat) => !queued.contains id && k.updates.all fun u => decide (id < u.token)
  s.mapGroups fun g =>
    if g.id.coreId = c then
      { g with out := g.out.map fun o => match o.kind with
        | .token id => if done id then { o with ready := true } else o
        | _ => o }
    else g

/-- Whether an object at a physical address names a task as owner in one of the places of R247, R248 and R250. -/
def State.namesOwner (s : State) (id : Word) (pa : Nat) : Bool := [0, 8, 12].any fun i => s.paNat (pa + i) 4 == id.toNat

/-- The remote watchers of the objects that name a killed task as owner, woken (R246, R437). -/
def State.wakeWatchers (s : State) (id : Word) : State :=
  let due := s.watchers.filter fun w => s.namesOwner id w.pa
  { s with
    watchers := s.watchers.filter fun w => !s.namesOwner id w.pa
    outbox := s.outbox ++ due.map fun w => .wake w.dev w.pa }

/-- What waits for an object of a killed task, woken: the sleepers whose chain holds the task, the remote watchers of the objects that
name it, and the waiting operations on these (R246, R259, R437). -/
def State.wakeOwned (s : State) (k : TaskKey) : State := ((s.wakeChain k).wakeWatchers (idOf k)).mapGroups (s.retryOwned k)

/-- The kill of a task (R246, R424): its teams end at once with nothing flushed, its unstarted and saved teams go, its
frames pop, its successors are decremented, its sleepers wake, and FLOG gets its entry. A finished or killed task is
not killed again (R395). -/
def State.kill (s : State) (k : TaskKey) (code : Nat) (addr : DWord) (loc : Word) (depth : Nat) : State :=
  let gone := (s.groups.filter fun g => g.task = k).map (·.id)
  let adopted := s.teams.filter fun t => t.task = k
  let old := s.task? k
  if (old.map fun t => t.state = .finished || t.state = .killed).getD false then s
  else
    let s := (s.flog k code addr loc depth).disown fun _ => true
    let s : State := { s with
      cores := s.cores.map (Core.abandon k gone)
      groups := s.groups.filter fun g => g.task ≠ k
      teams := s.teams.filter fun t => t.task ≠ k
      saved := s.saved.filter fun v => v.team.task ≠ k
      ready := s.ready.filter fun r => r.task ≠ k
      wide := s.wide.filter fun w => w.task ≠ k
      migrations := s.migrations.map fun m => { m with waiters := m.waiters.filter fun g => !gone.contains g }
      hmaskQ := s.hmaskQ.map (HmaskReq.orphan gone) }
    let s := s.cores.foldl (fun s c => s.tokensDone c.id) s
    let s := adopted.foldl (fun s t => s.popFrame t.core k t.lin) s
    match old with
    | none => s
    | some t =>
      let s := s.putTask { t with state := .killed, paddock := false }
      let s : State := { s with decrs := s.decrs ++ t.succ.map fun x => ⟨k, some x⟩ }
      s.wakeOwned k

/-- The teams that `p` admits run on: they are no longer to be taken, and their rigs' chains move again (R418, R421, R453). -/
def State.runOn (s : State) (p : Team → Bool) : State :=
  let of := fun (i : GroupId) => s.groups.any fun g => decide (g.id = i) && ((s.teamOf g).map p).getD false
  let go := fun (r : Rig) =>
    if (r.phase = .quiet ∨ r.phase = .running) ∧ of r.group = true then { r with phase := .running, gated := false } else r
  { s with
    teams := s.teams.map fun t => if p t then { t with taken := false } else t
    cores := s.cores.map fun c => { c with rigs := c.rigs.map go } }

/-- Whether a team is parked for a sleep or an adoption of its own. -/
def State.teamParked (s : State) (t : Team) : Bool :=
  t.sleep.isSome || (s.coreD t.core).frames.any fun f => f.waiter = (t.task, t.lin)

/-! ### Parked groups (R151, R159, R182, R410, R419) -/

/-- Whether a rig holds a page on a quadrant (R179, R182). -/
def Rig.onQuad (q : Nat) (r : Rig) : Bool := r.pages.any fun o => o / 4 == q

/-- Whether a quadrant of a core is held by a rig. -/
def State.quadHeld (s : State) (c : CoreId) (q : Nat) : Bool := (s.coreD c).rigs.any (Rig.onQuad q)

/-- Whether a group is the handler of an open port fault record (R410). -/
def State.portHandler (s : State) (g : Group) : Bool :=
  g.inHandler && (s.coreD g.id.coreId).rigs.any fun r => decide (r.group = g.id) && r.open_

/-- Whether a group's slot may issue words now: no adoption, sleep or rig parks it. -/
def State.mayIssue (s : State) (g : Group) : Bool :=
  !((s.teamOf g).map s.teamParked).getD false && (!s.quadHeld g.id.coreId g.id.quad || s.portHandler g)

/-- Whether a group may go on to a next clause: its team is not being pre-empted (R419). -/
def State.mayStart (s : State) (g : Group) : Bool := s.mayIssue g && !((s.teamOf g).map (·.taken)).getD false

/-! ### Taking a trap and returning from it (R402 to R407, R470) -/

/-- FAULTCODE of a record (R404). -/
def FaultRec.word (r : FaultRec) : Word :=
  r.raw.getD <| BitVec.ofNat 32 (r.port.isSome.toNat * 2147483648 + r.late.toNat * 1073741824 + r.imm * 65536 + r.write.toNat * 32768 +
    r.widx * 256 + r.code)

/-- The words of a port fault record (R409). -/
def PortRec.words (p : PortRec) : Vector Word 8 :=
  #v[loWord p.header, hiWord p.header, BitVec.ofNat 32 (p.lane + p.code * 256), BitVec.ofNat 32 p.iter, loWord p.base,
    hiWord p.base, p.stride, p.value]

/-- Trap entry of a group that has reached the state of R29 (R402 to R405, R470): the record is written, an open
transaction is aborted with cause TRAP, and the group runs in-handler at `traph` with every thread that is not
retired. -/
def Group.enterHandler (g : Group) (r : FaultRec) (traph : DWord) : Group :=
  { (g.setMask (~~~ g.x)) with
    faultMask := r.mask ||| g.lateMask
    faultCode := r.word
    faultAddr := r.addr
    retpc := r.retpc
    retw := BitVec.ofNat 32 (r.retw + r.rp.toNat * 16)
    retmask := g.restore.getD g.mask
    fabrec := match r.fabrec with
      | some [a, b, c, d] => #v[a, b, c, d]
      | _ => g.fabrec
    portrec := match r.port with
      | some p => p.words
      | none => g.portrec
    inHandler := true
    hsat := 0
    lateMask := 0
    lateCtrs := []
    lateRec := none
    pc := traph
    stage := .header
    turn := false
    clause := {}
    pending := []
    serial := none
    clauseSeq := g.seq
    status := .running
    wait := none
    fault := none
    restore := none
    replay := none
    missed := []
    resume := none
    tx := none
    txStatus := if g.tx.isSome then 13 else g.txStatus }

/-- TRAPH of a group's task (R261); 0 where the state holds no such task. -/
def State.traph (s : State) (g : Group) : DWord := ((s.task? g.task).map (·.traph)).getD 0

/-- Whether a group has reached the state of R29, its stores are performed, and its barrier arrivals and slot changes made
(R402 steps 1 and 2). -/
def Group.quiet (g : Group) : Bool := g.out.isEmpty && g.stores.isEmpty && g.posts.isEmpty && g.sets.isEmpty

/-- Whether a recorded fault may be delivered now (R206): no adoption, sleep or rig parks the group, but that its own rig
keeps it from no port fault record (R410). -/
def State.mayTrap (s : State) (g : Group) : Bool :=
  !((s.teamOf g).map s.teamParked).getD false &&
    (!s.quadHeld g.id.coreId g.id.quad || s.portHandler g || (g.fault.bind (·.port)).isSome)

/-- A SPAT that waits for its group's results given up: its place among the SPATs of the core goes (R175, R206). -/
def State.leaveSpat (s : State) (i : GroupId) : State :=
  let mine := fun (r : Rig) => decide (r.group = i ∧ r.phase = .wait)
  if (s.coreD i.coreId).rigs.any mine then s.modCore i.coreId fun c => { c with rigs := c.rigs.filter fun r => !mine r } else s

/-- The delivery of a recorded fault (R397, R402, R407): without a handler, or in the handler, the task is killed;
otherwise the group traps once it is quiet. The core's dirty S bytes are written back, so that every older store is
performed at .dev. -/
def State.takeTrap (s : State) (g : Group) : State :=
  match g.fault with
  | some r =>
    if g.inHandler || s.traph g = 0 then
      s.kill g.task r.word.toNat r.addr (locWord g.id.coreId) (s.depth g.id.coreId)
    else if g.quiet then s.releasing g.id.coreId .dev fun s => (s.leaveSpat g.id).put (g.enterHandler r (s.traph g))
    else s
  | none => s

/-- A fault of a group (R397, R402, R407): it is recorded, and delivered as soon as the group may take it. -/
def State.raise (s : State) (g : Group) (r : FaultRec) : State :=
  let g := { g with fault := some r, status := .trapping, turn := false }
  if s.mayTrap g then (s.put g).takeTrap g else s.put g

/-- The record of a fault at the word at which the group stands (R408, R470), with RP = 1. -/
def Group.wordFault (g : Group) (code : Nat) (mask : Mask) (addr : DWord) : FaultRec :=
  { code, mask, addr, widx := g.clause.next, retpc := g.clause.addr, retw := g.clause.next, rp := true }

/-- A fault raised for the whole group at its word (R470, last row). -/
def State.groupFault (s : State) (g : Group) (code : Nat) : State := s.raise g (g.wordFault code g.mask g.clause.addr)

/-- The fault of a late trap (R399): the recorded one, or after a restore the saved FAULTCODE and FAULTADDR (R149). -/
def Group.lateRecord (g : Group) : FaultRec :=
  let r : FaultRec :=
    { code := 0, mask := g.lateMask, addr := g.faultAddr, late := true, widx := 0, retpc := g.pc, retw := 0, rp := false }
  match g.lateRec with
  | some (c, a) => { r with code := c % 256, write := bitOf c 15, addr := a }
  | none => { r with code := g.faultCode.toNat % 256, raw := some g.faultCode }

/-- The code of a late fault whose access was a write: with WRT (R404). -/
def writeCode (code : Nat) : Nat := code + 32768

/-- A late fault of thread t (R399): its bit, its counter, and the record if it is the first fault since the last ERET.
Bit 15 of the code says that the access was a write. A late mask without counters is one that a restore brought, due at once: it
stays so. -/
def Group.noteLate (g : Group) (ctr : Fin 8) (f : Nat × Nat × Nat) : Group :=
  let g := { g with lateMask := g.lateMask ||| BitVec.ofNat 96 (2 ^ f.1),
                    lateCtrs := if g.lateCtrs.contains ctr ∨ (g.lateMask ≠ 0 ∧ g.lateCtrs = []) then g.lateCtrs else ctr :: g.lateCtrs }
  if g.lateRec.isSome || g.inHandler then g
  else { g with lateRec := some (f.2.1, BitVec.ofNat 64 f.2.2), faultCode := BitVec.ofNat 32 (f.2.1 + 1073741824),
                faultAddr := BitVec.ofNat 64 f.2.2 }

/-- ERET's effect on the group (R406). With WIDX 0 the header at RETPC is decoded again; otherwise the clause is fetched
and decoded again and `resume` says where it continues, the mask being the handler's until then. An S clause that ends in
ERET is a preceding S clause like any other (R25). -/
def Group.returnFromTrap (g : Group) : Group :=
  let m := g.retmask &&& ~~~ g.x
  let w := field g.retw.toNat 0 16
  let h : Group :=
    { g with inHandler := false, pc := g.retpc &&& ~~~3, stage := .header, turn := false, clause := {},
             serial := if g.isSerial then some (g.clauseSeq, g.setc) else none, yielding := g.yielding || g.yields }
  if w = 0 then h.setMask m
  else
    let rp := bitOf g.retw.toNat 4
    { (if rp then h.setMask (g.mask &&& ~~~ g.x) else h) with resume := some ⟨w, rp, m⟩ }

/-! ### Transactions (R415) -/

/-- The end of an abort whose cause is seen, once every result is written (R415 steps 2 to 4). -/
def Group.finishAbort (g : Group) : Group :=
  match g.tx with
  | some t =>
    match t.seen with
    | some (cause, code) =>
      if g.out.isEmpty then
        { (g.setMask (t.mask &&& ~~~ g.x)) with
          pc := t.abortHdr, stage := .header, turn := false, clause := {}, pending := [], serial := none, clauseSeq := g.seq,
          tx := none, txStatus := BitVec.ofNat 32 (code * 256 + cause), restore := none, replay := none, resume := none,
          status := .running, wait := none, fault := none }
      else g
    | none => g
  | none => g

/-- The abort of a group's open transaction by its own instruction, which has no effect (R414). -/
def State.abortTx (s : State) (g : Group) (cause code : Nat) : State :=
  let t := (s.put ((s.settleReads g).seeAbort cause code).finishAbort).disown fun l => (g.tx.map fun x => x.lines.contains l).getD false
  if s.settlesAcquire (fun _ x => s.reachable x.pieces) g then t.dropS g.id.coreId fun _ => true else t

/-! ### The issue of a word (R471) -/

/-- An outcome of a step. -/
abbrev Out := Host.Outcome State Fault Refusal

/-- A word of the group in focus that stalls at issue: the quadrant selects again (R161). -/
def State.stall (s : State) (g : Group) : State := s.put { g with turn := false }

/-- A word of the group in focus: the checks of R471 steps 1 to 3, then `body`. -/
def State.word (s : State) (priv : Bool) (rs : List PReg) (body : Group → State) : Out :=
  match s.cur with
  | none => .fault .noGroup
  | some g =>
    match g.issueFault priv rs with
    | some c => .next (s.groupFault g c)
    | none => .next (body g)

/-- A word that changes its group alone and issues on (R20, R21); `n` is 2 with a literal. -/
def State.plain (s : State) (n : Nat) (rs : List PReg) (f : Group → Group) : Out :=
  s.word false rs fun g => s.put ((f g).nextWord n)

/-- A word that stalls at issue while `wait`, before its checks (R20, R471). -/
def State.stallWord (s : State) (wait : Group → Bool) (priv : Bool) (rs : List PReg) (body : Group → State) : Out :=
  match s.cur with
  | none => .fault .noGroup
  | some g => if wait g then .next (s.stall g) else s.word priv rs body

/-- A long-latency word: it stalls while its counter reads 63 (R26). -/
def State.longWord (s : State) (priv : Bool) (rs : List PReg) (body : Group → State) : Out :=
  s.stallWord Group.counterFull priv rs body

end Sys2Proof.Machine
end

