-- ==== Sys2Proof/Machine/Flags.lean ====
section
/-! DEFINITION. Compare results in predicate pairs (R108, R118), the flags of FPSR (R38), and the word forms that the
register-only families share. -/

namespace Sys2Proof.Machine

/-- An integer condition (R80); `un` and `ord` are floating-point conditions and hold of no pair of integers. -/
def intCond (c : Cond) (x y : Int) : Bool :=
  match c with
  | .eq => decide (x = y)
  | .ne => decide (x ≠ y)
  | .lt => decide (x < y)
  | .le => decide (x ≤ y)
  | .gt => decide (y < x)
  | .ge => decide (y ≤ x)
  | .un => false
  | .ord => false

/-- The even predicate of a pair (R80). -/
def pairLo (pair : Fin 6) : Pred := ⟨2 * pair.val, by omega⟩

/-- The odd predicate of a pair (R80). -/
def pairHi (pair : Fin 6) : Pred := ⟨2 * pair.val + 1, by omega⟩

/-- A predicate pair written by a compare (R108): 0 in both for an inactive thread, the condition and its complement for
a thread that the compare evaluates, the old values for the rest. -/
def Group.setPair (g : Group) (eval : Nat → Bool) (pair : Fin 6) (c : Nat → Bool) : Group :=
  let f := fun (old : Mask) (neg : Bool) => maskOf fun t =>
    if g.isActive t then (if eval t then c t != neg else maskBit old t) else false
  { g with p := (g.p.set (pairLo pair) (f g.p[pairLo pair] false)).set (pairHi pair) (f g.p[pairHi pair] true) }

/-- The predicates of a pair, as registers (R27). -/
def pairRegs (pair : Fin 6) : List PReg := [.p (2 * pair.val), .p (2 * pair.val + 1)]

/-- The flags that the threads of `enabled()` raise together (R38). -/
def Group.allFlags (g : Group) (gd : Guard) (fl : Nat → Flags) : Flags :=
  (g.enabled gd).foldl (fun acc t => acc ||| fl t) 0

/-- The registers that every vector word implies: its guard and the mask (R9, R27). -/
def vecRegs (gd : Guard) : List PReg := guardRegs gd ++ maskRegs

/-- A vector word that writes v(d) from one thread's operands (R14). -/
def State.vecWord (s : State) (gd : Guard) (d : Reg) (rs : List PReg) (f : Group → Nat → Word) : Out :=
  s.plain 1 (vecRegs gd ++ .v d.val :: rs) fun g => g.vset gd d.val (f g)

/-- A vector word that writes the pair v[d:d+1]. -/
def State.vecPairWord (s : State) (gd : Guard) (d : Reg) (rs : List PReg) (f : Group → Nat → DWord) : Out :=
  s.plain 1 (vecRegs gd ++ vRegs d.val 2 ++ rs) fun g => g.vsetPair gd d.val (f g)

/-- A vector word with operands v(a) and b. -/
def State.vecAB (s : State) (gd : Guard) (d a : Reg) (b : BOp) (f : Word → Word → Word) : Out :=
  s.vecWord gd d [.v a.val, bReg b] fun g t => f (g.vget a.val t) (g.bval b t)

/-- A vector word with the operand b alone. -/
def State.vecB (s : State) (gd : Guard) (d : Reg) (b : BOp) (f : Word → Word) : Out :=
  s.vecWord gd d [bReg b] fun g t => f (g.bval b t)

/-- A scalar word with operands s(a) and s(b), executed once for the group (R14). -/
def State.scalarAB (s : State) (d a b : Reg) (f : Word → Word → Word) : Out :=
  s.plain 1 [.s d.val, .s a.val, .s b.val] fun g => g.sset d.val (f (g.sget a.val) (g.sget b.val))

end Sys2Proof.Machine
end

