-- ==== Sys2Proof/Machine/Translate.lean ====
section
/-! DEFINITION. Address translation: page tables, translation caches, migration start (R272, R299 to R301, R388 to
R392). -/

namespace Sys2Proof.Machine

/-- What an access asks of a page (R390). -/
inductive Need where
  | load | store | both | fetch
  deriving DecidableEq, Repr

/-- Whether an access writes. -/
def Need.writes : Need → Bool
  | .store => true
  | .both => true
  | _ => false

/-! ### Backed addresses and links -/

/-- The target expander of a capacity address (R450): of the enabled decoder that covers it, the ways taking 4 KiB granules
in turn from TGT upward. -/
def State.expander (s : State) (a : Nat) : Option Nat :=
  (List.finRange 16).findSome? fun i =>
    let d := s.decoders[i].toNat
    let base := 0x40000000000 + i.val / 8 * 0x20000000000 + field d 0 2048 * 2 ^ 30
    if bitOf d 63 && decide (base ≤ a ∧ a < base + field d 30 4096 * 2 ^ 30) then
      some (field d 56 16 + (a - base) / 4096 % 2 ^ field d 60 4)
    else none

/-- Whether an enabled capacity decoder covers an address (R450). -/
def State.capBacked (s : State) (a : Nat) : Bool := (s.expander a).isSome

/-- Whether a physical address is backed (R272); the peer range under the device's own index is refused. -/
def State.backed (s : State) (a : Nat) : Bool :=
  isHbm a || (isCap a && s.capBacked a) || (isPeer a && peerOf a != s.devidx) || isHost a

/-- Whether a UALink port is UP (R434). -/
def State.anyUa (s : State) : Bool := s.ua.toList.any fun l => l.state = .up

/-- Whether the link that an address lies behind is up (R401). -/
def State.linkUp (s : State) (a : Nat) : Bool :=
  if isPeer a then s.anyUa
  else if isHost a then s.hostLink.state = .up
  else if isCap a then s.capLink[if a < 0x60000000000 then (0 : Fin 2) else 1].state = .up
  else true

/-! ### The walk -/

/-- The levels of a walk (R388): the lowest bit and the entries of the index, and the size that a leaf maps. -/
def levels : List (Nat × Nat × Option Nat) :=
  [(48, 512, none), (39, 512, none), (30, 512, some 1073741824), (21, 512, some 2097152), (16, 32, some 65536)]

/-- A page as a leaf maps it. -/
structure Page where
  base : Nat        -- virtual base
  size : Nat
  entry : Nat       -- physical address of the leaf entry
  pte : DWord
  deriving DecidableEq, Repr

/-- The end of a walk: a page, an entry with V = 0, or a refused entry. -/
inductive Walked where
  | page (p : Page)
  | absent (p : Page)
  | refused
  deriving DecidableEq, Repr

/-- FRAME of a leaf as an address (R389). -/
def pteFrame (pte : DWord) : Nat := field pte.toNat 0 (2 ^ 40) * 4096

/-- The first row of R390 on a leaf whose frame maps `size` bytes: reserved bits, MGR, CLS, SW, alignment, backing. -/
def State.leafBad (s : State) (pte : DWord) (size : Nat) : Bool :=
  let x := pte.toNat
  field x 40 256 != 0 || bitOf x 48 || field x 60 4 == 3 || field x 55 4 == 3 ||
    pteFrame pte % (if bitOf x 57 then size / 2 else size) != 0 || !s.backed (pteFrame pte)

/-- The walk from a table at a physical address (R388, R390). -/
def State.walkFrom (s : State) (va : Nat) : List (Nat × Nat × Option Nat) → Nat → Walked
  | [], _ => .refused
  | (lo, n, leaf) :: rest, table =>
    let entry := table + field va lo n * 8
    let pte : DWord := BitVec.ofNat 64 (s.paNat entry 8)
    let page : Page := ⟨va / 2 ^ lo * 2 ^ lo, leaf.getD (2 ^ lo), entry, pte⟩
    if !bitOf pte.toNat 63 then .absent page
    else if bitOf pte.toNat 62 then
      match leaf with
      | some size => if s.leafBad pte size then .refused else .page page
      | none => .refused
    else if rest.isEmpty || field pte.toNat 52 1024 != 0 then .refused
    else s.walkFrom va rest (field pte.toNat 0 (2 ^ 52))

/-- The walk of a virtual address of a context. -/
def State.walk (s : State) (ctx va : Nat) : Walked :=
  match s.ctx? ctx with
  | some c => s.walkFrom va levels c.root
  | none => .refused

/-- Whether a leaf grants what an access needs (R390). -/
def grants (pte : DWord) : Need → Bool
  | .load => bitOf pte.toNat 53
  | .store => bitOf pte.toNat 52
  | .both => bitOf pte.toNat 53 && bitOf pte.toNat 52
  | .fetch => bitOf pte.toNat 51

/-- The AC and DT bits that a demand access sets (R391). -/
def acDt (n : Need) : Nat := if n.writes then 2 ^ 50 + 2 ^ 49 else 2 ^ 50

/-- A leaf with AC, and DT for a write, set by one atomic OR at the entry's home (R391). -/
def State.markLeaf (s : State) (p : Page) (n : Need) : State :=
  let old : DWord := BitVec.ofNat 64 (s.paNat p.entry 8)
  let new := old ||| BitVec.ofNat 64 (acDt n)
  if old = new then s else s.deviceWrite none (.pa p.entry) (natToBytes 8 new.toNat)

/-! ### Translation caches (R391) -/

/-- The cached page of a virtual address. -/
def tlbFind (l : List TlbEntry) (ctx va : Nat) : Option TlbEntry :=
  l.find? fun e => e.ctx = ctx ∧ e.base ≤ va ∧ va < e.base + e.size

/-- Entries of a core's first-level TLB (R391). -/
def coreTlbSize : Nat := 128
/-- Entries of a core's walk-ahead TLB (R358). -/
def walkTlbSize : Nat := 256
/-- Entries of a die's second-level TLB (R391). -/
def dieTlbSize : Nat := 16384

/-- A page put in a translation cache of `n` entries; from a full one the oldest leaves (R391 does not say which: log entry 9). -/
def tlbPut (n : Nat) (l : List TlbEntry) (ctx : Nat) (p : Page) : List TlbEntry :=
  (⟨ctx, p.base, p.size, p.pte, p.entry⟩ ::
    l.filter fun e => e.ctx ≠ ctx ∨ e.base + e.size ≤ p.base ∨ p.base + p.size ≤ e.base).take n

/-- A page put in the translation caches of a core and its die. -/
def State.tlbFill (s : State) (c : CoreId) (ctx : Nat) (p : Page) : State :=
  let s := s.modCore c fun k => { k with tlb := tlbPut coreTlbSize k.tlb ctx p }
  { s with dieTlb := s.dieTlb.setIfInBounds c.die (tlbPut dieTlbSize (s.dieTlb[c.die]?.getD []) ctx p) }

/-- The cached page that a core's access uses, first level before second. -/
def State.cached (s : State) (c : CoreId) (ctx va : Nat) : Option Page :=
  let hit := match tlbFind (s.coreD c).tlb ctx va with
    | some e => some e
    | none => tlbFind (s.dieTlb[c.die]?.getD []) ctx va
  hit.map fun e => ⟨e.base, e.size, e.entry, e.pte⟩

/-! ### Translation of one access -/

/-- A translated access: the physical address (for a sparse page, the record of its group, with the element width and the
logical offset within the group), the class, the cell attribute. -/
structure Xlat where
  pa : Nat
  cls : Coh
  sparse : Option (Nat × Nat)
  cells : Bool
  page : Page
  deriving DecidableEq, Repr

/-- Why a translation fails. -/
inductive XErr where
  | protection
  | absent (p : Page)
  | linkLost
  deriving DecidableEq, Repr

/-- The class of a leaf (R389). -/
def pteClass (pte : DWord) : Coh :=
  match field pte.toNat 60 4 with
  | 0 => .d
  | 1 => .s
  | _ => .u

/-- The element width of a sparse leaf (R389). -/
def pteWidth (pte : DWord) : Nat := 2 ^ field pte.toNat 55 4

/-- The access that a page gives at a virtual address (R292, R389). -/
def Page.at (p : Page) (va : Nat) : Xlat :=
  let sp := bitOf p.pte.toNat 57
  let l := va - p.base
  let span := 4096 * pteWidth p.pte
  { pa := pteFrame p.pte + (if sp then l / span * (span / 2) else l)
    cls := pteClass p.pte
    sparse := if sp then some (pteWidth p.pte, l % span) else none
    cells := bitOf p.pte.toNat 54
    page := p }

/-- Step 3 of R31 on a page found: permission, no write to a sparse page (R294), the link (R401). -/
def State.pageCheck (s : State) (p : Page) (va : Nat) (n : Need) : Except XErr Xlat :=
  let x := p.at va
  if !grants p.pte n || (x.sparse.isSome && n.writes) then .error .protection
  else if !s.linkUp x.pa then .error .linkLost
  else .ok x

/-- The translation of an access, by the cached page given or by a walk, `fill` putting a page in the translation caches (R390,
R391). A demand access sets AC, and DT for a write. -/
def State.translateBy (s : State) (fill : State → Page → State) (hit : Option Page) (ctx va : Nat) (n : Need) (demand : Bool) :
    Except XErr Xlat × State :=
  let fin := fun (p : Page) (s : State) =>
    match s.pageCheck p va n with
    | .error e => (.error e, s)
    | .ok x =>
      if demand then
        let p' : Page := { p with pte := p.pte ||| BitVec.ofNat 64 (acDt n) }
        if p'.pte = p.pte then (.ok x, s) else (.ok x, fill (s.markLeaf p n) p')
      else (.ok x, s)
  match hit with
  | some p => fin p s
  | none =>
    match s.walk ctx va with
    | .page p => fin p (fill s p)
    | .absent p => (.error (.absent p), s)
    | .refused => (.error .protection, s)

/-- The translation of an access by a core's translation caches. -/
def State.translate (s : State) (c : CoreId) (ctx va : Nat) (n : Need) (demand : Bool) : Except XErr Xlat × State :=
  s.translateBy (fun s p => s.tlbFill c ctx p) (s.cached c ctx va) ctx va n demand

/-- The cached page that an engine's access uses: its walk-ahead TLB before the die's second level (R358). -/
def State.engineCached (s : State) (c : CoreId) (ctx va : Nat) : Option Page :=
  let hit := match tlbFind (s.coreD c).walkTlb ctx va with
    | some e => some e
    | none => tlbFind (s.dieTlb[c.die]?.getD []) ctx va
  hit.map fun e => ⟨e.base, e.size, e.entry, e.pte⟩

/-- A page put in an engine's walk-ahead TLB of 256 entries and in the die's second level (R358). -/
def State.walkFill (s : State) (c : CoreId) (ctx : Nat) (p : Page) : State :=
  let s := s.modCore c fun k => { k with walkTlb := tlbPut walkTlbSize k.walkTlb ctx p }
  { s with dieTlb := s.dieTlb.setIfInBounds c.die (tlbPut dieTlbSize (s.dieTlb[c.die]?.getD []) ctx p) }

/-! ### Migration (R299 to R301) -/

/-- The place of a page size in the rings of R393 and the size code of R394. -/
def sizeIndex (size : Nat) : Nat := if size = 65536 then 0 else if size = 2097152 then 1 else 2

/-- Whether R299 and R390 let the fault unit migrate an invalid entry: a leaf, migratable, not marked migrating, good
with its backing frame, without the cell attribute, in a fault-eligible context whose ring for the target tier and page
size holds a frame. -/
def State.migratable (s : State) (ctx : Nat) (p : Page) : Bool :=
  let x := p.pte.toNat
  match s.ctx? ctx with
  | none => false
  | some c =>
    bitOf x 62 && bitOf x 58 && !bitOf x 48 && !bitOf x 54 && c.fe && p.size ≤ 1073741824 && !s.leafBad p.pte p.size &&
      s.ringLen (c.desc + 0x40 + (sizeIndex p.size + if bitOf x 59 then 3 else 0) * 16) != 0

/-- The migration that holds an entry (R390), by whichever context and address an access has come to it. -/
def State.migration? (s : State) (entry : Nat) : Option Migration := s.migrations.find? fun m => m.entry = entry

/-- The entry at which the walk of an address ends. -/
def State.entryOf (s : State) (ctx va : Nat) : Option Nat :=
  match s.walk ctx va with
  | .page p => some p.entry
  | .absent p => some p.entry
  | .refused => none

/-- Step 1 of R300, or the joining of a migration in progress (R301): `none` where the fault is delivered instead. -/
def State.startMigration (s : State) (ctx : Nat) (p : Page) (write : Bool) (w : Migration → Migration) : Option State :=
  match s.migration? p.entry with
  | some _ => some { s with migrations := s.migrations.map fun m =>
      if m.entry = p.entry then w { m with wr := m.wr || write } else m }
  | none =>
    if s.migratable ctx p then
      match s.ctx? ctx with
      | none => none
      | some c =>
        let r := c.desc + 0x40 + (sizeIndex p.size + if bitOf p.pte.toNat 59 then 3 else 0) * 16
        match s.ringPop r with
        | none => none
        | some (frame, s) =>
          let s := s.deviceWrite none (.pa p.entry) (natToBytes 8 (p.pte ||| BitVec.ofNat 64 (2 ^ 48)).toNat)
          let m : Migration :=
            { ctx := ctx, page := p.base, size := p.size, entry := p.entry, backing := pteFrame p.pte, frame := frame,
              wr := write, waiters := [], pte := p.pte }
          some { s with migrations := w m :: s.migrations }
    else none

/-- A copy that waits for a migration. -/
def Migration.addCopy (x : GroupId × Nat) (m : Migration) : Migration :=
  if m.copies.contains x then m else { m with copies := x :: m.copies }

/-- A lane of a rig that waits for a migration; 127 stands for the rig's block fetch. -/
def Migration.addLane (x : GroupId × Nat) (m : Migration) : Migration :=
  if m.lanes.contains x then m else { m with lanes := x :: m.lanes }

/-- A group that waits for a migration. -/
def Migration.addGroup (g : GroupId) (m : Migration) : Migration :=
  if m.waiters.contains g then m else { m with waiters := g :: m.waiters }

end Sys2Proof.Machine
end

