-- ==== Sys2Proof/Machine/Operands.lean ====
section
/-! DEFINITION. Memory operands: the offset of a thread, the checks of R31 and R32, and what follows when threads fail
(R134, R137, R138, R397). -/

namespace Sys2Proof.Machine

/-- Segment register of a segment (R30). -/
def Group.segment (g : Group) : Seg → Segment
  | .gl => g.seg[0]
  | .sh => g.seg[1]
  | .cn => g.seg[2]
  | .lo => g.seg[3]

/-- The registers of an address operand (R77): a pair for gl. -/
def addrRegs (seg : Seg) (a : Reg) : List PReg :=
  match seg with
  | .gl => vRegs a.val 2
  | _ => vRegs a.val 1

/-- The offset of thread t, exact (R134). -/
def Group.offset (g : Group) (seg : Seg) (a : Reg) (t bytes : Nat) : Nat :=
  match seg with
  | .gl => (g.vpair a.val t).toNat + bytes
  | _ => (g.vget a.val t).toNat + bytes

/-- Whether a spot is a shared-store byte. -/
def Spot.isSh : Spot → Bool
  | .pa _ => false
  | _ => true

/-- Whether an access reaches a shared store. -/
def Target.isSh (t : Target) : Bool := t.pieces.any fun p => p.spot.isSh

/-- Whether a store reaches a shared store. -/
def StoreReq.isSh (x : StoreReq) : Bool := x.parts.any fun p => p.1.spot.isSh

/-- Why a thread fails: a fault with its address, or an absent page that the fault unit may migrate. -/
inductive TFail where
  | fault (code : Nat) (addr : Nat)
  | absent (p : Page) (addr : Nat)
  deriving DecidableEq, Repr

/-- A failing thread. -/
structure Failed where
  thread : Nat
  why : TFail
  deriving DecidableEq, Repr

/-- The address of lo offset o for thread t (R32). -/
def loAddr (base o t : Nat) : Nat := base + o / 4 * 384 + 4 * (t % 96) + o % 4

/-- Cluster size of a group's task (R155). -/
def State.clusterSize (s : State) (g : Group) : Nat := ((s.task? g.task).map fun t => field t.shape.toNat 20 32 + 1).getD 1

/-- The translation of one virtual address for a group, as a piece of `n` bytes. -/
def State.xlatPiece (s : State) (g : Group) (va n : Nat) (need : Need) : Except TFail Piece × State :=
  match s.translate g.id.coreId g.ctx va need true with
  | (.ok x, s) => (.ok ⟨.pa x.pa, n, x.cls, x.sparse⟩, s)
  | (.error .protection, s) => (.error (.fault cProtection va), s)
  | (.error .linkLost, s) => (.error (.fault cLinkLost va), s)
  | (.error (.absent p), s) => (.error (.absent p va), s)

/-- Pieces at a list of virtual addresses, each of `n` bytes. -/
def State.xlatPieces (s : State) (g : Group) (n : Nat) (need : Need) : List Nat → Except TFail (List Piece) × State
  | [] => (.ok [], s)
  | va :: vas =>
    match s.xlatPiece g va n need with
    | (.error e, s) => (.error e, s)
    | (.ok p, s) =>
      match s.xlatPieces g n need vas with
      | (.ok ps, s) => (.ok (p :: ps), s)
      | (.error e, s) => (.error e, s)

/-- The low 64 bits of an address, as FAULTADDR holds it. -/
def addr64 (a : Nat) : Nat := a % 2 ^ 64

/-- The access of thread t at offset o of a segment, `size` bytes (R31, R32, R134, R137): its address and pieces, or its
fault. -/
def State.access (s : State) (g : Group) (seg : Seg) (o size t : Nat) (need : Need) : Except TFail (Nat × List Piece) × State :=
  let base := (g.segment seg).base.toNat
  let limit := (g.segment seg).limit.toNat
  match seg with
  | .gl =>
    let va := base + o
    if 2 ^ 64 ≤ o ∨ limit < o + size ∨ canonical va = false then (.error (.fault cSegment (addr64 va)), s)
    else if va % size ≠ 0 then (.error (.fault cMisaligned va), s)
    else match s.xlatPiece g va size need with
      | (.ok p, s) => (.ok (va, [p]), s)
      | (.error e, s) => (.error e, s)
  | .cn =>
    let va := base + o
    if need.writes = true ∨ 2 ^ 32 ≤ o ∨ limit < o + size ∨ canonical va = false then
      (.error (.fault cSegment (addr64 va)), s)
    else if va % size ≠ 0 then (.error (.fault cMisaligned va), s)
    else match s.xlatPiece g va size need with
      | (.ok p, s) => (.ok (va, [p]), s)
      | (.error e, s) => (.error e, s)
  | .sh =>
    let off := o % 524288
    let member := field o 19 32
    let x := base + off
    if 2 ^ 24 ≤ o ∨ s.clusterSize g ≤ member ∨ limit < off + size then (.error (.fault cSegment (addr64 x)), s)
    else if o % size ≠ 0 then (.error (.fault cMisaligned x), s)
    else
      let k := s.clusterSize g
      let spot : Spot := if member = g.lin % k then .sh g.id.die g.id.core x else .member g.task (g.lin / k * k + member) x
      (.ok (x, [⟨spot, size, .d, none⟩]), s)
  | .lo =>
    let va := loAddr base o t
    let vas := (List.range (max 1 (size / 4))).map fun i => loAddr base (o + 4 * i) t
    if 2 ^ 32 ≤ o ∨ limit < o + size ∨ vas.all canonical = false then (.error (.fault cSegment (addr64 va)), s)
    else if o % size ≠ 0 then (.error (.fault cMisaligned va), s)
    else
      match s.xlatPieces g (min size 4) need vas with
      | (.ok ps, s) => (.ok (va, ps), s)
      | (.error e, s) => (.error e, s)

/-- The checks of one thread and the ones that an instruction adds. -/
abbrev Check := State → Nat → Except TFail Target × State

/-- The plain check of a thread: the access with the words that the instruction reads at issue. -/
def plainCheck (g : Group) (seg : Seg) (a : Reg) (off size : Nat) (need : Need) (args : Nat → List Word) : Check :=
  fun s t =>
    match s.access g seg (g.offset seg a t off) size t need with
    | (.ok (va, ps), s) => (.ok ⟨t, va, ps, args t⟩, s)
    | (.error e, s) => (.error e, s)

/-- The checks of a list of threads in ascending order (R31, R396). -/
def checkThreads (c : Check) : List Nat → State → List Target × List Failed × State
  | [], s => ([], [], s)
  | t :: ts, s =>
    match c s t with
    | (.ok x, s) => let r := checkThreads c ts s; (x :: r.1, r.2.1, r.2.2)
    | (.error e, s) => let r := checkThreads c ts s; (r.1, ⟨t, e⟩ :: r.2.1, r.2.2)

/-- The code and address of a failure (R390). -/
def TFail.report : TFail → Nat × Nat
  | .fault c a => (c, a)
  | .absent _ a => (cNonresident, a)

/-- Migrations started or joined for the failing threads that R299 allows, in ascending order; the failures that are not
being migrated remain (R397). -/
def State.migrateFailed (s : State) (ctx : Nat) (write : Bool) (w : Migration → Migration) : List Failed → List Failed × State
  | [] => ([], s)
  | f :: fs =>
    match f.why with
    | .absent p _ =>
      match s.startMigration ctx p write w with
      | some s => s.migrateFailed ctx write w fs
      | none => let r := s.migrateFailed ctx write w fs; (f :: r.1, r.2)
    | .fault _ _ => let r := s.migrateFailed ctx write w fs; (f :: r.1, r.2)

/-- What follows the checks of a memory word when threads have failed (R138, R397): the fault unit migrates them all and
the group waits for its replay, or it traps with every failing thread in FAULTMASK. `own` is the word's place in the
group's order: a replay marks its destinations pending afresh (R398). -/
def State.failThreads (s : State) (g : Group) (own : Nat) (write : Bool) (fs : List Failed) : State :=
  let m := maskOfList (fs.map (·.thread))
  let r := s.migrateFailed g.ctx write (Migration.addGroup g.id) fs
  match r.1 with
  | [] =>
    r.2.put { g with status := .migrating, replay := some m, turn := false,
                     missed := fs.map fun f => (f.thread, f.why.report.2, write),
                     pending := g.pending.filter fun x => x.seq ≠ own }
  | f :: _ =>
    let s : State := { r.2 with migrations := r.2.migrations.map fun x =>
      { x with waiters := x.waiters.filter fun i => i ≠ g.id } }
    s.raise g { g.wordFault f.why.report.1 m (BitVec.ofNat 64 f.why.report.2) with write := write, who := f.thread }

/-- Whether a transaction may make an access (R411, R414): sh, lo, and D or S pages of the device's memory. -/
def Piece.transactional (p : Piece) : Bool :=
  match p.spot with
  | .pa a => isDevice a && p.cls ≠ .u
  | _ => true

/-- What stops a memory word inside a transaction (R414): a failed check of R31, or an access that is not supported. An
atomic that the portal does not carry (R336) passes R31 and reaches for host or peer memory. -/
def txCause (ts : List Target) (fs : List Failed) : Option (Nat × Nat) :=
  match fs.find? fun f => f.why.report.1 ≠ cRemoteAtomic with
  | some f => some (3, f.why.report.1)
  | none => if fs.isEmpty && ts.all fun t => t.pieces.all Piece.transactional then none else some (9, 0)

/-- A transaction that one of its own accesses aborts with FAULT or UNSUP; migration still starts (R301, R414). -/
def State.txStop (s : State) (g : Group) (write : Bool) (cause : Nat × Nat) (fs : List Failed) : State :=
  (s.migrateFailed g.ctx write id fs).2.abortTx g cause.1 cause.2

/-- The 64-byte granules of an access (R411). -/
def Target.granules (t : Target) : List Spot := (t.pieces.map fun p => p.spot.granule).dedup

/-- Whether a fence's conditions are met (R344, R346): every earlier read is performed, and for a release every earlier
store and PUBLISH as well. -/
def Group.fenceMet (g : Group) (mo : Order) : Bool :=
  g.out.all (fun o => o.todo.isEmpty && o.held.isEmpty) &&
    (!mo.releases || (g.stores.isEmpty && g.out.all fun o => !o.isPublish || o.ready))

/-- Whether a FENCE keeps a group's next memory word from issuing (R344). -/
def Group.fenced (g : Group) : Bool := g.fence.any fun f => !g.fenceMet f.2

/-- Whether the L1 actions of a group's fences may be performed now (R286). -/
def State.fenceReady (s : State) (g : Group) : Bool := g.fence.all fun f => !f.2.releases || s.releasable g.id.coreId f.1

/-- The beats of sh accesses that wait at a core's banks (R275). -/
def State.shBeats (s : State) (c : CoreId) : Nat :=
  ((s.groups.filter fun g => g.id.coreId = c).map fun (g : Machine.Group) =>
    (((g.out.flatMap fun (o : Outst) => (o.todo.filter Target.isSh).map fun (t : Target) => (o.seq, t.thread / 32)) ++
      (g.stores.filter StoreReq.isSh).map fun (x : StoreReq) => (x.seq, x.thread / 32)).dedup).length).sum

/-- Whether a core's queue of 64 beats of sh accesses is full (R275). -/
def State.shFull (s : State) (c : CoreId) : Bool := decide (64 ≤ s.shBeats c)

/-- The L1 actions of the fences whose conditions are met (R286, R344). -/
def State.passFence (s : State) (g : Group) : State :=
  if g.fence.isEmpty then s
  else g.fence.foldl (fun s f =>
    let s := if f.2.releases then s.releaseL1 g.id.coreId f.1 else s
    if f.2.acquires then s.acquireL1 g.id.coreId f.1 else s) (s.put { g with fence := [] })

/-- A memory word: it stalls behind a FENCE (R344), and one to sh behind a full queue of its core (R275), then as
`word`. -/
def State.memWord (s : State) (sh : Bool) (rs : List PReg) (body : Group → State → State) : Out :=
  match s.cur with
  | none => .fault .noGroup
  | some g =>
    if g.fenced || (sh && s.shFull g.id.coreId) then .next (s.stall g)
    else if !s.fenceReady g then .next ((s.claimBack g.id.coreId fun _ => true).stall g)
    else
      let s := s.passFence g
      s.word false rs fun g => body g s

/-- A memory word with a stall of its own before its checks (R20, R471). -/
def State.memStall (s : State) (sh : Bool) (wait : Group → Bool) (rs : List PReg) (body : Group → State → State) : Out :=
  match s.cur with
  | none => .fault .noGroup
  | some g => if wait g then .next (s.stall g) else s.memWord sh rs body

/-- A long-latency memory word (R24, R26). -/
def State.memLong (s : State) (sh : Bool) (rs : List PReg) (body : Group → State → State) : Out :=
  s.memStall sh Group.counterFull rs body

/-- The end of a memory word whose group is `g`: on, or the failures. -/
def State.endMem (s : State) (g : Group) (own : Nat) (write : Bool) (fs : List Failed) : State :=
  if fs.isEmpty then s.put (g.nextWord 1) else s.failThreads g own write fs

end Sys2Proof.Machine
end

