-- ==== Sys2Proof/Machine/LoadStore.lean ====
section
/-! DEFINITION. Plain loads and stores, LDAQ and STRL, and what a transaction does with an access (R133 to R139, R329,
R330, R411). -/

namespace Sys2Proof.Machine

/-! ### Transactions -/

/-- Granules added to a list of them. -/
def addGranules (old new : List Spot) : List Spot := new.foldl (fun l x => if l.contains x then l else l ++ [x]) old

/-- Reads marked at 64-byte granularity (R411). -/
def Tx.mark (t : Tx) (ts : List Target) : Tx := { t with reads := addGranules t.reads (ts.flatMap Target.granules) }

/-- A byte put into the transaction buffer by an access at place `seq` of the group's order. -/
def Tx.putByte (t : Tx) (seq : Nat) (x : Spot) (b : Byte) : Tx := { t with buf := (seq, x, b) :: t.buf }

/-- The bytes of an access, one spot each. -/
def Target.spots (t : Target) : List Spot := t.pieces.flatMap fun p => (List.range p.len).map p.spot.shift

/-- An access's bytes put into the buffer: `none` where its 16 granules are full (R413, R414). -/
def Tx.store (t : Tx) (seq : Nat) (x : Target) (bs : List Byte) : Option Tx :=
  let w := addGranules t.writes x.granules
  if 16 < w.length then none
  else some ((x.spots.zip bs).foldl (fun t p => t.putByte seq p.1 p.2) { t with writes := w })

/-- The stores of one word put into the buffer in ascending thread order. -/
def Tx.storeAll (t : Tx) (seq : Nat) : List (Target × List Byte) → Option Tx
  | [] => some t
  | p :: ps => (t.store seq p.1 p.2).bind fun t => t.storeAll seq ps

/-- The 64-byte granules that a piece of physical memory touches, as pieces. -/
def Piece.cut64 (p : Piece) : List Piece :=
  match p.spot with
  | .pa a => (List.range ((a % 64 + p.len + 63) / 64)).map fun i => { p with spot := .pa (a / 64 * 64 + 64 * i), len := 64 }
  | _ => [p]

/-- The accesses that a transaction marks for its reads (R411): of a sparse page, the record's bytes (R293). -/
def State.markedReads (s : State) (g : Group) (ts : List Target) : List Target :=
  ts.map fun t =>
    if t.pieces.any fun p => p.sparse.isSome then
      { t with pieces := (s.plainPieces g g.seq t.pieces).flatMap Piece.cut64 }
    else t

/-- Whether a link of an access is down (R401). -/
def State.linkLost (s : State) (ps : List Piece) : Bool :=
  ps.any fun p => match p.spot with
    | .pa a => !s.linkUp a
    | _ => false

/-- The group of a transaction about to make an atomic of order `mo` for some threads: their earlier LDAQs, or with a release all
their loads, are performed first (R329, R334), but for one of a cluster member that has not started, whose read falls at the
transaction's one point in any case (R324; log entry 46). The second part says whether an LDAQ among them acts on the L1. -/
def State.readsFirst (s : State) (g : Group) (ts : List Target) (mo : Order) : Group × Bool :=
  let hit := fun (o : Outst) (t : Target) =>
    (mo.releases || o.acquires) && (ts.any fun u => u.thread == t.thread) && s.reachable t.pieces
  (s.settleLoads hit g, s.settlesAcquire hit g)

/-- The clean S bytes that a core's L1 holds of some accesses dropped: a transaction marks its reads on copies
fetched anew, of which no write can be missed (R324, R325, R411). -/
def State.freshen (s : State) (c : CoreId) (ts : List Target) : State :=
  let in_ := fun (a : Nat) => ts.any fun t => t.pieces.any fun p =>
    match p.spot with
    | .pa b => decide (b ≤ a) && decide (a < b + (match p.sparse with
      | some (w, _) => 2048 * w
      | none => p.len))
    | _ => false
  if (s.coreD c).l1s.any fun x => !x.dirty && in_ x.pa then s.modCore c (Core.dropClean in_) else s

/-- Whether a group's transaction has seen a cause: one that its word's own AC and DT updates meet is aborted before the word
(R391, R414). -/
def State.txHurt (s : State) (g : Group) : Bool := (((s.group? g.id).bind Group.tx).map fun t => t.seen.isSome).getD false

/-- Whether a group has a read that is not performed: a commit waits for it (R416). -/
def Group.reading (g : Group) : Bool := g.out.any fun o => !o.todo.isEmpty || !o.held.isEmpty

/-! ### Loads (R135) -/

/-- A load of `n` registers: `size` bytes, with an acquire for LDAQ. cn loads are not tracked by a transaction. -/
def State.load (s : State) (gd : Guard) (d a : Reg) (seg : Seg) (off size n : Nat) (signed : Bool) (acq : Option Scope) : Out :=
  s.memLong (seg = .sh) (vecRegs gd ++ vRegs d.val n ++ addrRegs seg a) fun g s =>
    let r := checkThreads (plainCheck g seg a (off * size) size .load fun _ => []) (g.enabled gd) s
    let o : Outst := { seq := 0, ctr := 0, kind := .load size signed acq, d := d.val, dst := vRegs d.val n, todo := r.1 }
    match g.tx with
    | none => r.2.2.endMem (g.issueLong o) g.seq false r.2.1
    | some t =>
      match txCause r.1 r.2.1 with
      | some c => r.2.2.txStop g false c r.2.1
      | none =>
        if r.2.2.txHurt g then r.2.2
        else
          let s := if seg = .cn then r.2.2 else r.2.2.freshen g.id.coreId r.1
          let t := if seg = .cn then t else t.mark (s.markedReads g r.1)
          s.put (({ g with tx := some t }.issueLong o).nextWord 1)

/-- LD_S8 (R135). -/
def execLdS8 (g : Guard) (d a : Reg) (seg : Seg) (off : Fin 8) (s : State) : Out := s.load g d a seg off.val 1 1 true none
/-- LD_N8 (R135). -/
def execLdN8 (g : Guard) (d a : Reg) (seg : Seg) (off : Fin 8) (s : State) : Out := s.load g d a seg off.val 1 1 false none
/-- LD_S16 (R135). -/
def execLdS16 (g : Guard) (d a : Reg) (seg : Seg) (off : Fin 8) (s : State) : Out := s.load g d a seg off.val 2 1 true none
/-- LD_N16 (R135). -/
def execLdN16 (g : Guard) (d a : Reg) (seg : Seg) (off : Fin 8) (s : State) : Out := s.load g d a seg off.val 2 1 false none
/-- LD_B32 (R135). -/
def execLdB32 (g : Guard) (d a : Reg) (seg : Seg) (off : Fin 8) (s : State) : Out := s.load g d a seg off.val 4 1 false none
/-- LD_B64 (R135). -/
def execLdB64 (g : Guard) (d a : Reg) (seg : Seg) (off : Fin 8) (s : State) : Out := s.load g d a seg off.val 8 2 false none
/-- LD_B128 (R135). -/
def execLdB128 (g : Guard) (d a : Reg) (seg : Seg) (off : Fin 8) (s : State) : Out := s.load g d a seg off.val 16 4 false none
/-- LDAQ_B32 (R329). -/
def execLdaqB32 (g : Guard) (d a : Reg) (seg : Seg) (sc : Scope) (off : Fin 8) (s : State) : Out :=
  s.load g d a seg off.val 4 1 false (some sc)
/-- LDAQ_B64 (R329). -/
def execLdaqB64 (g : Guard) (d a : Reg) (seg : Seg) (sc : Scope) (off : Fin 8) (s : State) : Out :=
  s.load g d a seg off.val 8 2 false (some sc)

/-! ### Stores (R136) -/

/-- A list of bytes cut by the pieces of an access. -/
def cutBytes : List Piece → List Byte → List (Piece × List Byte)
  | [], _ => []
  | p :: ps, bs => (p, bs.take p.len) :: cutBytes ps (bs.drop p.len)

/-- The data words of thread t from v(d). -/
def Group.dataWords (g : Group) (d n t : Nat) : List Word := (List.range n).map fun i => g.vget (d + i) t

/-- The low `size` bytes of data words, lowest address first (R2). -/
def wordBytes (size : Nat) (ws : List Word) : List Byte := (ws.flatMap fun w => natToBytes 4 w.toNat).take size

/-- The store of one thread's access. -/
def Target.storeReq (t : Target) (seq size : Nat) (rel : Option Scope) (add : Bool) : StoreReq :=
  { seq := seq, thread := t.thread, va := t.va, parts := cutBytes t.pieces (wordBytes size t.args), rel := rel, add := add }

/-- Stores issued (R28): the bytes are taken now and performed later. -/
def Group.issueStores (g : Group) (ts : List Target) (size : Nat) (rel : Option Scope) (add : Bool) : Group :=
  { g with stores := g.stores ++ ts.map fun t => t.storeReq g.seq size rel add, seq := g.seq + 1 }

/-- A store of `size` bytes from `n` registers; with `rel` a release (R330). -/
def State.store (s : State) (gd : Guard) (d a : Reg) (seg : Seg) (off size n : Nat) (rel : Option Scope) : Out :=
  s.memWord (seg = .sh) (vecRegs gd ++ vRegs d.val n ++ addrRegs seg a) fun g s =>
    let r := checkThreads (plainCheck g seg a (off * size) size .store (g.dataWords d.val n)) (g.enabled gd) s
    match g.tx with
    | none => r.2.2.endMem (g.issueStores r.1 size rel false) g.seq true r.2.1
    | some t =>
      match txCause r.1 r.2.1 with
      | some c => r.2.2.txStop g true c r.2.1
      | none =>
        if r.2.2.txHurt g then r.2.2
        else match t.storeAll g.seq (r.1.map fun x => (x, wordBytes size x.args)) with
        | none => r.2.2.abortTx g 2 0
        | some t => r.2.2.put ({ g with tx := some t, seq := g.seq + 1 }.nextWord 1)

/-- ST_B8 (R136). -/
def execStB8 (g : Guard) (d a : Reg) (seg : Seg) (off : Fin 8) (s : State) : Out := s.store g d a seg off.val 1 1 none
/-- ST_B16 (R136). -/
def execStB16 (g : Guard) (d a : Reg) (seg : Seg) (off : Fin 8) (s : State) : Out := s.store g d a seg off.val 2 1 none
/-- ST_B32 (R136). -/
def execStB32 (g : Guard) (d a : Reg) (seg : Seg) (off : Fin 8) (s : State) : Out := s.store g d a seg off.val 4 1 none
/-- ST_B64 (R136). -/
def execStB64 (g : Guard) (d a : Reg) (seg : Seg) (off : Fin 8) (s : State) : Out := s.store g d a seg off.val 8 2 none
/-- ST_B128 (R136). -/
def execStB128 (g : Guard) (d a : Reg) (seg : Seg) (off : Fin 8) (s : State) : Out := s.store g d a seg off.val 16 4 none
/-- STRL_B32 (R330). -/
def execStrlB32 (g : Guard) (d a : Reg) (seg : Seg) (sc : Scope) (off : Fin 8) (s : State) : Out :=
  s.store g d a seg off.val 4 1 (some sc)
/-- STRL_B64 (R330). -/
def execStrlB64 (g : Guard) (d a : Reg) (seg : Seg) (sc : Scope) (off : Fin 8) (s : State) : Out :=
  s.store g d a seg off.val 8 2 (some sc)

end Sys2Proof.Machine
end

