-- ==== Sys2Proof/Machine/Coherence.lean ====
section
/-! DEFINITION. Lines, copies and directories (R271, R282 to R290), and the order in which a group's accesses are
performed (R304, R309, R329, R330, R345). -/

namespace Sys2Proof.Machine

/-! ### Lines fetched -/

/-- The other dies' L2 copies of a line made shared ones, a dirty one's poison at its home (R283). -/
def State.shareLine (s : State) (die line : Nat) : State :=
  let s := ((s.l2.filter fun x => x.line = line ∧ x.die ≠ die).map L2Line.die).foldl (fun s d => s.landPoison d line) s
  { s with l2 := s.l2.map fun x => if x.line = line ∧ x.die ≠ die then { x with state := .shared } else x }

/-- A line that has been fetched put into a core's L1 as a D line; without room it leaves again at once, and a transaction that
marks it loses it (R271, R414). -/
def State.fillL1 (s : State) (c : CoreId) (line : Nat) (room : Bool) : State :=
  let k := s.coreD c
  if k.l1d.contains line then s
  else if room && k.l1Room line then
    (s.fillPoison c ((List.range 128).map (line + ·))).modCore c fun k => { k with l1d := line :: k.l1d }
  else s.loseMarks fun i l => decide (i = c ∧ l = line)

/-- A line fetched by a core for a D or S access: a shared L2 copy, the directory, and with `l1` a D copy in the L1, where
these have room. A writer's copy elsewhere stays as a shared one. -/
def State.fetchLine (s : State) (c : CoreId) (line : Nat) (l1 : Bool) : State :=
  let room := s.l2Room c.die line
  let s :=
    if room then
      let s := s.holdHome line false false
      let e := s.dirOf line
      let s := if e.dies.contains c.die then s else s.putDir { e with dies := c.die :: e.dies }
      let s := s.shareLine c.die line
      if s.inL2 c.die line then s else s.putL2 c.die line .shared
    else s
  if l1 then s.fillL1 c line room else s

/-- Whether a die waits to acknowledge an invalidation of a line (R284). -/
def State.pendingInval (s : State) (die line : Nat) : Bool := s.invals.any fun i => i.line = line ∧ i.die = some die

/-- Whether an access to a piece must wait for its die's acknowledgement (R284): the die asks for a line that it no longer
holds. -/
def State.awaitsAck (s : State) (die : Nat) (p : Piece) : Bool :=
  match p.spot with
  | .pa a => hasLines a && (linesOf a p.len).any fun l => s.pendingInval die l && !s.inL2 die l
  | _ => false

/-! ### Order within a group -/

/-- Whether an earlier access of the group must be performed before this one: one to overlapping bytes (a load takes
earlier stores' bytes forward; add-on-stores of one instruction arrive in any order, R67), an acquire of the same thread,
and for a release every access of the thread, every PUBLISH of the group, and every store whose bytes another thread of the
group has read: whatever depends on that read, in any thread, happens after the store (R304, R310, R315, R317; log entry 8). -/
def State.blocked (s : State) (g : Group) (seq thread : Nat) (ps : List Piece) (isLoad rel : Bool) : Bool :=
  (g.stores.any fun st =>
    (decide (st.seq < seq) || (decide (st.seq = seq) && decide (st.thread < thread) && !st.add)) &&
      ((meetsAny st.pieces ps && (!isLoad || st.add)) ||
        (rel && (st.thread == thread || !st.readers.isEmpty) && decide (st.seq < seq)))) ||
  (g.out.any fun o => decide (o.seq < seq) &&
    ((o.todo ++ o.held).any (fun t => meetsAny (s.plainPieces g o.seq t.pieces) ps || (t.thread == thread && (rel || o.acquires))) ||
      (rel && o.isPublish && !o.ready)))

/-- Whether a PUBLISH that a group issued before place `seq` of its order is incomplete: a later release waits for it (R346). -/
def Group.publishing (g : Group) (seq : Nat) : Bool := g.out.any fun o => decide (o.seq < seq) && o.isPublish && !o.ready

/-- Whether every earlier access of the group is performed: what a barrier arrival, a PUBLISH, a launch or a task event
releases (R169, R265, R346). -/
def Group.settledBefore (g : Group) (seq : Nat) : Bool :=
  g.stores.all (fun st => !decide (st.seq < seq)) &&
    g.out.all fun o => !decide (o.seq < seq) || (o.todo.isEmpty && o.held.isEmpty && !o.isPublish)

/-- Whether every access that the group has issued is performed. -/
def Group.settled (g : Group) : Bool := g.settledBefore g.seq

/-! ### Reads and writes of one access -/

/-- An access with its spots resolved. -/
def State.resolvePieces (s : State) (ps : List Piece) : List Piece :=
  ps.map fun p => { p with spot := (s.resolve p.spot).getD p.spot }

/-- A piece's lines brought into the L3 slice of their home (R271, R347). -/
def State.holdPiece (s : State) (p : Piece) : State :=
  match p.spot with
  | .pa a => s.holdRun a p.len false false
  | _ => s

/-- A piece's lines brought into the L2 of a core's die, those of a U page into their home's, the only L2 that holds them (R271,
R282, R288). -/
def State.fillL2 (s : State) (c : CoreId) (p : Piece) : State :=
  match p.spot with
  | .pa a =>
    if p.cls = .u then s.holdRun a p.len false true
    else if hasLines a then (linesOf a p.len).foldl (fun s l => s.fetchLine c l false) s
    else s
  | _ => s

/-- What a core's read of a piece leaves in its caches: D lines in the L1 and the L2, and the bytes of an S access clean in
the L1. Unless it held them all they are fetched anew, and the other clean bytes of their 16-byte units leave, so that no
later access joins bytes of two fetches (R282, R286, R288, R305). -/
def State.fillPiece (s : State) (c : CoreId) (p : Piece) : State :=
  match p.spot with
  | .pa a =>
    let s := if hasLines a && p.cls ≠ .u then (linesOf a p.len).foldl (fun s l => s.fetchLine c l (p.cls = .d)) s else s
    if p.cls = .s then
      let k := s.coreD c
      let hit := (List.range p.len).all fun i => (l1Find k.l1s (a + i)).isSome
      let at_ := (List.range p.len).filter fun i => k.l1Room (lineOf (a + i)) && !((l1Find k.l1s (a + i)).map (·.dirty)).getD false
      if hit then s
      else
        let s := s.loseMarks fun i l => decide (i = c) && (linesOf a p.len).contains l && !k.l1Room l
        (s.fillPoison c (at_.map (a + ·))).modCore c fun k => { k with
          l1s := at_.foldl (fun l i => l1Put l ⟨a + i, s.readPa (a + i), false⟩)
            (k.dropClean fun b => decide (a / 16 ≤ b / 16 ∧ b / 16 ≤ (a + p.len - 1) / 16)).l1s }
    else if p.cls = .u then s.holdRun a p.len false true
    else s
  | _ => s

/-- Whether a write of a piece may be performed now (R283, R447): a D store needs its die's line exclusive, a U store its
home's, an S store a line of the L1. -/
def State.writable (s : State) (c : CoreId) (p : Piece) : Bool :=
  match p.spot with
  | .pa a =>
    match p.cls with
    | .d => s.ownable (some c.die) a
    | .u => s.ownable none a
    | .s => (s.coreD c).l1Room (lineOf a) || s.ownable (some c.die) a
  | _ => true

/-- The invalidations of R283 for a piece. -/
def State.claim (s : State) (c : CoreId) (p : Piece) : State :=
  match p.spot with
  | .pa a => s.claimLine (if p.cls = .u then none else some c.die) a
  | _ => s

/-- A piece written by a group: S bytes dirty in its L1, others at their place (R282, R286, R287). -/
def State.writePiece (s : State) (g : GroupId) (p : Piece) (bs : List Byte) : State :=
  match p.spot, p.cls with
  | .pa a, .u => (s.deviceWrite (some g) (.pa a) bs).holdRun a bs.length true true
  | .pa a, .d => (s.deviceWrite (some g) (.pa a) bs).takeDirty g.die a
  | .pa a, .s =>
    if (s.coreD g.coreId).l1Room (lineOf a) then
      ((s.markConflicts (some g) (.pa a) bs.length).storePoison g.coreId a bs.length).modCore g.coreId fun k =>
        { k with l1s := ((List.range bs.length).zip bs).foldl (fun l x => l1Put l ⟨a + x.1, x.2, true⟩) k.l1s }
    else (s.deviceWrite (some g) (.pa a) bs).takeDirty g.die a
  | x, _ => s.deviceWrite (some g) x bs

/-- The issuing core's own L1 copy of a line, written back where dirty and dropped; the home takes the line, and no copy stays
in the die's L2 (R332). -/
def State.flushLine (s : State) (c : CoreId) (line : Nat) : State :=
  let s := s.writeBackS c fun a => lineOf a = line
  let s := s.loseMarks fun i l => decide (i = c ∧ l = line) && ((s.coreD c).l1d.contains line || (s.coreD c).l1s.any fun x => lineOf x.pa == line)
  let s := s.modCore c fun k => { k with l1s := k.l1s.filter (fun x => lineOf x.pa ≠ line), l1d := k.l1d.filter fun l => l ≠ line }
  let e := s.dirOf line
  if e.dies.contains c.die then (s.dropLine c.die line).putDir { e with dies := e.dies.filter fun d => d ≠ c.die } else s

end Sys2Proof.Machine
end

