-- ==== Sys2Proof/Machine/Atomics.lean ====
section
/-! DEFINITION. Atomics, REDST, FENCE, PUBLISH and PREF (R331 to R347). -/

namespace Sys2Proof.Machine

/-! ### Values (R333, R340) -/

/-- The value that an operation writes over `x`, `none` for a CAS that finds a mismatch: `v` is the operand and `cmp` what
a CAS compares with. -/
def atomValue (op : AtomOp) (size x v cmp : Nat) : Option Nat :=
  let w32 := fun (n : Nat) => (BitVec.ofNat 32 n : Word)
  match op with
  | .fetchAdd => some ((x + v) % 2 ^ (8 * size))
  | .swap => some v
  | .cas => if x = cmp then some v else none
  | .addF32 => some (addOn .f32 x v)
  | .addF64 => some (addOn .f64 x v)
  | .addBf16 => some (addOn .bf16x4 x v)
  | .minI32 => some (if (w32 x).toInt ≤ (w32 v).toInt then x else v)
  | .maxI32 => some (if (w32 v).toInt ≤ (w32 x).toInt then x else v)
  | .and => some (x &&& v)
  | .or => some (x ||| v)
  | .xor => some (x ^^^ v)

/-- Whether the portal carries an operation to host memory (R340). -/
def carriedToHost : AtomOp → Bool
  | .fetchAdd => true
  | .swap => true
  | .cas => true
  | _ => false

/-- The little-endian value of register words. -/
def wordsNat (ws : List Word) : Nat := bytesToNat (ws.flatMap fun w => natToBytes 4 w.toNat)

/-- The operand and the compare value of an atomic of `size` bytes from the words read at issue. -/
def atomArgs (op : AtomOp) (size : Nat) (ws : List Word) : Nat × Nat :=
  match op with
  | .cas => (wordsNat (ws.drop (size / 4)), wordsNat (ws.take (size / 4)))
  | _ => (wordsNat ws, 0)

/-- The old value as register words. -/
def natWords (size x : Nat) : List Word := (List.range (size / 4)).map fun i => BitVec.ofNat 32 (x / 2 ^ (32 * i))

/-! ### Issue -/

/-- The check of an atomic's thread (R336): the access, then whether the portal carries the operation. -/
def atomCheck (g : Group) (seg : Seg) (a : Reg) (op : AtomOp) (size : Nat) (args : Nat → List Word) : Check :=
  fun s t =>
    match plainCheck g seg a 0 size .both args s t with
    | (.ok x, s) =>
      if x.pieces.any fun p => (match p.spot with
          | .pa pa => isHost pa && !carriedToHost op
          | _ => false) then (.error (.fault cRemoteAtomic x.va), s)
      else (.ok x, s)
    | r => r

/-- One atomic inside a transaction (R337): a transactional read, then a buffered write. -/
def State.txAtom (s : State) (g : Group) (op : AtomOp) (size : Nat) (t : Tx) (x : Target) :
    Option Tx × (Nat × List Word ⊕ Nat × Nat × Nat) :=
  let t := t.mark [x]
  match s.readTarget { g with tx := some t } (g.seq + 1) x with
  | none => (some t, .inr (x.thread, cPoison, x.va))
  | some bs =>
    let old := bytesToNat bs
    let a := atomArgs op size x.args
    (match atomValue op size old a.1 a.2 with
      | some y => t.store g.seq x (natToBytes size y)
      | none => some t, .inl (x.thread, natWords size old))

/-- The threads' parts of a word in the order in which they reach their places, which is not fixed (R67, R335, R338): those
of the threads that the step's arguments name, then the rest as they stand. -/
def State.threadOrder {α : Type} [DecidableEq α] (s : State) (f : α → Nat) (ts : List α) : List α :=
  let first := ((s.args.data.getD []).filterMap fun b => ts.find? fun t => f t = b.toNat).dedup
  first ++ ts.filter fun t => !first.contains t

/-- The order of an atomic: on lo it has no effect beyond program order (R337). -/
def segOrder (seg : Seg) (mo : Order) : Order := if seg = .lo then .rlx else mo

/-- The atomics of one word inside a transaction, in the order of the list: the transaction, the results and the late
faults. -/
def State.txAtoms (s : State) (g : Group) (op : AtomOp) (size : Nat) :
    List Target → Tx → Option (Tx × List (Nat × List Word) × List (Nat × Nat × Nat))
  | [], t => some (t, [], [])
  | x :: xs, t =>
    match s.txAtom g op size t x with
    | (none, _) => none
    | (some t, r) =>
      (s.txAtoms g op size xs t).map fun q =>
        match r with
        | .inl v => (q.1, v :: q.2.1, q.2.2)
        | .inr l => (q.1, q.2.1, l :: q.2.2)

/-- The atomics of one word inside a transaction (R334, R337): transactional reads and buffered writes, in an order of the
threads that is not fixed. What a release orders is performed before the commit, which is a release itself (R325); an acquire
acts on the L1 after the reads. `fin` is the group once it has the results and the late faults. -/
def State.txRmw (s : State) (g : Group) (t : Tx) (ts : List Target) (fs : List Failed) (sc : Scope) (mo : Order) (op : AtomOp)
    (size : Nat) (fin : Group → List (Nat × List Word) → List (Nat × Nat × Nat) → Group) : State :=
  let c := g.id.coreId
  match txCause ts fs with
  | some x => s.txStop g true x fs
  | none =>
    if s.txHurt g then s
    else
      let r := s.readsFirst g ts mo
      let s := s.freshen c ts
      match s.txAtoms r.1 op size (s.threadOrder Target.thread ts) t with
      | none => s.abortTx g 2 0
      | some (t, res, late) =>
        let s := s.put (fin { r.1 with tx := some t } res late)
        let s := if mo.acquires && !res.isEmpty then s.acquireL1 c sc else s
        if r.2 then s.acquireL1 c .core else s

/-- An atomic of `size` bytes that reads `n` data registers from v(d) and writes `size`/4 (R331). -/
def State.atomic (s : State) (gd : Guard) (d a : Reg) (seg : Seg) (sc : Scope) (mo : Order) (op : AtomOp) (size n : Nat) : Out :=
  s.memLong (seg = .sh) (vecRegs gd ++ vRegs d.val n ++ addrRegs seg a) fun g s =>
    let r := checkThreads (atomCheck g seg a op size (g.dataWords d.val n)) (g.enabled gd) s
    let mo := segOrder seg mo
    let o : Outst := { seq := 0, ctr := 0, kind := .atomic op size sc mo, d := d.val, dst := vRegs d.val (size / 4), todo := r.1 }
    match g.tx with
    | none => r.2.2.endMem (g.issueLong o) g.seq true r.2.1
    | some t => r.2.2.txRmw g t r.1 r.2.1 sc mo op size fun h res late =>
        (h.issueLong { o with todo := [], res := res, late := late }).nextWord 1

/-- ATADD_I32 (R333). -/
def execAtaddI32 (g : Guard) (d a : Reg) (seg : Seg) (sc : Scope) (mo : Order) (s : State) : Out :=
  s.atomic g d a seg sc mo .fetchAdd 4 1
/-- ATADD_I64 (R333). -/
def execAtaddI64 (g : Guard) (d a : Reg) (seg : Seg) (sc : Scope) (mo : Order) (s : State) : Out :=
  s.atomic g d a seg sc mo .fetchAdd 8 2
/-- ATADD_F32 (R333). -/
def execAtaddF32 (g : Guard) (d a : Reg) (seg : Seg) (sc : Scope) (mo : Order) (s : State) : Out :=
  s.atomic g d a seg sc mo .addF32 4 1
/-- ATMIN_I32 (R333). -/
def execAtminI32 (g : Guard) (d a : Reg) (seg : Seg) (sc : Scope) (mo : Order) (s : State) : Out :=
  s.atomic g d a seg sc mo .minI32 4 1
/-- ATMAX_I32 (R333). -/
def execAtmaxI32 (g : Guard) (d a : Reg) (seg : Seg) (sc : Scope) (mo : Order) (s : State) : Out :=
  s.atomic g d a seg sc mo .maxI32 4 1
/-- ATAND_B32 (R333). -/
def execAtandB32 (g : Guard) (d a : Reg) (seg : Seg) (sc : Scope) (mo : Order) (s : State) : Out :=
  s.atomic g d a seg sc mo .and 4 1
/-- ATOR_B32 (R333). -/
def execAtorB32 (g : Guard) (d a : Reg) (seg : Seg) (sc : Scope) (mo : Order) (s : State) : Out :=
  s.atomic g d a seg sc mo .or 4 1
/-- ATXOR_B32 (R333). -/
def execAtxorB32 (g : Guard) (d a : Reg) (seg : Seg) (sc : Scope) (mo : Order) (s : State) : Out :=
  s.atomic g d a seg sc mo .xor 4 1
/-- ATXCH_B32 (R333). -/
def execAtxchB32 (g : Guard) (d a : Reg) (seg : Seg) (sc : Scope) (mo : Order) (s : State) : Out :=
  s.atomic g d a seg sc mo .swap 4 1
/-- ATXCH_B64 (R333). -/
def execAtxchB64 (g : Guard) (d a : Reg) (seg : Seg) (sc : Scope) (mo : Order) (s : State) : Out :=
  s.atomic g d a seg sc mo .swap 8 2
/-- ATCAS_B32 (R333): compare v(d), new v(d+1). -/
def execAtcasB32 (g : Guard) (d a : Reg) (seg : Seg) (sc : Scope) (mo : Order) (s : State) : Out :=
  s.atomic g d a seg sc mo .cas 4 2
/-- ATCAS_B64 (R333): compare v[d:d+1], new v[d+2:d+3]. -/
def execAtcasB64 (g : Guard) (d a : Reg) (seg : Seg) (sc : Scope) (mo : Order) (s : State) : Out :=
  s.atomic g d a seg sc mo .cas 8 4

/-- REDST_F32 (R338): counted as a store; it reads and writes its place, so it needs both permissions. -/
def execRedstF32 (g : Guard) (d a : Reg) (seg : Seg) (sc : Scope) (mo : Order) (s : State) : Out :=
  s.memWord (seg = .sh) (vecRegs g ++ .v d.val :: addrRegs seg a) fun h s =>
    let r := checkThreads (atomCheck h seg a .addF32 4 (h.dataWords d.val 1)) (h.enabled g) s
    let mo := segOrder seg mo
    match h.tx with
    | none => r.2.2.endMem (h.issueStores r.1 4 (if mo.releases then some sc else none) true) h.seq true r.2.1
    | some t => r.2.2.txRmw h t r.1 r.2.1 sc mo .addF32 4 fun k _ late =>
        let k : Machine.Group := late.foldl (fun k l => k.noteLate k.setc (l.1, writeCode l.2.1, l.2.2)) k
        { k with seq := k.seq + 1 }.nextWord 1

/-! ### FENCE (R343, R344) -/

/-- FENCE (R344): the group's next memory word waits for the fence's conditions. -/
def execFence (sc : Scope) (mo : Order) (s : State) : Out :=
  s.plain 1 [] fun h => { h with fence := h.fence ++ [(sc, mo)] }

/-! ### PUBLISH (R291, R345, R346) -/

/-- Element size of a format code in half bytes (R373). -/
def fmtHalves (f : Nat) : Nat :=
  match f with
  | 0x01 => 16
  | 0x02 => 8
  | 0x03 => 4
  | 0x04 => 4
  | 0x0B => 1
  | 0x0C => 4
  | 0x0D => 8
  | 0x0E => 16
  | _ => 2

/-- The bytes that the elements of a descriptor span, from BASE (R354). -/
def Tensor.span (t : Tensor) : Nat :=
  (fmtHalves t.fmt * t.dims.headD 1 + 1) / 2 +
    ((List.range 4).map fun k => 16 * t.strs.getD k 0 * (t.dims.getD (k + 1) 1 - 1)).sum

/-- Bytes of metadata of a 64-element block of a format (R353); 0 for a format without blocks. -/
def metaBytes (f : Nat) : Nat := if f = 0x0B then 2 else if f = 0x09 ∨ f = 0x0A then 1 else 0

/-- The scale array of a descriptor: its gl offset and its bytes (R353). -/
def Tensor.scaleSpan (t : Tensor) : Nat × Nat :=
  (t.scale.toNat, metaBytes t.fmt * (t.dims.headD 1 / 64) * ((List.range 4).map fun k => t.dims.getD (k + 1) 1).prod)

/-- The virtual range of PUBLISH as first and last byte plus one, in lines; or its fault. The tensor form's range is that of the
elements, without the scale array of a block-scaled descriptor: R319 leaves it open, DESIGN CHOICE, log entry 46. -/
def Group.publishRange (g : Group) (tensors : List (Nat × Tensor)) (w : Word) (o : DWord) : Except Nat (Nat × Nat) :=
  let base := g.seg[0].base.toNat
  let lines := fun (o n : Nat) => (lineOf (base + o), lineOf (base + o + n + 127))
  if bitOf w.toNat 31 then
    if field w.toNat 8 (2 ^ 23) ≠ 0 then .error cTensor
    else match tensors.find? fun x => x.1 = w.toNat % 256 with
      | none => .error cTensor
      | some (_, t) => .ok (lines t.base.toNat t.span)
  else
    let n := w.toNat % 2 ^ 31
    if n = 0 then .ok (0, 0)
    else if g.seg[0].limit.toNat < o.toNat + n ∨ canonical (base + o.toNat) = false ∨ canonical (base + o.toNat + n - 1) = false then
      .error cSegment
    else .ok (lines o.toNat n)

/-- PUBLISH (R345): a long-latency release of the group; s(d) and the pair s[a:a+1] are read. The tensor form does not stall on an
outstanding TDEF of its tensor, the interlock of R374 being the engines' (R20): DESIGN CHOICE, log entry 45. -/
def execPublish (d a : Reg) (sc : Scope) (s : State) : Out :=
  s.memLong false (.s d.val :: sRegs a.val 2) fun h s =>
    if h.tx.isSome then s.abortTx h 8 0
    else
      match h.publishRange (((s.teamOf h).map (·.tensors)).getD []) (h.sget d.val) (h.spair a.val) with
      | .error c => s.groupFault h c
      | .ok (lo, hi) =>
        s.put ((h.issueLong { seq := 0, ctr := 0, kind := .publish sc lo hi, ready := false }).nextWord 1)

/-! ### PREF (R347) -/

/-- The line that a thread's PREF asks for, by a translation that is no demand (R328): `none` where it is dropped. -/
def State.prefTarget (s : State) (g : Group) (seg : Seg) (a : Reg) (off t : Nat) : Option Piece :=
  let o := g.offset seg a t (off * 128)
  let base := (g.segment seg).base.toNat
  let va := base + o
  match seg with
  | .sh => none
  | .lo => none
  | _ =>
    if 2 ^ 64 ≤ o ∨ (seg = .cn ∧ 2 ^ 32 ≤ o) ∨ (g.segment seg).limit.toNat < o + 128 ∨ canonical va = false then none
    else match (s.translate g.id.coreId g.ctx va .load false).1 with
      | .ok x => if x.sparse.isSome then none else some ⟨.pa (lineOf x.pa), 128, x.cls, none⟩
      | .error _ => none

/-- PREF (R347): each enabled thread's line is brought to the level named or nearer; a failed check is no fault. A line for
which the die still owes an acknowledgement is not asked for (R284). -/
def execPref (g : Guard) (lv : PrefLevel) (a : Reg) (seg : Seg) (off : Fin 8) (s : State) : Out :=
  s.memWord false (vecRegs g ++ addrRegs seg a) fun h s =>
    let ps := ((h.enabled g).filterMap (s.prefTarget h seg a off.val)).filter fun p => !s.awaitsAck h.id.die p
    let bring := fun (s : State) (p : Piece) =>
      match lv with
      | .l1 => s.fillPiece h.id.coreId p
      | .l2 => s.fillL2 h.id.coreId p
      | .l3 => s.holdPiece p
    ps.foldl bring (s.put (h.nextWord 1))

end Sys2Proof.Machine
end

