-- ==== Sys2Proof/Machine/SpecialFn.lean ====
section
/-! DEFINITION. Special functions (R119, R120): the listed results, the overflow rule, and for every other operand an
open value of Config held within the bound (log entry 6). -/

namespace Sys2Proof.Machine

/-- 2^e as a rational. -/
def ratPow2 (e : Int) : Rat := if 0 ≤ e then (2 ^ e.toNat : Nat) else 1 / ((2 ^ (-e).toNat : Nat) : Rat)

/-- The exact value of a finite code. -/
def ratOf : XReal → Option Rat
  | .fin m e => some ((m : Rat) * ratPow2 e)
  | .zero _ => some 0
  | _ => none

/-- floor(log2 q) of a positive rational. -/
def ratLog2 (q : Rat) : Int :=
  let k : Int := (Nat.log2 q.num.natAbs : Int) - Nat.log2 q.den
  if ratPow2 k ≤ q then k else k - 1

/-- ulp32 (R115). -/
def ulp32 (y : Rat) : Rat := if y = 0 then ratPow2 (-149) else ratPow2 (max (ratLog2 |y|) (-126) - 23)

/-- An FP32 code near a rational: rounded to nearest, clamped to the largest finite magnitude (R120). -/
def nearCode (q : Rat) : Nat :=
  let m := (q * ratPow2 220).floor
  let c := (roundF (XReal.ofDy m (-220)) .f32 .rne).1
  if Fmt.f32.mag c = Fmt.f32.infCode then Fmt.f32.signed (Fmt.f32.neg c) Fmt.f32.maxCode else c

/-- A bound of `k` ulp of an exact result that lies within `d` of `q`, as a distance from `q` (R120). -/
def ulpBound (k : Rat) (q d : Rat) : Rat := k * ulp32 (|q| - d) - d

/-- The open value of function `f` on `y` where it is finite and within `b` of `q`, else the code nearest to `q`. -/
def boundedFn (f : Nat) (y : Word) (q b : Rat) : Word :=
  let r := Config.specialFn f y
  match ratOf (decodeF .f32 r.toNat) with
  | some v => if |v - q| ≤ b then r else BitVec.ofNat 32 (nearCode q)
  | none => BitVec.ofNat 32 (nearCode q)

/-! ### Approximations with 80 fraction bits, well inside the slack of 2^-50 -/

/-- 2^80. -/
def fixOne : Int := 1208925819614629174706176

/-- ln 2 × 2^80. -/
def fixLn2 : Int := 837963523372001241319907

/-- 2π × 2^80. -/
def fixTau : Int := 7595904947272677161575987

/-- The sum of a series from its first term: term k + 1 is term k × m k / d k. -/
def series (m : Int) (d : Nat → Int) : Nat → Nat → Int → Int
  | 0, _, t => t
  | n + 1, k, t => t + series m d n (k + 1) (t * m / fixOne / d k)

/-- e^x for 0 ≤ x < 1, scaled. -/
def fixExp (x : Int) : Int := series x (fun k => (k : Int) + 1) 40 0 fixOne

/-- 2^q, and the slack of the approximation. -/
def approxExp2 (q : Rat) : Rat × Rat :=
  let n := q.floor
  let x := ((q - n) * (fixLn2 : Rat)).floor
  ((fixExp x : Rat) / fixOne * ratPow2 n, ratPow2 (n - 50))

/-- log2 q for positive q. -/
def approxLog2 (q : Rat) : Rat :=
  let n := ratLog2 q
  let m := q / ratPow2 n
  let z := ((m - 1) / (m + 1) * (fixOne : Rat)).floor
  let zz := z * z / fixOne
  let s := (List.range 50).foldl (fun (acc : Int × Int) i => (acc.1 + acc.2 / (2 * i + 1), acc.2 * zz / fixOne)) (0, z)
  n + (2 * s.1 : Rat) / fixLn2

/-- sin(2πr) for 0 ≤ r ≤ 1/2. -/
def approxSin (r : Rat) : Rat :=
  let x := (r * (fixTau : Rat)).floor
  (series (-(x * x / fixOne)) (fun k => (2 * (k : Int) + 2) * (2 * k + 3)) 40 0 x : Rat) / fixOne

/-- cos(2πr) for 0 ≤ r ≤ 1/2. -/
def approxCos (r : Rat) : Rat :=
  let x := (r * (fixTau : Rat)).floor
  (series (-(x * x / fixOne)) (fun k => (2 * (k : Int) + 1) * (2 * k + 2)) 40 0 fixOne : Rat) / fixOne

/-- tanh q for 0 ≤ q < 9. -/
def approxTanh (q : Rat) : Rat :=
  let e := (approxExp2 (2 * q * fixOne / fixLn2)).1
  (e - 1) / (e + 1)

/-- √q for q ≥ 0, to 220 fraction bits. -/
def approxSqrt (q : Rat) : Rat := (Nat.sqrt (q * ratPow2 440).floor.toNat : Rat) * ratPow2 (-220)

/-- A code of an exact value that FP32 holds. -/
def exactCode (m e : Int) : Word := BitVec.ofNat 32 (roundF (XReal.ofDy m e) .f32 .rne).1

/-- A zero, an infinity and one, with a sign. -/
def zero32 (neg : Bool) : Word := BitVec.ofNat 32 (Fmt.f32.signed neg 0)
def inf32 (neg : Bool) : Word := BitVec.ofNat 32 (Fmt.f32.signed neg Fmt.f32.infCode)
def one32 (neg : Bool) : Word := BitVec.ofNat 32 (Fmt.f32.signed neg 0x3F800000)

/-- qnan(FP32). -/
def qnan32 : Word := 0x7FC00000

/-- Whether an integer is a power of two, in magnitude. -/
def isPow2 (m : Int) : Bool := m.natAbs == 2 ^ Nat.log2 m.natAbs

/-- FRCP (R120). -/
def frcpOf (y : Word) : Word × Flags :=
  match decodeF .f32 y.toNat with
  | .nan => (qnan32, 0)
  | .zero n => (inf32 n, fDZ)
  | .inf n => (zero32 n, 0)
  | .fin m e =>
    let q := 1 / ((m : Rat) * ratPow2 e)
    if (((2 ^ 24 - 1 : Nat) : Rat) * ratPow2 104) < |q| then (inf32 (decide (m < 0)), fOF)
    else if isPow2 m then (BitVec.ofNat 32 (nearCode q), 0)
    else (boundedFn 0 y q (ulp32 q), 0)

/-- FRSQ (R120). -/
def frsqOf (y : Word) : Word × Flags :=
  match decodeF .f32 y.toNat with
  | .nan => (qnan32, 0)
  | .zero n => (inf32 n, fDZ)
  | .inf true => (qnan32, fNV)
  | .inf false => (zero32 false, 0)
  | .fin m e =>
    if m < 0 then (qnan32, fNV)
    else
      let q := approxSqrt (1 / ((m : Rat) * ratPow2 e))
      if isPow2 m && ((Nat.log2 m.natAbs : Int) + e) % 2 == 0 then (BitVec.ofNat 32 (nearCode q), 0)
      else (boundedFn 1 y q (ulpBound 2 q (ratPow2 (-200))), 0)

/-- FSQRT (R120). -/
def fsqrtOf (y : Word) : Word × Flags :=
  match decodeF .f32 y.toNat with
  | .nan => (qnan32, 0)
  | .zero n => (zero32 n, 0)
  | .inf true => (qnan32, fNV)
  | .inf false => (inf32 false, 0)
  | .fin m e =>
    if m < 0 then (qnan32, fNV)
    else
      let q := approxSqrt ((m : Rat) * ratPow2 e)
      if q * q = (m : Rat) * ratPow2 e then (BitVec.ofNat 32 (nearCode q), 0)
      else (boundedFn 2 y q (ulpBound 1 q (ratPow2 (-200))), 0)

/-- FEXP2 (R120). -/
def fexp2Of (y : Word) : Word × Flags :=
  match decodeF .f32 y.toNat with
  | .nan => (qnan32, 0)
  | .zero _ => (one32 false, 0)
  | .inf true => (zero32 false, 0)
  | .inf false => (inf32 false, 0)
  | .fin m e =>
    let q := (m : Rat) * ratPow2 e
    if 128 ≤ q then (inf32 false, fOF)
    else if q < -150 then (zero32 false, 0)
    else if q.den = 1 ∧ -149 ≤ q then (exactCode 1 q.num, 0)
    else let a := approxExp2 q; (boundedFn 3 y a.1 (ulpBound 2 a.1 a.2), 0)

/-- FLOG2 (R120). -/
def flog2Of (y : Word) : Word × Flags :=
  match decodeF .f32 y.toNat with
  | .nan => (qnan32, 0)
  | .zero _ => (inf32 true, fDZ)
  | .inf true => (qnan32, fNV)
  | .inf false => (inf32 false, 0)
  | .fin m e =>
    if m < 0 then (qnan32, fNV)
    else if isPow2 m then (exactCode ((Nat.log2 m.natAbs : Int) + e) 0, 0)
    else
      let q := (m : Rat) * ratPow2 e
      let a := approxLog2 q
      (boundedFn 4 y a (if 1 / 2 ≤ q ∧ q ≤ 2 then ratPow2 (-22) - ratPow2 (-50) else ulpBound 2 a (ratPow2 (-50))), 0)

/-- FSIN (R120): the argument reduced exactly. -/
def fsinOf (y : Word) : Word × Flags :=
  match decodeF .f32 y.toNat with
  | .nan => (qnan32, 0)
  | .zero n => (zero32 n, 0)
  | .inf _ => (qnan32, fNV)
  | .fin m e =>
    let q := (m : Rat) * ratPow2 e
    let r := q - q.floor
    if r = 0 ∨ r = 1 / 2 then (zero32 (decide (m < 0)), 0)
    else if r = 1 / 4 then (one32 false, 0)
    else if r = 3 / 4 then (one32 true, 0)
    else (boundedFn 5 y (if r < 1 / 2 then approxSin r else -approxSin (r - 1 / 2)) (ratPow2 (-22) - ratPow2 (-50)), 0)

/-- FCOS (R120). -/
def fcosOf (y : Word) : Word × Flags :=
  match decodeF .f32 y.toNat with
  | .nan => (qnan32, 0)
  | .zero _ => (one32 false, 0)
  | .inf _ => (qnan32, fNV)
  | .fin m e =>
    let q := (m : Rat) * ratPow2 e
    let r := q - q.floor
    if r = 0 then (one32 false, 0)
    else if r = 1 / 2 then (one32 true, 0)
    else if r = 1 / 4 ∨ r = 3 / 4 then (zero32 false, 0)
    else (boundedFn 6 y (if r < 1 / 2 then approxCos r else -approxCos (r - 1 / 2)) (ratPow2 (-22) - ratPow2 (-50)), 0)

/-- FTANH (R120). -/
def ftanhOf (y : Word) : Word × Flags :=
  match decodeF .f32 y.toNat with
  | .nan => (qnan32, 0)
  | .zero n => (zero32 n, 0)
  | .inf n => (one32 n, 0)
  | .fin m e =>
    let q := (m : Rat) * ratPow2 e
    if 9 ≤ |q| then (one32 (decide (m < 0)), 0)
    else (boundedFn 7 y (if m < 0 then -approxTanh (-q) else approxTanh q) (ratPow2 (-21) - ratPow2 (-50)), 0)

/-- A special function with the NV of a signalling operand (R120). -/
def specialOf (f : Nat) (y : Word) : Word × Flags :=
  let r := match f with
    | 0 => frcpOf y
    | 1 => frsqOf y
    | 2 => fsqrtOf y
    | 3 => fexp2Of y
    | 4 => flog2Of y
    | 5 => fsinOf y
    | 6 => fcosOf y
    | _ => ftanhOf y
  (r.1, r.2 ||| if Fmt.f32.isSnan y.toNat then fNV else 0)

end Sys2Proof.Machine
end

