-- ==== Sys2Proof/Machine/Float.lean ====
section
/-! DEFINITION. Floating-point and conversion instructions (R112 to R126). -/

namespace Sys2Proof.Machine

/-! ### Elements (R48, R115) -/

/-- A result of one element in a word, or in a pair. -/
abbrev Res32 := Word × Flags
abbrev Res64 := DWord × Flags

/-- One FP32 element. -/
def one (r : Nat × Flags) : Res32 := (BitVec.ofNat 32 r.1, r.2)

/-- One FP64 element. -/
def one64 (r : Nat × Flags) : Res64 := (BitVec.ofNat 64 r.1, r.2)

/-- 16-bit element e of a word (R48). -/
def half (x : Word) (e : Nat) : Nat := field x.toNat (16 * e) 65536

/-- Two 16-bit elements, their flags together (R48). -/
def two (f : Nat → Nat × Flags) : Res32 := (BitVec.ofNat 32 ((f 0).1 + (f 1).1 * 65536), (f 0).2 ||| (f 1).2)

/-- The rounding mode of a group's instructions (R112). -/
def Group.rm (g : Group) : Rm := rmOf g.fpmode.toNat

/-- A vector word that writes v(d) and raises flags (R38, R112). -/
def State.fpWord (s : State) (gd : Guard) (d : Reg) (rs : List PReg) (f : Group → Nat → Res32) : Out :=
  s.plain 1 (vecRegs gd ++ .v d.val :: rs) fun g =>
    (g.vset gd d.val fun t => (f g t).1).raiseFlags (g.allFlags gd fun t => (f g t).2)

/-- A vector word that writes the pair v[d:d+1] and raises flags. -/
def State.fpPairWord (s : State) (gd : Guard) (d : Reg) (rs : List PReg) (f : Group → Nat → Res64) : Out :=
  s.plain 1 (vecRegs gd ++ vRegs d.val 2 ++ rs) fun g =>
    (g.vsetPair gd d.val fun t => (f g t).1).raiseFlags (g.allFlags gd fun t => (f g t).2)

/-- An operation on two codes of a format. -/
abbrev Bin := Rm → Nat → Nat → Nat × Flags

/-- A binary operation of type .f32. -/
def State.fp32 (s : State) (gd : Guard) (d a : Reg) (b : BOp) (op : Bin) : Out :=
  s.fpWord gd d [.v a.val, bReg b] fun g t => one (op g.rm (g.vget a.val t).toNat (g.bval b t).toNat)

/-- A binary operation of type .f64. -/
def State.fp64 (s : State) (gd : Guard) (d a : Reg) (b : BOp) (op : Bin) : Out :=
  s.fpPairWord gd d (vRegs a.val 2 ++ bRegs 2 b) fun g t => one64 (op g.rm (g.vpair a.val t).toNat (g.bpair b t).toNat)

/-- A binary operation of type .h2 or .bh2. -/
def State.fpH2 (s : State) (gd : Guard) (d a : Reg) (b : BOp) (op : Bin) : Out :=
  s.fpWord gd d [.v a.val, bReg b] fun g t => two fun e => op g.rm (half (g.vget a.val t) e) (half (g.bval b t) e)

/-! ### Arithmetic (R116) -/

/-- FADD_F32 (R116). -/
def execFaddF32 (g : Guard) (d a : Reg) (b : BOp) (s : State) : Out := s.fp32 g d a b (fpAdd .f32)
/-- FADD_F64 (R116). -/
def execFaddF64 (g : Guard) (d a : Reg) (b : BOp) (s : State) : Out := s.fp64 g d a b (fpAdd .f64)
/-- FADD_H2 (R116). -/
def execFaddH2 (g : Guard) (d a : Reg) (b : BOp) (s : State) : Out := s.fpH2 g d a b (fpAdd .f16)
/-- FADD_BH2 (R116). -/
def execFaddBH2 (g : Guard) (d a : Reg) (b : BOp) (s : State) : Out := s.fpH2 g d a b (fpAdd .bf16)
/-- FSUB_F32 (R116). -/
def execFsubF32 (g : Guard) (d a : Reg) (b : BOp) (s : State) : Out := s.fp32 g d a b (fpSub .f32)
/-- FSUB_F64 (R116). -/
def execFsubF64 (g : Guard) (d a : Reg) (b : BOp) (s : State) : Out := s.fp64 g d a b (fpSub .f64)
/-- FSUB_H2 (R116). -/
def execFsubH2 (g : Guard) (d a : Reg) (b : BOp) (s : State) : Out := s.fpH2 g d a b (fpSub .f16)
/-- FSUB_BH2 (R116). -/
def execFsubBH2 (g : Guard) (d a : Reg) (b : BOp) (s : State) : Out := s.fpH2 g d a b (fpSub .bf16)
/-- FMUL_F32 (R116). -/
def execFmulF32 (g : Guard) (d a : Reg) (b : BOp) (s : State) : Out := s.fp32 g d a b (fpMul .f32)
/-- FMUL_F64 (R116). -/
def execFmulF64 (g : Guard) (d a : Reg) (b : BOp) (s : State) : Out := s.fp64 g d a b (fpMul .f64)
/-- FMUL_H2 (R116). -/
def execFmulH2 (g : Guard) (d a : Reg) (b : BOp) (s : State) : Out := s.fpH2 g d a b (fpMul .f16)
/-- FMUL_BH2 (R116). -/
def execFmulBH2 (g : Guard) (d a : Reg) (b : BOp) (s : State) : Out := s.fpH2 g d a b (fpMul .bf16)

/-- FFMA of type .h2 or .bh2: v(d) is also the addend. -/
def State.fmaH2 (s : State) (F : Fmt) (gd : Guard) (d a : Reg) (b : BOp) (neg : Bool) : Out :=
  s.fpWord gd d [.v a.val, bReg b] fun g t =>
    two fun e => fpFma F g.rm neg (half (g.vget a.val t) e) (half (g.bval b t) e) (half (g.vget d.val t) e)

/-- FFMA_F32 (R116): v(d) is also the addend. -/
def execFfmaF32 (g : Guard) (d a : Reg) (b : BOp) (neg : Bool) (s : State) : Out :=
  s.fpWord g d [.v a.val, bReg b] fun h t =>
    one (fpFma .f32 h.rm neg (h.vget a.val t).toNat (h.bval b t).toNat (h.vget d.val t).toNat)

/-- FFMA_F64 (R116): pair(d) is also the addend. -/
def execFfmaF64 (g : Guard) (d a : Reg) (b : BOp) (neg : Bool) (s : State) : Out :=
  s.fpPairWord g d (vRegs a.val 2 ++ bRegs 2 b) fun h t =>
    one64 (fpFma .f64 h.rm neg (h.vpair a.val t).toNat (h.bpair b t).toNat (h.vpair d.val t).toNat)

/-- FFMA_H2 (R116). -/
def execFfmaH2 (g : Guard) (d a : Reg) (b : BOp) (neg : Bool) (s : State) : Out := s.fmaH2 .f16 g d a b neg
/-- FFMA_BH2 (R116). -/
def execFfmaBH2 (g : Guard) (d a : Reg) (b : BOp) (neg : Bool) (s : State) : Out := s.fmaH2 .bf16 g d a b neg

/-! ### Minimum and maximum (R117) -/

/-- FMIN and FMAX as an operation that ignores the rounding mode. -/
def minMaxOp (F : Fmt) (isMax nan : Bool) : Bin := fun _ => fpMinMax F isMax nan

/-- FMIN_F32 (R117). -/
def execFminF32 (g : Guard) (d a : Reg) (b : BOp) (nan : Bool) (s : State) : Out := s.fp32 g d a b (minMaxOp .f32 false nan)
/-- FMIN_F64 (R117). -/
def execFminF64 (g : Guard) (d a : Reg) (b : BOp) (nan : Bool) (s : State) : Out := s.fp64 g d a b (minMaxOp .f64 false nan)
/-- FMIN_H2 (R117). -/
def execFminH2 (g : Guard) (d a : Reg) (b : BOp) (nan : Bool) (s : State) : Out := s.fpH2 g d a b (minMaxOp .f16 false nan)
/-- FMIN_BH2 (R117). -/
def execFminBH2 (g : Guard) (d a : Reg) (b : BOp) (nan : Bool) (s : State) : Out := s.fpH2 g d a b (minMaxOp .bf16 false nan)
/-- FMAX_F32 (R117). -/
def execFmaxF32 (g : Guard) (d a : Reg) (b : BOp) (nan : Bool) (s : State) : Out := s.fp32 g d a b (minMaxOp .f32 true nan)
/-- FMAX_F64 (R117). -/
def execFmaxF64 (g : Guard) (d a : Reg) (b : BOp) (nan : Bool) (s : State) : Out := s.fp64 g d a b (minMaxOp .f64 true nan)
/-- FMAX_H2 (R117). -/
def execFmaxH2 (g : Guard) (d a : Reg) (b : BOp) (nan : Bool) (s : State) : Out := s.fpH2 g d a b (minMaxOp .f16 true nan)
/-- FMAX_BH2 (R117). -/
def execFmaxBH2 (g : Guard) (d a : Reg) (b : BOp) (nan : Bool) (s : State) : Out := s.fpH2 g d a b (minMaxOp .bf16 true nan)

/-! ### Compare (R118) -/

/-- FCMP on the elements that `x` and `y` give: the pair as ICMP writes it, and NV. -/
def State.fcmpWord (s : State) (F : Fmt) (sig : Bool) (gd : Guard) (pair : Fin 6) (cond : Cond) (rs : List PReg)
    (x y : Group → Nat → Nat) : Out :=
  s.plain 1 (vecRegs gd ++ pairRegs pair ++ rs) fun g =>
    (g.setPair (g.on gd) pair fun t => fpCond F cond (x g t) (y g t)).raiseFlags
      (g.allFlags gd fun t => fpCmpFlags F sig (x g t) (y g t))

/-- FCMP_F32 (R118). -/
def execFcmpF32 (g : Guard) (pair : Fin 6) (cond : Cond) (a : Reg) (b : BOp) (sig : Bool) (s : State) : Out :=
  s.fcmpWord .f32 sig g pair cond [.v a.val, bReg b] (fun h t => (h.vget a.val t).toNat) fun h t => (h.bval b t).toNat
/-- FCMP_F64 (R118). -/
def execFcmpF64 (g : Guard) (pair : Fin 6) (cond : Cond) (a : Reg) (b : BOp) (sig : Bool) (s : State) : Out :=
  s.fcmpWord .f64 sig g pair cond (vRegs a.val 2 ++ bRegs 2 b) (fun h t => (h.vpair a.val t).toNat)
    fun h t => (h.bpair b t).toNat
/-- FCMP_H2 (R118): element 1 with `hi`. -/
def execFcmpH2 (g : Guard) (pair : Fin 6) (cond : Cond) (a : Reg) (b : BOp) (hi : Bool) (s : State) : Out :=
  s.fcmpWord .f16 false g pair cond [.v a.val, bReg b] (fun h t => half (h.vget a.val t) hi.toNat)
    fun h t => half (h.bval b t) hi.toNat
/-- FCMP_BH2 (R118): element 1 with `hi`. -/
def execFcmpBH2 (g : Guard) (pair : Fin 6) (cond : Cond) (a : Reg) (b : BOp) (hi : Bool) (s : State) : Out :=
  s.fcmpWord .bf16 false g pair cond [.v a.val, bReg b] (fun h t => half (h.vget a.val t) hi.toNat)
    fun h t => half (h.bval b t) hi.toNat

/-! ### Special functions (R113, R119 to R121) -/

/-- A special function issued: its results wait for RESULT_WRITEBACK, its flags with them (R121). -/
def State.specialWord (s : State) (f : Nat) (gd : Guard) (d : Reg) (b : BOp) : Out :=
  s.longWord false (vecRegs gd ++ [.v d.val, bReg b]) fun g =>
    s.put ((g.issueLong
      { seq := 0, ctr := 0, kind := .special, d := d.val, dst := [.v d.val]
        res := (g.enabled gd).map fun t => (t, [(specialOf f (g.bval b t)).1])
        flags := g.allFlags gd fun t => (specialOf f (g.bval b t)).2 }).nextWord 1)

/-- FRCP (R120). -/
def execFrcp (g : Guard) (d : Reg) (b : BOp) (s : State) : Out := s.specialWord 0 g d b
/-- FRSQ (R120). -/
def execFrsq (g : Guard) (d : Reg) (b : BOp) (s : State) : Out := s.specialWord 1 g d b
/-- FSQRT (R120). -/
def execFsqrt (g : Guard) (d : Reg) (b : BOp) (s : State) : Out := s.specialWord 2 g d b
/-- FEXP2 (R120). -/
def execFexp2 (g : Guard) (d : Reg) (b : BOp) (s : State) : Out := s.specialWord 3 g d b
/-- FLOG2 (R120). -/
def execFlog2 (g : Guard) (d : Reg) (b : BOp) (s : State) : Out := s.specialWord 4 g d b
/-- FSIN (R120). -/
def execFsin (g : Guard) (d : Reg) (b : BOp) (s : State) : Out := s.specialWord 5 g d b
/-- FCOS (R120). -/
def execFcos (g : Guard) (d : Reg) (b : BOp) (s : State) : Out := s.specialWord 6 g d b
/-- FTANH (R120). -/
def execFtanh (g : Guard) (d : Reg) (b : BOp) (s : State) : Out := s.specialWord 7 g d b

/-! ### Conversions (R122) -/

/-- The mode of a conversion to an integer: toward zero with `rz`. -/
def cvtRm (rz : Bool) (rm : Rm) : Rm := if rz then .rtz else rm

/-- An integer rounded to FP32. -/
def fromInt (rm : Rm) (n : Int) : Nat × Flags := roundF (xint n) .f32 rm

/-- A conversion to a signed 32-bit integer (R56). -/
def toI32 (F : Fmt) (rm : Rm) (x : Nat) : Res32 :=
  let r := fpToInt F rm (-2147483648) 2147483647 x
  (trunc32 r.1, r.2)

/-- A conversion to an unsigned 32-bit integer (R56). -/
def toN32 (F : Fmt) (rm : Rm) (x : Nat) : Res32 :=
  let r := fpToInt F rm 0 4294967295 x
  (trunc32 r.1, r.2)

/-- CVT_F32_F64 (R122). -/
def execCvtF32F64 (g : Guard) (d : Reg) (b : BOp) (s : State) : Out :=
  s.fpWord g d (bRegs 2 b) fun h t => one (fpCvt .f64 .f32 h.rm (h.bpair b t).toNat)
/-- CVT_F64_F32 (R122). -/
def execCvtF64F32 (g : Guard) (d : Reg) (b : BOp) (s : State) : Out :=
  s.fpPairWord g d [bReg b] fun h t => one64 (fpCvt .f32 .f64 h.rm (h.bval b t).toNat)
/-- CVT_F32_H2 (R122): element 1 with `hi`. -/
def execCvtF32H2 (g : Guard) (d : Reg) (b : BOp) (hi : Bool) (s : State) : Out :=
  s.fpWord g d [bReg b] fun h t => one (fpCvt .f16 .f32 h.rm (half (h.bval b t) hi.toNat))
/-- CVT_H2_F32 (R122): a to element 0, b to element 1. -/
def execCvtH2F32 (g : Guard) (d a : Reg) (b : BOp) (s : State) : Out :=
  s.fpWord g d [.v a.val, bReg b] fun h t =>
    two fun e => fpCvt .f32 .f16 h.rm (if e = 0 then h.vget a.val t else h.bval b t).toNat
/-- CVT_F32_BH2 (R122): element 1 with `hi`. -/
def execCvtF32Bh2 (g : Guard) (d : Reg) (b : BOp) (hi : Bool) (s : State) : Out :=
  s.fpWord g d [bReg b] fun h t => one (fpCvt .bf16 .f32 h.rm (half (h.bval b t) hi.toNat))
/-- CVT_BH2_F32 (R122): a to element 0, b to element 1. -/
def execCvtBh2F32 (g : Guard) (d a : Reg) (b : BOp) (s : State) : Out :=
  s.fpWord g d [.v a.val, bReg b] fun h t =>
    two fun e => fpCvt .f32 .bf16 h.rm (if e = 0 then h.vget a.val t else h.bval b t).toNat
/-- CVT_F32_I32 (R122). -/
def execCvtF32I32 (g : Guard) (d : Reg) (b : BOp) (s : State) : Out :=
  s.fpWord g d [bReg b] fun h t => one (fromInt h.rm (h.bval b t).toInt)
/-- CVT_F32_N32 (R122). -/
def execCvtF32N32 (g : Guard) (d : Reg) (b : BOp) (s : State) : Out :=
  s.fpWord g d [bReg b] fun h t => one (fromInt h.rm (h.bval b t).toNat)
/-- CVT_I32_F32 (R122). -/
def execCvtI32F32 (g : Guard) (d : Reg) (b : BOp) (rz : Bool) (s : State) : Out :=
  s.fpWord g d [bReg b] fun h t => toI32 .f32 (cvtRm rz h.rm) (h.bval b t).toNat
/-- CVT_N32_F32 (R122). -/
def execCvtN32F32 (g : Guard) (d : Reg) (b : BOp) (rz : Bool) (s : State) : Out :=
  s.fpWord g d [bReg b] fun h t => toN32 .f32 (cvtRm rz h.rm) (h.bval b t).toNat
/-- CVT_F64_I32 (R122). -/
def execCvtF64I32 (g : Guard) (d : Reg) (b : BOp) (s : State) : Out :=
  s.fpPairWord g d [bReg b] fun h t => one64 (roundF (xint (h.bval b t).toInt) .f64 h.rm)
/-- CVT_I32_F64 (R122). -/
def execCvtI32F64 (g : Guard) (d : Reg) (b : BOp) (rz : Bool) (s : State) : Out :=
  s.fpWord g d (bRegs 2 b) fun h t => toI32 .f64 (cvtRm rz h.rm) (h.bpair b t).toNat

/-! ### FP8 pack and unpack (R123, R124) -/

/-- CVTP on three words: elements 2f and 2f + 1 of the kept word replaced (R123). -/
def cvtpOf (G : Fmt) (rm : Rm) (hi : Bool) (a b old : Word) : Res32 :=
  let x := fpCvt .f32 G rm a.toNat
  let y := fpCvt .f32 G rm b.toNat
  let n := x.1 + y.1 * 256
  (BitVec.ofNat 32 (if hi then old.toNat % 65536 + n * 65536 else old.toNat / 65536 * 65536 + n), x.2 ||| y.2)

/-- CVTU on a word: elements 2f and 2f + 1 as two FP32 values, low first (R124). -/
def cvtuOf (G : Fmt) (hi : Bool) (b : Word) : Res64 :=
  let e := fun i => fpCvt G .f32 .rne (field b.toNat (16 * hi.toNat + 8 * i) 256)
  (BitVec.ofNat 64 ((e 0).1 + (e 1).1 * 4294967296), (e 0).2 ||| (e 1).2)

/-- CVTP_E4M3 (R123): v(d) is also read. -/
def execCvtpE4m3 (g : Guard) (d a : Reg) (b : BOp) (hi : Bool) (s : State) : Out :=
  s.fpWord g d [.v a.val, bReg b] fun h t => cvtpOf .e4m3 h.rm hi (h.vget a.val t) (h.bval b t) (h.vget d.val t)
/-- CVTP_E5M2 (R123): v(d) is also read. -/
def execCvtpE5m2 (g : Guard) (d a : Reg) (b : BOp) (hi : Bool) (s : State) : Out :=
  s.fpWord g d [.v a.val, bReg b] fun h t => cvtpOf .e5m2 h.rm hi (h.vget a.val t) (h.bval b t) (h.vget d.val t)
/-- CVTU_E4M3 (R124). -/
def execCvtuE4m3 (g : Guard) (d : Reg) (b : BOp) (hi : Bool) (s : State) : Out :=
  s.fpPairWord g d [bReg b] fun h t => cvtuOf .e4m3 hi (h.bval b t)
/-- CVTU_E5M2 (R124). -/
def execCvtuE5m2 (g : Guard) (d : Reg) (b : BOp) (hi : Bool) (s : State) : Out :=
  s.fpPairWord g d [bReg b] fun h t => cvtuOf .e5m2 hi (h.bval b t)

end Sys2Proof.Machine
end

