-- ==== Sys2Proof/Machine/Integer.lean ====
section
/-! DEFINITION. Integer, bit and move instructions (R95 to R111). -/

namespace Sys2Proof.Machine

/-! ### Moves (R98 to R100) -/

/-- NOP (R98). -/
def execNop (s : State) : Out := s.plain 1 [] id

/-- MOVI (R98). -/
def execMovi (g : Guard) (d : Reg) (imm : BitVec 14) (s : State) : Out :=
  s.vecWord g d [] fun _ _ => imm.signExtend 32

/-- MOVL (R98): its literal is the next word of the clause (R18). -/
def execMovl (g : Guard) (d : Reg) (lit : Word) (s : State) : Out :=
  s.plain 2 (vecRegs g ++ [.v d.val]) fun h => h.vset g d.val fun _ => lit

/-- MOV (R98). -/
def execMov (g : Guard) (d : Reg) (b : BOp) (s : State) : Out := s.vecB g d b id

/-- The computed index of MOVX and MOVY, exact (R99). -/
def Group.movIndex (g : Group) (sb : Reg) (k : Fin 64) : Nat := (g.sget sb.val).toNat + k.val

/-- The registers of MOVX and MOVY: the index register and v(idx) count as named (R27, R99). -/
def movRegs (gd : Guard) (d sb : Reg) (idx : Nat) : List PReg := vecRegs gd ++ [.v d.val, .s sb.val, .v idx]

/-- MOVX (R99). -/
def execMovx (g : Guard) (d sb : Reg) (k : Fin 64) (s : State) : Out :=
  match s.cur with
  | none => .fault .noGroup
  | some h => s.plain 1 (movRegs g d sb (h.movIndex sb k)) fun h => h.vset g d.val (h.vget (h.movIndex sb k))

/-- MOVY (R99): v(d) is the source. -/
def execMovy (g : Guard) (d sb : Reg) (k : Fin 64) (s : State) : Out :=
  match s.cur with
  | none => .fault .noGroup
  | some h => s.plain 1 (movRegs g d sb (h.movIndex sb k)) fun h => h.vset g (h.movIndex sb k) (h.vget d.val)

/-- SMOVI (R98). -/
def execSmovi (d : Reg) (imm : BitVec 14) (s : State) : Out :=
  s.plain 1 [.s d.val] fun h => h.sset d.val (imm.signExtend 32)

/-- SMOVL (R98). -/
def execSmovl (d : Reg) (lit : Word) (s : State) : Out := s.plain 2 [.s d.val] fun h => h.sset d.val lit

/-- READL (R100): thread k whatever the mask. -/
def execReadl (d a : Reg) (k : Fin 96) (s : State) : Out :=
  s.plain 1 [.s d.val, .v a.val] fun h => h.sset d.val (h.vget a.val k.val)

/-- WRITEL (R100): thread k whatever the mask. -/
def execWritel (d a : Reg) (k : Fin 96) (s : State) : Out :=
  s.plain 1 [.v d.val, .s a.val] fun h => h.vput d.val k.val (h.sget a.val)

/-! ### 32-bit arithmetic (R101) -/

/-- IADD. -/
def iaddOf (sat : Bool) (x y : Word) : Word := if sat then sat32 (x.toInt + y.toInt) else x + y

/-- ISUB. -/
def isubOf (sat : Bool) (x y : Word) : Word := if sat then sat32 (x.toInt - y.toInt) else x - y

/-- IMULH: bits [63:32] of the exact product, unsigned with `n`. -/
def imulhOf (n : Bool) (x y : Word) : Word :=
  if n then BitVec.ofNat 32 (x.toNat * y.toNat / 4294967296) else trunc32 (Int.fdiv (x.toInt * y.toInt) 4294967296)

/-- IMIN: unsigned with `n`. -/
def iminOf (n : Bool) (x y : Word) : Word :=
  if n then (if x.toNat ≤ y.toNat then x else y) else (if x.toInt ≤ y.toInt then x else y)

/-- IMAX: unsigned with `n`. -/
def imaxOf (n : Bool) (x y : Word) : Word :=
  if n then (if y.toNat ≤ x.toNat then x else y) else (if y.toInt ≤ x.toInt then x else y)

/-- IABS. -/
def iabsOf (sat : Bool) (y : Word) : Word := if sat then sat32 |y.toInt| else trunc32 |y.toInt|

/-- IADD (R101). -/
def execIadd (g : Guard) (d a : Reg) (b : BOp) (sat : Bool) (s : State) : Out := s.vecAB g d a b (iaddOf sat)

/-- ISUB (R101). -/
def execIsub (g : Guard) (d a : Reg) (b : BOp) (sat : Bool) (s : State) : Out := s.vecAB g d a b (isubOf sat)

/-- IADDI (R101). -/
def execIaddi (g : Guard) (d a : Reg) (imm : BitVec 8) (s : State) : Out :=
  s.vecWord g d [.v a.val] fun h t => h.vget a.val t + imm.signExtend 32

/-- IMUL (R101). -/
def execImul (g : Guard) (d a : Reg) (b : BOp) (s : State) : Out := s.vecAB g d a b fun x y => x * y

/-- IMULH (R101). -/
def execImulh (g : Guard) (d a : Reg) (b : BOp) (n : Bool) (s : State) : Out := s.vecAB g d a b (imulhOf n)

/-- IMAD (R101): v(d) is also the addend. -/
def execImad (g : Guard) (d a : Reg) (b : BOp) (s : State) : Out :=
  s.vecWord g d [.v a.val, bReg b] fun h t => h.vget a.val t * h.bval b t + h.vget d.val t

/-- IMIN (R101). -/
def execImin (g : Guard) (d a : Reg) (b : BOp) (n : Bool) (s : State) : Out := s.vecAB g d a b (iminOf n)

/-- IMAX (R101). -/
def execImax (g : Guard) (d a : Reg) (b : BOp) (n : Bool) (s : State) : Out := s.vecAB g d a b (imaxOf n)

/-- IABS (R101). -/
def execIabs (g : Guard) (d : Reg) (b : BOp) (sat : Bool) (s : State) : Out := s.vecB g d b (iabsOf sat)

/-! ### 64-bit arithmetic (R102) -/

/-- IMADW: the pair is the destination and the addend. -/
def imadwOf (n : Bool) (x y : Word) (acc : DWord) : DWord :=
  if n then BitVec.ofNat 64 (x.toNat * y.toNat + acc.toNat) else trunc64 (x.toInt * y.toInt + acc.toNat)

/-- IMADW (R102). -/
def execImadw (g : Guard) (d a : Reg) (b : BOp) (n : Bool) (s : State) : Out :=
  s.vecPairWord g d [.v a.val, bReg b] fun h t => imadwOf n (h.vget a.val t) (h.bval b t) (h.vpair d.val t)

/-- IADD64 (R102): b sign-extended, or with `w` a pair. -/
def execIadd64 (g : Guard) (d a : Reg) (b : BOp) (w : Bool) (s : State) : Out :=
  s.vecPairWord g d (vRegs a.val 2 ++ bRegs (if w then 2 else 1) b) fun h t =>
    h.vpair a.val t + (if w then h.bpair b t else (h.bval b t).signExtend 64)

/-! ### Logic, shifts, bit fields (R103 to R107) -/

/-- AND (R103). -/
def execAnd (g : Guard) (d a : Reg) (b : BOp) (s : State) : Out := s.vecAB g d a b fun x y => x &&& y

/-- OR (R103). -/
def execOr (g : Guard) (d a : Reg) (b : BOp) (s : State) : Out := s.vecAB g d a b fun x y => x ||| y

/-- XOR (R103). -/
def execXor (g : Guard) (d a : Reg) (b : BOp) (s : State) : Out := s.vecAB g d a b fun x y => x ^^^ y

/-- ANDN (R103). -/
def execAndn (g : Guard) (d a : Reg) (b : BOp) (s : State) : Out := s.vecAB g d a b fun x y => x &&& ~~~y

/-- SHL (R104). -/
def execShl (g : Guard) (d a : Reg) (b : BOp) (s : State) : Out := s.vecAB g d a b shlOf

/-- SHR: arithmetic with `ar`. -/
def shrAny (ar : Bool) (x sh : Word) : Word := if ar then sarOf x sh else shrOf x sh

/-- ROT: to the right with `r`. -/
def rotAny (r : Bool) (x sh : Word) : Word := if r then rotrOf x sh else rotlOf x sh

/-- SHR (R104). -/
def execShr (g : Guard) (d a : Reg) (b : BOp) (ar : Bool) (s : State) : Out := s.vecAB g d a b (shrAny ar)

/-- ROT (R104). -/
def execRot (g : Guard) (d a : Reg) (b : BOp) (r : Bool) (s : State) : Out := s.vecAB g d a b (rotAny r)

/-- SHIFTI's kinds (R104). -/
def shiftOf (k : ShiftKind) (x sh : Word) : Word :=
  match k with
  | .shl => shlOf x sh
  | .shr => shrOf x sh
  | .sar => sarOf x sh
  | .rot => rotlOf x sh

/-- SHIFTI (R104). -/
def execShifti (g : Guard) (d a : Reg) (kind : ShiftKind) (n : Fin 64) (s : State) : Out :=
  s.vecWord g d [.v a.val] fun h t => shiftOf kind (h.vget a.val t) (BitVec.ofNat 32 n.val)

/-- BFE (R106). -/
def execBfe (g : Guard) (d a : Reg) (b : BOp) (signed : Bool) (s : State) : Out :=
  s.vecAB g d a b fun x desc => bfeOf x desc signed

/-- BFI (R107): v(d) is also the base. -/
def execBfi (g : Guard) (d a : Reg) (b : BOp) (s : State) : Out :=
  s.vecWord g d [.v a.val, bReg b] fun h t => bfiOf (h.vget a.val t) (h.bval b t) (h.vget d.val t)

/-- POPC (R105). -/
def execPopc (g : Guard) (d : Reg) (b : BOp) (s : State) : Out := s.vecB g d b fun y => BitVec.ofNat 32 (popCount y)

/-- CLZ (R105). -/
def execClz (g : Guard) (d : Reg) (b : BOp) (s : State) : Out := s.vecB g d b fun y => BitVec.ofNat 32 (clzOf y)

/-- BREV (R105). -/
def execBrev (g : Guard) (d : Reg) (b : BOp) (s : State) : Out := s.vecB g d b brevOf

/-! ### Compares and selection (R108, R109) -/

/-- ICMP and ICMPN (R108): signed or unsigned, 64-bit with `w`. -/
def State.icmpWord (s : State) (unsigned : Bool) (gd : Guard) (pair : Fin 6) (cond : Cond) (a : Reg) (b : BOp) (w : Bool) : Out :=
  let n := if w then 2 else 1
  s.plain 1 (vecRegs gd ++ pairRegs pair ++ vRegs a.val n ++ bRegs n b) fun h =>
    h.setPair (h.on gd) pair fun t =>
      if w then
        (if unsigned then intCond cond (h.vpair a.val t).toNat (h.bpair b t).toNat
         else intCond cond (h.vpair a.val t).toInt (h.bpair b t).toInt)
      else
        (if unsigned then intCond cond (h.vget a.val t).toNat (h.bval b t).toNat
         else intCond cond (h.vget a.val t).toInt (h.bval b t).toInt)

/-- ICMP (R108). -/
def execIcmp (g : Guard) (pair : Fin 6) (cond : Cond) (a : Reg) (b : BOp) (w : Bool) (s : State) : Out :=
  s.icmpWord false g pair cond a b w

/-- ICMPN (R108). -/
def execIcmpn (g : Guard) (pair : Fin 6) (cond : Cond) (a : Reg) (b : BOp) (w : Bool) (s : State) : Out :=
  s.icmpWord true g pair cond a b w

/-- SEL (R109): its guard field selects, and every active thread is written. -/
def execSel (p : Pred) (d a : Reg) (b : BOp) (s : State) : Out :=
  s.plain 1 (.p p.val :: maskRegs ++ [.v d.val, .v a.val, bReg b]) fun h =>
    h.vset .always d.val fun t => if maskBit h.p[p] t then h.vget a.val t else h.bval b t

/-- SCMP (R108): evaluated once, written to every active thread; unsigned with `n`. -/
def execScmp (pair : Fin 6) (cond : Cond) (a b : Reg) (n : Bool) (s : State) : Out :=
  s.plain 1 (maskRegs ++ pairRegs pair ++ [.s a.val, .s b.val]) fun h =>
    h.setPair (fun _ => true) pair fun _ =>
      if n then intCond cond (h.sget a.val).toNat (h.sget b.val).toNat
      else intCond cond (h.sget a.val).toInt (h.sget b.val).toInt

/-! ### The scalar unit (R103, R104, R110) -/

/-- SADD (R110). -/
def execSadd (d a b : Reg) (s : State) : Out := s.scalarAB d a b fun x y => x + y

/-- SSUB (R110). -/
def execSsub (d a b : Reg) (s : State) : Out := s.scalarAB d a b fun x y => x - y

/-- SMUL (R110). -/
def execSmul (d a b : Reg) (s : State) : Out := s.scalarAB d a b fun x y => x * y

/-- SAND (R103). -/
def execSand (d a b : Reg) (s : State) : Out := s.scalarAB d a b fun x y => x &&& y

/-- SOR (R103). -/
def execSor (d a b : Reg) (s : State) : Out := s.scalarAB d a b fun x y => x ||| y

/-- SXOR (R103). -/
def execSxor (d a b : Reg) (s : State) : Out := s.scalarAB d a b fun x y => x ^^^ y

/-- SSHL (R104). -/
def execSshl (d a b : Reg) (s : State) : Out := s.scalarAB d a b shlOf

/-- SSHR (R104): arithmetic with `ar`. -/
def execSshr (d a b : Reg) (ar : Bool) (s : State) : Out := s.scalarAB d a b (shrAny ar)

end Sys2Proof.Machine
end

