-- ==== Sys2Proof/Machine/Parallel.lean ====
section
/-! DEFINITION. Instructions across the threads of a group, and the register budget (R207 to R216, R220, R221). -/

namespace Sys2Proof.Machine

/-! ### Shuffles (R209) -/

/-- v(a) of thread j for an active j of the group, else of thread t itself. -/
def Group.fromThread (g : Group) (a t j : Nat) : Word :=
  if j < 96 ∧ g.isActive j = true then g.vget a j else g.vget a t

/-- The source thread of SHFL. -/
def shflSource (x : Bool) (t : Nat) (b : Word) : Nat := if x then t ^^^ (b.toNat % 128) else b.toNat % 128

/-- The source thread of SHFLI; 96 stands for every place below 0. -/
def shfliSource (kind : ShflKind) (n t : Nat) : Nat :=
  match kind with
  | .up => if t < n then 96 else t - n
  | .down => t + n
  | .xor => t ^^^ n
  | .rot => 32 * (t / 32) + (t + n) % 32

/-- SHFL (R209). -/
def execShfl (g : Guard) (d a : Reg) (b : BOp) (x : Bool) (s : State) : Out :=
  s.vecWord g d [.v a.val, bReg b] fun h t => h.fromThread a.val t (shflSource x t (h.bval b t))

/-- SHFLI (R209). -/
def execShfli (g : Guard) (d a : Reg) (kind : ShflKind) (n : Fin 64) (s : State) : Out :=
  s.vecWord g d [.v a.val] fun h t => h.fromThread a.val t (shfliSource kind n.val t)

/-! ### Predicates and masks (R210 to R212) -/

/-- Three scalar registers as a mask. -/
def Group.triple (g : Group) (n : Nat) : Mask := maskOfWords (g.sget n) (g.sget (n + 1)) (g.sget (n + 2))

/-- A mask written to three scalar registers. -/
def Group.setTriple (g : Group) (n : Nat) (m : Mask) : Group :=
  ((g.sset n (maskWord m 0)).sset (n + 1) (maskWord m 1)).sset (n + 2) (maskWord m 2)

/-- PTOS (R210). -/
def execPtos (d : Reg) (p : Pred) (b : Reg) (cnt : Bool) (s : State) : Out :=
  s.plain 1 (maskRegs ++ .p p.val :: sRegs b.val 3 ++ sRegs d.val (if cnt then 1 else 3)) fun h =>
    let w := h.mask &&& h.p[p] &&& h.triple b.val
    if cnt then h.sset d.val (BitVec.ofNat 32 (popCount w)) else h.setTriple d.val w

/-- STOP (R211). -/
def execStop (g : Guard) (p : Pred) (a : Reg) (not : Bool) (s : State) : Out :=
  s.plain 1 (vecRegs g ++ .p p.val :: sRegs a.val 3) fun h =>
    let m := h.triple a.val
    h.pset g p fun t => maskBit m t != not

/-- PLOP (R81, R212). -/
def execPlop (g : Guard) (pd pa pb : Pred) (tt : BitVec 4) (s : State) : Out :=
  s.plain 1 (vecRegs g ++ [.p pd.val, .p pa.val, .p pb.val]) fun h =>
    h.pset g pd fun t => tt.getLsbD (2 * (maskBit h.p[pa] t).toNat + (maskBit h.p[pb] t).toNat)

/-! ### Keys (R213, R214) -/

/-- E(t): the active threads with thread t's key. -/
def Group.sameKey (g : Group) (key : Nat → Word) (t : Nat) : List Nat := g.active.filter fun j => key j = key t

/-- VCONF (R213). -/
def execVconf (g : Guard) (d a : Reg) (b : BOp) (last : Bool) (s : State) : Out :=
  s.vecWord g d [.v a.val, bReg b] fun h t =>
    let e := h.sameKey (fun j => h.vget a.val j &&& h.bval b j) t
    BitVec.ofNat 32 (if last then e.getLastD t else e.headD t)

/-- VRANK (R213). -/
def execVrank (g : Guard) (d a : Reg) (b : BOp) (n : Bool) (s : State) : Out :=
  s.vecWord g d [.v a.val, bReg b] fun h t =>
    let e := h.sameKey (fun j => h.vget a.val j &&& h.bval b j) t
    BitVec.ofNat 32 (if n then e.length else e.countP fun j => j < t)

/-- The floating-point sum of R214 over the values of one key, in ascending thread order. -/
def keySum (rm : Rm) : List Nat → Nat × Flags
  | [] => (0, 0)
  | x :: xs =>
    let first : Nat × Flags :=
      (if Fmt.f32.isNan x then Fmt.f32.qnan else x, if Fmt.f32.isSnan x then fNV else 0)
    xs.foldl (fun acc y => ((fpAdd .f32 rm acc.1 y).1, acc.2 ||| (fpAdd .f32 rm acc.1 y).2)) first

/-- RSUMK (R214). -/
def execRsumk (g : Guard) (d a : Reg) (b : BOp) (i : Bool) (s : State) : Out :=
  s.fpWord g d [.v a.val, bReg b] fun h t =>
    let xs := (h.sameKey (h.vget a.val) t).map fun j => h.bval b j
    if i then (xs.foldl (· + ·) 0, 0) else one (keySum h.rm (xs.map (·.toNat)))

/-! ### Group reductions (R61, R215, R216) -/

/-- The operation of a REDI and its identity (R215). -/
def redRun : RedOp → (Word → Word → Word) × Word
  | .add => (fun x y => x + y, 0)
  | .min => (iminOf false, 0x7FFFFFFF)
  | .max => (imaxOf false, 0x80000000)
  | .minn => (iminOf true, 0xFFFFFFFF)
  | .maxn => (imaxOf true, 0)
  | .and => (fun x y => x &&& y, 0xFFFFFFFF)
  | .or => (fun x y => x ||| y, 0)
  | .xor => (fun x y => x ^^^ y, 0)

/-- The destination registers of a reduction: `n` of s(d) with `.s`, else the guard's threads of v(d). -/
def redRegs (gd : Guard) (toS : Bool) (d n : Nat) : List PReg := vecRegs gd ++ (if toS then sRegs d n else vRegs d n)

/-- REDI (R215). -/
def execRedi (g : Guard) (op : RedOp) (d : Reg) (b : BOp) (toS : Bool) (s : State) : Out :=
  s.plain 1 (redRegs g toS d.val 1 ++ [bReg b]) fun h =>
    let r := (h.active.map (h.bval b)).foldl (redRun op).1 (redRun op).2
    if toS then h.sset d.val r else h.vset g d.val fun _ => r

/-- Neighbours of a list added, one level of R61. -/
def pairSums (F : Fmt) (rm : Rm) : List Nat → List (Nat × Flags)
  | x :: y :: rest => fpAdd F rm x y :: pairSums F rm rest
  | _ => []

/-- `n` levels of R61 over one beat. -/
def beatSum (F : Fmt) (rm : Rm) : Nat → List Nat → Flags → Nat × Flags
  | 0, xs, fl => (xs.headD 0, fl)
  | n + 1, xs, fl =>
    let ys := pairSums F rm xs
    beatSum F rm n (ys.map (·.1)) (ys.foldl (fun a y => a ||| y.2) fl)

/-- redf_sum (R61): the three beats, then their sums. -/
def redfSum (F : Fmt) (rm : Rm) (x : Nat → Nat) : Nat × Flags :=
  let part := fun b => beatSum F rm 5 ((List.range 32).map fun i => x (32 * b + i)) 0
  let p0 := part 0
  let p1 := part 1
  let p2 := part 2
  let u := fpAdd F rm p0.1 p1.1
  let w := fpAdd F rm u.1 p2.1
  (w.1, p0.2 ||| p1.2 ||| p2.2 ||| u.2 ||| w.2)

/-- REDF (R216). -/
def execRedf (g : Guard) (f64 : Bool) (d : Reg) (b : BOp) (toS : Bool) (s : State) : Out :=
  let n := if f64 then 2 else 1
  s.plain 1 (redRegs g toS d.val n ++ bRegs n b) fun h =>
    if f64 then
      let r := redfSum .f64 h.rm fun t => if h.isActive t then (h.bpair b t).toNat else 0
      let x : DWord := BitVec.ofNat 64 r.1
      (if toS then h.ssetPair d.val x else h.vsetPair g d.val fun _ => x).raiseFlags r.2
    else
      let r := redfSum .f32 h.rm fun t => if h.isActive t then (h.bval b t).toNat else 0
      let x : Word := BitVec.ofNat 32 r.1
      (if toS then h.sset d.val x else h.vset g d.val fun _ => x).raiseFlags r.2

/-! ### Budgets (R164, R165, R220, R221) -/

/-- Granules of a quadrant that a list of rigs holds. -/
def rigGranules (q : Nat) (rs : List Rig) : Nat :=
  ((rs.flatMap (·.grans)).filter fun g => g.1 = q).foldl (fun n g => n + g.2) 0

/-- Free granules of a quadrant (R152): 128, less what its groups and the rigs hold. -/
def State.freeGranules (s : State) (c : CoreId) (q : Nat) : Nat :=
  128 - ((s.groups.filter fun g => g.id.coreId = c ∧ g.id.quad = q).foldl (fun n g => n + 3 * g.v.length / 8) 0) -
    rigGranules q (s.coreD c).rigs

/-- A group held at its word by a waiting instruction (R160). -/
def Group.hold (g : Group) (k : WaitKind) (sat : Mask) : Group :=
  { g with status := .held, turn := false, wait := some { kind := k, satisfied := sat } }

/-- A held group on at the next word. -/
def Group.unhold (g : Group) : Group := { g with status := .running, wait := none }.nextWord 1

/-- GROW (R220): a waiting instruction until the pool's grant. -/
def execGrow (n : BitVec 14) (s : State) : Out :=
  s.word false [] fun g =>
    if g.tx.isSome then s.abortTx g 4 0
    else if n.toNat < g.v.length then s.groupFault g cIllegal
    else if n.toNat = g.v.length then s.put (g.nextWord 1)
    else (s.put (g.hold (.grow n.toNat) 0)).modCore g.id.coreId fun c => { c with pool := c.pool ++ [.grow g.id n.toNat] }

/-- SHRNK (R221): the removed registers must not be pending. -/
def execShrnk (n : BitVec 14) (s : State) : Out :=
  s.word false [] fun g =>
    if g.v.length < n.toNat then s.groupFault g cIllegal
    else if (vRegs n.toNat (g.v.length - n.toNat)).any g.isPending then s.groupFault g cHazard
    else s.put ({ g with v := g.v.take n.toNat }.nextWord 1)

end Sys2Proof.Machine
end

