-- ==== Sys2Proof/Machine/Tasks.lean ====
section
/-! DEFINITION. Placement and start of teams, launches, completion of tasks, adoption and sleep (R33, R39, R153 to R157,
R236 to R262). -/

namespace Sys2Proof.Machine

/-! ### Room on a core (R152, R153, R257) -/

/-- The group that holds a physical slot of a core: an adopted group holds a slot lent to it (R257). -/
def State.holder (s : State) (c : CoreId) (slot : Nat) : Option Group :=
  (s.groups.filter fun g => g.id.coreId = c ∧ g.id.slot % 64 = slot).foldl (fun b g =>
    match b with
    | some h => if h.id.slot < g.id.slot then some g else some h
    | none => some g) none

/-- The free slots of a quadrant as slot numbers for new groups, the lowest first: which of them a group takes the spec does
not say (DESIGN CHOICE, log entry 47). The slots of team `lend`, whose groups are parked, count as free; a group that takes
one gets the number that follows the slot's last. -/
def State.freeSlots (s : State) (c : CoreId) (lend : Option (TaskKey × Nat)) (q : Nat) : List Nat :=
  ((List.range 16).map fun i => 16 * q + i).filterMap fun i =>
    match s.holder c i with
    | none => some i
    | some g => if lend = some (g.task, g.lin) then some (64 * (g.id.slot / 64 + 1) + i) else none

/-- A quadrant's room: its number, free slots and free granules. -/
abbrev Room := Nat × List Nat × Nat

/-- The quadrant with a free slot and the most free granules, a tie to the lower index (R153). -/
def bestRoom (rs : List Room) : Option Room :=
  (rs.filter fun r => !r.2.1.isEmpty).foldl (fun b r =>
    match b with
    | some x => if x.2.2 < r.2.2 then some r else some x
    | none => some r) none

/-- Groups of the budgets placed one at a time in ascending index (R153). -/
def placeGroups : List Nat → List Room → Option (List Nat)
  | [], _ => some []
  | b :: bs, rs =>
    match bestRoom rs with
    | some (q, k :: ks, n) =>
      if 3 * b / 8 ≤ n then
        (placeGroups bs (rs.map fun r => if r.1 = q then (q, ks, n - 3 * b / 8) else r)).map (k :: ·)
      else none
    | _ => none

/-- The slots that groups of the budgets would take on a core. -/
def State.placement (s : State) (c : CoreId) (lend : Option (TaskKey × Nat)) (bs : List Nat) : Option (List Nat) :=
  placeGroups bs ((List.range 4).map fun q => (q, s.freeSlots c lend q, s.freeGranules c q))

/-- The shared-store ranges in use on a core (R156, R274). -/
def State.shUsed (s : State) (c : CoreId) : List (Nat × Nat) :=
  (s.teams.filter fun t => t.core = c).map fun t => (t.shBase, t.shLen)

/-- The lowest free shared-store range of `n` bytes at a multiple of 16: the spec asks only for the multiple (R274; DESIGN
CHOICE, log entry 47). -/
def State.shRoom (s : State) (c : CoreId) (n : Nat) : Option Nat :=
  let used := s.shUsed c
  (0 :: used.map fun u => roundUp (u.1 + u.2) 16).filter (fun b =>
    decide (b + n ≤ shSize) && !used.any fun u => overlaps b n u.1 u.2) |>.min?

/-- Ordinary resident teams of a core (R153). -/
def State.ordinaryTeams (s : State) (c : CoreId) : Nat := s.teams.countP fun t => t.core = c ∧ t.depth = 0 ∧ t.live ≠ 0

/-- Group counts of a task by role (R238). -/
def Task.ng (t : Task) (r : Nat) : Nat := field t.roles.toNat (5 * r) 32

/-- Groups of a team of a task. -/
def Task.groups (t : Task) : Nat := t.ng 0 + t.ng 1 + t.ng 2

/-- The role of group i (R154). -/
def Task.role (t : Task) (i : Nat) : Nat := if i < t.ng 0 then 0 else if i < t.ng 0 + t.ng 1 then 1 else 2

/-- The budget of group i (R238). -/
def Task.budget (t : Task) (i : Nat) : Nat := 8 * (field t.roles.toNat (15 + 5 * t.role i) 32 + 1)

/-- Cluster size of a task (R238). -/
def Task.k (t : Task) : Nat := field t.shape.toNat 20 32 + 1

/-- Shared-store bytes of a team of a task. -/
def Task.shb (t : Task) : Nat := field t.shape.toNat 0 1048576

/-- The budgets of a team's groups. -/
def Task.budgets (t : Task) : List Nat := (List.range t.groups).map t.budget

/-- Enabled cores of a die (R429). -/
def State.coresOf (s : State) (die : Nat) : Nat := s.caps.cores[die]?.getD 0

/-- The other started members of a team's cluster: the die of each, whether it is live, and its core while it is resident;
a saved one waits on its die (R155, R420). -/
def State.mates (s : State) (t : Task) (lin : Nat) : List (Nat × Bool × Option CoreId) :=
  let mate := fun (u : Team) => decide (u.task = t.key ∧ u.lin / t.k = lin / t.k ∧ u.lin ≠ lin)
  ((s.teams.filter mate).map fun u => (u.core.die, decide (u.live ≠ 0), some u.core)) ++
    (s.saved.filter fun v => mate v.team).map fun v => (v.die, decide (v.team.live ≠ 0), none)

/-- The die that a member of a cluster is bound to (R155, R420): that of the live members; for one that has not started, else
that of the completed ones. -/
def State.clusterDie (s : State) (t : Task) (lin : Nat) (back : Bool) : Option Nat :=
  let ms := s.mates t lin
  ((ms.find? fun m => m.2.1).orElse fun _ => if back then none else ms.head?).map (·.1)

/-- Whether a core may take a member of a cluster (R155, R257, R420): on the die it is bound to, and no core that holds
another member, which for a restore counts only while it is live. -/
def State.clusterOk (s : State) (c : CoreId) (t : Task) (lin : Nat) (back : Bool) : Bool :=
  ((s.clusterDie t lin back).map fun d => decide (d = c.die)).getD true &&
    !(s.mates t lin).any fun m => decide (m.2.2 = some c) && (!back || m.2.1)

/-- The place of a team on a core: its groups' slots and its shared-store range (R153, R257). No placement overtakes an
older request to the pool (R164), none is made on a core in retirement (R425), and none during a checkpoint (R453). -/
def State.roomFor (s : State) (c : CoreId) (lend : Option (TaskKey × Nat)) (t : Task) (lin : Nat) (bs : List Nat) (back : Bool) :
    Option (List Nat × Nat) :=
  if c.die < 8 ∧ c.core < s.coresOf c.die ∧ (s.coreD c).retired = false ∧ s.held = false ∧ (s.coreD c).pool = [] ∧ s.clusterOk c t lin back ∧
      (lend.isSome = true ∨ s.ordinaryTeams c < 16) then
    match s.placement c lend bs, s.shRoom c t.shb with
    | some ks, some b => some (ks, b)
    | _, _ => none
  else none

/-! ### Team start (R33, R39, R244) -/

/-- sg3 of group g of team l (R33). -/
def Task.localSeg (t : Task) (lin gidx : Nat) : Segment :=
  let lw := roundUp t.seg[3].limit.toNat 4
  { base := t.seg[3].base + BitVec.ofNat 64 ((lin * t.groups + gidx) * 96 * lw), limit := t.seg[3].limit }

/-- A group at its entry (R39). R39, R403 and R470 give FAULTMASK, FAULTADDR, RETPC, RETW, RETMASK, SCR0 to SCR3 and PORTREC
no value there: the model leaves them 0 (DESIGN CHOICE, log entry 3). -/
def Task.entryGroup (t : Task) (c : CoreId) (slot lin gidx shBase : Nat) : Group :=
  let role := t.role gidx
  let single := [t.ng 0, t.ng 1, t.ng 2].countP (· ≠ 0) = 1
  let v0 : VReg := Vector.ofFn fun i : Fin 96 => BitVec.ofNat 32 i.val
  let s0 : Vector Word 64 := ((((((Vector.replicate 64 0).set 0 (BitVec.ofNat 32 gidx)).set 1 (BitVec.ofNat 32 lin)).set 2
    (BitVec.ofNat 32 t.teams)).set 3 (if single then 0 else BitVec.ofNat 32 role)).set 63 (BitVec.ofNat 32 t.groups))
  { id := ⟨c.die, c.core, slot⟩
    task := t.key
    lin := lin
    gidx := gidx
    pv := bitOf t.shape.toNat 28
    pc := t.entry[role]?.getD 0
    v := v0 :: List.replicate (t.budget gidx - 1) (Vector.replicate 96 0)
    s := ((s0.set 60 0xFFFFFFFF).set 61 0xFFFFFFFF).set 62 0xFFFFFFFF
    seg := #v[t.seg[0], { base := BitVec.ofNat 64 shBase, limit := BitVec.ofNat 64 t.shb }, t.seg[2], t.localSeg lin gidx] }

/-- A shared-store range cleared (R40, R156). -/
def clearRange (m : Memory) (a n : Nat) : Memory := m.filter fun c => decide (c.1 < a) || decide (a + n ≤ c.1)

/-- The first unstarted team of a task taken out of the ready queues. -/
def State.takeReady (s : State) (k : TaskKey) (lin : Nat) : State :=
  { s with ready := s.ready.filterMap fun r =>
      if r.task = k ∧ r.first = lin ∧ r.saved = false then
        (if r.count ≤ 1 then none else some { r with first := lin + 1, count := r.count - 1 })
      else some r }

/-- The mask of the lowest `n` of 16 groups. -/
def liveMask (n : Nat) : BitVec 16 := BitVec.ofNat 16 (2 ^ n - 1)

/-- An unstarted team started on a core in the place found for it (R244): STARTED counts, a READY task runs, the groups
enter, an acquire at .dev takes place, and sleepers on the task wake. -/
def State.startTeam (s : State) (c : CoreId) (t : Task) (lin depth : Nat) (place : List Nat × Nat) : State :=
  let s := s.takeReady t.key lin
  let started := t.started + 1
  let s := s.putTask { t with started := started, state := if t.state = .ready then .running else t.state,
                              paddock := t.paddock && decide (started < t.teams) }
  let s := (s.modCore c fun x => { x with shared := clearRange x.shared place.2 t.shb }).clearPoison (.sh c.die c.core place.2) t.shb
  let s := s.acquireL1 c .dev
  let team : Team :=
    { task := t.key, lin := lin, core := c, groups := t.groups, live := liveMask t.groups, shBase := place.2, shLen := t.shb,
      depth := depth, started := s.teamCount }
  let gs := (List.range t.groups).map fun i => t.entryGroup c (place.1.getD i 0) lin i place.2
  let s : State := { s with teams := s.teams ++ [team], groups := s.groups ++ gs, teamCount := s.teamCount + 1 }
  (s.wakeChain t.key).wakeIf fun u sl => sl.obj.isNone && u.task == t.key

/-! ### Restoring a saved team (R420) -/

/-- The allocations of a cluster's teams returned once every member has completed (R156). -/
def State.freeCluster (s : State) (t : Task) (lin : Nat) : State :=
  let mate := fun (u : Team) => decide (u.task = t.key ∧ u.lin / t.k = lin / t.k)
  let done := (s.teams ++ s.saved.map (·.team)).filter fun u => mate u && u.live == 0
  if done.length = t.k then
    { s with
      teams := s.teams.filter fun u => !mate u
      saved := s.saved.filter fun v => !mate v.team
      ready := s.ready.filter fun r => !(r.saved && r.task == t.key && r.first / t.k == lin / t.k) }
  else s

/-- A saved team put back on a core in the place found for it: an acquire at .dev; its rigs are placed afresh. Where the
allocation lies elsewhere than before, sg1.BASE follows it in the groups that still name the old place, and a value that a
SEGSET left stays (the spec gives no rule: DESIGN CHOICE, log entry 47). -/
def State.restoreSaved (s : State) (c : CoreId) (v : Saved) (depth : Nat) (place : List Nat × Nat) : State :=
  let s := s.acquireL1 c .dev
  let ids := (v.groups.zip place.1).map fun p => (p.1.id, (⟨c.die, c.core, p.2⟩ : GroupId))
  let newId := fun (i : GroupId) => ((ids.find? fun p => p.1 = i).map (·.2)).getD i
  let move := fun (g : Group) =>
    let sg1 : Segment := g.seg[1]
    let base : DWord := if sg1.base.toNat = v.team.shBase then BitVec.ofNat 64 place.2 else sg1.base
    { g with id := newId g.id, lateCtrs := [], seg := g.seg.set 1 { sg1 with base := base } }
  let s := (s.clearPoison (.sh c.die c.core place.2) v.team.shLen).modCore c fun x =>
    { x with
      shared := (clearRange x.shared place.2 v.team.shLen).writeBytes place.2 v.bytes
      rigs := x.rigs ++ v.rigs.map fun r => { r with group := newId r.group }
      pool := x.pool ++ (v.rigs.filter fun r => r.phase = .place).map fun r => .rig (newId r.group) }
  let s : State := { s with
    saved := s.saved.filter fun w => ¬ (w.team.task = v.team.task ∧ w.team.lin = v.team.lin)
    ready := s.ready.filter fun r => ¬ (r.saved = true ∧ r.task = v.team.task ∧ r.first = v.team.lin)
    teams := s.teams ++ [{ v.team with core := c, shBase := place.2, depth := depth, started := s.teamCount }]
    groups := s.groups ++ v.groups.map move
    teamCount := s.teamCount + 1 }
  s.wakeChain v.team.task

/-- The place of a saved team on a core. -/
def State.savedRoom (s : State) (c : CoreId) (lend : Option (TaskKey × Nat)) (v : Saved) : Option (List Nat × Nat) :=
  match s.task? v.team.task with
  | some t => s.roomFor c lend t v.team.lin (v.groups.map fun g => g.v.length) true
  | none => none

/-! ### Waiting: the owner chain (R255 to R260) -/

/-- may_push (R256). -/
def State.mayPush (s : State) (w : Team) : Bool :=
  match (s.coreD w.core).frames with
  | [] => true
  | f :: fs => decide (fs.length + 1 < 4) && decide (f.adopted = (w.task, w.lin))

/-- A frame pushed on a waiting team's core, the top first (R258). The open transactions of the team's groups abort with WAIT
(R414). -/
def State.pushFrame (s : State) (w : Team) (g : GroupId) (x : TaskKey × Nat) : State :=
  let s := s.abortWhere (fun h _ => decide (h.task = w.task ∧ h.lin = w.lin)) 4
  (s.modCore w.core fun c => { c with frames := ⟨(w.task, w.lin), g, x⟩ :: c.frames }).parkTeam w

/-- The lowest unstarted team of a task. -/
def State.unstarted? (s : State) (k : TaskKey) : Option Nat :=
  ((s.ready.filter fun r => r.task = k ∧ r.saved = false).map (·.first)).min?

/-- An unstarted team of a task that fits the waiting team's core, adopted (R256, R258). Only the lowest unstarted team is asked, the start
being in ascending order (R243): DESIGN CHOICE, log entry 52. -/
def State.adoptUnstarted (s : State) (w : Team) (g : GroupId) (k : TaskKey) : Option State :=
  if s.mayPush w then
    match s.task? k, s.unstarted? k with
    | some t, some lin =>
      match s.roomFor w.core (some (w.task, w.lin)) t lin t.budgets false with
      | some p => some ((s.pushFrame w g (k, lin)).startTeam w.core t lin (s.depth w.core + 1) p)
      | none => none
    | _, _ => none
  else none

/-- A saved team of a task that fits, adopted: one with a group that has not ended. -/
def State.adoptSaved (s : State) (w : Team) (g : GroupId) (k : TaskKey) : Option State :=
  if s.mayPush w then
    (s.saved.filter fun v => v.team.task = k ∧ v.team.live ≠ 0).findSome? fun v =>
      (s.savedRoom w.core (some (w.task, w.lin)) v).map fun p =>
        (s.pushFrame w g (k, v.team.lin)).restoreSaved w.core v (s.depth w.core + 1) p
  else none

/-- An unstarted or saved team of a task adopted, the unstarted first. -/
def State.adopt (s : State) (w : Team) (g : GroupId) (k : TaskKey) : Option State :=
  (s.adoptUnstarted w g k).orElse fun _ => s.adoptSaved w g k

/-- The result of an inspection: the wait adopts or sleeps, or ADOPTION_CYCLE. -/
inductive Inspected where
  | waits (s : State)
  | cycle (s : State)
  deriving DecidableEq, Repr

/-- inherit(x, W) (R260): a task passed takes the waiting task's EPRIO where that is higher. -/
def State.inherit (s : State) (w : Team) (x : TaskKey) : State :=
  let e := ((s.task? w.task).map (·.eprio)).getD 0
  { s.lag [x] with tasks := s.tasks.map fun t => if t.key = x then { t with eprio := max t.eprio e } else t }

/-- A team put to sleep (R256, R259): what it watches, the tasks of its chain, and those that it has raised. -/
def State.sleepTeam (s : State) (w : Team) (g : GroupId) (obj : Option Nat) (owner : Word) (chain raised : List TaskKey) : State :=
  ((s.putTeam { w with sleep := some ⟨g, obj, chain, raised⟩ }).parkTeam w).setWaiton w.task owner

/-- The inspection of R256 from task identifier `x` at step `n`, of seven at most. `done` are the tasks passed. -/
def State.inspectFrom (w : Team) (g : GroupId) (obj : Option Nat) (owner : Word) :
    Nat → State → Word → Nat → List TaskKey → Inspected
  | 0, s, _, _, done => .waits (s.sleepTeam w g obj owner done done)
  | fuel + 1, s, x, n, done =>
    let k := keyOf (ctxOf w.task) x
    match (if x = 0 ∨ field x.toNat 24 256 ≠ s.devidx then none else s.task? k) with
    | none => .waits (s.sleepTeam w g obj owner (k :: done) done)
    | some t =>
      if t.state = .template ∨ t.state = .pending ∨ t.state = .finished ∨ t.state = .killed then
        .waits (s.sleepTeam w g obj owner (k :: done) done)
      else if k = w.task then
        if 0 < n then .cycle s
        else match s.adopt w g k with
          | some s => .waits (s.setWaiton w.task owner)
          | none =>
            if (s.teams ++ s.saved.map (·.team)).any fun u => u.task = k ∧ u.live ≠ 0 ∧ u.lin ≠ w.lin then
              .waits (s.sleepTeam w g obj owner (k :: done) done)
            else .cycle s
      else match s.adopt w g k with
        | some s => .waits (s.setWaiton w.task owner)
        | none =>
          let s := s.inherit w k
          if t.waiton ≠ 0 ∧ n < 7 then State.inspectFrom w g obj owner fuel s t.waiton (n + 1) (k :: done)
          else .waits (s.sleepTeam w g obj owner (k :: done) (k :: done))

/-- The inspection of an owner by a waiting team (R256). -/
def State.inspect (s : State) (w : Team) (g : GroupId) (obj : Option Nat) (owner : Word) : Inspected :=
  State.inspectFrom w g obj owner 8 s owner 0 []

/-! ### Launching (R236, R239 to R242) -/

/-- The identifier of the TCB at a virtual address of a context: a slot of the context's own arena, neither 0 nor
0xFFFFFF (R236, R239). -/
def State.slotId (s : State) (ctx va : Nat) : Option Word :=
  match s.ctx? ctx with
  | none => none
  | some c =>
    let n := (va - c.arena.toNat) / 256
    if c.arena.toNat ≤ va ∧ (va - c.arena.toNat) % 256 = 0 ∧ n < c.nslot ∧ 0 < n ∧ n < 0xFFFFFF then
      some (BitVec.ofNat 32 (s.devidx * 16777216 + n))
    else none

/-- The physical address of an identifier's TCB, by a translation that is no demand. -/
def State.tcbPa (s : State) (ctx : Nat) (id : Word) : Option Nat :=
  match s.ctx? ctx with
  | none => none
  | some c =>
    let va := c.arena.toNat + 256 * (id.toNat % 16777216)
    match s.walk ctx va with
    | .page p => (match s.pageCheck p va .both with
      | .ok x => some x.pa
      | .error _ => none)
    | _ => none

/-- STATE of a TCB: the device's table for a launched task, else the memory (R240). -/
def State.tcbState (s : State) (k : TaskKey) (pa : Nat) : Nat :=
  match s.task? k with
  | some t => if t.state = .finished then s.paNat (pa + 0x48) 4 % 16 else t.state.code
  | none => s.paNat (pa + 0x48) 4 % 16

/-- Whether R239 and R393 refuse a TCB by its contents. -/
def State.tcbBad (s : State) (k : TaskKey) (pa : Nat) : Bool :=
  let w := fun o n => s.paNat (pa + o) n
  let roles := w 0x18 4
  let shape := w 0x1C 4
  let ng := fun r => field roles (5 * r) 32
  let kk := field shape 20 32 + 1
  let entryBad := fun (r : Nat) => decide (ng r ≠ 0) && (!canonical (w (8 * r) 8) || decide (w (8 * r) 8 % 4 ≠ 0))
  s.tcbState k pa != 0 || (bitOf shape 28 && !((s.ctx? (ctxOf k)).map Ctx.priv).getD false) ||
    decide (ng 0 + ng 1 + ng 2 < 1) || decide (16 < ng 0 + ng 1 + ng 2) || [0, 1, 2].any (fun r => decide (16 < ng r)) ||
    [0, 1, 2].any entryBad || !canonical (w 0x30 8) || decide (w 0x30 8 % 4 ≠ 0) ||
    decide (524288 < field shape 0 1048576) || decide (field shape 0 1048576 % 16 ≠ 0) ||
    decide (w 0x20 4 = 0) || decide (16777216 < w 0x20 4) || decide (w 0x20 4 % kk ≠ 0) || decide (12 < w 0x28 4) ||
    decide (w 0x2C 4 ≠ 0) || decide (w 0x4C 4 ≠ 0) ||
    decide (field roles 30 4 ≠ 0) || decide (field shape 29 8 ≠ 0) || decide (w 0x48 4 / 128 ≠ 0) || decide (w 0xC0 64 ≠ 0)

/-- The task of a TCB as its launch reads it (R237, R238). -/
def State.readTask (s : State) (k : TaskKey) (pa die : Nat) (parent : Word) : Task :=
  let w := fun o => s.paNat (pa + o) 4
  let d := fun (o : Nat) => (BitVec.ofNat 64 (s.paNat (pa + o) 8) : DWord)
  let seg := fun (i : Nat) => ({ base := d (0x80 + 16 * i), limit := d (0x88 + 16 * i) } : Segment)
  let prio := field (w 0x1C) 25 8
  { key := k, pa := pa, die := die, entry := #v[d 0, d 8, d 16], roles := BitVec.ofNat 32 (w 0x18),
    shape := BitVec.ofNat 32 (w 0x1C), teams := w 0x20, pred := BitVec.ofNat 32 (w 0x24),
    succ := (List.range (w 0x28)).map fun i => BitVec.ofNat 32 (w (0x50 + 4 * i)),
    done := 0, started := 0, traph := d 0x30, tensp := d 0x38, parent := parent, waiton := 0,
    state := if w 0x24 = 0 then .ready else .pending, eprio := prio, seg := #v[seg 0, seg 1, seg 2, seg 3], paddock := true }

/-- A task that is READY: its teams enter the ready queues of its die (R243). -/
def State.makeReady (s : State) (t : Task) : State :=
  { s with ready := s.ready ++ [⟨t.die, t.key, 0, t.teams, false⟩] }

/-- Free entries of a die's paddock (R242). -/
def State.paddockFree (s : State) (die : Nat) : Nat := 4096 - s.tasks.countP fun t => t.paddock ∧ t.die = die

/-- A TCB that R239 accepts, launched on a die with a free paddock entry (R242, R265). -/
def State.launch (s : State) (k : TaskKey) (pa die : Nat) (parent : Word) : State :=
  let t := s.readTask k pa die parent
  let s : State := { s with tasks := t :: s.tasks.filter fun u => u.key ≠ k }
  let s := s.mirror t
  if t.state = .ready then s.makeReady t else s

/-! ### Completion (R173, R245) -/

/-- A task whose teams are all done (R245): its successors' decrements go out in list order, and the sleepers wake after
them. -/
def State.completeTask (s : State) (t : Task) : State :=
  let s := s.putTask { t with state := .finished, waiton := 0, paddock := false }
  if t.succ.isEmpty then s.wakeChain t.key
  else { s with decrs := s.decrs ++ (t.succ.map fun x => ⟨t.key, some x⟩) ++ [⟨t.key, none⟩] }

/-- A team whose last group has ended (R173): the task's completion is counted, its frame pops, its allocation returns
with its cluster's. -/
def State.completeTeam (s : State) (u : Team) : State :=
  match s.task? u.task with
  | none => s
  | some t =>
    let t := { t with done := t.done + 1 }
    let s := if t.done = t.teams then s.completeTask t else s.putTask t
    (s.popFrame u.core u.task u.lin).freeCluster t u.lin

/-! ### Results -/

/-- A register word of a result written. -/
def Group.putReg (g : Group) (r : PReg) (t : Nat) (w : Word) : Group :=
  match r with
  | .v n => g.vput n t w
  | .s n => g.sset n w
  | .p _ => g

/-- One thread's result written to the destination registers. -/
def Group.writeResult (g : Group) (dst : List PReg) (r : Nat × List Word) : Group :=
  (dst.zip r.2).foldl (fun g p => g.putReg p.1 r.1 p.2) g

/-- An outstanding instruction's results written and its flags raised (R24, R121). -/
def Group.writeOut (g : Group) (o : Outst) : Group := (o.res.foldl (fun g r => g.writeResult o.dst r) g).raiseFlags o.flags

end Sys2Proof.Machine
end

