-- ==== Sys2Proof/Machine/Barriers.lean ====
section
/-! DEFINITION. Barriers (R167 to R172, R217, R218): arrivals, phases, BAR, BARA, BARW and the release of waiters. -/

namespace Sys2Proof

/-- The scope of a barrier level (R167). -/
def BarLevel.scope : BarLevel → Scope
  | .team => .core
  | .cluster => .die
  | .launch => .dev

end Sys2Proof

namespace Sys2Proof.Machine

/-! ### Phases (R168, R170) -/

/-- Whether a group holds an arrival in an uncompleted phase of a barrier: one that is counted, or one whose release is not
complete (R169, R217). -/
def Group.hasArrival (g : Group) (lv : BarLevel) (n : Nat) : Bool := (g.arrivals ++ g.posts).any fun a => a.1 = lv ∧ a.2.1 = n

/-- The arrivals of a completed phase forgotten, for the groups that satisfy `p`, resident or saved. -/
def State.forgetArrivals (s : State) (lv : BarLevel) (n : Nat) (p : Group → Bool) : State :=
  let f := fun (g : Group) => if p g then { g with arrivals := g.arrivals.filter fun a => ¬ (a.1 = lv ∧ a.2.1 = n) } else g
  { s with groups := s.groups.map f, saved := s.saved.map fun v => { v with groups := v.groups.map f } }

/-- The next phase of a barrier, with nothing arrived. -/
def Barrier.complete (b : Barrier) : Barrier := { phase := (b.phase + 1) % 4294967296, arrived := [] }

/-- The group indices of the live groups of a team. -/
def Team.liveGroups (u : Team) : List Nat := (List.range 16).filter fun i => u.live.getLsbD i

/-- A team barrier completed where every live group has arrived. -/
def State.settleTeam (s : State) (u : Team) (n : Fin 16) : State :=
  let b := u.bars[n]
  if !b.arrived.isEmpty && u.liveGroups.all b.arrived.contains then
    (s.putTeam { u with bars := u.bars.set n b.complete }).forgetArrivals .team n.val fun g =>
      g.task == u.task && g.lin == u.lin
  else s.putTeam u

/-- The cluster of a wide barrier of a task at a level. -/
def Task.clusterAt (t : Task) (lv : BarLevel) (lin : Nat) : Option Nat := if lv = .cluster then some (lin / t.k) else none

/-- A wide barrier of a task; at phase 0 with nothing arrived where none is listed. -/
def State.wideOf (s : State) (k : TaskKey) (cl : Option Nat) (n : Nat) : WideBar :=
  (s.wide.find? fun w => w.task = k ∧ w.cluster = cl ∧ w.n = n).getD { task := k, cluster := cl, n := n }

/-- A wide barrier stored back. -/
def State.putWide (s : State) (w : WideBar) : State :=
  { s with wide := w :: s.wide.filter fun x => ¬ (x.task = w.task ∧ x.cluster = w.cluster ∧ x.n = w.n) }

/-- Whether a team belongs to a wide barrier. -/
def WideBar.covers (w : WideBar) (t : Task) (lin : Nat) : Bool := (w.cluster.map fun c => decide (lin / t.k = c)).getD true

/-- Members left in a wide barrier: those that have not completed (R170). -/
def State.wideMembers (s : State) (t : Task) (w : WideBar) : Nat :=
  match w.cluster with
  | some c => t.k - (s.teams ++ s.saved.map (·.team)).countP fun u => u.task = t.key ∧ u.lin / t.k = c ∧ u.live = 0
  | none => t.teams - t.done

/-- The teams of a task that are resident or saved, and not completed. -/
def State.startedTeams (s : State) (k : TaskKey) : List Team :=
  (s.teams ++ s.saved.map (·.team)).filter fun u => u.task = k ∧ u.live ≠ 0

/-- A wide barrier with its team arrivals counted afresh, and completed where every member has arrived (R167, R170). -/
def State.settleWide (s : State) (t : Task) (w : WideBar) : State :=
  let new := (s.startedTeams t.key).filter fun u =>
    w.covers t u.lin && !w.bar.arrived.contains u.lin && u.liveGroups.all fun i => w.groups.contains (u.lin, i)
  let b : Barrier := { w.bar with arrived := w.bar.arrived ++ new.map (·.lin) }
  if b.arrived.length = s.wideMembers t w ∧ b.arrived ≠ [] then
    let s := s.putWide { w with bar := b.complete, groups := [] }
    let lv : BarLevel := if w.cluster.isSome then .cluster else .launch
    (s.forgetArrivals lv w.n fun g => g.task == t.key && w.covers t g.lin).wakeIf fun u sl => sl.obj.isNone && u.task == t.key
  else s.putWide { w with bar := b }

/-- Every barrier of a team settled after a group or the team itself has left (R170). -/
def State.settleAll (s : State) (k : TaskKey) (lin : Nat) : State :=
  let s := (List.finRange 16).foldl (fun s n =>
    match s.team? k lin with
    | some u => s.settleTeam u n
    | none => s) s
  match s.task? k with
  | some t => (s.wide.filter fun w => w.task = k ∧ w.covers t lin).foldl (fun s w => s.settleWide t (s.wideOf k w.cluster w.n)) s
  | none => s

/-- A completed team out of its wide barriers' arrived sets (R170). -/
def State.leaveWide (s : State) (k : TaskKey) (lin : Nat) : State :=
  { s with wide := s.wide.map fun w => if w.task = k then
      { w with bar := { w.bar with arrived := w.bar.arrived.filter (· ≠ lin) }, groups := w.groups.filter fun x => x.1 ≠ lin } else w }

/-! ### Arrival and release -/

/-- The phase in which a group's arrival counts. -/
def State.phaseOf (s : State) (g : Group) (lv : BarLevel) (n : Nat) : Nat :=
  match lv, s.teamOf g, s.task? g.task with
  | .team, some u, _ => (u.bars[n]?.getD {}).phase
  | _, _, some t => (s.wideOf g.task (t.clusterAt lv g.lin) n).bar.phase
  | _, _, _ => 0

/-- A group's arrival at a barrier counted (R168). -/
def State.arrive (s : State) (g : Group) (lv : BarLevel) (n : Fin 16) : State :=
  match s.teamOf g, s.task? g.task with
  | some u, some t =>
    let s := s.put { g with arrivals := (lv, n.val, s.phaseOf g lv n.val) :: g.arrivals }
    match lv with
    | .team =>
      let b := u.bars[n]
      s.settleTeam { u with bars := u.bars.set n { b with arrived := g.gidx :: b.arrived } } n
    | _ =>
      let w := s.wideOf g.task (t.clusterAt lv g.lin) n.val
      s.settleWide t { w with groups := (g.lin, g.gidx) :: w.groups }
  | _, _ => s.put g

/-- A group's arrival at a barrier, a release at the level's scope of every access that it issued before (R169): counted at
once where these are performed, else posted. -/
def State.post (s : State) (g : Group) (lv : BarLevel) (n : Fin 16) : State :=
  if g.settled && s.releasable g.id.coreId lv.scope then (s.releaseL1 g.id.coreId lv.scope).arrive g lv n
  else s.put { g with posts := g.posts ++ [(lv, n.val, g.seq)] }

/-- The oldest posted arrival of a group counted, once its release is complete. -/
def State.postDue (s : State) (g : Group) : State :=
  match g.posts with
  | [] => s
  | (lv, n, seq) :: rest =>
    if h : n < 16 then
      if g.settledBefore seq then s.releasing g.id.coreId lv.scope fun s => s.arrive { g with posts := rest } lv ⟨n, h⟩ else s
    else s

/-- The acquire of a group that leaves a barrier (R169), and the next word. -/
def State.leaveBarrier (s : State) (g : Group) (lv : BarLevel) : State := (s.acquireL1 g.id.coreId lv.scope).put g.unhold

/-- Whether a barrier of a level still has unstarted members (R171). -/
def State.unstartedMember (s : State) (g : Group) (lv : BarLevel) : Bool :=
  match lv, s.task? g.task with
  | .team, _ => false
  | _, none => false
  | .launch, some t => s.ready.any fun r => r.task = t.key ∧ r.saved = false
  | .cluster, some t => s.ready.any fun r => r.task = t.key ∧ r.saved = false ∧ r.first ≤ g.lin / t.k * t.k + (t.k - 1) ∧
      g.lin / t.k * t.k < r.first + r.count

/-- The wait of a group held at a barrier that has unstarted members: on the owner of R171, the group's own task. -/
def State.barrierWait (s : State) (g : Group) (lv : BarLevel) : State :=
  match s.teamOf g with
  | none => s
  | some w =>
    if !s.unstartedMember g lv || s.teamParked w || w.taken then s
    else
      match s.inspect w g.id none (idOf g.task) with
      | .waits s => s
      | .cycle s => s.raise { g with status := .running, wait := none } (g.wordFault cAdoptionCycle g.mask g.clause.addr)

/-- The wait for the phase in which the group's arrival counts; a group without one goes on with the acquire (R217). -/
def State.awaitPhase (s : State) (g : Group) (lv : BarLevel) (n : Fin 16) : State :=
  if g.hasArrival lv n.val then
    let h := g.hold (.phase lv n.val (s.phaseOf g lv n.val)) 0
    (s.put h).barrierWait h lv
  else s.leaveBarrier g lv

/-- An arrival, and what follows it: BARA's next word, or BAR's wait. -/
def State.arriveThen (s : State) (g : Group) (lv : BarLevel) (n : Fin 16) (thenWait : Bool) : State :=
  let s := s.post g lv n
  match s.group? g.id with
  | some h => if thenWait then s.awaitPhase h lv n else s.put h.unhold
  | none => s

/-- BAR and BARA: a transaction aborts; the arrival waits for an earlier phase in which the group has already arrived. -/
def State.barWord (s : State) (lv : BarLevel) (n : Fin 16) (thenWait : Bool) : Out :=
  s.word false [] fun g =>
    if g.tx.isSome then s.abortTx g 4 0
    else if g.hasArrival lv n.val then
      let h := g.hold (.arrive lv n.val thenWait) 0
      (s.put h).barrierWait h lv
    else s.arriveThen g lv n thenWait

/-- BAR (R217). -/
def execBar (lv : BarLevel) (n : Fin 16) (s : State) : Out := s.barWord lv n true

/-- BARA (R217). -/
def execBara (lv : BarLevel) (n : Fin 16) (s : State) : Out := s.barWord lv n false

/-- BARW (R217). -/
def execBarw (lv : BarLevel) (n : Fin 16) (s : State) : Out :=
  s.word false [] fun g => if g.tx.isSome then s.abortTx g 4 0 else s.awaitPhase g lv n

/-- BARRIER_RELEASE (R167, R169): a posted arrival of a group is counted, or a group held for a completed phase goes on, or
arrives in the new phase; a parked group makes no new arrival (R172). -/
def execBarrierRelease (s : State) : Out :=
  match s.group? s.args.group with
  | none => .next s
  | some g =>
    if !g.posts.isEmpty then .next (s.postDue g)
    else match g.status, g.wait.map Wait.kind with
    | .held, some (.phase lv n _) => .next (if g.hasArrival lv n then s else s.leaveBarrier g lv)
    | .held, some (.arrive lv n w) =>
      if h : n < 16 then
        .next (if g.hasArrival lv n || !s.mayIssue g then s else s.arriveThen { g with status := .running, wait := none } lv ⟨n, h⟩ w)
      else .next s
    | _, _ => .next s

end Sys2Proof.Machine
end

