-- ==== Sys2Proof/Machine/Cells.lean ====
section
/-! DEFINITION. Launches, successors, cells, locks and queue entries: the words 0xB0 to 0xBB, their performance at the
home, their waits, and the writing of results (R24, R249 to R269, R399). -/

namespace Sys2Proof.Machine

/-! ### Issue (R249, R263) -/

/-- The check of one thread's record: R31 on its size, then R249. `cells` is false for a TCB. -/
def homeCheck (g : Group) (seg : Seg) (a : Reg) (size : Nat) (cells : Bool) (args : Nat → List Word) : Check :=
  fun s t =>
    let o := g.offset seg a t 0
    match seg with
    | .gl =>
      match s.access g .gl o size t .both with
      | (.error e, s) => (.error e, s)
      | (.ok (va, ps), s) =>
        if ps.any fun p => (match p.spot with
            | .pa x => isHost x || isCap x
            | _ => true) then (.error (.fault cSegment va), s)
        else
          match (s.translate g.id.coreId g.ctx va .both false).1 with
          | .ok x => if cells && !x.cells then (.error (.fault cProtection va), s) else (.ok ⟨t, va, ps, args t⟩, s)
          | .error _ => (.error (.fault cProtection va), s)
    | _ => (.error (.fault cSegment (addr64 ((g.segment seg).base.toNat + o))), s)

/-- The satisfied set that a restore brought for a waiting word; a word of the handler has its own (R149, R255). The area
names no word: the first waiting word of 0xB0 to 0xBB that issues takes it, DESIGN CHOICE, log entry 47. -/
def Group.satFor (g : Group) (k : LLKind) : Mask := if !k.waits then 0 else if g.inHandler then g.hsat else g.sat

/-- A group whose waiting word has taken its satisfied set. -/
def Group.takeSat (g : Group) (k : LLKind) : Group :=
  if !k.waits then g else if g.inHandler then { g with hsat := 0 } else { g with sat := 0 }

/-- The threads of a word that still have no result: the enabled ones outside the satisfied set (R255). -/
def Group.unsatisfied (g : Group) (gd : Guard) (k : LLKind) : List Nat :=
  (g.enabled gd).filter fun t => !maskBit (g.satFor k) t

/-- A word 0xB2 to 0xBB: checked, issued and held until the home has answered for every thread (R255). CELL is a fault per
thread that the home finds, RP = 1, and the words after one do not issue (R138, R249, R408): every word of the range is
held for its answer (log entry 46). -/
def State.homeWord (s : State) (gd : Guard) (d a : Reg) (n : Nat) (seg : Seg) (kind : LLKind) (dst size : Nat) : Out :=
  s.memLong false (vecRegs gd ++ vRegs d.val n ++ addrRegs seg a) fun g s =>
    if g.tx.isSome then s.abortTx g 5 0
    else
      let r := checkThreads (homeCheck g seg a size true (g.dataWords d.val n)) (g.unsatisfied gd kind) s
      let o : Outst := { seq := 0, ctr := 0, kind := kind, d := d.val, dst := vRegs d.val dst, todo := r.1 }
      let sat := g.satFor kind
      let h := (g.takeSat kind).issueLong o
      if r.2.1.isEmpty then r.2.2.put (h.hold (.object g.seq) sat) else r.2.2.failThreads h g.seq true r.2.1

/-- PROPOSE (R267). -/
def execPropose (g : Guard) (d a : Reg) (seg : Seg) (sc : Scope) (mo : Order) (s : State) : Out :=
  s.homeWord g d a 3 seg (.cell .propose sc mo) 3 32
/-- CELLRD (R267). -/
def execCellrd (g : Guard) (d a : Reg) (seg : Seg) (sc : Scope) (mo : Order) (s : State) : Out :=
  s.homeWord g d a 3 seg (.cell .read sc mo) 3 32
/-- CELLWT (R267). -/
def execCellwt (g : Guard) (d a : Reg) (seg : Seg) (sc : Scope) (mo : Order) (s : State) : Out :=
  s.homeWord g d a 3 seg (.cell .wait sc mo) 3 32
/-- CELLINIT (R267). -/
def execCellinit (g : Guard) (d a : Reg) (seg : Seg) (sc : Scope) (mo : Order) (s : State) : Out :=
  s.homeWord g d a 3 seg (.cell .init sc mo) 3 32
/-- CELLRST (R267). -/
def execCellrst (g : Guard) (d a : Reg) (seg : Seg) (sc : Scope) (mo : Order) (s : State) : Out :=
  s.homeWord g d a 3 seg (.cell .rst sc mo) 3 32
/-- LKACQ (R268). -/
def execLkacq (g : Guard) (d a : Reg) (seg : Seg) (sc : Scope) (mo : Order) (s : State) : Out :=
  s.homeWord g d a 1 seg (.lock true sc mo) 1 8
/-- LKREL (R268). -/
def execLkrel (g : Guard) (d a : Reg) (seg : Seg) (sc : Scope) (mo : Order) (s : State) : Out :=
  s.homeWord g d a 1 seg (.lock false sc mo) 1 8
/-- QRSV (R269). -/
def execQrsv (g : Guard) (d a : Reg) (seg : Seg) (s : State) : Out := s.homeWord g d a 1 seg .qrsv 1 16
/-- QPUT (R269): it writes no register. -/
def execQput (g : Guard) (d a : Reg) (seg : Seg) (sc : Scope) (mo : Order) (s : State) : Out :=
  s.homeWord g d a 2 seg (.qput sc mo) 0 16
/-- QGET (R269). -/
def execQget (g : Guard) (d a : Reg) (seg : Seg) (sc : Scope) (mo : Order) (s : State) : Out :=
  s.homeWord g d a 3 seg (.qget sc mo) 3 16

/-! ### Records at the home (R246 to R254, R264) -/

/-- The home's answer to one thread: the result words with the record's new bytes and whether it is an acquire, a wait,
or CELL. A record that only its poison changes has new bytes as well. -/
inductive Answer where
  | done (ws : List Word) (new : Option (List Byte)) (acq : Bool)
  | wait (new : Option (List Byte))
  | fault (new : Option (List Byte))
  deriving DecidableEq, Repr

/-- A cell's fields (R250). -/
structure Cell where
  value : DWord
  gen : Word
  owner : Word
  state : Nat
  deriving DecidableEq, Repr

/-- A cell of 32 bytes; `none` where STATE is above its table or a reserved byte is not zero (R249). -/
def Cell.ofBytes (bs : List Byte) : Option Cell :=
  let n := bytesToNat bs
  if 2 < field n 128 256 ∨ n / 2 ^ 136 ≠ 0 then none
  else some ⟨BitVec.ofNat 64 n, BitVec.ofNat 32 (n / 2 ^ 64), BitVec.ofNat 32 (n / 2 ^ 96), field n 128 256⟩

/-- The bytes of a cell. -/
def Cell.bytes (c : Cell) : List Byte :=
  natToBytes 32 (c.value.toNat + c.gen.toNat * 2 ^ 64 + c.owner.toNat * 2 ^ 96 + c.state * 2 ^ 128)

/-- next(g) (R250). -/
def nextGen (g : Word) : Word := if g = 0xFFFFFFFF then 1 else g + 1

/-- A cell operation (R251, R264, R267): `killed` says that OWNER names a killed task, `v` is the thread's pair, `self` the
issuing task, `free` a value that the manual leaves open. -/
def cellAnswer (op : CellOp) (killed : Bool) (c : Cell) (g : Word) (v : DWord) (self free : Word) : Answer :=
  let pair := fun (x : DWord) (st : Word) => [loWord x, hiWord x, st]
  let poisoned := c.state = 2 || (c.state = 0 && killed)
  let marked := if c.state = 0 && killed then some { c with state := 2 }.bytes else none
  let recycle := Answer.done [nextGen g, 0, 0] (some { value := 0, gen := nextGen g, owner := 0, state := 0 : Cell }.bytes) false
  if g = 0 || g != c.gen then .done [c.gen, BitVec.ofNat 32 c.state, 2] none false
  else match op with
    | .propose =>
      if poisoned then .done (pair 0 3) marked true
      else if c.state = 1 then .done (pair c.value 1) none true
      else .done (pair v 0) (some { c with value := v, state := 1 }.bytes) false
    | .read =>
      if poisoned then .done (pair 0 3) marked true
      else if c.state = 1 then .done (pair c.value 0) none true
      else .done (pair 0 1) none false
    | .wait =>
      if poisoned then .done (pair 0 3) marked true
      else if c.state = 1 then .done (pair c.value 0) none true
      else .wait none
    | .init =>
      if poisoned then .done [c.owner, 0, 3] marked false
      else if c.state = 1 || c.owner != 0 then .done [c.owner, 0, 1] none false
      else
        let o := if loWord v = 0 then self else loWord v
        .done [o, 0, 0] (some { c with owner := o }.bytes) false
    | .rst => if poisoned || c.state = 1 then recycle else .done [g, free, 1] none false

/-- A lock operation on the lock word (R247, R268). -/
def lockAnswer (acquire killed : Bool) (w : Nat) (self : Word) : Answer :=
  let owner := w % 4294967296
  let count := field w 32 2147483648
  let mark := killed && !bitOf w 63
  let poison := bitOf w 63 || killed
  let bytes := fun (p : Bool) (c o : Nat) => natToBytes 8 (p.toNat * 2 ^ 63 + c * 4294967296 + o)
  let marked := if mark then some (bytes true count owner) else none
  if acquire then
    if poison then .done [3] marked false
    else if owner = 0 ∨ owner = self.toNat then
      if count = 2147483647 then .fault none else .done [0] (some (bytes false (count + 1) self.toNat)) true
    else .wait none
  else if owner ≠ self.toNat ∨ count = 0 ∨ poison = true then .fault marked
  else .done [0] (some (bytes false (count - 1) (if count = 1 then 0 else owner))) false

/-- The operations on a queue entry. -/
inductive QueueOp where
  | reserve | put | get
  deriving DecidableEq, Repr

/-- A queue operation on the entry's 16 bytes (R248, R269). -/
def queueAnswer (op : QueueOp) (killed : Bool) (e : Nat) (v : DWord) (self : Word) : Answer :=
  let payload := e % 2 ^ 64
  let producer := field e 64 4294967296
  let raw := field e 96 256
  let mark := raw == 1 && killed
  let state := if mark then 3 else raw
  let bytes := fun (p : Nat) (who st : Nat) => some (natToBytes 16 (p + who * 2 ^ 64 + st * 2 ^ 96))
  let marked := if mark then bytes payload producer 3 else none
  if 3 < raw ∨ e / 2 ^ 104 ≠ 0 then .fault none
  else match op with
    | .reserve =>
      if state = 0 then
        .done [0] (bytes payload (if loWord v = 0 then self.toNat else (loWord v).toNat) 1) false
      else .done [1] marked false
    | .put =>
      if state = 1 ∧ producer = self.toNat then .done [] (bytes v.toNat producer 2) false else .fault marked
    | .get =>
      if state = 2 then .done [BitVec.ofNat 32 payload, BitVec.ofNat 32 (payload / 4294967296), 0] (bytes 0 0 0) true
      else if state = 3 then .done [0, 0, 3] (bytes 0 0 0) false
      else .wait marked

/-- Whether an identifier's slot may be one of an arena: 0 and 0xFFFFFF name none (R236). -/
def slotNamed (x : Word) : Bool := decide (0 < x.toNat % 16777216) && decide (x.toNat % 16777216 < 0xFFFFFF)

/-- Whether an identifier names a killed task of a context (R246): of a task of this device its table says so, of another
device's the step (`ok` false; log entry 47). -/
def State.killedTask (s : State) (ctx : Nat) (id : Word) : Bool :=
  if field id.toNat 24 256 = s.devidx then ((s.task? (keyOf ctx id)).map fun t => decide (t.state = .killed)).getD false
  else slotNamed id && !s.args.ok

/-- The home's answer to an outstanding operation of kind `k` on a record's bytes. -/
def State.answer (s : State) (ctx : Nat) (self : Word) (k : LLKind) (args : List Word) (bs : List Byte) : Answer :=
  let n := bytesToNat bs
  let killed := fun (o : Nat) => s.killedTask ctx (BitVec.ofNat 32 o)
  let v := pairOf (args.getD 0 0) (args.getD 1 0)
  match k with
  | .cell op _ _ => (match Cell.ofBytes bs with
    | none => .fault none
    | some c => cellAnswer op (s.killedTask ctx c.owner) c (args.getD 2 0) v self (Config.freeWord s.free))
  | .lock acq _ _ => lockAnswer acq (killed (n % 4294967296)) n self
  | .qrsv => queueAnswer .reserve (killed (field n 64 4294967296)) n (pairOf (args.getD 0 0) 0) self
  | .qput _ _ => queueAnswer .put (killed (field n 64 4294967296)) n v self
  | .qget _ _ => queueAnswer .get (killed (field n 64 4294967296)) n 0 self
  | _ => .fault none

/-- Whether an access is a write (R404): an atomic, and an operation on a record or a TCB. -/
def LLKind.writes : LLKind → Bool
  | .atomic _ _ _ _ => true
  | .cell _ _ _ => true
  | .lock _ _ _ => true
  | .qrsv => true
  | .qput _ _ => true
  | .qget _ _ => true
  | .tlaunch => true
  | .tsucc => true
  | _ => false

/-- Bytes of an operation's record. -/
def LLKind.record : LLKind → Nat
  | .cell _ _ _ => 32
  | .lock _ _ _ => 8
  | _ => 16

/-- Scope and order of an operation on a record. -/
def LLKind.ordering : LLKind → Scope × Order
  | .cell _ sc mo => (sc, mo)
  | .lock _ sc mo => (sc, mo)
  | .qput sc mo => (sc, mo)
  | .qget sc mo => (sc, mo)
  | _ => (.grp, .rlx)

/-- Whether an operation is held at its word until the home answers. -/
def LLKind.atHome : LLKind → Bool
  | .cell _ _ _ => true
  | .lock _ _ _ => true
  | .qrsv => true
  | .qput _ _ => true
  | .qget _ _ => true
  | .tlaunch => true
  | .tsucc => true
  | _ => false

/-! ### Performance at the home -/

/-- An outstanding access of a group by the step's arguments: the group, the instruction, and thread t's target. -/
def State.due (s : State) : Option (Group × Outst × Target) :=
  match s.group? s.args.group with
  | none => none
  | some g =>
    match g.out.find? fun o => o.seq = s.args.k with
    | none => none
    | some o => (o.todo.find? fun t => t.thread = s.args.t).map fun t => (g, o, t)

/-- Bytes that the step's arguments give for a home outside the device, put there first (log entry 12). -/
def State.supplied (s : State) (ps : List Piece) : State :=
  match s.args.data, ps with
  | some bs, [p] => (match p.spot with
    | .pa a => if isHost a || isPeer a then s.writeSpots p.spot (bs.take p.len) else s
    | _ => s)
  | _, _ => s

/-- A thread's operation moved to the waiting ones. -/
def Outst.waitFor (o : Outst) (t : Target) : Outst :=
  { o with todo := o.todo.filter fun u => u.thread ≠ t.thread, held := o.held ++ [t] }

/-- The result of an answer on the outstanding instruction. -/
def Outst.answered (o : Outst) (t : Target) : Answer → Outst
  | .done ws _ _ => o.got t ws
  | .wait _ => o.waitFor t
  | .fault _ => o.lost t cCell

/-- The bytes that an answer leaves at the home. -/
def Answer.bytes : Answer → Option (List Byte)
  | .done _ n _ => n
  | .wait n => n
  | .fault n => n

/-- Whether an answer is an acquire. -/
def Answer.acquires : Answer → Bool
  | .done _ _ a => a
  | _ => false

/-- A value that the core may keep as a decided copy (R253): address, generation and VALUE. -/
def Answer.copy (k : LLKind) (t : Target) : Answer → Option Decided
  | .done [lo, hi, st] _ _ =>
    (match k with
    | .cell .read _ _ => if st = 0 then some ⟨t.pa, t.args.getD 2 0, pairOf lo hi⟩ else none
    | .cell .wait _ _ => if st = 0 then some ⟨t.pa, t.args.getD 2 0, pairOf lo hi⟩ else none
    | _ => none)
  | _ => none

/-- The decided copy from which an operation completes (R253): of its address and generation, on its core or in its die's
L2. -/
def State.decidedCopy (s : State) (c : CoreId) (k : LLKind) (t : Target) : Option (List Word) :=
  let hit := ((s.coreD c).decided ++ s.decidedL2[c.die]?.getD []).find? fun x => x.pa = t.pa ∧ x.gen = t.args.getD 2 0
  match k with
  | .cell .propose _ _ => hit.map fun x => [loWord x.val, hiWord x.val, 1]
  | .cell .read _ _ => hit.map fun x => [loWord x.val, hiWord x.val, 0]
  | .cell .wait _ _ => hit.map fun x => [loWord x.val, hiWord x.val, 0]
  | _ => none

/-- Whether a lower thread of the same instruction still has to reach the same record (R263). -/
def Outst.behind (o : Outst) (t : Target) : Bool := o.todo.any fun u => u.thread < t.thread && u.pa == t.pa

/-- A decided value kept in a core's L1 and its die's L2 (R253). -/
def State.keepDecided (s : State) (c : CoreId) (x : Decided) : State :=
  let s := s.modCore c fun k => { k with decided := x :: k.decided }
  { s with decidedL2 := s.decidedL2.setIfInBounds c.die (x :: s.decidedL2[c.die]?.getD []) }

/-- What a peer's home answers to an operation on a record: nothing against it, a denial (R436), or silence (R439). -/
def State.peerAnswer (s : State) (a : Nat) : Option Nat :=
  if isPeer a then
    match s.args.reply with
    | .done => none
    | .refused => some cRemoteAtomic
    | .lost => some cLinkLost
  else none

/-- One thread's operation performed at its home as one step (R249), or from a decided copy (R253). The core's dirty S
bytes of the line are written back first, and its S bytes of the record go; a record that changes needs its line (R283, R307, R447). -/
def State.performHome (s : State) (g : Group) (o : Outst) (t : Target) : State :=
  let so := o.kind.ordering
  let c := g.id.coreId
  let line := fun a => decide (lineOf a = lineOf t.pa)
  if o.behind t || s.blocked g o.seq t.thread t.pieces false (so.2.releases) then s
  else if s.linkLost t.pieces then s.put (g.putOut (o.lost t cLinkLost))
  else
    match s.decidedCopy c o.kind t with
    | some ws => (s.acquireL1 c so.1).put (g.putOut (o.got t ws))
    | none =>
      match s.peerAnswer t.pa with
      | some code => s.put (g.putOut (o.lost t code))
      | none =>
        let s := s.supplied t.pieces
        if s.poisoned (.pa t.pa) o.kind.record then s.put (g.putOut (o.lost t cPoison))
        else if !s.backable c line then s.claimBack c line
        else if so.2.releases && !s.releasable c so.1 then s.claimBack c fun _ => true
        else
          let s := s.writeBackS c line
          let r := s.answer g.ctx (idOf g.task) o.kind t.args (s.paBytes t.pa o.kind.record)
          if r.bytes.isSome && !s.ownable none t.pa then s.claimLine none t.pa
          else
            let s := if so.2.releases then s.releaseL1 c so.1 else s
            let s : State := { s with free := s.free + 1 }
            let s := (s.dropS c fun a => decide (t.pa ≤ a ∧ a < t.pa + o.kind.record)).put (g.putOut (o.answered t r))
            let s := match r.bytes with
              | some bs => s.deviceWrite (some g.id) (.pa t.pa) bs
              | none => s
            let s := match r.copy o.kind t with
              | some x => s.keepDecided c x
              | none => s
            if r.acquires then s.acquireL1 c so.1 else s

/-- A step that performs one thread's operation at its home, for the kinds that `p` admits. -/
def State.homeStep (s : State) (p : LLKind → Bool) : Out :=
  match s.due with
  | some (g, o, t) => .next (if p o.kind then s.performHome g o t else s)
  | none => .next s

/-- CELL_REQUEST (R251). -/
def execCellRequest (s : State) : Out :=
  s.homeStep fun k => match k with
    | .cell _ _ _ => true
    | _ => false

/-- LOCK_REQUEST (R268). -/
def execLockRequest (s : State) : Out :=
  s.homeStep fun k => match k with
    | .lock _ _ _ => true
    | _ => false

/-- QUEUE_REQUEST (R269). -/
def execQueueRequest (s : State) : Out :=
  s.homeStep fun k => match k with
    | .qrsv => true
    | .qput _ _ => true
    | .qget _ _ => true
    | _ => false

/-! ### TLAUNCH and TSUCC (R265, R266) -/

/-- The adoption of a launch on a full paddock: the oldest unstarted team of the highest EPRIO that fits (R265). -/
def State.adoptForPaddock (s : State) (g : Group) : Option State :=
  match s.teamOf g with
  | none => none
  | some w =>
    let entries := s.ready.filter fun r => !r.saved && ((s.task? r.task).map fun t => t.paddock && t.die == g.id.die).getD false
    (List.range 8).findSome? fun i =>
      (entries.filter fun r => ((s.task? r.task).map fun t => t.eprio == 7 - i).getD false).findSome? fun r =>
        s.adoptUnstarted w g.id r.task

/-- What the launches of one word came to: results, threads that fault, and the launches that wait for a frame's pop. -/
structure Launched where
  state : State
  res : List (Nat × List Word) := []
  bad : List (Nat × Nat × Nat) := []
  rest : List Target := []
  deriving DecidableEq, Repr

/-- The launches of one word in ascending thread order (R265). -/
def State.launchAll (g : Group) : List Target → Launched → Launched
  | [], l => l
  | t :: ts, l =>
    let s := l.state
    match s.slotId g.ctx t.va with
    | none => State.launchAll g ts { l with bad := l.bad ++ [(t.thread, cLaunch, t.va)] }
    | some i =>
      let k := keyOf g.ctx i
      if s.poisoned (.pa t.pa) 256 then State.launchAll g ts { l with bad := l.bad ++ [(t.thread, cPoison, t.va)] }
      else if s.tcbBad k t.pa then State.launchAll g ts { l with bad := l.bad ++ [(t.thread, cLaunch, t.va)] }
      else if 0 < s.paddockFree g.id.die then
        State.launchAll g ts { l with state := s.launch k t.pa g.id.die (idOf g.task), res := l.res ++ [(t.thread, [0])] }
      else match s.adoptForPaddock g with
        | some s => { l with state := s, rest := t :: ts }
        | none => State.launchAll g ts { l with res := l.res ++ [(t.thread, [1])] }

/-- The launches of an outstanding TLAUNCH carried on, the group held at its word: each is a release at .dev of every access
before the word (R265). A checkpoint and a pre-emption hold them (R419, R453). -/
def State.launchOn (s : State) (g : Group) (o : Outst) : State :=
  if s.held || ((s.teamOf g).map (·.taken)).getD false || !g.settledBefore o.seq then s
  else s.releasing g.id.coreId .dev fun s =>
    let l := State.launchAll g o.todo { state := s }
    match l.state.group? g.id with
    | none => l.state
    | some h => l.state.put (h.putOut { o with todo := l.rest, res := o.res ++ l.res, late := o.late ++ l.bad })

/-- A word on TCBs: checked, issued and held until every thread has its result, LAUNCH being a fault per thread with RP = 1
(R138, R408). -/
def State.tcbWord (s : State) (gd : Guard) (d a : Reg) (seg : Seg) (kind : LLKind) (run : State → Group → Outst → State) :
    Out :=
  s.memLong false (vecRegs gd ++ .v d.val :: addrRegs seg a) fun g s =>
    if g.tx.isSome then s.abortTx g 5 0
    else
      let r := checkThreads (homeCheck g seg a 256 false (g.dataWords d.val 1)) (g.unsatisfied gd kind) s
      let o : Outst := { seq := g.seq, ctr := g.setc, kind := kind, d := d.val, dst := [.v d.val], todo := r.1 }
      let sat := g.satFor kind
      let h := (g.takeSat kind).issueLong o
      if r.2.1.isEmpty then run (r.2.2.put (h.hold (.launch g.seq) sat)) (h.hold (.launch g.seq) sat) o
      else
        let s := run (r.2.2.put h) h o
        match s.group? g.id with
        | some h => s.failThreads h g.seq true r.2.1
        | none => s

/-- TLAUNCH (R265): a release at .dev of the group's earlier accesses. -/
def execTlaunch (g : Guard) (d a : Reg) (seg : Seg) (s : State) : Out := s.tcbWord g d a seg .tlaunch State.launchOn

/-- Whether an identifier names a task of this device. -/
def State.ownTask (s : State) (x : Word) : Bool := decide (field x.toNat 24 256 = s.devidx)

/-- Whether an identifier is one of a slot of a context's arena (R236). -/
def State.arenaId (s : State) (ctx : Nat) (x : Word) : Bool :=
  let n := x.toNat % 16777216
  decide (0 < n ∧ n < 0xFFFFFF ∧ n < ((s.ctx? ctx).map Ctx.nslot).getD 0)

/-- Whether a successor may be linked (R266): a TEMPLATE of the context's arena. Of a successor on another device its home
says so, of its own arena there (`ok`, R438). One whose own TCB page is not mapped, not resident or not allowed may not: LAUNCH, DESIGN
CHOICE, log entry 52. -/
def State.linkable (s : State) (ctx : Nat) (x : Word) : Bool :=
  if s.ownTask x then s.arenaId ctx x && ((s.tcbPa ctx x).map fun q => decide (s.tcbState (keyOf ctx x) q = 0)).getD false
  else slotNamed x && s.args.ok

/-- PRED of a successor incremented at its home (R266, R438); `out` where a peer asks for it. -/
def State.bumpPred (s : State) (ctx : Nat) (x : Word) (out : Bool := false) : State :=
  if s.ownTask x then
    match s.tcbPa ctx x with
    | some q => s.homeWrite out (.pa (q + 0x24)) (natToBytes 4 (s.paNat (q + 0x24) 4 + 1))
    | none => s
  else { s with outbox := s.outbox ++ [.link x] }

/-- TSUCC of one thread at P's home (R266): the status, or `none` for LAUNCH; `out` where a peer asks for it. -/
def State.linkSuccessor (s : State) (ctx : Nat) (p : Nat) (x : Word) (out : Bool := false) : State × Option Word :=
  if !s.linkable ctx x then (s, none)
  else
    match s.tasks.find? fun t => t.pa = p ∧ t.state ≠ .finished with
    | some t =>
      if t.state = .killed then (s, some 1)
      else if t.succ.length = 12 then (s, some 2)
      else ((s.putTask { t with succ := t.succ ++ [x] } out).bumpPred ctx x out, some 0)
    | none =>
      let st := s.paNat (p + 0x48) 4 % 16
      let k := s.paNat (p + 0x28) 4
      if st = 4 ∨ st = 5 then (s, some 1)
      else if k = 12 then (s, some 2)
      else (((s.homeWrite out (.pa (p + 0x50 + 4 * k)) (natToBytes 4 x.toNat)).homeWrite out (.pa (p + 0x28))
        (natToBytes 4 (k + 1))).bumpPred ctx x out, some 0)

/-- The bytes that a thread's TSUCC reads and writes on this device: P's TCB and the successor's. -/
def State.linkPieces (s : State) (ctx : Nat) (t : Target) : List Piece :=
  let x := t.args.getD 0 0
  let other : List Piece := if s.ownTask x then ((s.tcbPa ctx x).map fun q => ({ spot := .pa q, len := 256 } : Piece)).toList else []
  { spot := .pa t.pa, len := 256 } :: other

/-- Whether an address lies in a line of those bytes: the core's dirty S bytes there are written back first, as before every
operation at a home (R249, R332). -/
def State.linkLine (s : State) (ctx : Nat) (t : Target) (a : Nat) : Bool :=
  (s.linkPieces ctx t).any fun p => match p.spot with
    | .pa x => decide (lineOf x ≤ a) && decide (a < x + p.len)
    | _ => false

/-- The core's own S bytes of what a thread's TSUCC reads and writes, gone (R307). -/
def State.shedLink (s : State) (c : CoreId) (ctx : Nat) (t : Target) : State :=
  (s.linkPieces ctx t).foldl (fun s p => match p.spot with
    | .pa x => s.dropS c fun a => decide (x ≤ a ∧ a < x + p.len)
    | _ => s) s

/-- Whether a thread's TSUCC goes over UALink (R438): P or the successor belongs to another device. -/
def State.linksFar (s : State) (t : Target) : Bool := isPeer t.pa || !s.ownTask (t.args.getD 0 0)

/-- One thread's link: its status, LAUNCH, or POISON of a TCB. -/
def State.linkOne (s : State) (ctx : Nat) (t : Target) : State × ((Nat × List Word) ⊕ (Nat × Nat × Nat)) :=
  if (s.linkPieces ctx t).any fun p => s.poisoned p.spot p.len then (s, .inr (t.thread, cPoison, t.va))
  else
    let r := s.linkSuccessor ctx t.pa (t.args.getD 0 0)
    (r.1, match r.2 with
      | some st => .inl (t.thread, [st])
      | none => .inr (t.thread, cLaunch, t.va))

/-- The links of one word on this device, in ascending thread order; those behind an earlier access to the same bytes, those
over UALink, and those behind one of these to the same task are left for later (R263). -/
def State.linkAll (g : Group) (o : Outst) : List Target → Launched → Launched
  | [], l => l
  | t :: ts, l =>
    if l.state.linksFar t || l.rest.any (fun x => x.pa == t.pa) then State.linkAll g o ts { l with rest := l.rest ++ [t] }
    else if l.state.blocked g o.seq t.thread (l.state.linkPieces g.ctx t) false false then { l with rest := l.rest ++ t :: ts }
    else if !l.state.backable g.id.coreId (l.state.linkLine g.ctx t) then
      { l with state := l.state.claimBack g.id.coreId (l.state.linkLine g.ctx t), rest := l.rest ++ t :: ts }
    else
      let r := ((l.state.writeBackS g.id.coreId (l.state.linkLine g.ctx t)).shedLink g.id.coreId g.ctx t).linkOne g.ctx t
      State.linkAll g o ts (match r.2 with
        | .inl x => { l with state := r.1, res := l.res ++ [x] }
        | .inr x => { l with state := r.1, bad := l.bad ++ [x] })

/-- The links of an outstanding TSUCC. -/
def State.linkOn (s : State) (g : Group) (o : Outst) : State :=
  let l := State.linkAll g o o.todo { state := s }
  match l.state.group? g.id with
  | none => l.state
  | some h => l.state.put (h.putOut { o with todo := l.rest, res := o.res ++ l.res, late := o.late ++ l.bad })

/-- One thread's link over UALink answered (R438, R439): performed, denied, or lost. A TCB at a peer is supplied. -/
def State.linkFar (s : State) (g : Group) (o : Outst) (t : Target) : State :=
  if !s.linksFar t || o.behind t || s.blocked g o.seq t.thread (s.linkPieces g.ctx t) false false then s
  else match s.args.reply with
    | .refused => s.put (g.putOut (o.lost t cRemoteAtomic))
    | .lost => s.put (g.putOut (o.lost t cLinkLost))
    | .done =>
      if !s.anyUa then s.put (g.putOut (o.lost t cLinkLost))
      else if !s.backable g.id.coreId (s.linkLine g.ctx t) then s.claimBack g.id.coreId (s.linkLine g.ctx t)
      else
        let r := (((s.writeBackS g.id.coreId (s.linkLine g.ctx t)).shedLink g.id.coreId g.ctx t).supplied t.pieces).linkOne g.ctx t
        match r.1.group? g.id, r.2 with
        | some h, .inl x => r.1.put (h.putOut (o.got t x.2))
        | some h, .inr x => r.1.put (h.putOut (o.lost t x.2.1))
        | none, _ => r.1

/-- TSUCC (R266). -/
def execTsucc (g : Guard) (d a : Reg) (seg : Seg) (s : State) : Out := s.tcbWord g d a seg .tsucc State.linkOn

/-! ### Results (R24, R399) -/

/-- Whether a fault found at the home is delivered at the word itself (R138, R263). -/
def preciseCode (c : Nat) : Bool := c == cCell || c == cLaunch

/-- Of some late faults, the one of the lowest-numbered thread (R397, R470). -/
def lowestLate (l : Nat × Nat × Nat) (ls : List (Nat × Nat × Nat)) : Nat × Nat × Nat :=
  ls.foldl (fun b x => if x.1 < b.1 then x else b) l

/-- A group no longer among those that wait for a migration. -/
def State.leaveMigrations (s : State) (i : GroupId) : State :=
  { s with migrations := s.migrations.map fun m => { m with waiters := m.waiters.filter fun g => g ≠ i } }

/-- Threads of a word that failed at the home (R138): the group faults at the word, or they join the threads of the word
that have failed already; a group whose other threads wait for a migration traps with all of them (R397). LAUNCH reports
a TCB's contents, which were read: WRT is 0 (DEDUCED, log entry 46). -/
def State.wordFails (s : State) (g : Group) (l : Nat × Nat × Nat) (m : Mask) : State :=
  let r : FaultRec := { g.wordFault l.2.1 m (BitVec.ofNat 64 l.2.2) with write := decide (l.2.1 ≠ cLaunch), who := l.1 }
  match g.status, g.fault with
  | .trapping, some old =>
    let r := if l.1 < old.who then r else old
    s.put { g with fault := some { r with mask := old.mask ||| m } }
  | .trapping, none => s.put g
  | .migrating, _ => (s.leaveMigrations g.id).raise g { r with mask := m ||| g.replay.getD 0 }
  | .ending, _ => s.put g
  | .spat, _ => s.put g
  | .held, _ => s.raise { g with wait := none } r
  | .running, _ => s.raise g r

/-- A counter on which the result of an MMA or a SLOTWT comes in: the clause that waits for it acquires at .core (R312). -/
def Group.noteAcquire (g : Group) (o : Outst) : Group :=
  let acq := match o.kind with
    | .token _ => true
    | .slotwt _ _ _ => true
    | _ => false
  if acq && !g.acqCtrs.contains o.ctr then { g with acqCtrs := o.ctr :: g.acqCtrs } else g

/-- The results of an outstanding instruction written and the instruction retired; the late faults that are not delivered at
the word itself join the late mask (R24, R399), each with WRT as its access was a write (R404). -/
def Group.takeOut (g : Group) (o : Outst) : Group :=
  let h := ((g.writeOut o).retireLong o).noteAcquire o
  let code := fun (c : Nat) => if o.kind.writes then writeCode c else c
  (o.late.filter fun l => !preciseCode l.2.1).foldl (fun h l => h.noteLate o.ctr (l.1, code l.2.1, l.2.2)) h

/-- The end of an outstanding instruction of a group. A group held at the word goes on, or takes the fault of the threads
that failed at the home. -/
def State.wordDone (s : State) (i : GroupId) (o : Outst) : State :=
  match s.group? i with
  | none => s
  | some g =>
    let h := g.takeOut o
    match o.late.filter fun l => preciseCode l.2.1 with
    | l :: ls => s.wordFails h (lowestLate l ls) (maskOfList ((l :: ls).map (·.1)))
    | [] =>
      let waits := match h.status, h.wait.map Wait.kind with
        | .held, some (.object _) => true
        | .held, some (.launch _) => true
        | _, _ => false
      s.put (if waits && !h.out.any fun x => x.kind.atHome then h.unhold else h)

/-- RESULT_WRITEBACK (R24): the result of an instruction whose threads are all performed is written, and its counter goes
down. An area of CTXSV is complete once its bytes are performed at device scope: its S bytes are written back first (R148,
R286). -/
def execResultWriteback (s : State) : Out :=
  match s.group? s.args.group with
  | none => .next s
  | some g =>
    match g.out.find? fun o => o.seq = s.args.k ∧ o.ready = true ∧ o.todo = [] ∧ o.held = [] with
    | none => .next s
    | some o => .next (if o.kind = .ctxsv then s.releasing g.id.coreId .dev fun s => s.wordDone g.id o else s.wordDone g.id o)

/-! ### Waiting words performed again (R255, R256) -/

/-- The lowest-numbered of some targets. -/
def lowest (ts : List Target) : Option Target :=
  ts.foldl (fun b t => match b with
    | some x => if t.thread < x.thread then some t else some x
    | none => some t) none

/-- A waiting word that ends in ADOPTION_CYCLE (R256): the satisfied threads keep their results, the other unsatisfied ones
fault, those that failed at the home among them (R397). WRT is 1, an operation on an object being a write: DEDUCED, log
entry 46. -/
def State.cycleFault (s : State) (g : Group) (o : Outst) (t : Target) : State :=
  let ls := o.late.filter fun l => preciseCode l.2.1
  s.wordFails (g.takeOut o) (lowestLate (t.thread, cAdoptionCycle, t.va) ls)
    (maskOfList (o.held.map Target.thread ++ ls.map (·.1)))

/-- The inspection for a group whose operation waits, with none of its threads in flight (R255, R256). -/
def State.retryHeld (s : State) (g : Group) (o : Outst) : State :=
  match lowest o.held, s.teamOf g with
  | some t, some w =>
    if s.teamParked w || w.taken then s
    else match s.inspect w g.id (some t.pa) (s.ownerOf o.kind t.pa) with
      | .waits s => s
      | .cycle s => s.cycleFault g o t
  | _, _ => s

/-- WAITING_WORD_RETRY (R255): the waiting word of a group that is not parked is performed again: a TLAUNCH or a TSUCC goes
on with its threads; an operation that waits has its owner inspected once none of its threads is in flight, and a barrier
its unstarted member (R171). -/
def execWaitingWordRetry (s : State) : Out :=
  match s.group? s.args.group with
  | none => .next s
  | some g =>
    if ((s.teamOf g).map s.teamParked).getD false then .next s
    else
      match g.out.find? fun o => (o.kind = .tlaunch ∨ o.kind = .tsucc) ∧ o.todo ≠ [] with
      | some o => .next (if o.kind = .tlaunch then s.launchOn g o else s.linkOn g o)
      | none =>
        match g.out.find? fun o => o.held ≠ [] ∧ o.todo = [] with
        | some o => .next (s.retryHeld g o)
        | none =>
          match g.status, g.wait.map Wait.kind with
          | .held, some (.phase lv n _) => .next (if g.hasArrival lv n then s.barrierWait g lv else s)
          | .held, some (.arrive lv n _) => .next (if g.hasArrival lv n then s.barrierWait g lv else s)
          | _, _ => .next s

end Sys2Proof.Machine
end

