-- ==== Sys2Proof/Machine/Perform.lean ====
section
/-! DEFINITION. Accesses performed at their places (R275 to R290, R329 to R346), the steps of the caches and
directories, translation caches, hash masks, and completions from the portals (R146, R298, R341, R350, R401). -/

namespace Sys2Proof.Machine

/-! ### Stores -/

/-- A store of a thread by the step's arguments. -/
def Group.storeReq? (g : Group) (k t : Nat) : Option StoreReq := g.stores.find? fun x => x.seq = k ∧ x.thread = t

/-- A store out of the group's list; a CTXSV whose area it was is complete (R148). -/
def Group.dropStore (g : Group) (x : StoreReq) : Group :=
  { g with
    stores := g.stores.filter fun y => ¬ (y.seq = x.seq ∧ y.thread = x.thread)
    out := g.out.map fun o => if o.seq = x.seq then { o with ready := true } else o }

/-- The first part of a store performed: the rest stays. -/
def Group.partDone (g : Group) (x : StoreReq) : Group :=
  match x.parts with
  | _ :: p :: ps =>
    { g with stores := g.stores.map fun y => if y.seq = x.seq ∧ y.thread = x.thread then { y with parts := p :: ps } else y }
  | _ => g.dropStore x

/-- A piece's address where the link to it is down (R401). -/
def State.pieceLost (s : State) (p : Piece) : Bool :=
  match p.spot with
  | .pa a => !s.linkUp a
  | _ => false

/-- Whether a piece lies in a peer's memory. -/
def Piece.atPeer (p : Piece) : Bool :=
  match p.spot with
  | .pa a => isPeer a
  | _ => false

/-- A store that is discarded, with its FLOG entry (R401, R436). -/
def State.discardStore (s : State) (g : Group) (x : StoreReq) (code : Nat) : State :=
  let s := s.flog g.task code (BitVec.ofNat 64 x.va) (locWord g.id.coreId) (s.depth g.id.coreId)
  s.put (((s.group? g.id).getD g).dropStore x)

/-- The bytes of a piece at its place of performance. -/
def State.placeBytes (s : State) (p : Piece) : List Byte := (List.range p.len).map fun i => s.readSpot (p.spot.shift i)

/-- One part of a store performed at its place: an add-on-store at the home, another store as its class says. -/
def State.writePart (s : State) (g : Group) (x : StoreReq) (p : Piece) (bs : List Byte) : State :=
  let s := match x.rel with
    | some sc => s.releaseL1 g.id.coreId sc
    | none => s
  if x.add then s.writePiece g.id { p with cls := .u } (addBytes (s.placeBytes p) bs) else s.writePiece g.id p bs

/-- The next part of a store performed where its order, its link, its release and the other copies allow it. A peer may
deny it (`ok` false): a REDST then has a store's outcome in R436, for it returns nothing to a thread, DESIGN CHOICE, log entry
46. -/
def State.performStore (s : State) (g : Group) (x : StoreReq) : State :=
  if s.blocked g x.seq x.thread x.pieces false x.rel.isSome then s
  else match x.parts with
  | [] => s.put (g.dropStore x)
  | (p, bs) :: _ =>
    match s.resolve p.spot with
    | none => s
    | some y =>
      let p : Piece := { p with spot := y }
      let q : Piece := if x.add then { p with cls := .u } else p
      if s.pieceLost p then s.discardStore g x cLinkLost
      else if p.atPeer && !s.args.ok then s.discardStore g x cPoison
      else if !s.releasable g.id.coreId (x.rel.getD .grp) then s.claimBack g.id.coreId fun _ => true
      else if !s.writable g.id.coreId q then s.claim g.id.coreId q
      else
        let s := if x.add then (match p.spot with
          | .pa a => s.flushLine g.id.coreId (lineOf a)
          | _ => s) else s
        (s.put (((s.group? g.id).getD g).partDone x)).writePart g x p bs

/-- The add-on-stores of a beat's threads whose words lie in one line of the device's memory (R338). -/
def Group.lineMates (g : Group) (x : StoreReq) : List StoreReq :=
  let line := fun (y : StoreReq) => match y.parts with
    | (p, _) :: _ => (match p.spot with
      | .pa a => if isDevice a then some (lineOf a) else none
      | _ => none)
    | [] => none
  if (line x).isNone then [x]
  else g.stores.filter fun y => y.add && decide (y.seq = x.seq ∧ y.thread / 32 = x.thread / 32 ∧ line y = line x)

/-- A line add-on-store (R338): the gathered threads' words as one step, in an order that is not fixed (R67). -/
def State.performLine (s : State) (g : Group) (x : StoreReq) : State :=
  let xs := s.threadOrder StoreReq.thread (g.lineMates x)
  if xs.any fun y => s.blocked g y.seq y.thread y.pieces false y.rel.isSome then s
  else xs.foldl (fun s y => match s.group? g.id with
    | some h => (match h.storeReq? y.seq y.thread with
      | some z => s.performStore h z
      | none => s)
    | none => s) s

/-- A step that performs a store of the kind that `p` admits. -/
def State.storeStep (s : State) (p : StoreReq → Bool) : Out :=
  match s.group? s.args.group with
  | none => .next s
  | some g =>
    match g.storeReq? s.args.k s.args.t with
    | some x => .next (if p x then (if x.add then s.performLine g x else s.performStore g x) else s)
    | none => .next s

/-- STORE_PERFORM (R283). -/
def execStorePerform (s : State) : Out := s.storeStep fun x => !x.isSh && !x.add
/-- BANK_WRITE (R276). -/
def execBankWrite (s : State) : Out := s.storeStep fun x => x.isSh && !x.add
/-- ADD_ON_STORE (R276). -/
def execAddOnStore (s : State) : Out := s.storeStep fun x => x.isSh && x.add
/-- LINE_ADD_ON_STORE (R338). -/
def execLineAddOnStore (s : State) : Out := s.storeStep fun x => !x.isSh && x.add

/-! ### Loads -/

/-- What a core's read of some pieces leaves in its caches. -/
def State.fillPieces (s : State) (c : CoreId) (ps : List Piece) : State := ps.foldl (fun s p => s.fillPiece c p) s

/-- The clean bytes of the records that an access touches, dropped where the L1 does not hold them all: they come anew together
(R293, R305). -/
def State.dropParts (s : State) (g : Group) (seq : Nat) (ps : List Piece) : State :=
  let qs := (ps.filter fun p => p.sparse.isSome && !s.groupWhole g seq p).flatMap fun p => s.plainPieces g seq [p]
  if qs.isEmpty then s
  else s.modCore g.id.coreId (Core.dropClean fun a => qs.any fun q => q.spot.meets q.len (.pa a) 1)

/-- One thread's load performed (R135, R293, R329): late faults LINK_LOST and POISON; a peer may deny it. A thread that
faults performs no acquire. The L1 action of an acquire precedes the read; a transaction reads fresh copies in any case
(`State.freshen`), and its acquire acts after the read. -/
def State.performLoad (s : State) (g : Group) (o : Outst) (t : Target) (acq : Option Scope) : State :=
  if s.blocked g o.seq t.thread (s.plainPieces g o.seq t.pieces) true false || !s.reachable t.pieces then s
  else if s.linkLost t.pieces then s.put (g.putOut (o.lost t cLinkLost))
  else if t.pieces.any Piece.atPeer && !s.args.ok then s.put (g.putOut (o.lost t cPoison))
  else
    let s := s.supplied t.pieces
    if (s.plainPieces g o.seq t.pieces).any (s.awaitsAck g.id.die) then s
    else if (s.readTarget g o.seq t).isNone then s.put (g.putOut (o.lost t cPoison))
    else
      let acquire := fun (s : State) => match acq with
        | some sc => s.acquireL1 g.id.coreId sc
        | none => s
      let read := fun (s : State) =>
        ((s.dropParts g o.seq t.pieces).put (s.readInto g o t)).fillPieces g.id.coreId (s.plainPieces g o.seq t.pieces)
      if g.tx.isNone then read (acquire s) else acquire (read s)

/-- BANK_READ (R276). -/
def execBankRead (s : State) : Out :=
  match s.due with
  | some (g, o, t) =>
    (match o.kind with
    | .load _ _ acq => .next (if t.isSh then s.performLoad g o t acq else s)
    | _ => .next s)
  | none => .next s

/-! ### Atomics -/

/-- The place of an atomic claimed for the home or bank (R332): the issuing core's own copy is flushed. `false` while other
copies remain, with the invalidations sent. -/
def State.atomPlace (s : State) (c : CoreId) (p : Piece) : Bool × State :=
  match p.spot with
  | .pa a =>
    if s.writable c { p with cls := .u } then (true, s.flushLine c (lineOf a)) else (false, s.claim c { p with cls := .u })
  | _ => (true, s)

/-- A read-modify-write of `size` bytes on pieces at their place: the old value. -/
def State.rmw (s : State) (g : GroupId) (op : AtomOp) (size v cmp : Nat) (ps : List Piece) : Nat × State :=
  let old := bytesToNat (ps.flatMap s.placeBytes)
  (old, match atomValue op size old v cmp with
    | some y => (cutBytes ps (natToBytes size y)).foldl (fun s x => s.writePiece g { x.1 with cls := .u } x.2) s
    | none => s)

/-- Every piece of an access claimed. -/
def State.atomPlaces (s : State) (c : CoreId) : List Piece → Bool × State
  | [] => (true, s)
  | p :: ps =>
    match s.atomPlace c p with
    | (false, s) => (false, s)
    | (true, s) => s.atomPlaces c ps

/-- One thread's atomic performed (R332 to R335). -/
def State.performAtomic (s : State) (g : Group) (o : Outst) (t : Target) (op : AtomOp) (size : Nat) (sc : Scope) (mo : Order) :
    State :=
  if s.blocked g o.seq t.thread t.pieces false mo.releases || !s.reachable t.pieces then s
  else
    let ps := s.resolvePieces t.pieces
    if s.linkLost ps then s.put (g.putOut (o.lost t cLinkLost))
    else
      let s := s.supplied ps
      if mo.releases && !s.releasable g.id.coreId sc then s.claimBack g.id.coreId fun _ => true
      else
        match s.atomPlaces g.id.coreId ps with
        | (false, s) => s
        | (true, s) =>
          if ps.any fun p => s.poisoned p.spot p.len then s.put (g.putOut (o.lost t cPoison))
          else
            let s := if mo.releases then s.releaseL1 g.id.coreId sc else s
            let a := atomArgs op size t.args
            let r := s.rmw g.id op size a.1 a.2 ps
            let s := match r.2.group? g.id with
              | some h =>
                (match h.out.find? fun x => x.seq = o.seq with
                | some x => r.2.put (h.putOut (x.got t (natWords size r.1)))
                | none => r.2)
              | none => r.2
            if mo.acquires then s.acquireL1 g.id.coreId sc else s

/-- Whether a target lies beyond a portal. -/
def Target.beyondPortal (t : Target) : Bool :=
  t.pieces.any fun p => match p.spot with
    | .pa a => isHost a || isPeer a
    | _ => false

/-- A step that performs one thread's atomic of the kind that `p` admits. -/
def State.atomStep (s : State) (p : Target → Bool) : Out :=
  match s.due with
  | some (g, o, t) =>
    (match o.kind with
    | .atomic op size sc mo => .next (if p t then s.performAtomic g o t op size sc mo else s)
    | _ => .next s)
  | none => .next s

/-- ATOMIC_PERFORM (R333), on the device's own memory. -/
def execAtomicPerform (s : State) : Out := s.atomStep fun t => !t.isSh && !t.beyondPortal
/-- BANK_ATOMIC (R276). -/
def execBankAtomic (s : State) : Out := s.atomStep Target.isSh

/-- An atomic whose completion is lost (R341): the thread takes LINK_LOST, and `ok` says whether it was performed, behind the flush of
the core's own copy and the L1 action of its release, as one that completes is. -/
def State.atomicLost (s : State) (g : Group) (o : Outst) (t : Target) (op : AtomOp) (size : Nat) (sc : Scope) (mo : Order) :
    State :=
  let lost := fun (s : State) => match s.group? g.id with
    | some h =>
      (match h.out.find? fun x => x.seq = o.seq with
      | some x => s.put (h.putOut (x.lost t cLinkLost))
      | none => s)
    | none => s
  if !s.args.ok then lost s
  else if mo.releases && !s.releasable g.id.coreId sc then s.claimBack g.id.coreId fun _ => true
  else
    match s.atomPlaces g.id.coreId t.pieces with
    | (false, s) => s
    | (true, s) =>
      let a := atomArgs op size t.args
      lost ((if mo.releases then s.releaseL1 g.id.coreId sc else s).rmw g.id op size a.1 a.2 t.pieces).2

/-- PORTAL_COMPLETION (R341, R438): performed beyond the portal, refused there, or lost; in the last case `ok` says whether it
was performed. -/
def execPortalCompletion (s : State) : Out :=
  match s.due with
  | some (g, o, t) =>
    (match o.kind with
    | .atomic op size sc mo =>
      if !t.beyondPortal || s.blocked g o.seq t.thread t.pieces false mo.releases then .next s
      else match s.args.reply with
        | .done => .next (s.performAtomic g o t op size sc mo)
        | .refused => .next (s.put (g.putOut (o.lost t cRemoteAtomic)))
        | .lost => .next (s.atomicLost g o t op size sc mo)
    | .tsucc => .next (s.linkFar g o t)
    | _ => .next s)
  | none => .next s

/-! ### Lines and directories (R283 to R286) -/

/-- An invalidation replaced. -/
def State.putInval (s : State) (k : Nat) (i : Inval) : State := { s with invals := s.invals.set k i }

/-- COHERENCE_INVALIDATION (R284): the k-th invalidation in flight reaches its die. -/
def execCoherenceInvalidation (s : State) : Out :=
  match s.invals[s.args.k]? with
  | some i =>
    (match i.die with
    | some d => .next ((s.dropLine d i.line i.outside).putInval s.args.k { i with dropped := true })
    | none => .next s)
  | none => .next s

/-- The acknowledgement of an invalidation at the directory (R284). A line for which the device has yielded to the host stays the
device's next, until its operation is performed (R447). -/
def State.acknowledge (s : State) (k : Nat) (i : Inval) : State :=
  let e := s.dirOf i.line
  let s : State := { s with
    invals := s.invals.eraseIdx k
    owed := if i.die.isNone && i.yielded && !i.evict then i.line :: s.owed.filter (fun l => l ≠ i.line) else s.owed }
  match i.die with
  | some d => s.putDir { e with dies := e.dies.filter fun x => x ≠ d }
  | none => s.putDir { e with host := false }

/-- The page of a virtual address of a context, whatever it grants: cached, or by a walk that is no demand. -/
def State.pageOf (s : State) (c : CoreId) (ctx va : Nat) : Option Page :=
  (s.cached c ctx va).orElse fun _ => match s.walk ctx va with
    | .page p => some p
    | _ => none

/-- The physical runs of the mapped pages of a virtual range of a context, page by page (R346). -/
def State.physRuns (s : State) (c : CoreId) (ctx hi : Nat) : Nat → Nat → List (Nat × Nat)
  | 0, _ => []
  | fuel + 1, va =>
    if hi ≤ va then []
    else match s.pageOf c ctx va with
      | some p =>
        let x := p.at va
        let stop := min hi (p.base + p.size)
        (if x.sparse.isSome then (pteFrame p.pte, p.size / 2) else (x.pa, stop - va)) :: s.physRuns c ctx hi fuel stop
      | none => s.physRuns c ctx hi fuel ((va / 65536 + 1) * 65536)

/-- Whether an address lies in one of some runs. -/
def inRuns (rs : List (Nat × Nat)) (a : Nat) : Bool := rs.any fun r => decide (r.1 ≤ a) && decide (a < r.1 + r.2)

/-- Whether a core lies within a scope of another (R291). -/
def coreWithin (c : CoreId) (sc : Scope) (x : CoreId) : Bool :=
  match sc with
  | .grp => decide (x = c)
  | .core => decide (x = c)
  | .die => decide (x.die = c.die)
  | .dev => true
  | .sys => true

/-- A block buffer without the blocks that lie in some runs. -/
def Ahead.without (p : Nat → Bool) : Ahead → Ahead
  | .block b => if b.lines.any p then .none else .block b
  | .none => .none

/-- Every L1, instruction cache and block buffer copy of some runs dropped within a scope, dirty S bytes written back
first (R291), those of the other cores within the scope too, of which R291 does not speak: DESIGN CHOICE, log entry 8. -/
def State.publishRuns (s : State) (c : CoreId) (sc : Scope) (rs : List (Nat × Nat)) : State :=
  let s := (s.cores.filter fun k => coreWithin c sc k.id).foldl (fun s k => s.writeBackS k.id (inRuns rs)) s
  let lost := fun (i : CoreId) (l : Nat) =>
    let k := s.coreD i
    coreWithin c sc i && (k.l1d.any (fun x => x == l && inRuns rs x) || k.l1s.any fun x => lineOf x.pa == l && inRuns rs x.pa)
  let s := s.loseMarks lost
  { s with cores := s.cores.map fun k =>
      if coreWithin c sc k.id then
        { k with
          l1s := k.l1s.filter fun x => !inRuns rs x.pa
          l1d := k.l1d.filter fun l => !inRuns rs l
          icache := k.icache.filter fun x => !inRuns rs x.1
          rigs := k.rigs.map fun r => { r with ahead := r.ahead.without (inRuns rs) } }
      else k }

/-- A PUBLISH completed (R291, R346): a release of the group at its scope. -/
def State.performPublish (s : State) (g : Group) (o : Outst) (sc : Scope) (lo hi : Nat) : State :=
  if o.ready || !g.settledBefore o.seq then s
  else
    let rs := s.physRuns g.id.coreId g.ctx hi ((hi - lo) / 65536 + 2) lo
    let cs := ((s.cores.filter fun k => coreWithin g.id.coreId sc k.id).map Core.id).filter fun c => !s.backable c (inRuns rs)
    if cs ≠ [] then cs.foldl (fun s c => s.claimBack c (inRuns rs)) s
    else s.releasing g.id.coreId sc fun s =>
      let s := s.publishRuns g.id.coreId sc rs
      match s.group? g.id with
      | some h => s.put (h.putOut { o with ready := true })
      | none => s

/-- INVALIDATION_ACK (R284): the k-th invalidation in flight is acknowledged, or a PUBLISH of the group has every
acknowledgement. -/
def execInvalidationAck (s : State) : Out :=
  if s.args.x = 1 then
    match s.group? s.args.group with
    | none => .next s
    | some g =>
      match g.out.find? fun o => o.seq = s.args.k with
      | none => .next s
      | some o =>
        match o.kind with
        | .publish sc lo hi => .next (s.performPublish g o sc lo hi)
        | _ => .next s
  else
    match s.invals[s.args.k]? with
    | some i => .next (if i.dropped then s.acknowledge s.args.k i else s)
    | none => .next s

/-- LINE_WRITEBACK (R283, R286): with `ok`, die n's dirty L2 line goes back to its home; else the core's dirty S bytes of
the line go back to the L2. -/
def execLineWriteback (s : State) : Out :=
  let line := lineOf s.args.pa
  if s.args.ok then
    if s.l2.any fun x => x.die = s.args.n ∧ x.line = line ∧ x.state = .dirty then
      let e := s.dirOf line
      .next (((s.dropLine s.args.n line).putDir { e with dies := e.dies.filter fun d => d ≠ s.args.n }).holdHome line true false)
    else .next s
  else
    let p := fun a => decide (lineOf a = line)
    .next (if s.backable s.args.core p then s.writeBackS s.args.core p else s.claimBack s.args.core p)

/-- DIRECTORY_EVICTION (R285): every listed copy of the line is invalidated; the entry goes with the last
acknowledgement. -/
def execDirectoryEviction (s : State) : Out :=
  let line := lineOf s.args.pa
  let e := s.dirOf line
  .next (s.sendInvals line (e.dies.map some ++ if e.host then [none] else []) false true)

/-- CLEAN_LINE_DROP (R253, R284): with `ok`, die n's clean L2 line and its decided copies; else the core's L1 copies of the
line, clean S bytes, instruction words and decided copies. A line that a small transaction marks stays (R417). -/
def execCleanLineDrop (s : State) : Out :=
  let line := lineOf s.args.pa
  let c := s.args.core
  let kept := s.groups.any fun g => decide (g.id.coreId = c) && (g.tx.map fun t => t.lines.contains line && t.small).getD false
  if s.args.ok then
    let left := (s.decidedL2[s.args.n]?.getD []).filter fun x => decide (lineOf x.pa ≠ line)
    let s : State := { s with decidedL2 := s.decidedL2.setIfInBounds s.args.n left }
    .next (if s.l2.any (fun x => x.die = s.args.n ∧ x.line = line ∧ x.state ≠ .dirty) then s.dropLine s.args.n line else s)
  else if kept then .next s
  else
    .next ((s.loseMarks fun k l => decide (k = c ∧ l = line)).modCore c fun k =>
      { k.dropClean fun a => decide (lineOf a = line) with
        l1d := k.l1d.filter fun l => l ≠ line
        icache := k.icache.filter fun x => lineOf x.1 ≠ line
        decided := k.decided.filter fun x => lineOf x.pa ≠ line })

/-! ### Translation caches and hash masks -/

/-- PAGE_WALK (R390, R391): a walk of address x of context n fills the core's and its die's translation caches. -/
def execPageWalk (s : State) : Out :=
  match s.walk s.args.n s.args.x.toNat with
  | .page p => .next (s.tlbFill s.args.core s.args.n p)
  | _ => .next s

/-- Translations out of a cache: the page of an address, or all of the context (R146). -/
def tlbDrop (l : List TlbEntry) (ctx : Nat) (all : Bool) (va : Nat) : List TlbEntry :=
  l.filter fun e => ¬ (e.ctx = ctx ∧ (all = true ∨ (e.base ≤ va ∧ va < e.base + e.size)))

/-- The translation caches of a scope without some translations (R146); the die's cache, from which the cores of any scope
are served, loses them too (R392). -/
def State.tlbInvalidate (s : State) (c : CoreId) (sc : Scope) (ctx : Nat) (all : Bool) (va : Nat) : State :=
  let f := fun l => tlbDrop l ctx all va
  let one := fun (k : Core) => if coreWithin c sc k.id then { k with tlb := f k.tlb, walkTlb := f k.walkTlb } else k
  let s : State := { s with cores := s.cores.map one }
  match sc with
  | .grp => { s with dieTlb := s.dieTlb.setIfInBounds c.die (f (s.dieTlb[c.die]?.getD [])) }
  | .core => { s with dieTlb := s.dieTlb.setIfInBounds c.die (f (s.dieTlb[c.die]?.getD [])) }
  | .die => { s with dieTlb := s.dieTlb.setIfInBounds c.die (f (s.dieTlb[c.die]?.getD [])) }
  | .dev => { s with dieTlb := s.dieTlb.map f }
  | .sys => { s with dieTlb := s.dieTlb.map f }

/-- TLBINV_COMPLETE (R146). -/
def execTlbinvComplete (s : State) : Out :=
  match s.group? s.args.group with
  | none => .next s
  | some g =>
    match g.out.find? fun o => o.seq = s.args.k ∧ o.ready = false with
    | none => .next s
    | some o =>
      match o.kind with
      | .tlbinv sc all va =>
        .next ((s.tlbInvalidate g.id.coreId sc g.ctx all va.toNat).put (g.putOut { o with ready := true }))
      | _ => .next s

/-- HMASK_APPLY (R298, R350): the k-th waiting value is applied, and the SWR that wrote it completes. -/
def execHmaskApply (s : State) : Out :=
  match s.hmaskQ[s.args.k]? with
  | none => .next s
  | some r =>
    let s : State := { s with
      hmaskQ := s.hmaskQ.eraseIdx s.args.k
      hmask := s.hmask.setIfInBounds r.stack ((s.hmask[r.stack]?.getD (Vector.replicate 6 0)).setIfInBounds r.i r.val) }
    match r.group.bind s.group? with
    | some g => (match g.wait.map Wait.kind with
      | some .hmask => .next (s.put g.unhold)
      | _ => .next s)
    | none => .next s

/-! ### Ports (R401) -/

/-- The UP port of a peer access (R434). -/
def State.uaPortOf (s : State) (a : Nat) : Option Nat :=
  let up := (List.range 16).filter fun i => (s.ua[i]?.map fun l => decide (l.state = .up)).getD false
  up[Config.uaRoute a % up.length]?

/-- Whether an address is reached through a port. -/
def State.through (s : State) (p : Port) (a : Nat) : Bool :=
  match p with
  | .host => isHost a
  | .cap n => isCap a && decide ((if a < 0x60000000000 then 0 else 1) = n.val)
  | .ua n => isPeer a && decide (s.uaPortOf a = some n.val)

/-- Whether an access goes through a port. -/
def State.targetThrough (s : State) (p : Port) (ps : List Piece) : Bool :=
  ps.any fun x => match x.spot with
    | .pa a => s.through p a
    | _ => false

/-- Whether an outstanding operation makes its access through a port. -/
def LLKind.accesses : LLKind → Bool
  | .load _ _ _ => true
  | .atomic _ _ _ _ => true
  | .cell _ _ _ => true
  | .lock _ _ _ => true
  | .qrsv => true
  | .qput _ _ => true
  | .qget _ _ => true
  | .tdef => true
  | _ => false

/-- The outstanding accesses of a group through a port lost (R401). -/
def State.loseThrough (s : State) (p : Port) (g : Group) : Group :=
  { g with out := g.out.map fun o =>
      if o.kind.accesses then
        ((o.todo ++ o.held).filter fun t => s.targetThrough p t.pieces).foldl (fun o t =>
          { o.lost t cLinkLost with held := o.held.filter fun u => u.thread ≠ t.thread }) o
      else o }

/-- The stores of a group through a port, discarded and logged (R401). -/
def State.dropThrough (s : State) (p : Port) (g : Group) : State :=
  (g.stores.filter fun x => s.targetThrough p x.pieces).foldl (fun s x =>
    match s.group? g.id with
    | some h => s.discardStore h x cLinkLost
    | none => s) s

/-- What a timeout or a lost link does to the groups' accesses through a port (R401); a sleeper on an object behind it
wakes with LINK_LOST (R439). -/
def State.losePort (s : State) (p : Port) : State :=
  let s := s.wakeIf fun _ sl => (sl.obj.map (s.through p)).getD false
  let s := s.mapGroups (s.loseThrough p)
  s.groups.foldl (fun s g => s.dropThrough p g) s

/-- COMPLETION_TIMEOUT (R401). -/
def execCompletionTimeout (s : State) : Out := .next (s.losePort s.args.port)

/-! ### AtomicOps from outside (R342) -/

/-- The sizes of an AtomicOp that the device accepts (R342). -/
def hostAtomOk (op : AtomOp) (size : Nat) : Bool :=
  match op with
  | .fetchAdd => size == 4 || size == 8
  | .swap => size == 4 || size == 8
  | .cas => size == 4 || size == 8 || size == 16
  | _ => false

/-- A completion sent to an outside party. -/
def State.complete (s : State) (ok : Bool) (bs : List Byte) : State := { s with outbox := s.outbox ++ [.completion ok bs] }

/-- A read-modify-write of an outside agent, performed at the home. -/
def State.outsideAtom (s : State) (op : AtomOp) (pa size v cmp : Nat) : State :=
  let old := s.paNat pa size
  let s := match atomValue op size old v cmp with
    | some y => s.outsideWrite (.pa pa) (natToBytes size y)
    | none => s
  s.complete true (natToBytes size old)

/-- Invalidations of every listed copy of a line, for an access from outside the device (R326). -/
def State.invalidateFor (s : State) (line : Nat) : State :=
  let e := s.dirOf line
  s.sendInvals line (e.dies.map some ++ if e.host then [none] else []) true false

/-- A peer's read-modify-write at the home (R342): it waits while copies remain. -/
def State.outsideRmw (s : State) (op : AtomOp) (pa size v cmp : Nat) : State :=
  if s.exclusive none (lineOf pa) then s.outsideAtom op pa size v cmp else s.invalidateFor (lineOf pa)

/-- The operand and compare value of a host AtomicOp: a 128-bit CAS has them in `data`. -/
def atomOperands (a : StepArgs) : Nat × Nat :=
  match a.data with
  | some bs => if a.n = 16 then (bytesToNat (bs.drop 16 |>.take 16), bytesToNat (bs.take 16)) else (a.x.toNat, a.y.toNat)
  | none => (a.x.toNat, a.y.toNat)

end Sys2Proof.Machine
end

