-- ==== Sys2Proof/Machine/Control.lean ====
section
/-! DEFINITION. Branches, calls, the activity mask and EXIT (R127 to R132). -/

namespace Sys2Proof.Machine

/-- The active threads that pass a guard, and whether a conditional branch is taken (R129). -/
def Group.passed (g : Group) (gd : Guard) : Mask := maskOf (g.on gd)

/-- A word that ends its clause and continues at `pc` (R70, R129, R130). -/
def State.jumpWord (s : State) (rs : List PReg) (pc : Group → DWord) : Out :=
  s.word false rs fun g => s.put (g.jumpTo (pc g))

/-- A conditional branch (R129). -/
def State.branch (s : State) (gd : Guard) (disp : BitVec 20) (taken : Group → Bool) : Out :=
  s.jumpWord (vecRegs gd) fun g => if taken g then g.target disp else g.afterClause

/-- BRA_ANY (R129). -/
def execBraAny (g : Guard) (disp : BitVec 20) (s : State) : Out :=
  s.branch g disp fun h => h.passed g != 0

/-- BRA_ALL (R129). -/
def execBraAll (g : Guard) (disp : BitVec 20) (s : State) : Out :=
  s.branch g disp fun h => h.passed g == h.mask

/-- BRA_NONE (R129). -/
def execBraNone (g : Guard) (disp : BitVec 20) (s : State) : Out :=
  s.branch g disp fun h => h.passed g == 0

/-- JMP (R130). -/
def execJmp (disp : BitVec 20) (s : State) : Out := s.jumpWord [] fun h => h.target disp

/-- The link pair written with the address after the clause (R130). -/
def Group.link (g : Group) : Group := g.ssetPair 56 g.afterClause

/-- CALL (R130). -/
def execCall (disp : BitVec 20) (s : State) : Out :=
  s.word false (sRegs 56 2) fun h => s.put (h.link.jumpTo (h.target disp))

/-- CALLR (R130): the pair is read before the link is written. -/
def execCallr (a : Reg) (s : State) : Out :=
  s.word false (sRegs a.val 2 ++ sRegs 56 2) fun h =>
    if h.spair a.val &&& 3 ≠ 0 then s.groupFault h cMisaligned else s.put (h.link.jumpTo (h.spair a.val))

/-- RET (R130): bits [1:0] are ignored. -/
def execRet (a : Reg) (s : State) : Out := s.jumpWord (sRegs a.val 2) fun h => h.spair a.val &&& ~~~3

/-- MSKAND (R131): the mask saved, then cut. -/
def execMskand (d : Reg) (p : Pred) (not : Bool) (s : State) : Out :=
  s.plain 1 (maskRegs ++ .p p.val :: sRegs d.val 3) fun h =>
    let keep := if not then ~~~ h.p[p] else h.p[p]
    (((h.sset d.val (h.sget 60)).sset (d.val + 1) (h.sget 61)).sset (d.val + 2) (h.sget 62)).setMask (h.mask &&& keep)

/-- MSKSET (R131): retired threads stay out. -/
def execMskset (a : Reg) (p : Option Pred) (s : State) : Out :=
  s.plain 1 (maskRegs ++ (p.elim [] fun q => [.p q.val]) ++ sRegs a.val 3) fun h =>
    let m := maskOfWords (h.sget a.val) (h.sget (a.val + 1)) (h.sget (a.val + 2))
    h.setMask (m &&& (p.elim (~~~0) fun q => h.p[q]) &&& ~~~ h.x)

/-- EXIT (R132): a group whose threads are all retired ends once it is quiet (GROUP_END). A replayed EXIT gives back the
mask of the fault without the threads that it retires (R406). -/
def execExit (g : Guard) (s : State) : Out :=
  s.word false (vecRegs g) fun h =>
    if h.tx.isSome then s.abortTx h 14 0
    else
      let out := h.passed g
      let k := h.restoreMask
      let h' := { k.setMask (k.mask &&& ~~~ out) with x := h.x ||| out }
      if h'.x == BitVec.allOnes 96 then s.put { h' with status := .ending, turn := false } else s.put (h'.endClause h'.afterClause)

end Sys2Proof.Machine
end

