-- ==== Sys2Proof/Machine/Issue.lean ====
section
/-! DEFINITION. Fetch, decode and start of clauses, selection on a quadrant, trap entry, delayed faults, and the end of
a group (R15 to R25, R132, R159 to R162, R173, R375, R399, R402). -/

namespace Sys2Proof.Machine

/-! ### Fetch (R16, R17) -/

/-- The word that a core's fetch reads at a physical address: its instruction cache's copy where it holds one (R22). -/
def State.fetchAt (s : State) (c : CoreId) (cls : Coh) (a : Nat) : Word × State :=
  match (s.coreD c).icache.find? fun x => x.1 = a with
  | some x => (x.2, s)
  | none =>
    let w : Word := BitVec.ofNat 32 (bytesToNat (s.lookBytes c cls (.pa a) 4))
    let bad := Poison.ic c a
    (w, if (s.coreD c).icRoom (lineOf a) then
        { s with poison := s.poison.filter fun e => e ≠ bad }.modCore c fun k => { k with icache := (a, w) :: k.icache }
      else s)

/-- Whether the word that a fetch reads is poisoned (R455): in the instruction cache where that holds it, else where it comes from. -/
def State.fetchBad (s : State) (c : CoreId) (cls : Coh) (a : Nat) : Bool :=
  !s.poison.isEmpty &&
    if (s.coreD c).icache.any fun x => x.1 == a then s.poison.contains (.ic c a)
    else (List.range 4).any fun i => s.lookBad c cls (s.l1Holds c cls (.pa a) 4) (.pa (a + i))

/-- Whether a peer denies a fetch that goes to it (R436): one that the core's instruction cache does not answer. -/
def State.fetchDenied (s : State) (c : CoreId) (a : Nat) : Bool :=
  isPeer a && !s.args.ok && !(s.coreD c).icache.any fun x => x.1 == a

/-- The word of a translated fetch; poison, a malformed sparse group and a peer's denial are POISON. -/
def State.fetchPiece (s : State) (c : CoreId) (va : Nat) (p : Piece) : Except TFail Word × State :=
  match p.spot, p.sparse with
  | .pa a, none =>
    if s.fetchBad c p.cls a || s.fetchDenied c a then (.error (.fault cPoison va), s)
    else let r := s.fetchAt c p.cls a; (.ok r.1, r.2)
  | .pa a, some (w, l) =>
    let rd := fun (whole : Bool) (b : Nat) => s.lookByte c p.cls whole (.pa b)
    let whole := s.recordHeld c (rd true) p
    let bad := fun (q : Piece) => !s.poison.isEmpty && (List.range q.len).any fun i => s.lookBad c q.cls whole (q.spot.shift i)
    if s.fetchDenied c a || (p.plain (rd whole)).any bad then (.error (.fault cPoison va), s)
    else (match sparseBytes (rd whole) a w l 4 with
    | some bs => (.ok (BitVec.ofNat 32 (bytesToNat bs)), s)
    | none => (.error (.fault cPoison va), s))
  | _, _ => (.error (.fault cProtection va), s)

/-- The fetch of one word at a virtual address (R16). -/
def State.fetchWord (s : State) (g : Group) (va : DWord) : Except TFail Word × State :=
  if !canonical va.toNat then (.error (.fault cProtection va.toNat), s)
  else
    match s.xlatPiece g va.toNat 4 .fetch with
    | (.error e, s) => (.error e, s)
    | (.ok p, s) => s.fetchPiece g.id.coreId va.toNat p

/-- `n` words fetched from an address, the first with index `i`; or the lowest word that fails. -/
def State.fetchWords (s : State) (g : Group) (va : DWord) (i : Nat) : Nat → Except (Nat × TFail) (List Word) × State
  | 0 => (.ok [], s)
  | n + 1 =>
    match s.fetchWord g va with
    | (.error e, s) => (.error (i, e), s)
    | (.ok w, s) =>
      match State.fetchWords s g (va + 4) (i + 1) n with
      | (.error e, s) => (.error e, s)
      | (.ok ws, s) => (.ok (w :: ws), s)

/-- The header of a clause and the words that its N names (R17). -/
def State.fetchClause (s : State) (g : Group) : Except (Nat × TFail) (List Word) × State :=
  match s.fetchWord g g.pc with
  | (.error e, s) => (.error (0, e), s)
  | (.ok h, s) =>
    match s.fetchWords g (g.pc + 4) 1 (field h.toNat 28 16) with
    | (.error e, s) => (.error e, s)
    | (.ok ws, s) => (.ok (h :: ws), s)

/-- A fetch fault of a clause (R17, R408, R470). -/
def Group.fetchFault (g : Group) (i : Nat) (e : TFail) : FaultRec :=
  { code := e.report.1, mask := g.mask, addr := BitVec.ofNat 64 e.report.2, widx := i, retpc := g.pc, retw := 0, rp := false }

/-- A fetch that fails: migrated and fetched again, or raised. -/
def State.fetchFails (s : State) (g : Group) (i : Nat) (e : TFail) : State :=
  match e with
  | .absent p _ =>
    (match s.startMigration g.ctx p false (Migration.addGroup g.id) with
    | some s => s.put { g with status := .migrating, replay := none, turn := false, missed := [(i, e.report.2, false)] }
    | none => s.raise g (g.fetchFault i e))
  | .fault _ _ => s.raise g (g.fetchFault i e)

/-- Whether a delayed fault may be delivered while the group is or is not in its handler: one of a word issued in the handler
is due there (R375, R407). -/
def Group.delayedHere (g : Group) (d : Delayed) : Bool := !g.inHandler || d.handler

/-- Whether a delayed fault is due (R375): the group stands at a boundary of clauses, its next clause's first word not
issued. -/
def Group.delayedDue (g : Group) : Bool :=
  g.delayed.any g.delayedHere && g.resume.isNone && decide (g.status = .running ∧ g.stage ≠ .issuing)

/-- Whether a group stands at a boundary of clauses and may go on. -/
def Group.atHeader (g : Group) : Bool :=
  decide (g.status = .running ∧ g.stage = .header) && (g.tx.bind (·.seen)).isNone && !g.delayedDue

/-- CLAUSE_FETCH (R17). -/
def execClauseFetch (s : State) : Out :=
  match s.group? s.args.group with
  | none => .next s
  | some g =>
    if !g.atHeader || !s.mayStart g then .next s
    else
      let r := s.fetchClause g
      match r.2.group? g.id with
      | none => .next r.2
      | some g =>
        match r.1 with
        | .ok ws => .next (r.2.put { g with stage := .fetched, clause := { addr := g.pc, words := ws, next := 1 } })
        | .error (i, e) => .next (r.2.fetchFails g i e)

/-! ### Decode (R17 to R19, R68 to R70) -/

/-- The index of the first word of a clause that fails its decode checks. -/
def badWord (c : Cls) : List Word → Nat → Option Nat
  | [], _ => none
  | w :: ws, i =>
    match decodeWord w ws.head? with
    | .error _ => some i
    | .ok x =>
      if !x.isNop && x.cls ≠ some c then some i
      else if x.literals = 1 then
        match ws with
        | [] => some i
        | _ :: rest => badWord c rest (i + 2)
      else if x.endsClause && !ws.isEmpty then some i
      else badWord c ws (i + 1)

/-- The index of the first failing word of a fetched clause; 0 names the header. -/
def badClause (ws : List Word) : Option Nat :=
  match ws with
  | [] => some 0
  | h :: rest =>
    match decodeHeader h with
    | .error _ => some 0
    | .ok x => badWord x.cls rest 1

/-- Whether an index is that of a literal word, in words of which the first has index `i`. -/
def literalAt (n : Nat) : List Word → Nat → Bool
  | [], _ => false
  | w :: ws, i =>
    match decodeWord w ws.head? with
    | .ok x =>
      if x.literals = 1 then
        match ws with
        | [] => false
        | _ :: rest => decide (n = i + 1) || literalAt n rest (i + 2)
      else literalAt n ws (i + 1)
    | .error _ => literalAt n ws (i + 1)

/-- ILLEGAL at decode of word `i` (R17, R408). -/
def Group.decodeFault (g : Group) (i : Nat) : FaultRec :=
  { code := cIllegal, mask := g.mask, addr := g.clause.addr, widx := i, retpc := g.clause.addr, retw := i, rp := true }

/-- CLAUSE_DECODE (R17): a return point that names no instruction of its clause is ILLEGAL at the ERET, a fault inside
the handler (R406, R407). -/
def execClauseDecode (s : State) : Out :=
  match s.group? s.args.group with
  | none => .next s
  | some g =>
    if g.status ≠ .running ∨ g.stage ≠ .fetched then .next s
    else match badClause g.clause.words with
      | some i => .next (s.raise g (g.decodeFault i))
      | none =>
        match g.resume with
        | some r =>
          if g.clause.words.length ≤ r.widx || literalAt r.widx g.clause.words.tail 1 then
            .next (s.raise { g with inHandler := true } (g.decodeFault r.widx))
          else .next (s.put { g with stage := .decoded })
        | none => .next (s.put { g with stage := .decoded })

/-! ### Start (R23, R25, R399, R406) -/

/-- Whether late faults are due before this clause (R399): its WAIT mask or the preceding serial clause covers a counter
of theirs. A late mask that a restore brought is due at once. -/
def Group.lateDue (g : Group) : Bool :=
  decide (g.lateMask ≠ 0) && (g.lateCtrs.isEmpty || g.lateCtrs.any fun c =>
    g.waitMask.getLsbD c.val || (g.serial.map fun k => decide (k.2 = c)).getD false)

/-- A group continued at its return point once the clause there is decoded (R406). -/
def Group.continueAt (g : Group) (r : Resume) : Group :=
  let h : Group := { g with resume := none, stage := .issuing, clauseSeq := g.seq, clause := { g.clause with next := r.widx } }
  if r.rp then { h with restore := some r.mask }
  else
    let lit := match decodeWord (h.clause.words[r.widx]?.getD 0) h.clause.words[r.widx + 1]? with
      | .ok x => x.literals
      | .error _ => 0
    (h.setMask r.mask).nextWord (lit + 1)

/-- CLAUSE_START (R23): a WAIT that covers the counter of an MMA or a SLOTWT acquires at .core (R312, R382, R386). -/
def execClauseStart (s : State) : Out :=
  match s.group? s.args.group with
  | none => .next s
  | some g =>
    if g.status ≠ .running ∨ g.stage ≠ .decoded ∨ g.turn = false ∨ s.mayStart g = false ∨ g.delayedDue = true then .next s
    else match g.resume with
      | some r => .next (if g.serialMet then s.put (g.clearSerial.continueAt r) else s)
      | none =>
        if !(g.waitMet && g.serialMet) then .next s
        else if g.lateDue then .next (s.raise g g.lateRecord)
        else
          let acq := g.acqCtrs.any fun c => g.waitMask.getLsbD c.val
          let s := s.put { g.clearPending with
            stage := .issuing, acqCtrs := g.acqCtrs.filter fun c => !g.waitMask.getLsbD c.val }
          .next (if acq then s.acquireL1 g.id.coreId .core else s)

/-! ### Selection (R159, R161, R162) -/

/-- Whether an opcode is a long-latency one, which the counter limit of R26 stalls. -/
def longOpcode (o : Nat) : Bool :=
  [(0x4C, 0x53), (0x78, 0x7E), (0x84, 0x85), (0x8D, 0x8F), (0xB0, 0xBB), (0xC0, 0xCB), (0xCE, 0xCE), (0xD0, 0xD0),
    (0xD2, 0xD5), (0xD9, 0xDA)].any fun r => decide (r.1 ≤ o) && decide (o ≤ r.2)

/-- Whether a group is eligible (R159). -/
def State.eligible (s : State) (g : Group) : Bool :=
  decide (g.status = .running) && (g.tx.bind (·.seen)).isNone && s.mayIssue g &&
    match g.stage with
    | .header => false
    | .fetched => false
    | .decoded => s.mayStart g && g.serialMet && (g.resume.isSome || g.waitMet)
    | .issuing => !(g.counterFull && longOpcode (field (g.clause.words[g.clause.next]?.getD 0).toNat 24 256))

/-- A group's place in cyclic slot order after the current slot: 0 comes first, the current slot is last. -/
def Group.place (g : Group) (cur : Nat) : Nat := (g.id.slot + (31 - cur % 16)) % 16

/-- The groups of a quadrant in cyclic slot order. -/
def State.cyclic (s : State) (c : CoreId) (q cur : Nat) : List Group :=
  let gs := s.groups.filter fun g => decide (g.id.coreId = c ∧ g.id.quad = q)
  (List.range 16).flatMap fun i => gs.filter fun g => g.place cur = i

/-- ISSUE_SELECT (R161, R162): quadrant n of the core selects, unless its current group's next word is eligible. -/
def execIssueSelect (s : State) : Out :=
  let c := s.args.core
  let q := s.args.n % 4
  let cur := (s.coreD c).cur[q]?.getD 0
  let elig := (s.cyclic c q cur).filter s.eligible
  if elig.any fun g => g.turn then .next s
  else
    match (elig.find? fun g => !g.yielding).orElse fun _ => elig.head? with
    | none => .next s
    | some g =>
      let one := fun (h : Group) =>
        if h.id = g.id then { h with turn := true, yielding := false }
        else if h.id.coreId = c ∧ h.id.quad = q then
          { h with turn := false, yielding := h.yielding && !decide (h.place cur < g.place cur) }
        else h
      .next ((s.mapGroups one).modCore c fun k => { k with cur := k.cur.setIfInBounds q (g.id.slot % 64) })

/-! ### Trap entry and delayed faults -/

/-- The index of the last instruction that starts before index `n`, in words of which the first has index `i`; `last` where none
does. -/
def instrBefore (n : Nat) : List Word → Nat → Nat → Nat
  | [], _, last => last
  | w :: ws, i, last =>
    if n ≤ i then last
    else match decodeWord w ws.head? with
    | .ok x =>
      if x.literals = 1 then
        match ws with
        | [] => i
        | _ :: rest => instrBefore n rest (i + 2) i
      else instrBefore n ws (i + 1) i
    | .error _ => instrBefore n ws (i + 1) i

/-- Whether a late mask that a restore brought is due before the group's next word: the group goes on in the middle of a clause and
no replay is to come (R399, R423). At a header the next clause start delivers it. -/
def Group.lateHere (g : Group) : Bool :=
  decide (g.lateMask ≠ 0 ∧ g.lateCtrs = [] ∧ g.status = .running ∧ g.stage = .issuing) &&
    g.resume.isNone && g.replay.isNone && g.restore.isNone

/-- The late fault of a group that goes on in the middle of a clause: RP = 0 (R408), with the return point after the last word that
has issued, so that ERET continues where the group stands (R406). -/
def Group.lateInClause (g : Group) : FaultRec :=
  { g.lateRecord with retpc := g.clause.addr, retw := instrBefore g.clause.next g.clause.words.tail 1 0 }

/-- TRAP_ENTRY (R399, R402): a parked group's fault is held until it may issue (R206). -/
def execTrapEntry (s : State) : Out :=
  match s.group? s.args.group with
  | some g =>
    if g.lateHere && s.mayIssue g then .next (s.raise g g.lateInClause)
    else .next (if g.status = .trapping ∧ s.mayTrap g = true then s.takeTrap g else s)
  | none => .next s

/-- DELAYED_FAULT_DELIVERY (R375): at the group's first clause boundary, before a word of its clause issues and while it is not
parked (R206); the oldest fault that is due. -/
def execDelayedFaultDelivery (s : State) : Out :=
  match s.group? s.args.group with
  | none => .next s
  | some g =>
    match g.delayed.find? g.delayedHere with
    | none => .next s
    | some d =>
      if g.delayedDue = false ∨ s.mayIssue g = false then .next s
      else
        let h := { g with delayed := g.delayed.erase d }
        .next (s.raise h { code := d.code, mask := g.mask, addr := d.addr, widx := d.widx, retpc := g.pc, retw := 0, rp := false })

/-! ### The end of a group (R132, R173) -/

/-- A group's slot and registers given back, and its bit in its team (R132, R170, R173). -/
def State.removeGroup (s : State) (g : Group) : State :=
  let s : State := { s with groups := s.groups.filter fun h => h.id ≠ g.id }
  match s.team? g.task g.lin with
  | none => s
  | some u =>
    let u : Team := { u with live := u.live &&& ~~~ (BitVec.ofNat 16 (2 ^ g.gidx)) }
    let s := s.putTeam u
    if u.live = 0 then
      let s := (s.leaveWide u.task u.lin).completeTeam u
      let s := s.settleAll u.task u.lin
      match s.task? u.task with
      | some t => if t.state = .finished then { s with wide := s.wide.filter fun w => w.task ≠ t.key } else s
      | none => s
    else s.settleAll u.task u.lin

/-- GROUP_END (R132): late faults make the end a trap at the EXIT (R399). -/
def execGroupEnd (s : State) : Out :=
  match s.group? s.args.group with
  | none => .next s
  | some g =>
    if g.status ≠ .ending ∨ g.quiet = false then .next s
    else if g.lateMask ≠ 0 then
      .next (s.raise g { g.lateRecord with widx := g.clause.next, retpc := g.clause.addr, retw := g.clause.next })
    else .next (s.releasing g.id.coreId .dev fun s => s.removeGroup g)

end Sys2Proof.Machine
end

