-- ==== Sys2Proof/Machine/System.lean ====
section
/-! DEFINITION. System instructions: TRAP, special registers, kill, reclaim and retirement, SEGSET, ERET, TLBINV, CTXSV,
CTXLD (R140 to R149, R395, R403, R406, R410, R424, R425, R429). -/

namespace Sys2Proof.Machine

/-! ### TRAP (R142) -/

/-- TRAP (R142). -/
def execTrap (g : Guard) (code : BitVec 14) (s : State) : Out :=
  s.word false (vecRegs g) fun h =>
    if h.passed g = 0 then s.put (h.jumpTo h.afterClause)
    else s.raise h { h.wordFault cUserTrap (h.passed g) h.clause.addr with imm := code.toNat, rp := false }

/-! ### Special registers (R35, R395, R403, R429) -/

/-- Capability word k, at offset 4k of the register space (R429). -/
def State.capWord (s : State) (k : Nat) : Word :=
  let ups := fun (l : List Link) => (l.zipIdx.map fun x => if x.1.state = .up then 2 ^ x.2 else 0).sum
  BitVec.ofNat 32 <|
    if k < 8 then (s.caps.l2s[k]?.getD 0) % 64 * 32768 + (s.caps.spare[k]?.getD 0) % 64 * 512 + (s.caps.cores[k]?.getD 0) % 512
    else if k = 8 then s.caps.l3s % 256 * 4096 + s.caps.inService.toNat
    else if k = 9 then ups s.capLink.toList * 131072 + ups [s.hostLink] * 65536 + ups s.ua.toList
    else if k = 10 then Config.rev.toNat * 256 + 64
    else if k = 11 then s.caps.gib % 8192
    else 0

/-- HMASKi of a stack. -/
def State.hmaskAt (s : State) (stack i : Nat) : Word :=
  (((s.hmask[stack]?.getD (Vector.replicate 6 0))[i]?).getD 0).zeroExtend 32

/-- The words of a special register as a group reads them: two for a pair. -/
def State.special (s : State) (g : Group) (n : Nat) : List Word :=
  let pair := fun (x : DWord) => [loWord x, hiWord x]
  if n = 0x00 then [idOf g.task]
  else if n = 0x01 then [BitVec.ofNat 32 g.id.core]
  else if n = 0x02 then [BitVec.ofNat 32 g.id.die]
  else if n = 0x03 then [BitVec.ofNat 32 s.devidx]
  else if n = 0x04 then pair (s.coreD g.id.coreId).cyc
  else if n = 0x10 then [g.fpmode]
  else if n = 0x11 then [g.fpsr]
  else if n = 0x20 then [BitVec.ofNat 32 g.v.length]
  else if n = 0x21 then [BitVec.ofNat 32 (((s.teamOf g).map fun u => u.live.toNat).getD 0)]
  else if n < 0x33 then [maskWord g.faultMask (n - 0x30)]
  else if n = 0x33 then [g.faultCode]
  else if n = 0x34 then pair g.faultAddr
  else if n = 0x36 then [BitVec.ofNat 32 (s.depth g.id.coreId)]
  else if n = 0x37 then [locWord g.id.coreId]
  else if n = 0x38 then pair g.retpc
  else if n = 0x3A then [g.retw]
  else if n < 0x3E then [maskWord g.retmask (n - 0x3B)]
  else if n < 0x44 then [(g.scr[n - 0x40]?).getD 0]
  else if n < 0x48 then [(g.fabrec[n - 0x44]?).getD 0]
  else if n < 0x50 then [(g.portrec[n - 0x48]?).getD 0]
  else if n < 0x5C then [s.capWord (n - 0x50)]
  else if n < 0x160 then [s.hmaskAt ((n - 0x100) / 8) (n % 8)]
  else [BitVec.ofNat 32 g.ctx]

/-- Whether a special register is privileged (R140). -/
def privNum (n : Nat) : Bool := decide (0x100 ≤ n) && decide (n < 0x200)

/-- Scalar registers that a special register takes. -/
def numRegs (n : Nat) : Nat := if isPairNum n then 2 else 1

/-- SRR (R143). -/
def execSrr (d : Reg) (num : BitVec 14) (s : State) : Out :=
  s.word (privNum num.toNat) (sRegs d.val (numRegs num.toNat)) fun g =>
    let ws := s.special g num.toNat
    s.put ((ws.zipIdx.foldl (fun (h : Group) x => h.sset (d.val + x.2) x.1) g).nextWord 1)

/-- A mask with one of its words replaced. -/
def setMaskWord (m : Mask) (i : Nat) (w : Word) : Mask :=
  maskOfWords (if i = 0 then w else maskWord m 0) (if i = 1 then w else maskWord m 1) (if i = 2 then w else maskWord m 2)

/-! ### KILL, RECLAIM, RETIRE (R395, R424, R425) -/

/-- The kill of a context's launched task; FINISHED and KILLED tasks stay (R395). -/
def State.killTask (s : State) (ctx : Nat) (id : Word) (loc : Word) (depth : Nat) : State :=
  match s.task? (keyOf ctx id) with
  | some t => s.kill t.key 0 0 loc depth
  | none => s

/-- A KILLED task's TCB returned to TEMPLATE (R395). The kill is forgotten with the task: an object that still names it, and that
no operation has reached since, is no longer poisoned (R246 does not say), DESIGN CHOICE, log entry 47. -/
def State.reclaim (s : State) (ctx : Nat) (id : Word) : State :=
  match s.task? (keyOf ctx id) with
  | some t =>
    if t.state = .killed then
      let s := s.mirror { t with done := 0, parent := 0, waiton := 0, started := 0, state := .template, eprio := 0 }
      { s with tasks := s.tasks.filter fun u => u.key ≠ t.key }
    else s
  | none => s

/-- Teams on a core marked for pre-emption. -/
def State.takeTeams (s : State) (c : CoreId) : State :=
  { s with teams := s.teams.map fun t => if t.core = c then { t with taken := true } else t }

/-- Steps 1 and 2 of a retirement (R425): the core takes no new team, and its teams are pre-empted. -/
def State.beginRetire (s : State) (c : CoreId) : State := (s.modCore c fun k => { k with retired := true }).takeTeams c

/-- Whether a core in retirement holds no team any more. -/
def State.emptied (s : State) (c : CoreId) : Bool := (s.coreD c).retired && !s.teams.any fun t => t.core = c

/-- A core's state replaced. -/
def State.setCore (s : State) (k : Core) : State := { s with cores := k :: s.cores.filter fun x => x.id ≠ k.id }

/-- Step 3 of a retirement (R425): a spare core takes the index; without one, the core of the highest index is emptied
too and takes it. -/
def State.finishRetire (s : State) (c : CoreId) : State :=
  let spare := s.caps.spare[c.die]?.getD 0
  let n := s.coresOf c.die
  if 0 < spare then
    let k : Core := Core.fresh c
    { s.setCore k with caps := { s.caps with spare := s.caps.spare.setIfInBounds c.die (spare - 1) } }
  else
    let top : CoreId := ⟨c.die, n - 1⟩
    let caps : Caps := { s.caps with cores := s.caps.cores.setIfInBounds c.die (n - 1) }
    if top = c then { s with caps := caps, cores := s.cores.filter fun x => x.id ≠ c }
    else if s.emptied top then
      let k : Core := { Core.fresh c with cyc := (s.coreD top).cyc }
      let t := s.setCore k
      { t with caps := caps, cores := t.cores.filter fun x => x.id ≠ top }
    else s.beginRetire top

/-- RETIRE of a core (R425): it begins, or goes on once the core is empty. -/
def State.retireCore (s : State) (c : CoreId) : State :=
  if 8 ≤ c.die ∨ s.coresOf c.die ≤ c.core then s
  else if s.emptied c then s.finishRetire c
  else if (s.coreD c).retired then s.takeTeams c
  else s.beginRetire c

/-- The core that a word names: die [18:16] and core [8:0] (R395). -/
def coreOfWord (w : Word) : CoreId := ⟨field w.toNat 16 8, field w.toNat 0 512⟩

/-- KILL (R424): the task of context n. -/
def execKill (s : State) : Out :=
  .next (s.killTask s.args.n s.args.task (locWord s.args.core) (s.depth s.args.core))
/-- RECLAIM (R395): the task of context n. -/
def execReclaim (s : State) : Out := .next (s.reclaim s.args.n s.args.task)
/-- RETIRE (R425). -/
def execRetire (s : State) : Out := .next (s.retireCore s.args.core)

/-! ### SWR (R143) -/

/-- A special register of the group itself, written. -/
def Group.setSpecial (g : Group) (n : Nat) (w : Word) (p : DWord) : Group :=
  if n = 0x10 then { g with fpmode := w &&& 3 }
  else if n = 0x11 then { g with fpsr := w &&& 31 }
  else if n = 0x38 then { g with retpc := p }
  else if n = 0x3A then { g with retw := w &&& 31 }
  else if n < 0x3E then { g with retmask := setMaskWord g.retmask (n - 0x3B) w }
  else { g with scr := g.scr.setIfInBounds (n - 0x40) w }

/-- A group's next word on the state as it stands: the write before it may have changed the group. -/
def State.goOn (s : State) (i : GroupId) : State :=
  match s.group? i with
  | some g => s.put (g.nextWord 1)
  | none => s

/-- SWR (R143). HMASKi.s is written as R298 and R350 say: the word waits for the stack's controller. -/
def execSwr (d : Reg) (num : BitVec 14) (s : State) : Out :=
  let n := num.toNat
  s.word (privNum n) (sRegs d.val (numRegs n)) fun g =>
    let w := g.sget d.val
    if n < 0x100 then s.put ((g.setSpecial n w (g.spair d.val)).nextWord 1)
    else if n < 0x160 then
      let t := s.put (g.hold .hmask 0)
      { t with hmaskQ := t.hmaskQ ++ [⟨(n - 0x100) / 8, n % 8, w.truncate 23, some g.id⟩] }
    else if n = 0x160 then
      if keyOf g.ctx w = g.task then s.groupFault g cIllegal
      else (s.killTask g.ctx w (locWord g.id.coreId) (s.depth g.id.coreId)).goOn g.id
    else if n = 0x161 then (s.reclaim g.ctx w).goOn g.id
    else (s.retireCore (coreOfWord w)).goOn g.id

/-! ### SEGSET, TLBINV (R144, R146) -/

/-- SEGSET (R144). -/
def execSegset (k : Fin 4) (a : Reg) (s : State) : Out :=
  s.word true (sRegs a.val 4) fun g =>
    if g.tx.isSome then s.abortTx g 9 0
    else
      let x : Segment := { base := g.spair a.val, limit := g.spair (a.val + 2) }
      if k = 1 ∧ (x.base.toNat % 16 ≠ 0 ∨ 524288 < x.base.toNat + x.limit.toNat) then s.groupFault g cSegment
      else s.put ({ g with seg := g.seg.set k x }.nextWord 1)

/-- TLBINV (R146): its result is known once TLBINV_COMPLETE has acted. -/
def execTlbinv (sc : Scope) (all : Bool) (a : Reg) (s : State) : Out :=
  s.longWord true (if all then [] else sRegs a.val 2) fun g =>
    if g.tx.isSome then s.abortTx g 9 0
    else
      let o : Outst := { seq := 0, ctr := 0, kind := .tlbinv sc all (g.spair a.val), ready := false }
      s.put ((g.issueLong o).nextWord 1)

/-! ### Rigs and port fault records (R205, R409, R410) -/

/-- The rig of a group discarded with its requests and its claim of the matrix node: pages, granules and quadrants are
free again (R205). -/
def State.dropRig (s : State) (i : GroupId) : State :=
  s.modCore i.coreId fun c =>
    { c with
      rigs := dropRigs (fun r => decide (r.group = i)) c.rigs
      pool := c.pool.filter fun x => ¬ (x = .rig i)
      claim := if c.claim = some i then none else c.claim }

/-- A rig stored back. -/
def State.putRig (s : State) (r : Rig) : State :=
  s.modCore r.group.coreId fun c => { c with rigs := c.rigs.map fun x => if x.group = r.group then r else x }

/-- Whether the port of a lane writes: an SNK, or an SRC with a PORT operation (R197, R404). -/
def Rig.portWrites (r : Rig) (n : Nat) : Bool :=
  let op := (r.block.bind fun b => b.ops[n]?).map fun w => field w.toNat 24 256
  let port := (r.block.bind fun b => b.cfg[n]?).bind fun c => c.port
  op == some 0xF1 || (port.map fun p => decide (field p.value.toNat 11 16 ≠ 0)).getD false

/-- The port fault record of the lowest lane taken to the front. -/
def frontRecord (rs : List PortRec) : List PortRec :=
  match rs.foldl (fun (b : Option PortRec) p =>
    match b with
    | some x => if p.lane < x.lane then some p else some x
    | none => some p) none with
  | some p => p :: rs.filter fun x => x.lane ≠ p.lane
  | none => []

/-- The next port fault record of a rig delivered to its group, which stands at its SPAT (R409, R410). -/
def State.deliverRecord (s : State) (r : Rig) : State :=
  match frontRecord r.recs, s.group? r.group with
  | p :: rest, some g =>
    if r.open_ then s
    else
      (s.putRig { r with recs := p :: rest, open_ := true }).raise g
        { code := p.code, mask := g.mask, addr := p.va, write := r.portWrites p.lane, widx := r.widx,
          retpc := r.retpc, retw := r.widx, rp := true, port := some p }
  | _, _ => s

/-- A handler of a port fault record left by ERET, for the header after the SPAT clause (R70, R406, R410). -/
def Group.leavePort (g : Group) (r : Rig) : Group :=
  let h := ({ g with retw := 0, retpc := r.retpc + BitVec.ofNat 64 (4 * (r.widx + 1)) } : Group).returnFromTrap
  { h with retw := g.retw, retpc := g.retpc }

/-- The handler of an open record returns (R410): with RP = 1 the access is tried again, and the next record is delivered;
with RP = 0 the rig is stopped, and the group goes on after its SPAT clause. -/
def State.returnFromPort (s : State) (g : Group) (r : Rig) : State :=
  let h := g.leavePort r
  if bitOf g.retw.toNat 4 then
    let r : Rig := { r with recs := r.recs.tail, open_ := false }
    let t := (s.put { h with status := .spat, stage := .issuing, clause := ⟨r.retpc, [], r.widx⟩ }).putRig r
    if r.recs.isEmpty then t else t.deliverRecord r
  else (s.dropRig g.id).put h

/-- ERET (R145, R406, R410). -/
def execEret (s : State) : Out :=
  s.word false maskRegs fun g =>
    if !g.inHandler then s.groupFault g cIllegal
    else
      match (s.coreD g.id.coreId).rigs.find? fun r => decide (r.group = g.id) && r.open_ with
      | some r => s.returnFromPort g r
      | none => s.put g.returnFromTrap

/-! ### CTXSV and CTXLD (R147 to R149) -/

/-- Bytes of a context area (R147). -/
def areaSize (b : Nat) : Nat := 1024 + 384 * b

/-- A word's bytes. -/
def wb (w : Word) : List Byte := natToBytes 4 w.toNat

/-- A mask's twelve bytes. -/
def maskBytes (m : Mask) : List Byte := natToBytes 12 m.toNat

/-- The area of a group saved at `pc` (R147). -/
def Group.area (g : Group) (pc : DWord) (sat : Mask) : List Byte :=
  let d := fun (x : DWord) => natToBytes 8 x.toNat
  d pc ++ natToBytes 4 g.v.length ++ wb g.fpmode ++ wb g.fpsr ++ natToBytes 4 (g.pv.toNat + 2 * g.yielding.toNat) ++
    maskBytes g.x ++ maskBytes g.lateMask ++ wb g.faultCode ++ natToBytes 4 0 ++ d g.faultAddr ++
    (g.seg.toList.flatMap fun x => d x.base ++ d x.limit) ++ g.p.toList.flatMap maskBytes ++
    maskBytes g.faultMask ++ wb g.retw ++ d g.retpc ++ maskBytes g.retmask ++ g.scr.toList.flatMap wb ++
    g.fabrec.toList.flatMap wb ++ maskBytes sat ++ natToBytes 160 0 ++ g.s.toList.flatMap wb ++ natToBytes 256 0 ++
    g.v.flatMap fun r => r.toList.flatMap wb

/-- A held waiting word given up: the results that its threads have are written, and those threads are satisfied when it is
performed again (R255). A wait for a barrier's phase or for a byte count stays, and so does one for an HMASK value, which is
waited for (R350). -/
def Group.suspend (g : Group) : Group :=
  match g.wait with
  | none => g
  | some w =>
    let away := fun (n : Nat) =>
      let h := (g.out.filter fun o => o.seq = n).foldl (fun (h : Group) o =>
        { (h.writeOut o).retireLong o with pending := h.pending.filter fun x => x.seq ≠ n }) g
      let sat := maskOfList ((g.out.filter fun o => o.seq = n).flatMap fun o => o.res.map (·.1))
      let h : Group := { h with status := .running, wait := none }
      if g.inHandler then { h with hsat := w.satisfied ||| sat } else { h with sat := w.satisfied ||| sat }
    match w.kind with
    | .object n => away n
    | .launch n => away n
    | .grow _ => { g with status := .running, wait := none }
    | .arrive _ _ _ => { g with status := .running, wait := none }
    | .hmask => g
    | .commit => g
    | .phase _ _ _ => g
    | .xb _ _ _ => g

/-- Whether an outstanding instruction is one that a group's waiting word may give up (R255, R419): a waiting instruction with a
thread that has no result, no thread's operation being in flight. -/
def Outst.waitsStill (o : Outst) : Bool :=
  o.kind.waits && (!o.todo.isEmpty || !o.held.isEmpty) && (o.todo.isEmpty || o.kind == .tlaunch)

/-- The outstanding work of a group that is not its waiting word's, and an HMASK value that its SWR waits for (R350). -/
def Group.ownWork (g : Group) : Bool :=
  let n := match g.wait.map Wait.kind with
    | some (.object n) => some n
    | some (.launch n) => some n
    | _ => none
  decide (g.wait.map Wait.kind = some .hmask ∨ g.wait.map Wait.kind = some .commit) || !g.stores.isEmpty || !g.posts.isEmpty || !g.sets.isEmpty ||
    g.out.any fun o => decide (n ≠ some o.seq) || !o.waitsStill

/-- Whether a group is parked as CTXSV asks (R148, R151): by a fault, an adoption or sleep, a rig on its quadrant, a migration,
or its own SPAT (R175). -/
def State.isParked (s : State) (g : Group) : Bool :=
  match g.status with
  | .trapping => true
  | .migrating => true
  | .spat => true
  | .running => !s.mayIssue g
  | .held => !s.mayIssue g
  | .ending => false

/-- The group that CTXSV saves, `none` where R148 makes it ILLEGAL. -/
def State.ctxTarget (s : State) (g : Group) (slot : Word) : Option Group :=
  if slot.toNat < 64 then
    match s.holder g.id.coreId slot.toNat with
    | some h => if h.id = g.id ∨ h.inHandler = true ∨ s.isParked h = false then none else some h
    | none => none
  else none

/-- Cuts of an area by 64 KiB pages: first address and length. -/
def areaCuts (va n : Nat) : Nat → List (Nat × Nat)
  | 0 => []
  | fuel + 1 =>
    let k := min n (65536 - va % 65536)
    if n = 0 then [] else (va, k) :: areaCuts (va + k) (n - k) fuel

/-- The translation of an area's cuts. -/
def State.areaPieces (s : State) (g : Group) (need : Need) : List (Nat × Nat) → Except TFail (List Piece) × State
  | [] => (.ok [], s)
  | (va, n) :: rest =>
    match s.xlatPiece g va n need with
    | (.error e, s) => (.error e, s)
    | (.ok p, s) =>
      match s.areaPieces g need rest with
      | (.ok ps, s) => (.ok (p.groups ++ ps), s)
      | (.error e, s) => (.error e, s)

/-- One access of a whole structure in the global segment at an alignment (R31, R148): its pieces. -/
def State.areaAccess (s : State) (g : Group) (o : DWord) (n align : Nat) (need : Need) : Except TFail (List Piece) × State :=
  let base := g.seg[0].base.toNat
  let va := base + o.toNat
  if g.seg[0].limit.toNat < o.toNat + n ∨ canonical va = false ∨ canonical (va + n - 1) = false then
    (.error (.fault cSegment (addr64 va)), s)
  else if va % align ≠ 0 then (.error (.fault cMisaligned va), s)
  else s.areaPieces g need (areaCuts va n 3)

/-- A group-level access that fails at the word (R299, R397): migrated and issued again, or raised for the active
threads. R470 names no mask and address for an area of CTXSV or CTXLD: `active()` and the address of the access, DESIGN
CHOICE, log entry 47. -/
def State.areaFails (s : State) (g : Group) (write : Bool) (e : TFail) : State :=
  match e with
  | .absent p _ =>
    (match s.startMigration g.ctx p write (Migration.addGroup g.id) with
    | some s => s.put { g with status := .migrating, replay := some g.mask, turn := false, missed := [(0, e.report.2, write)] }
    | none => s.raise g { g.wordFault cNonresident g.mask (BitVec.ofNat 64 e.report.2) with write := write })
  | .fault c a => s.raise g { g.wordFault c g.mask (BitVec.ofNat 64 a) with write := write }

/-- The header of the clause at which a group stands. Of a group parked in mid-clause CTXSV saves this as its "next clause
header": the words of the clause that have issued run again after CTXLD. The area has no field for a word index (R147, R151):
DESIGN CHOICE, log entry 47. -/
def Group.standsAt (g : Group) : DWord := if g.stage = .header then g.pc else g.clause.addr

/-- A piece of physical memory cut at the ends of its lines. -/
def Piece.byLine (p : Piece) : List Piece :=
  match p.spot with
  | .pa a => (linesOf a p.len).map fun l =>
      let from_ := max a l
      { p with spot := .pa from_, len := min (a + p.len) (l + 128) - from_ }
  | _ => [p]

/-- A context area issued as a store of the group, one line of it a part: it is performed after the group's earlier accesses to
its bytes (R304), and CTXSV is complete with it (R148). -/
def Group.issueArea (g : Group) (va : Nat) (ps : List Piece) (bs : List Byte) : Group :=
  let h := g.issueLong { seq := 0, ctr := 0, kind := .ctxsv, ready := false }
  { h with stores := h.stores ++ [{ seq := g.seq, thread := 96, va := va, parts := cutBytes (ps.flatMap Piece.byLine) bs }] }

/-- A saved group leaves its slot: what waits for it is forgotten (R148). -/
def State.vacate (s : State) (i : GroupId) : State :=
  let s : State := { s with
    groups := s.groups.filter fun g => g.id ≠ i
    hmaskQ := s.hmaskQ.map (HmaskReq.orphan [i])
    migrations := s.migrations.map fun m => { m with waiters := m.waiters.filter fun g => g ≠ i } }
  s.modCore i.coreId fun c => { c with pool := c.pool.filter fun x => x.group ≠ i }

/-- Whether CTXSV stalls for the group that it is to save (R148, R471): work of its own is outstanding. -/
def State.targetBusy (s : State) (g : Group) (slot : Word) : Bool := (s.ctxTarget g slot).any Group.ownWork

/-- CTXSV (R148): it stalls until the target's results are written. The area has no field for a recorded fault or a pending
replay of the target, and none for its transaction: the fault and the replay are dropped and the clause runs again after CTXLD, for
a target parked in a replay under the mask of the replay; an open transaction is discarded and the header at which the group stands
is saved, not its abort header; a delayed fault not yet delivered is dropped, which R375 keeps in a save; a rig that the target waits for is stopped as R205 lays down and its SPAT executes again: DESIGN
CHOICE, log entry 47. -/
def execCtxsv (a b : Reg) (s : State) : Out :=
  s.stallWord (fun g => g.counterFull || (g.tx.isNone && s.targetBusy g (g.sget b.val))) true (sRegs a.val 2 ++ [.s b.val]) fun g =>
    if g.tx.isSome then s.abortTx g 9 0
    else match s.ctxTarget g (g.sget b.val) with
      | none => s.groupFault g cIllegal
      | some h =>
        match s.areaAccess g (g.spair a.val) (areaSize h.v.length) 1024 .store with
        | (.error e, s) => s.areaFails g true e
        | (.ok ps, s) =>
          let k := (h.seeAbort 12 0).suspend
          let va := addr64 (g.seg[0].base.toNat + (g.spair a.val).toNat)
          let s := (s.dropRig h.id).vacate h.id
          match s.group? g.id with
          | some g => s.put ((g.issueArea va ps (k.area k.standsAt k.sat)).nextWord 1)
          | none => s

/-- A word of an area. -/
def areaWord (bs : List Byte) (o : Nat) : Word := BitVec.ofNat 32 (bytesToNat ((bs.drop o).take 4))

/-- A doubleword of an area. -/
def areaDWord (bs : List Byte) (o : Nat) : DWord := BitVec.ofNat 64 (bytesToNat ((bs.drop o).take 8))

/-- A mask of an area. -/
def areaMask (bs : List Byte) (o : Nat) : Mask := BitVec.ofNat 96 (bytesToNat ((bs.drop o).take 12))

/-- Whether R149 refuses an area by its first 1,024 bytes. -/
def areaBad (bs : List Byte) : Bool :=
  let zero := fun (o n : Nat) => decide (bytesToNat ((bs.drop o).take n) = 0)
  !budgetOk (areaWord bs 8).toNat || !zero 0x34 4 || !zero 0x160 160 || !zero 0x300 256 ||
    decide (4 ≤ (areaWord bs 0x14).toNat)

/-- The group that an area describes (R149): it belongs to the issuing group's task and team. The reserved bits of FAULTCODE and
FABREC read as zero (R3, R404, R405). A barrier arrival that counted before the save is not remembered, the area having no field
for it (R147, R172), nor are TXST's status word, the phases that XBEXP remembers, PORTREC and the delayed faults not yet delivered: they
read as after a start. DESIGN CHOICE, log entry 47. -/
def Group.restored (g : Group) (gidx : Nat) (bs : List Byte) : Group :=
  let w := areaWord bs
  let d := areaDWord bs
  let m := areaMask bs
  let fl := (w 0x14).toNat
  { id := g.id
    task := g.task
    lin := g.lin
    gidx := gidx
    pv := bitOf fl 0
    pc := d 0 &&& ~~~3
    v := (List.range (w 8).toNat).map fun n => Vector.ofFn fun t : Fin 96 => w (0x400 + 384 * n + 4 * t.val)
    s := Vector.ofFn fun i : Fin 64 => w (0x200 + 4 * i.val)
    p := Vector.ofFn fun i : Fin 12 => m (0x80 + 12 * i.val)
    x := m 0x18
    yielding := bitOf fl 1
    fpmode := w 0x0C &&& 3
    fpsr := w 0x10 &&& 31
    seg := Vector.ofFn fun i : Fin 4 => { base := d (0x40 + 16 * i.val), limit := d (0x48 + 16 * i.val) }
    faultMask := m 0x110
    faultCode := w 0x30 &&& 0xFFFF8FFF
    faultAddr := d 0x38
    retpc := d 0x120
    retw := w 0x11C &&& 31
    retmask := m 0x128
    scr := Vector.ofFn fun i : Fin 4 => w (0x134 + 4 * i.val)
    fabrec := Vector.ofFn fun i : Fin 4 => w (0x144 + 4 * i.val) &&& if i.val = 2 then 0x0FFFFFFF else 0xFFFFFFFF
    lateMask := m 0x24
    sat := m 0x154 }

/-- The index in its team of a group that CTXLD restores: the lowest live one without a resident group. -/
def State.freeIndex (s : State) (g : Group) : Nat :=
  let live := ((s.teamOf g).map Team.liveGroups).getD []
  (live.find? fun i => !s.groups.any fun h => h.task == g.task && h.lin == g.lin && h.gidx == i).getD 31

/-- The bytes of an area's pieces, `none` where a link is down or for poison. -/
def State.readArea (s : State) (g : Group) (ps : List Piece) : Option (List Byte) :=
  if s.linkLost ps then none else (ps.mapM (s.readPiece g g.seq)).map List.flatten

/-- An area read whose link is down or whose data is poisoned: LINK_LOST or POISON as a late fault of the active threads
(R399, R401). -/
def State.areaLate (s : State) (g : Group) (ps : List Piece) (kind : LLKind) (dst : List PReg) (va : Nat) : State :=
  let code := if s.linkLost ps then cLinkLost else cPoison
  s.put ((g.issueLong { seq := 0, ctr := 0, kind := kind, dst := dst, late := g.active.map fun t => (t, code, va) }).nextWord 1)

/-- CTXLD (R149): it waits in place for a slot and registers, as GROW does. -/
def execCtxld (d a : Reg) (s : State) : Out :=
  s.longWord true (sRegs a.val 2 ++ [.s d.val]) fun g =>
    if g.tx.isSome then s.abortTx g 9 0
    else
      let o := g.spair a.val
      let va := addr64 (g.seg[0].base.toNat + o.toNat)
      match s.areaAccess g o 1024 1024 .load with
      | (.error e, s) => s.areaFails g false e
      | (.ok ps, s) =>
        match s.readArea g ps with
        | none => s.areaLate g ps .ctxld [.s d.val] va
        | some hd =>
          if areaBad hd then s.groupFault g cIllegal
          else
            match s.areaAccess g o (areaSize (areaWord hd 8).toNat) 1024 .load with
            | (.error e, s) => s.areaFails g false e
            | (.ok ps, s) =>
              match s.readArea g ps with
              | none => s.areaLate g ps .ctxld [.s d.val] va
              | some bs =>
                let k := g.restored (s.freeIndex g) bs
                (s.put (g.hold (.grow k.v.length) 0)).modCore g.id.coreId fun c =>
                  { c with pool := c.pool ++ [.ctxld g.id d.val k] }

end Sys2Proof.Machine
end

