-- ==== Sys2Proof/Machine/Engines.lean ====
section
/-! DEFINITION. Engine instructions: tensor identifiers, slotted buffers, byte-counting barriers, copies, tokens and
drains at issue (R279 to R281, R351 to R386). -/

namespace Sys2Proof.Machine

/-! ### Formats (R365, R373) -/

/-- The floating format of a format code, `none` for a block-scaled or integer code. -/
def fmtOf : Nat → Option Fmt
  | 1 => some .f64
  | 2 => some .f32
  | 3 => some .f16
  | 4 => some .bf16
  | 5 => some .e4m3
  | 6 => some .e5m2
  | _ => none

/-- Whether a format code is block-scaled. -/
def isBlock (f : Nat) : Bool := metaBytes f != 0

/-- Whether a format code is assigned (R373). -/
def fmtAssigned (f : Nat) : Bool := decide (1 ≤ f) && decide (f ≤ 0x0E)

/-- Whether a format code takes part in conversions (R373). -/
def converts (f : Nat) : Bool := [2, 3, 4, 5, 6, 9, 10, 11].contains f

/-- Equal formats, or a converter pair (R360, R373). -/
def convPair (f g : Nat) : Bool := f == g || (converts f && converts g)

/-- K of a matrix format (R365); 0 for any other. -/
def matK (f : Nat) : Nat :=
  match f with
  | 1 => 8
  | 2 => 16
  | 3 => 64
  | 4 => 64
  | 11 => 256
  | _ => if 5 ≤ f ∧ f ≤ 10 then 128 else 0

/-- Bytes of an accumulator element of a matrix format (R365). -/
def accBytes (f : Nat) : Nat := if f = 1 then 8 else 4

/-- Bytes of an operand's elements (R365). -/
def operandBytes (f : Nat) : Nat := 64 * matK f * fmtHalves f / 2

/-- Bytes of an operand's block metadata (R365). -/
def operandMeta (f : Nat) : Nat := metaBytes f * matK f

/-! ### Words of the range (R374, R375) -/

/-- An engine word: it stalls at the counter limit and where `stalls` says; a transaction is aborted with ENGINE. A word
that accesses memory (`mem`) waits behind a FENCE (R286, R344). XBWAIT, which R414 lists under WAIT as well, aborts with ENGINE: DESIGN
CHOICE, log entry 45. -/
def State.engWord (s : State) (long mem : Bool) (rs : List PReg) (stalls : State → Group → Bool) (body : Group → State → State) :
    Out :=
  match s.cur with
  | none => .fault .noGroup
  | some g =>
    if (long && g.counterFull) || (g.tx.isNone && (stalls s g || (mem && g.fenced))) then .next (s.stall g)
    else if mem && !s.fenceReady g then .next ((s.claimBack g.id.coreId fun _ => true).stall g)
    else
      let s := if mem then s.passFence g else s
      s.word false rs fun g => if g.tx.isSome then s.abortTx g 7 0 else body g s

/-- The groups of a group's team. -/
def State.teamMates (s : State) (g : Group) : List Group := s.groups.filter fun h => h.task == g.task && h.lin == g.lin

/-- Whether a TDEF of an identifier is outstanding in the team. -/
def State.tdefOut (s : State) (t : Nat) (g : Group) : Bool :=
  (s.teamMates g).any fun h => h.out.any fun o => decide (o.kind = .tdef ∧ o.d = t) && !o.todo.isEmpty

/-- A long-latency engine word issued, and on to the next word. -/
def State.issueEng (s : State) (g : Group) (o : Outst) : State := s.put ((g.issueLong o).nextWord 1)

/-- A fault that the group takes at its next clause boundary (R375): one found in the handler is of a word of the handler, since
trap entry waits for every result (R29, R407). -/
def Group.delay (g : Group) (code : Nat) (addr : DWord) (widx : Nat) : Group :=
  { g with delayed := g.delayed ++ [⟨code, addr, widx, g.inHandler⟩] }

/-- The next engine identifier of a core. -/
def State.newId (s : State) (c : CoreId) : Nat × State :=
  ((s.coreD c).nextId, s.modCore c fun k => { k with nextId := k.nextId + 1 })

/-! ### Tensor identifiers (R351 to R355, R377) -/

/-- The gl offset of a tensor's descriptor (R351). -/
def State.descAt (s : State) (g : Group) (t : Nat) : Nat :=
  (((s.task? g.task).map fun k => k.tensp.toNat).getD 0) + 64 * t

/-- TDEF (R377): the descriptor's access is checked now and read later; a failed check is a delayed fault, unless the
page is migrated and the word issues again. -/
def execTdef (t : Fin 256) (s : State) : Out :=
  s.engWord true true [] (fun s g => s.tdefOut t.val g) fun g s =>
    let sg := g.seg[0]
    let args := [loWord sg.base, hiWord sg.base, loWord sg.limit, hiWord sg.limit, loWord g.clause.addr, hiWord g.clause.addr,
      BitVec.ofNat 32 g.clause.next]
    let o : Outst := { seq := 0, ctr := 0, kind := .tdef, d := t.val }
    match s.access g .gl (s.descAt g t.val) 64 0 .load with
    | (.ok (va, ps), s) => s.issueEng g { o with todo := [⟨0, va, ps, args⟩] }
    | (.error (.fault c _), s) => s.issueEng (g.delay c g.clause.addr g.clause.next) o
    | (.error (.absent p a), s) =>
      match s.startMigration g.ctx p false (Migration.addGroup g.id) with
      | some s => s.put { g with status := .migrating, replay := some g.mask, turn := false, missed := [(0, a, false)] }
      | none => s.issueEng (g.delay cNonresident g.clause.addr g.clause.next) o

/-- The fields of a descriptor (R352). -/
def tensorOf (bs : List Byte) : Tensor × Nat :=
  let n := fun (o k : Nat) => bytesToNat ((bs.drop o).take k)
  let attr := n 0x3E 2
  ({ base := BitVec.ofNat 64 (n 0 8), scale := BitVec.ofNat 64 (n 8 8),
     dims := (List.range 5).map fun i => n (0x10 + 4 * i) 4,
     strs := (List.range 4).map fun i => n (0x24 + 4 * i) 4,
     box := (List.range 5).map fun i => n (0x34 + 2 * i) 2,
     rank := field attr 5 8, fmt := field attr 0 32, sparse := bitOf attr 8 }, attr)

/-- Whether every byte of a run of gl offsets lies in a segment (R32). -/
def Segment.holds (sg : Segment) (o n : Nat) : Bool :=
  decide (o + n ≤ sg.limit.toNat) && canonical (sg.base.toNat + o) && canonical (sg.base.toNat + o + n - 1)

/-- Whether R354 accepts a descriptor. -/
def Tensor.valid (x : Tensor) (attr : Nat) (sg : Segment) : Bool :=
  let dim := fun k => x.dims.getD k 1
  let box := fun k => x.box.getD k 1
  let h := fmtHalves x.fmt
  let m := metaBytes x.fmt
  let ks := List.range 5
  decide (attr / 512 = 0) && fmtAssigned x.fmt && decide (1 ≤ x.rank) && decide (x.rank ≤ 5) &&
    ks.all (fun k => if k < x.rank then dim k != 0 && box k != 0 else dim k == 1 && box k == 1) &&
    (ks.drop 1).all (fun k => decide (k < x.rank) || x.strs.getD (k - 1) 0 == 0) &&
    decide (x.base.toNat % 16 = 0) && decide (box 0 * h % 32 = 0) && sg.holds x.base.toNat x.span &&
    (if m = 0 then decide (x.scale = 0)
     else decide (dim 0 % 64 = 0) && decide (box 0 % 64 = 0) && decide (x.scale ≠ 0) && decide (x.scale.toNat % m = 0) &&
      sg.holds x.scaleSpan.1 x.scaleSpan.2) &&
    (!x.sparse || (m == 0 && decide (h ≠ 16) && decide (h ≠ 1) && decide (x.base.toNat % (32 * h) = 0) &&
      decide (box 0 * h / 2 % (32 * h) = 0) && x.strs.all fun st => decide (16 * st % (32 * h) = 0)))

/-- A descriptor read by an outstanding TDEF, validated and entered in the context table, or a delayed fault. -/
def State.performTdef (s : State) (g : Group) (o : Outst) (t : Target) : State :=
  let w := fun i => t.args.getD i 0
  let done := g.putOut { o with todo := [] }
  let fail := fun (c : Nat) => s.put (done.delay c (pairOf (w 4) (w 5)) (w 6).toNat)
  if s.blocked g o.seq t.thread t.pieces true false then s
  else if s.linkLost t.pieces then fail cLinkLost
  else
    match s.readTarget g o.seq t with
    | none => fail cPoison
    | some bs =>
      let x := tensorOf bs
      let sg : Segment := { base := pairOf (w 0) (w 1), limit := pairOf (w 2) (w 3) }
      if x.1.valid x.2 sg then
        match s.teamOf g with
        | some u => (s.put done).putTeam { u with tensors := (o.d, x.1) :: u.tensors.filter fun y => y.1 ≠ o.d }
        | none => s.put done
      else fail cTensor

/-- LOAD_PERFORM (R293): one thread's load from memory, or the read of a TDEF's descriptor. -/
def execLoadPerform (s : State) : Out :=
  match s.due with
  | some (g, o, t) =>
    (match o.kind with
    | .load _ _ acq => .next (if t.isSh then s else s.performLoad g o t acq)
    | .tdef => .next (s.performTdef g o t)
    | _ => .next s)
  | none => .next s

/-- TINV (R377). -/
def execTinv (t : Fin 256) (s : State) : Out :=
  s.engWord false false [] (fun s g => s.tdefOut t.val g) fun g s =>
    let s := match s.teamOf g with
      | some u => s.putTeam { u with tensors := u.tensors.filter fun y => y.1 ≠ t.val }
      | none => s
    s.put (g.nextWord 1)

/-! ### Slotted buffers (R279 to R281, R378, R386) -/

/-- A declared buffer of a team. -/
def Team.buf? (u : Team) (n : Nat) : Option SlotBuf := (u.bufs.find? fun b => b.1 = n).map (·.2)

/-- A slot of a buffer: whether it exists. -/
def SlotBuf.has (b : SlotBuf) (slot : Nat) : Bool := decide (slot < b.full.length)

/-- Whether a slot is FULL. -/
def SlotBuf.isFull (b : SlotBuf) (slot : Nat) : Bool := b.full.getD slot false

/-- Whether a slot holds sparse form. -/
def SlotBuf.isSparse (b : SlotBuf) (slot : Nat) : Bool := b.sparse.getD slot false

/-- A slot's state changed, with its sparse-form tag where one is given, which otherwise stays until a later TCOPY or BUFDEF (DESIGN
CHOICE, log entry 45): what SLOTWT waits for it has been held. -/
def State.setSlot (s : State) (k : TaskKey) (lin n slot : Nat) (full : Bool) (sparse : Option Bool) : State :=
  match s.team? k lin with
  | none => s
  | some u =>
    let one := fun (b : SlotBuf) =>
      { b with full := b.full.set slot full, sparse := match sparse with
        | some x => b.sparse.set slot x
        | none => b.sparse }
    let s := s.putTeam { u with bufs := u.bufs.map fun b => if b.1 = n then (b.1, one b.2) else b }
    s.mapGroups fun g =>
      if g.task == k && g.lin == lin then
        { g with out := g.out.map fun o => if o.kind = .slotwt n slot full then { o with ready := true } else o }
      else g

/-- Whether a matrix control word names a buffer (R364). -/
def wordNames (w n : Nat) : Bool := field w 21 8 == n || field w 14 8 == n

/-- Whether a copy, a token or a placed fabric load keeps a buffer's declaration (R378). -/
def State.bufBusy (s : State) (n : Nat) (g : Group) : Bool :=
  let c := s.coreD g.id.coreId
  c.copies.any (fun x => x.task == g.task && x.lin == g.lin && x.buf == n) ||
    c.node.any (fun x => match x with
      | .token _ _ k l w _ _ _ => k == g.task && l == g.lin && wordNames w.toNat n
      | .drain _ _ _ _ _ _ _ _ _ _ _ _ => false) ||
    c.updates.any (fun x => x.task == g.task && x.lin == g.lin && x.bufs.contains n) ||
    c.rigs.any fun r => !r.pages.isEmpty && ((s.group? r.group).map fun h => h.task == g.task && h.lin == g.lin).getD false &&
      ((r.block.map fun b => b.cfg.any fun l => (l.mtok.map fun w => wordNames w.toNat n).getD false).getD false)

/-- A team without the SLOTSETs under way on a buffer: a new declaration or none takes its slots' states. -/
def State.dropSets (s : State) (u : Team) (n : Nat) : State :=
  s.mapGroups fun g =>
    if g.task = u.task ∧ g.lin = u.lin then { g with sets := g.sets.filter fun x => x.1 ≠ n } else g

/-- BUFDEF (R378): every slot becomes EMPTY, for which a SLOTWT may wait. -/
def execBufdef (buf : Fin 8) (a b : Reg) (s : State) : Out :=
  s.engWord true false [.s a.val, .s b.val] (fun s g => s.bufBusy buf.val g) fun g s =>
    match s.teamOf g with
    | none => s.put (g.nextWord 1)
    | some u =>
      let off := (g.sget a.val).toNat
      let ctl := (g.sget b.val).toNat
      let size := field ctl 10 4096 * 128
      let n := field ctl 6 16 + 1
      let f := field ctl 0 32
      let bad := decide (ctl / 2 ^ 22 ≠ 0) || bitOf ctl 5 || size == 0 || decide (0x0E < f) || decide (off % 128 ≠ 0) ||
        decide (u.shLen < off + n * size) ||
        u.bufs.any fun x => x.1 != buf.val && overlaps off (n * size) x.2.base (x.2.full.length * x.2.size)
      if bad then s.groupFault g cTensor
      else
        let x : SlotBuf := { base := off, size := size, fmt := f, full := List.replicate n false, sparse := List.replicate n false }
        let s := (s.issueEng g { seq := 0, ctr := 0, kind := .bufdef }).dropSets u buf.val
        let s := s.putTeam { u with bufs := (buf.val, x) :: u.bufs.filter fun y => y.1 ≠ buf.val }
        (List.range n).foldl (fun s i => s.setSlot u.task u.lin buf.val i false none) s

/-- BUFDEF_FREE (R378). -/
def execBufdefFree (buf : Fin 8) (s : State) : Out :=
  s.engWord true false [] (fun s g => s.bufBusy buf.val g) fun g s =>
    let t := s.issueEng g { seq := 0, ctr := 0, kind := .bufdef }
    match s.teamOf g with
    | some u => (t.dropSets u buf.val).putTeam { u with bufs := u.bufs.filter fun y => y.1 ≠ buf.val }
    | none => t

/-- The slot that a group's slot word names. -/
def State.slotOf (s : State) (g : Group) (buf slot : Nat) : Option (Team × SlotBuf) :=
  (s.teamOf g).bind fun u => (u.buf? buf).bind fun b => if b.has slot then some (u, b) else none

/-- Whether the group still has an access to a slot, issued before place `seq` of its order, that is not performed (R386), or a
PUBLISH before it (R346). -/
def State.slotInUse (s : State) (buf slot seq : Nat) (g : Group) : Bool :=
  g.publishing seq || match s.slotOf g buf slot with
  | none => false
  | some (u, b) =>
    let p : Piece := { spot := .sh g.id.die g.id.core (u.shBase + b.base + slot * b.size), len := b.size }
    g.stores.any (fun x => decide (x.seq < seq) && meetsAny x.pieces [p]) ||
      g.out.any fun o => decide (o.seq < seq) && (o.todo ++ o.held).any fun t => meetsAny t.pieces [p]

/-- The oldest SLOTSET of a group that is under way takes effect, once the group's earlier accesses to the slot are performed: a
release at .core (R281, R386). -/
def State.setDue (s : State) (g : Group) : State :=
  match g.sets with
  | [] => s
  | (buf, slot, full, seq) :: rest =>
    if s.slotInUse buf slot seq g then s
    else s.releasing g.id.coreId .core fun s => (s.put { g with sets := rest }).setSlot g.task g.lin buf slot full none

/-- SLOTSET (R386): it takes effect at once where nothing is to be waited for; later words do not wait for it. -/
def execSlotset (buf : Fin 8) (slot : Fin 16) (full : Bool) (s : State) : Out :=
  s.engWord false false [] (fun _ _ => false) fun g s =>
    match s.slotOf g buf.val slot.val with
    | none => s.groupFault g cTensor
    | some _ =>
      if g.sets.isEmpty && !s.slotInUse buf.val slot.val g.seq g && s.releasable g.id.coreId .core then
        ((s.releaseL1 g.id.coreId .core).put (g.nextWord 1)).setSlot g.task g.lin buf.val slot.val full none
      else s.put ({ g with sets := g.sets ++ [(buf.val, slot.val, full, g.seq)] }.nextWord 1)

/-- SLOTWT (R386). -/
def execSlotwt (buf : Fin 8) (slot : Fin 16) (full : Bool) (s : State) : Out :=
  s.engWord true false [] (fun _ _ => false) fun g s =>
    match s.slotOf g buf.val slot.val with
    | none => s.groupFault g cTensor
    | some (_, b) =>
      s.issueEng g { seq := 0, ctr := 0, kind := .slotwt buf.val slot.val full, ready := b.isFull slot.val == full }

/-! ### Byte-counting barriers (R362, R363, R384, R385) -/

/-- The last two rows of R363. -/
def XBar.settle (b : XBar) : XBar :=
  let b : XBar := if b.count < -8388608 then { b with ovf := true } else b
  if b.count = 0 ∧ b.exp = true then { b with phase := (b.phase + 1) % 16777216, exp := false } else b

/-- A value of COUNT, a 32-bit signed field (R362). -/
def wrapCount (x : Int) : Int := (BitVec.ofInt 32 x).toInt

/-- XBEXP of n bytes. -/
def XBar.expect (b : XBar) (n : Nat) : XBar := { b with count := wrapCount (b.count + n), exp := true : XBar }.settle

/-- An arrival of n bytes tagged with a phase. -/
def XBar.arrive (b : XBar) (n phase : Nat) : XBar :=
  if phase ≠ b.phase then { b with ovf := true : XBar }.settle
  else if b.exp = true ∧ 0 < b.count ∧ b.count < n then { b with count := 0, ovf := true : XBar }.settle
  else { b with count := wrapCount (b.count - n) : XBar }.settle

/-- The first copy fault (R359, R362), with its address and whether it was a write. -/
def XBar.copyFault (b : XBar) (code : Nat) (addr : DWord) (write : Bool) : XBar :=
  if b.fcode = 0 then { b with fcode := code, faddr := addr, fwrite := write } else b

/-- A byte-counting barrier of a team changed. -/
def State.modXb (s : State) (k : TaskKey) (lin n : Nat) (f : XBar → XBar) : State :=
  match s.team? k lin with
  | some u => s.putTeam { u with xb := u.xb.setIfInBounds n (f (u.xb[n]?.getD {})) }
  | none => s

/-- A byte-counting barrier of a group's team. -/
def State.xbOf (s : State) (g : Group) (n : Nat) : XBar := ((s.teamOf g).bind fun u => u.xb[n]?).getD {}

/-- XBEXP (R384). -/
def execXbexp (n : Fin 16) (b : Reg) (s : State) : Out :=
  s.engWord false false [.s b.val] (fun _ _ => false) fun g s =>
    let k := (g.sget b.val).toNat
    if k % 16 ≠ 0 ∨ 2 ^ 30 < k then s.groupFault g cCopySize
    else
      let ph := (s.xbOf g n.val).phase
      let h : Group := { g with xbPhase := (n.val, ph) :: g.xbPhase.filter fun x => x.1 ≠ n.val }
      (s.put (h.nextWord 1)).modXb g.task g.lin n.val fun x => x.expect k

/-- Whether phase p of a barrier has completed (R385). -/
def XBar.past (b : XBar) (p : Nat) : Bool :=
  let d := (b.phase + 16777216 - p % 16777216) % 16777216
  decide (1 ≤ d) && decide (d < 8388608)

/-- One pass of XBWAIT's loop for a group at the word (R385): a fault, the end of the wait, or the wait. `own` marks the form
without a register, which forgets the phase that the group remembers as the wait ends. -/
def State.xbLoop (s : State) (g : Group) (n p : Nat) (own : Bool) : State :=
  let b := s.xbOf g n
  let g := { g with status := .running, wait := none }
  if b.fcode ≠ 0 then
    (s.modXb g.task g.lin n fun x => { x with fcode := 0 }).raise g { g.wordFault b.fcode g.mask b.faddr with imm := n, write := b.fwrite }
  else if b.ovf then (s.modXb g.task g.lin n fun x => { x with ovf := false }).groupFault g cBarrierOverflow
  else if b.past p then
    let h : Group := if own then { g with xbPhase := g.xbPhase.filter fun x => x.1 ≠ n } else g
    (s.acquireL1 g.id.coreId .core).put (h.nextWord 1)
  else s.put (g.hold (.xb n p own) 0)

/-- XBWAIT (R385). -/
def execXbwait (n : Fin 16) (k : Option Reg) (s : State) : Out :=
  s.engWord false false ((k.map fun r => PReg.s r.val).toList) (fun _ _ => false) fun g s =>
    let p := match k with
      | some r => (g.sget r.val).toNat % 16777216
      | none => ((g.xbPhase.find? fun x => x.1 = n.val).map (·.2)).getD (s.xbOf g n.val).phase
    s.xbLoop g n.val p k.isNone

/-- XBWAIT_RESUME (R385, R386): a SLOTSET of the group under way takes effect, or the wait of a held group is looked at
again. -/
def execXbwaitResume (s : State) : Out :=
  match s.group? s.args.group with
  | none => .next s
  | some g =>
    if !g.sets.isEmpty then .next (s.setDue g)
    else match g.status, g.wait.map Wait.kind with
    | .held, some (.xb n p own) => .next (s.xbLoop g n p own)
    | _, _ => .next s

/-! ### Copies at issue (R356, R379, R380) -/

/-- The origin quintet. -/
def Group.origin (g : Group) (a : Nat) : List Int := (List.range 5).map fun i => (g.sget (a + i)).toInt

/-- Rows of a box. -/
def Tensor.rows (x : Tensor) : Nat := x.box.getD 1 1 * x.box.getD 2 1 * x.box.getD 3 1 * x.box.getD 4 1

/-- Bytes of a row's elements in a slot of a format. -/
def rowBytes (x : Tensor) (f : Nat) : Nat := (x.box.headD 1 * fmtHalves f + 1) / 2

/-- Bytes of a row's metadata in a slot of a format. -/
def rowMeta (x : Tensor) (f : Nat) : Nat := metaBytes f * ((x.box.headD 1 + 63) / 64)

/-- Bytes of a row's bitmaps in sparse form (R361). -/
def rowHeader (x : Tensor) : Nat := if x.sparse then x.box.headD 1 / 64 * 8 else 0

/-- The packed image of `n` rows (R356, R361, R380). -/
def imageBytes (x : Tensor) (f n : Nat) : Nat := n * (rowBytes x f + rowMeta x f + rowHeader x)

/-- A slot's format for a tensor (R378). -/
def SlotBuf.format (b : SlotBuf) (x : Tensor) : Nat := if b.fmt = 0 then x.fmt else b.fmt

/-- The first failing check of R380. -/
def copyBad (x : Tensor) (b : SlotBuf) (store : Bool) (org : List Int) (slot rows : Nat) : Option Nat :=
  let f := b.format x
  if !b.has slot then some cTensor
  else if !convPair x.fmt f then some cTensor
  else if (isBlock f || isBlock x.fmt) && org.headD 0 % 64 != 0 then some cTensor
  else if store && x.sparse then some cTensor
  else if b.size < imageBytes x f rows then some cTensor
  else if imageBytes x f rows % 16 ≠ 0 then some cCopySize
  else none

/-- TCOPY and TSTORE at issue (R380): a copy of no bytes is complete at once. The size of a TSTORE that converts is that of the image in the
slot's format, as R380 says, where R356 has the image at the destination: DESIGN CHOICE, log entry 45. -/
def State.copyWord (s : State) (store : Bool) (t : Fin 256) (a b : Reg) : Out :=
  s.engWord true true (sRegs a.val 5 ++ [.s b.val])
    (fun s g => s.tdefOut t.val g || decide (32 ≤ (s.coreD g.id.coreId).copies.length)) fun g s =>
    let ctl := (g.sget b.val).toNat
    let buf := field ctl 5 8
    let slot := field ctl 8 16
    match s.teamOf g with
    | none => s.groupFault g cTensor
    | some u =>
      match u.tensors.find? fun y => y.1 = t.val, u.buf? buf with
      | some (_, x), some k =>
        let rows := min (field ctl 16 65536) x.rows
        let org := g.origin a.val
        if ctl % 32 ≠ 0 then s.groupFault g cTensor
        else match copyBad x k store org slot rows with
          | some c => s.groupFault g c
          | none =>
            let size := imageBytes x (k.format x) rows
            let r := s.newId g.id.coreId
            if size = 0 then r.2.issueEng g { seq := 0, ctr := 0, kind := .copy r.1 }
            else
              let xb := field ctl 12 16
              let c : Copy :=
                { id := r.1, group := g.id, task := g.task, lin := g.lin, store := store, tensor := x, org := org, rows := rows,
                  xb := xb, phase := (s.xbOf g xb).phase, buf := buf, slot := slot, size := size, seq := g.seq, seg := g.seg[0] }
              (r.2.modCore g.id.coreId fun z => { z with copies := z.copies ++ [c] }).issueEng g
                { seq := 0, ctr := 0, kind := .copy r.1, ready := false }
      | _, _ => s.groupFault g cTensor

/-- TCOPY (R380). -/
def execTcopy (t : Fin 256) (a b : Reg) (s : State) : Out := s.copyWord false t a b
/-- TSTORE (R380). -/
def execTstore (t : Fin 256) (a b : Reg) (s : State) : Out := s.copyWord true t a b

/-! ### Tokens and drains at issue (R364 to R366, R381, R383) -/

/-- Operand A's and B's buffer and slot (R364). -/
def wordA (w : Nat) : Nat × Nat := (field w 21 8, field w 17 16)
/-- Operand B's. -/
def wordB (w : Nat) : Nat × Nat := (field w 14 8, field w 10 16)
/-- FMT of a control word. -/
def wordFmt (w : Nat) : Nat := field w 27 32
/-- The accumulator's offset in the allocation. -/
def wordAcc (w : Nat) : Nat := field w 0 256 * 2048

/-- Whether R366 refuses a control word, apart from the sparse-form checks. -/
def mtokBad (u : Team) (w : Nat) : Bool :=
  let f := wordFmt w
  let need := operandBytes f + operandMeta f
  let slotBad := fun (x : Nat × Nat) => ((u.buf? x.1).map fun b => !b.has x.2 || decide (b.size < need)).getD true
  let acc := 4096 * accBytes f
  matK f == 0 || slotBad (wordA w) || slotBad (wordB w) || decide (u.shLen < wordAcc w + acc) ||
    u.bufs.any (fun x => overlaps (wordAcc w) acc x.2.base (x.2.full.length * x.2.size)) ||
    (isBlock f && (bitOf w 9 || !bitOf w 8))

/-- Whether a token's sparse-form checks fail (R366). -/
def sparseBad (u : Team) (w : Nat) : Bool :=
  let f := wordFmt w
  let tag := fun (x : Nat × Nat) => ((u.buf? x.1).map fun b => b.isSparse x.2).getD false
  let room := ((u.buf? (wordA w).1).map (·.size)).getD 0
  tag (wordB w) || (tag (wordA w) && (!(decide (3 ≤ f) && decide (f ≤ 8)) || bitOf w 9 ||
    decide (room < operandBytes f + operandMeta f + 8 * matK f)))

/-- MMA (R381): it stalls while the node's queue is full or a rig claims the node. -/
def execMma (fmt : Fin 32) (ac ra rb : Bool) (a : Reg) (s : State) : Out :=
  s.engWord true false [.s a.val]
    (fun s g => decide (8 ≤ (s.coreD g.id.coreId).node.length) || (s.coreD g.id.coreId).claim.isSome) fun g s =>
    let ctl := (g.sget a.val).toNat
    let w := fmt.val * 2 ^ 27 + ac.toNat * 2 ^ 26 + ra.toNat * 2 ^ 25 + rb.toNat * 2 ^ 24 + ctl % 2 ^ 24
    let bad := match s.teamOf g with
      | some u => mtokBad u w
      | none => true
    if ctl / 2 ^ 24 ≠ 0 ∨ bad = true then s.groupFault g cTensor
    else
      let r := s.newId g.id.coreId
      let item := NodeItem.token r.1 g.id g.task g.lin (BitVec.ofNat 32 w) none g.clause.addr g.clause.next
      (r.2.modCore g.id.coreId fun z => { z with node := z.node ++ [item] }).issueEng g
        { seq := 0, ctr := 0, kind := .token r.1, ready := false }

/-- Bytes of an accumulator element by AF (R383). -/
def afBytes (af : Nat) : Nat := if af = 1 then 8 else 4

/-- Whether a drain's destination format fits its accumulator format (R383). -/
def drainFmtOk (af f : Nat) : Bool :=
  match af with
  | 0 => f == 2 || f == 4
  | 1 => f == 1
  | 2 => f == 0x0D
  | _ => false

/-- MDRAIN (R383): it enters the node's queue behind every earlier token, and stalls while the queue is full. -/
def execMdrain (t : Fin 256) (a b : Reg) (s : State) : Out :=
  s.engWord true true (sRegs a.val 5 ++ [.s b.val])
    (fun s g => s.tdefOut t.val g || decide (8 ≤ (s.coreD g.id.coreId).node.length)) fun g s =>
    let ctl := (g.sget b.val).toNat
    let af := field ctl 16 4
    let acc := field ctl 0 256 * 2048
    match s.teamOf g with
    | none => s.groupFault g cTensor
    | some u =>
      match u.tensors.find? fun y => y.1 = t.val with
      | none => s.groupFault g cTensor
      | some (_, x) =>
        if x.box ≠ [64, 64, 1, 1, 1] ∨ ctl / 2 ^ 18 ≠ 0 ∨ field ctl 8 16 ≠ 0 ∨ u.shLen < acc + 4096 * afBytes af ∨
            drainFmtOk af x.fmt = false then s.groupFault g cTensor
        else
          let r := s.newId g.id.coreId
          let xb := field ctl 12 16
          let item := NodeItem.drain r.1 g.id g.task g.lin x (g.origin a.val) af xb (s.xbOf g xb).phase acc g.seq g.seg[0]
          (r.2.modCore g.id.coreId fun z => { z with node := z.node ++ [item] }).issueEng g
            { seq := 0, ctr := 0, kind := .token r.1, ready := false }

end Sys2Proof.Machine
end

