-- ==== Sys2Proof/Machine/EngineSteps.lean ====
section
/-! DEFINITION. What the engines do on their own: the rows of a copy, arrivals, matrix tokens and their chained updates,
drains (R277, R356 to R372). -/

namespace Sys2Proof.Machine

/-! ### Elements of a format -/

/-- The code of element `i` of packed elements (R48, R51). -/
def codeAt (f : Nat) (bs : List Byte) (i : Nat) : Nat :=
  if fmtHalves f = 1 then field (bs.getD (i / 2) 0).toNat (4 * (i % 2)) 16
  else bytesToNat ((bs.drop (i * fmtHalves f / 2)).take (fmtHalves f / 2))

/-- Codes packed (R48, R51). -/
def packCodes (f : Nat) (cs : List Nat) : List Byte :=
  if fmtHalves f = 1 then
    (List.range ((cs.length + 1) / 2)).map fun i => BitVec.ofNat 8 (cs.getD (2 * i) 0 + 16 * cs.getD (2 * i + 1) 0)
  else cs.flatMap (natToBytes (fmtHalves f / 2))

/-- The value of a code of a floating format under its block's metadata (R43 to R51). -/
def fmtValue (f code md : Nat) : XReal :=
  match fmtOf f with
  | some F => decodeF F code
  | none => if f = 9 then decodeScaled .e4m3 code md else if f = 10 then decodeScaled .e5m2 code md else decodeE2m1m code md

/-- A value rounded to FP32, as the two-step conversions of R360 do. -/
def viaF32 (x : XReal) : XReal := decodeF .f32 (roundF x .f32 .rne).1

/-- Lists of 64 consecutive values. -/
def blocksOf (xs : List XReal) : Nat → List (List XReal)
  | 0 => []
  | n + 1 => if xs.isEmpty then [] else
      let b := xs.take 64
      (b ++ List.replicate (64 - b.length) (.zero false)) :: blocksOf (xs.drop 64) n

/-- Values in a format (R52, R54, R59): the codes, and the metadata of their blocks. -/
def fmtCodes (f : Nat) (xs : List XReal) : List Nat × List Nat :=
  match fmtOf f with
  | some F => (xs.map fun x => (roundF x F .rne).1, [])
  | none =>
    let q := fun b => if f = 9 then quantScaled .e4m3 b else if f = 10 then quantScaled .e5m2 b else quantE2m1m b
    let rs := (blocksOf xs xs.length).map q
    ((rs.flatMap (·.1)).take xs.length, rs.map (·.2))

/-- A row converted between formats (R360): elements and metadata bytes in, elements and metadata bytes out. -/
def convertRow (f g n : Nat) (data md : List Byte) : List Byte × List Byte :=
  if f = g then (data, md)
  else
    let m := metaBytes f
    let value := fun i => viaF32 (fmtValue f (codeAt f data i) (bytesToNat ((md.drop (i / 64 * m)).take m)))
    let r := fmtCodes g ((List.range n).map value)
    (packCodes g r.1, r.2.flatMap (natToBytes (metaBytes g)))

/-! ### Accesses of an engine -/

/-- Cuts of a virtual range by 64 KiB pages. -/
def engineCuts (va n : Nat) : List (Nat × Nat) := areaCuts va n (n / 65536 + 2)

/-- The translation of one cut by an engine, by its walk-ahead TLB (R358, R359). With the reply `lost`, an access through a
port times out (R401). -/
def State.enginePiece (s : State) (c : CoreId) (ctx va n : Nat) (need : Need) : Except TFail Piece × State :=
  match s.translateBy (fun s p => s.walkFill c ctx p) (s.engineCached c ctx va) ctx va need true with
  | (.ok x, s) =>
    if s.args.reply = .lost ∧ isHbm x.pa = false then (.error (.fault cLinkLost va), s)
    else (.ok ⟨.pa x.pa, n, x.cls, x.sparse⟩, s)
  | (.error .protection, s) => (.error (.fault cProtection va), s)
  | (.error .linkLost, s) => (.error (.fault cLinkLost va), s)
  | (.error (.absent p), s) => (.error (.absent p va), s)

/-- The pieces of cuts, those of sparse pages cut at the ends of their groups. -/
def State.enginePieces (s : State) (c : CoreId) (ctx : Nat) (need : Need) : List (Nat × Nat) → Except TFail (List Piece) × State
  | [] => (.ok [], s)
  | (va, n) :: rest =>
    match s.enginePiece c ctx va n need with
    | (.error e, s) => (.error e, s)
    | (.ok p, s) =>
      match s.enginePieces c ctx need rest with
      | (.ok ps, s) => (.ok (p.groups ++ ps), s)
      | (.error e, s) => (.error e, s)

/-- An engine's access to a run of gl offsets (R31, R32). -/
def State.engineAccess (s : State) (c : CoreId) (ctx : Nat) (sg : Segment) (o n : Nat) (need : Need) :
    Except TFail (List Piece) × State :=
  let va := sg.base.toNat + o
  if n = 0 then (.ok [], s)
  else if !sg.holds o n then (.error (.fault cSegment (addr64 va)), s)
  else s.enginePieces c ctx need (engineCuts va n)

/-- The place in a piece at which an engine's read of it fails (R359): its first poisoned byte; its start for poison in the
record of a sparse group (R293), and for a refusal by a peer (R436). The engines of a die read past the L1. -/
def State.engineBad (s : State) (die : Nat) (p : Piece) : Option Nat :=
  if p.atPeer && !s.args.ok then some 0
  else if p.sparse.isSome then
    if (p.plain s.readPa).any fun q => s.diePoisoned die q.spot q.len then some 0 else none
  else if s.diePoisoned die p.spot p.len then (List.range p.len).find? fun i => s.diePoisoned die (p.spot.shift i) 1
  else none

/-- The bytes of a piece as an engine reads them at their place (R293, R321), or the place at which that fails; a malformed
sparse group fails at its start (R294). -/
def State.engineRead (s : State) (die : Nat) (p : Piece) : Except Nat (List Byte) :=
  match s.engineBad die p with
  | some i => .error i
  | none =>
    match p.spot, p.sparse with
    | .pa a, some (w, l) => (match sparseBytes s.readPa a w l p.len with
      | some bs => .ok bs
      | none => .error 0)
    | x, _ => .ok ((List.range p.len).map fun i => s.readSpot (x.shift i))

/-- Bytes written over pieces at their places by an engine. -/
def State.engineWrite (s : State) : List Piece → List Byte → State
  | [], _ => s
  | p :: ps, bs => (s.deviceWrite none p.spot (bs.take p.len)).engineWrite ps (bs.drop p.len)

/-- Shared-store bytes of a core read. -/
def State.shBytes (s : State) (c : CoreId) (o n : Nat) : List Byte := (s.coreD c).shared.readBytes o n

/-- Shared-store bytes of a core written by an engine. -/
def State.shWrite (s : State) (c : CoreId) (o : Nat) (bs : List Byte) : State := s.deviceWrite none (.sh c.die c.core o) bs

/-- An engine instruction of a core complete: its counter may go down (R374). -/
def State.engineDone (s : State) (c : CoreId) (kind : LLKind) : State :=
  s.mapGroups fun g =>
    if g.id.coreId = c then { g with out := g.out.map fun o => if o.kind = kind then { o with ready := true } else o } else g

/-! ### Copies (R356 to R361) -/

/-- A copy stored back. -/
def State.putCopy (s : State) (c : CoreId) (x : Copy) : State :=
  s.modCore c fun k => { k with copies := k.copies.map fun y => if y.id = x.id then x else y }

/-- A copy gone from its engine, with its counter released. -/
def State.endCopy (s : State) (c : CoreId) (x : Copy) : State :=
  (s.modCore c fun k => { k with copies := k.copies.filter fun y => y.id ≠ x.id }).engineDone c (.copy x.id)

/-- A copy fault (R359): arrivals of the bytes written stand, and the barrier records the first fault. -/
def State.faultCopy (s : State) (c : CoreId) (x : Copy) (code addr : Nat) : State :=
  let n := x.left / 16 * 16
  let s := if n = 0 then s else s.modXb x.task x.lin x.xb fun b => b.arrive n x.phase
  (s.modXb x.task x.lin x.xb fun b => b.copyFault code (BitVec.ofNat 64 addr) x.store).endCopy c x

/-- A failed access of a copy: it pauses for a migration, or takes a copy fault (R359). -/
def State.copyFails (s : State) (c : CoreId) (x : Copy) (e : TFail) : State :=
  match e with
  | .absent p _ =>
    (match s.startMigration (ctxOf x.task) p x.store (Migration.addCopy (x.group, x.id)) with
    | some s => s
    | none => s.faultCopy c x cNonresident e.report.2)
  | .fault code a => s.faultCopy c x code a

/-- The in-bounds part of a row of a box (R356): the tensor row index, the gl offset of the first element, the first
in-bounds element of the row and how many there are. -/
structure RowSpan where
  line : Nat
  off : Nat
  first : Nat
  count : Nat
  deriving DecidableEq, Repr

/-- The span of row r of the box of a tensor at an origin. -/
def rowSpan (x : Tensor) (org : List Int) (r : Nat) : RowSpan :=
  let box := fun k => x.box.getD k 1
  let dim := fun k => x.dims.getD k 1
  let b := [0, r % box 1, r / box 1 % box 2, r / box 1 / box 2 % box 3, r / box 1 / box 2 / box 3]
  let i := (List.range 5).map fun k => org.getD k 0 + (b.getD k 0 : Nat)
  let inside := (List.range 5).all fun k => k == 0 || (decide (0 ≤ i.getD k 0) && decide (i.getD k 0 < dim k))
  let lo := max 0 (-(org.getD 0 0))
  let hi := min (box 0 : Int) ((dim 0 : Int) - org.getD 0 0)
  if inside && decide (lo < hi) then
    let n := fun k => (i.getD k 0).toNat
    { line := n 1 + dim 1 * (n 2 + dim 2 * (n 3 + dim 3 * n 4))
      off := x.base.toNat + fmtHalves x.fmt * (org.getD 0 0 + lo).toNat / 2 +
        ((List.range 4).map fun k => 16 * x.strs.getD k 0 * n (k + 1)).sum
      first := lo.toNat
      count := (hi - lo).toNat }
  else { line := 0, off := 0, first := 0, count := 0 }

/-- Bytes of `n` elements. -/
def elemBytes (f n : Nat) : Nat := (n * fmtHalves f + 1) / 2

/-- The gl offset and bytes of the metadata of a span's blocks (R353). -/
def RowSpan.md (p : RowSpan) (x : Tensor) (org : List Int) : Nat × Nat :=
  let m := metaBytes x.fmt
  (x.scale.toNat + m * (p.line * (x.dims.headD 1 / 64) + (org.getD 0 0 + p.first).toNat / 64), m * (p.count / 64))

/-- The pieces of a span's elements and metadata. -/
def State.spanAccess (s : State) (c : CoreId) (ctx : Nat) (sg : Segment) (x : Tensor) (org : List Int) (p : RowSpan) (need : Need) :
    Except TFail (List Piece × List Piece) × State :=
  match s.engineAccess c ctx sg p.off (elemBytes x.fmt p.count) need with
  | (.error e, s) => (.error e, s)
  | (.ok ds, s) =>
    match s.engineAccess c ctx sg (p.md x org).1 (p.md x org).2 need with
    | (.error e, s) => (.error e, s)
    | (.ok ms, s) => (.ok (ds, ms), s)

/-- The bytes of pieces from a virtual address as an engine of a die reads them, or the address at which that fails. -/
def State.engineBytes (s : State) (die va : Nat) : List Piece → Except Nat (List Byte)
  | [] => .ok []
  | p :: ps =>
    match s.engineRead die p with
    | .error i => .error (va + i)
    | .ok bs => (s.engineBytes die (va + p.len) ps).map (bs ++ ·)

/-- Bytes placed among zeros: `a` before, and up to `n` in all. -/
def padded (a n : Nat) (bs : List Byte) : List Byte :=
  List.replicate a 0 ++ bs ++ List.replicate (n - a - bs.length) 0

/-- The shared-store offset of a copy's slot. -/
def slotBase (u : Team) (b : SlotBuf) (slot : Nat) : Nat := u.shBase + b.base + slot * b.size

/-- The virtual addresses of a span's elements and of its metadata. -/
def RowSpan.vas (p : RowSpan) (x : Copy) : Nat × Nat :=
  (x.seg.base.toNat + p.off, x.seg.base.toNat + (p.md x.tensor x.org).1)

/-- A TCOPY's dense row: elements and metadata in the slot's format, out-of-bounds elements zero; or the failing address. -/
def State.denseRow (s : State) (die : Nat) (x : Copy) (f : Nat) (p : RowSpan) (ds ms : List Piece) : Except Nat (List Byte × List Byte) :=
  match s.engineBytes die (p.vas x).1 ds, s.engineBytes die (p.vas x).2 ms with
  | .error a, _ => .error a
  | .ok _, .error a => .error a
  | .ok data, .ok md =>
    let t := x.tensor.fmt
    let data := padded (elemBytes t p.first) (rowBytes x.tensor t) data
    let md := padded (metaBytes t * (p.first / 64)) (rowMeta x.tensor t) md
    .ok (convertRow t f (x.tensor.box.headD 1) data md)

/-- Which elements of `w` bytes a piece of a sparse page stores (R292). -/
def State.storedElems (s : State) (w : Nat) (p : Piece) : List Bool :=
  match p.spot, p.sparse with
  | .pa a, some (v, l) =>
    let bits := sparseBits s.readPa a
    (List.range (p.len / w)).map fun i => bits.getD (l / v + i) false
  | _, _ => List.replicate (p.len / w) false

/-- A run of a row in sparse form (R361): its bitmap, its stored elements packed in the slot's format, and its block's metadata
there. -/
structure SparseRun where
  bits : Nat
  data : List Byte
  md : List Byte
  deriving DecidableEq, Repr

/-- A TCOPY's row in sparse form (R361), by runs of 64 elements; or the failing address. A run converts as the block of its
expanded elements (R52, R360). -/
def State.sparseRow (s : State) (die : Nat) (x : Copy) (f : Nat) (p : RowSpan) (ds : List Piece) : Except Nat (List SparseRun) :=
  match s.engineBytes die (p.vas x).1 ds with
  | .error a => .error a
  | .ok bs =>
    let t := x.tensor.fmt
    let w := fmtHalves t / 2
    let data := padded (p.first * w) (rowBytes x.tensor t) bs
    let stored := List.replicate p.first false ++ ds.flatMap (s.storedElems w)
    .ok ((List.range (x.tensor.box.headD 1 / 64)).map fun j =>
      let r := convertRow t f 64 ((data.drop (64 * w * j)).take (64 * w)) []
      let kept := (List.range 64).filter fun i => stored.getD (64 * j + i) false
      ⟨(kept.map fun i => 2 ^ i).sum, packCodes f (kept.map (codeAt f r.1)), r.2⟩)

/-- A sparse-form row written into a slot: bitmaps, packed elements, metadata. -/
def State.writeSparse (s : State) (c : CoreId) (hdr body stride md : Nat) : List SparseRun → State
  | [] => s
  | r :: rest =>
    let t := ((s.shWrite c hdr (natToBytes 8 r.bits)).shWrite c body r.data).shWrite c md r.md
    t.writeSparse c (hdr + 8) (body + stride) stride (md + r.md.length) rest

/-- A row moved: the copy goes on, or its last byte has landed. -/
def State.rowMoved (s : State) (c : CoreId) (x : Copy) (f : Nat) : State :=
  s.putCopy c { x with
    row := x.row + 1
    moved := decide (x.row + 1 = x.rows)
    left := x.left + imageBytes x.tensor f 1 }

/-- The end of a copy whose arrivals are all posted: the slot changes state (R280, R357, R380). -/
def State.finishCopy (s : State) (c : CoreId) (x : Copy) : State :=
  (s.setSlot x.task x.lin x.buf x.slot (!x.store) (if x.store then none else some x.tensor.sparse)).endCopy c x

/-- A row of a TCOPY. -/
def State.loadRow (s : State) (c : CoreId) (x : Copy) (u : Team) (b : SlotBuf) : State :=
  let f := b.format x.tensor
  let p := rowSpan x.tensor x.org x.row
  match s.spanAccess c (ctxOf x.task) x.seg x.tensor x.org p .load with
  | (.error e, s) => s.copyFails c x e
  | (.ok (ds, ms), s) =>
    let base := slotBase u b x.slot
    let rb := rowBytes x.tensor f
    let head := x.rows * rowHeader x.tensor
    if x.tensor.sparse then
      let bad := ds.findIdx? fun q => decide ((q.sparse.map (·.1)) ≠ some (fmtHalves x.tensor.fmt / 2))
      if let some i := bad then s.faultCopy c x cTensor ((p.vas x).1 + ((ds.take i).map (·.len)).sum)
      else match s.sparseRow c.die x f p ds with
        | .error a => s.faultCopy c x cPoison a
        | .ok rs =>
          (s.writeSparse c (base + x.row * rowHeader x.tensor) (base + head + x.row * rb) (elemBytes f 64)
            (base + head + x.rows * rb + x.row * rowMeta x.tensor f) rs).rowMoved c x f
    else match s.denseRow c.die x f p ds ms with
      | .error a => s.faultCopy c x cPoison a
      | .ok (data, md) =>
        ((s.shWrite c (base + x.row * rb) data).shWrite c (base + x.rows * rb + x.row * rowMeta x.tensor f) md).rowMoved c x f

/-- Bytes of a chain's element (R370, R442). -/
def Chain.elem (h : Chain) : Nat :=
  match field h.ctl.toNat 7 8 with
  | 0 => 4
  | 3 => 4
  | _ => 8

/-- The chain slot in whose aperture `n` bytes at a gl offset of a context lie on a die, running or stopped (R370, R371). -/
def State.aperture (s : State) (die ctx off n : Nat) : Option (Fin 16) :=
  (List.finRange 16).find? fun i =>
    let h := s.chains[i]
    h.en && (h.state = .running || h.state = .stopped) && decide (field h.ctl.toNat 3 16 = die) && decide (h.ctx.toNat % 256 = ctx) &&
      decide (h.apbase.toNat ≤ off) && decide (off + n ≤ h.apbase.toNat + h.len.toNat)

/-- The elements of bytes at a stream offset. -/
def chainElems (e o : Nat) (bs : List Byte) : List (Nat × DWord) :=
  (List.range ((bs.length + e - 1) / e)).map fun i => (o + e * i, BitVec.ofNat 64 (bytesToNat ((bs.drop (e * i)).take e)))

/-- The UALink port through which a stage sends, `none` for a stage that sends on this device. -/
def State.egress (s : State) (h : Chain) : Option Nat :=
  let dev := field h.nextDev.toNat 8 256
  if field h.ctl.toNat 15 32 = field h.ctl.toNat 10 32 ∨ dev = s.devidx then none else s.uaPortOf (2 ^ 48 + dev * 2 ^ 40)

/-- The bytes that the adder of a slot's egress port holds: the elements of every chain that sends through the port (R370). Only a local
contribution is held back by them: an incoming element is always taken, so that a round whose stages contribute in different orders
completes (log entry 46). -/
def State.adderLoad (s : State) (i : Fin 16) : Nat :=
  let same := fun (j : Fin 16) => i = j ∨ (s.egress s.chains[i] ≠ none ∧ s.egress s.chains[i] = s.egress s.chains[j])
  ((List.finRange 16).map fun j =>
    if same j then (s.chains[j].localElems.length + s.chains[j].incoming.length) * s.chains[j].elem + s.chains[j].part.length else 0).sum

/-- The oldest byte of an offset out of a list of bytes. -/
def takePart (l : List (Nat × Byte)) (o : Nat) : Option (Byte × List (Nat × Byte)) :=
  (l.findIdx? fun x => x.1 = o).bind fun i => l[i]?.map fun x => (x.2, l.eraseIdx i)

/-- The bytes of an element out of a list of bytes, once all are there. -/
def takeParts (l : List (Nat × Byte)) (o : Nat) : Nat → Option (List Byte × List (Nat × Byte))
  | 0 => some ([], l)
  | n + 1 => (takePart l o).bind fun x => (takeParts x.2 (o + 1) n).map fun y => (x.1 :: y.1, y.2)

/-- The elements that a row's bytes complete at a stream offset, and the bytes that wait for the rest of theirs: byte offset o in the
aperture is stream offset o, wherever a row starts or ends (R370). -/
def Chain.assemble (h : Chain) (o : Nat) (bs : List Byte) : List (Nat × DWord) × List (Nat × Byte) :=
  if h.part.isEmpty && o % h.elem == 0 && bs.length % h.elem == 0 then (chainElems h.elem o bs, [])
  else
    let part := h.part ++ bs.zipIdx.map fun x => (o + x.2, x.1)
    ((List.range bs.length).map fun i => (o + i) / h.elem * h.elem).dedup.foldl (fun r e =>
      match takeParts r.2 e h.elem with
      | some x => (r.1 ++ [(e, BitVec.ofNat 64 (bytesToNat x.1))], x.2)
      | none => r) ([], part)

/-- Whether every element of a row meets an incoming element that waits for it: the adder sends their sums on, and holds no more
for the row. -/
def Chain.meets (h : Chain) (o n : Nat) : Bool :=
  decide (0 < h.incoming.length) && (List.range n).all fun i =>
    let e := (o + i) / h.elem * h.elem
    decide ((h.localElems.countP fun x => x.1 = e) < h.incoming.countP fun x => x.1 = e)

/-- A row of a TSTORE in a chain's aperture (R370, R371): its elements wait for the adder, which holds 256 KiB; an empty one
takes a row of any length, and a full one a row whose incoming elements wait. -/
def State.contribute (s : State) (c : CoreId) (x : Copy) (f off : Nat) (i : Fin 16) (bs : List Byte) : State :=
  let h := s.chains[i]
  let o := off - h.apbase.toNat
  if h.state ≠ .running then s.faultCopy c x cLinkLost (x.seg.base.toNat + off)
  else if s.adderLoad i ≠ 0 ∧ 262144 < s.adderLoad i + bs.length ∧ h.meets o bs.length = false then s
  else
    let r := h.assemble o bs
    State.rowMoved { s with chains := s.chains.set i { h with localElems := h.localElems ++ r.1, part := r.2 } } c x f

/-- The first poisoned byte of some runs of a core's shared store (R455). -/
def State.shPoison (s : State) (c : CoreId) (rs : List (Nat × Nat)) : Option Nat :=
  if s.poison.isEmpty then none
  else (rs.flatMap fun r => (List.range r.2).map (r.1 + ·)).find? fun i => s.poisoned (.sh c.die c.core i) 1

/-- A row of a TSTORE: its in-bounds elements and their metadata. Where it reads poison of the shared store the copy fault records
the shared-store offset (R359 names no address there): DESIGN CHOICE, log entry 45. -/
def State.storeRow (s : State) (c : CoreId) (x : Copy) (u : Team) (b : SlotBuf) : State :=
  let f := b.format x.tensor
  let t := x.tensor.fmt
  let p := rowSpan x.tensor x.org x.row
  let base := slotBase u b x.slot
  let rb := rowBytes x.tensor f
  let data := s.shBytes c (base + x.row * rb) rb
  let md := s.shBytes c (base + x.rows * rb + x.row * rowMeta x.tensor f) (rowMeta x.tensor f)
  let r := convertRow f t (x.tensor.box.headD 1) data md
  let out := (r.1.drop (elemBytes t p.first)).take (elemBytes t p.count)
  if let some i := s.shPoison c [(base + x.row * rb, rb), (base + x.rows * rb + x.row * rowMeta x.tensor f, rowMeta x.tensor f)] then
    s.faultCopy c x cPoison i
  else if p.count = 0 then s.rowMoved c x f
  else match s.aperture c.die (ctxOf x.task) p.off out.length with
    | some i => s.contribute c x f p.off i out
    | none =>
      match s.spanAccess c (ctxOf x.task) x.seg x.tensor x.org p .store with
      | (.error e, s) => s.copyFails c x e
      | (.ok (ds, ms), s) =>
        if (ds ++ ms).any Piece.atPeer && !s.args.ok then
          (s.flog x.task cPoison (BitVec.ofNat 64 (p.vas x).1) (locWord c) (s.depth c)).rowMoved c x f
        else if !s.piecesOwnable c.die (ds ++ ms) then s.claimPieces c.die (ds ++ ms)
        else
          let s := (s.engineWrite ds out).engineWrite ms (r.2.drop (metaBytes t * (p.first / 64)))
          (s.dirtyPieces c.die (ds ++ ms)).rowMoved c x f

/-- Whether an earlier copy of the same direction still has the slot before it. -/
def Core.slotTaken (k : Core) (x : Copy) : Bool :=
  (k.copies.takeWhile fun y => y.id ≠ x.id).any fun y =>
    y.task == x.task && y.lin == x.lin && y.buf == x.buf && y.slot == x.slot && y.store == x.store

/-- Whether the issuing group's writes before an engine instruction, its atomics and PUBLISHes among them, are performed (R312,
R346). -/
def State.storesBefore (s : State) (g : GroupId) (seq : Nat) : Bool :=
  ((s.group? g).map fun g => !g.publishing seq && g.stores.all (fun st => decide (seq ≤ st.seq)) &&
    g.out.all fun o => decide (seq ≤ o.seq) || !o.kind.writes || (o.todo.isEmpty && o.held.isEmpty)).getD true

/-- Whether a copy may start: its slot has the state that it waits for, and the group's earlier writes are performed. -/
def State.mayCopy (s : State) (c : CoreId) (x : Copy) : Bool :=
  let b := (s.team? x.task x.lin).bind fun u => u.buf? x.buf
  (b.map fun b => b.isFull x.slot == x.store).getD false && !(s.coreD c).slotTaken x && s.storesBefore x.group x.seq

/-- Whether a copy starts now: copies that may start do so in issue order (R357). -/
def State.copyTurn (s : State) (c : CoreId) (x : Copy) : Bool :=
  s.mayCopy c x && ((s.coreD c).copies.takeWhile fun y => y.id ≠ x.id).all fun y => y.started || !s.mayCopy c y

/-- A copy on its way: it starts with the release of R312, when its turn has come, and then moves its next row. A TSTORE from a
sparse-form slot fails with no access: its copy fault records sg0.BASE plus the tensor's BASE (R359 names no address there), DESIGN
CHOICE, log entry 45. -/
def State.moveRow (s : State) (c : CoreId) (x : Copy) : State :=
  match s.team? x.task x.lin with
  | none => s
  | some u =>
    match u.buf? x.buf with
    | none => s
    | some b =>
      if x.moved then s
      else if !x.started then
        if s.copyTurn c x then s.releasing c .core fun s => s.putCopy c { x with started := true } else s
      else if x.store && b.isSparse x.slot then s.faultCopy c x cTensor (x.seg.base.toNat + x.tensor.base.toNat)
      else if x.store then s.storeRow c x u b
      else s.loadRow c x u b

/-- COPY_START (R357): the copy of identifier k on the core starts, or moves its next row. -/
def execCopyStart (s : State) : Out :=
  match (s.coreD s.args.core).copies.find? fun x => x.id = s.args.k with
  | some x => .next (s.moveRow s.args.core x)
  | none => .next s

/-- The pages of 64 KiB in which a row of a copy lies. -/
def Copy.rowPages (x : Copy) (r : Nat) : List Nat :=
  let p := rowSpan x.tensor x.org r
  if p.count = 0 then []
  else (engineCuts (p.vas x).1 (elemBytes x.tensor.fmt p.count) ++ engineCuts (p.vas x).2 (p.md x.tensor x.org).2).map fun y =>
    y.1 / 65536

/-- The pages of 64 KiB that a copy reaches from its current row on, in its order: the current one and up to 16 ahead (R358). -/
def Copy.pagesAhead (x : Copy) : List Nat :=
  (((List.range (x.rows - x.row)).flatMap fun i => x.rowPages (x.row + i)).eraseDups).take 17

/-- WALK_AHEAD (R358, R400): a translation of address x, in a page that the copy reaches before long, enters the walk-ahead TLB;
it is no demand, and it stops at an unmapped page before that. -/
def execWalkAhead (s : State) : Out :=
  let c := s.args.core
  match (s.coreD c).copies.find? fun x => x.id = s.args.k with
  | none => .next s
  | some x =>
    let ctx := ctxOf x.task
    let page := s.args.x.toNat / 65536
    let before := x.pagesAhead.takeWhile fun p => p ≠ page
    let mapped := fun (p : Nat) => match s.walk ctx (p * 65536) with
      | .page _ => true
      | _ => false
    if x.pagesAhead.contains page && before.all mapped then
      match s.walk ctx s.args.x.toNat with
      | .page p => .next (s.walkFill c ctx p)
      | _ => .next s
    else .next s

/-- ARRIVAL_POST (R363): up to n performed bytes, in granules of 16, of the copy of identifier k, or without `ok` of the
core's k-th drain. -/
def execArrivalPost (s : State) : Out :=
  let c := s.args.core
  let n := fun (left : Nat) => min left s.args.n / 16 * 16
  if s.args.ok then
    match (s.coreD c).copies.find? fun x => x.id = s.args.k with
    | none => .next s
    | some x =>
      if n x.left = 0 then .next s
      else
        let s := s.modXb x.task x.lin x.xb fun b => b.arrive (n x.left) x.phase
        let y : Copy := { x with left := x.left - n x.left }
        .next (if y.moved ∧ y.left = 0 then s.finishCopy c y else s.putCopy c y)
  else
    match (s.coreD c).arrivals[s.args.k]? with
    | none => .next s
    | some a =>
      if n a.left = 0 then .next s
      else
        let s := s.modXb a.task a.lin a.xb fun b => b.arrive (n a.left) a.phase
        let left := a.left - n a.left
        let set := fun (l : List Arrival) => if left = 0 then l.eraseIdx s.args.k else l.set s.args.k { a with left := left }
        .next (s.modCore c fun k => { k with arrivals := set k.arrivals })

/-! ### A stop of a rig (R205, R405) -/

/-- The words of FABREC (R405). -/
def fabWords (hdr : DWord) (kind qc arc lane word : Nat) (tag : Word) : List Word :=
  [loWord hdr, hiWord hdr, BitVec.ofNat 32 (kind * 2 ^ 24 + qc * 2 ^ 20 + arc * 2 ^ 16 + lane * 2 ^ 9 + word), tag]

/-- A rig given up, with its record delivered to its group (R205, R405). -/
def State.failRig (s : State) (r : Rig) (code : Nat) (hdr : DWord) (ws : List Word) : State :=
  let s := s.dropRig r.group
  match s.group? r.group with
  | some g =>
    s.raise g { code := code, mask := g.mask, addr := hdr, widx := r.widx, retpc := r.retpc, retw := r.widx, rp := false,
                fabrec := some ws }
  | none => s

/-! ### Matrix tokens (R63 to R66, R364 to R367) -/

/-- An operand as a token reads it from its slot: its elements' bytes, its metadata, its bitmaps where it is in sparse form. -/
structure Operand where
  fmt : Nat
  data : List Byte
  md : List Byte
  bits : Option (List Byte)
  deriving DecidableEq, Repr

/-- The operand in a slot (R361, R365, R367). R455 names loads, copies and ports as what takes poison: a token and a drain read
the plain bytes of a poisoned word, DESIGN CHOICE, log entry 45. -/
def State.operand (s : State) (c : CoreId) (u : Team) (f : Nat) (at_ : Nat × Nat) : Operand :=
  match u.buf? at_.1 with
  | none => ⟨f, [], [], none⟩
  | some b =>
    let base := slotBase u b at_.2
    let n := operandBytes f
    if b.isSparse at_.2 then
      let h := 8 * matK f
      ⟨f, s.shBytes c (base + h) n, [], some (s.shBytes c base h)⟩
    else ⟨f, s.shBytes c base n, s.shBytes c (base + n) (operandMeta f), none⟩

/-- The exact value of a code of a matrix format: integers for i8 and n8. -/
def matValue (f code md : Nat) : XReal :=
  if f = 7 then xint (sx code 8) else if f = 8 then xint (code % 256 : Nat) else fmtValue f code md

/-- Element (r, k) of an operand: `tr` for a layout (k, r). -/
def Operand.get (x : Operand) (tr : Bool) (r k : Nat) : XReal :=
  let kk := matK x.fmt
  let m := metaBytes x.fmt
  let md := bytesToNat ((x.md.drop (m * (r * (kk / 64) + k / 64))).take m)
  match x.bits with
  | some bm =>
    let run := r * (kk / 64) + k / 64
    let bit := fun i => bitOf (bm.getD (8 * run + i / 8) 0).toNat (i % 8)
    if bit (k % 64) then matValue x.fmt (codeAt x.fmt x.data (64 * run + (List.range (k % 64)).countP bit)) md else .zero false
  | none => matValue x.fmt (codeAt x.fmt x.data (if tr then k * 64 + r else r * kk + k)) md

/-- The length of a run of R63. -/
def runLen (f : Nat) : Nat := if f = 1 then 1 else if f = 2 then 4 else 16

/-- The exact sum of products, NaN where R64 says so. -/
def exactSum : List XReal → XReal
  | [] => .zero false
  | x :: xs => xs.foldl (fun a y => (xadd .rne a y).1) x

/-- The addends of element (i, j) of a token (R63, R367). -/
def tokenAddends (f : Nat) (a b : Operand) (ta tb : Bool) (i j : Nat) : List XReal :=
  (List.range (matK f / runLen f)).map fun r =>
    exactSum ((List.range (runLen f)).map fun k => (xmul (a.get ta i (r * runLen f + k)) (b.get (!tb) j (r * runLen f + k))).1)

/-- The add kind of an accumulator: 0 FP32, 1 FP64, 2 INT32. -/
def accKind (f : Nat) : Nat := if f = 1 then 1 else if f = 7 ∨ f = 8 then 2 else 0

/-- The chained updates of a token, one for each bank word of its accumulator (R276, R367). -/
def tokenUpdates (id : Nat) (k : TaskKey) (u : Team) (w : Nat) (a b : Operand) : List ChainUpd :=
  let f := wordFmt w
  let per := 8 / accBytes f
  (List.range (4096 / per)).map fun n =>
    ⟨id, k, u.lin, [(wordA w).1, (wordB w).1], u.shBase + wordAcc w + 8 * n, accKind f, !bitOf w 26,
      (List.range per).map fun i =>
        tokenAddends f a b (bitOf w 9) (bitOf w 8) ((per * n + i) / 64) ((per * n + i) % 64)⟩

/-- Slots that a token names with RA or RB set EMPTY (R367). -/
def State.releaseSlots (s : State) (k : TaskKey) (lin w : Nat) : State :=
  let s := if bitOf w 25 then s.setSlot k lin (wordA w).1 (wordA w).2 false none else s
  if bitOf w 24 then s.setSlot k lin (wordB w).1 (wordB w).2 false none else s

/-- A token refused as it fires (R366, R381): a delayed fault for MMA, a rig stop for MTOK, whichever load of its graph runs by then. -/
def State.refuseToken (s : State) (c : CoreId) (id : Nat) (g : GroupId) (lane : Option (Nat × Word)) (hdr : DWord) (widx : Nat) :
    State :=
  match lane with
  | none =>
    let s := s.engineDone c (.token id)
    (match s.group? g with
    | some h => s.put (h.delay cTensor hdr widx)
    | none => s)
  | some (n, tag) =>
    match (s.coreD c).rigs.find? fun r => decide (r.group = g) && ((r.block.map (·.addr)) == some hdr || r.past.contains hdr) with
    | some r => s.failRig r cTensor hdr (fabWords hdr 4 15 0 n (n + 1) tag)
    | none => s

/-- MATRIX_TOKEN_FIRE (R367): the first entry of the core's node fires once both its slots are FULL; the updates of at
most one earlier token may still be under way. -/
def execMatrixTokenFire (s : State) : Out :=
  let c := s.args.core
  match (s.coreD c).node with
  | .token id g k lin word lane hdr widx :: rest =>
    let w := word.toNat
    (match s.team? k lin with
    | none => .next s
    | some u =>
      let full := fun (x : Nat × Nat) => ((u.buf? x.1).map fun b => b.isFull x.2).getD false
      let busy := ((s.coreD c).updates.map (·.token)).dedup.length
      if !(full (wordA w) && full (wordB w)) || decide (2 ≤ busy) then .next s
      else
        let s := s.modCore c fun z => { z with node := rest }
        if sparseBad u w then .next (s.refuseToken c id g lane hdr widx)
        else
          let us := tokenUpdates id k u w (s.operand c u (wordFmt w) (wordA w)) (s.operand c u (wordFmt w) (wordB w))
          .next ((s.modCore c fun z => { z with updates := z.updates ++ us }).releaseSlots k lin w))
  | _ => .next s

/-- An element after the addends of a chained add-on-store, from `old` or from zero, each added with one rounding (R66,
R276). -/
def chainElem (kind : Nat) (fresh : Bool) (old : Nat) (addends : List XReal) : Nat :=
  let old := if fresh then 0 else old
  match kind with
  | 0 => addends.foldl (fun c a => (roundF (xadd .rne (decodeF .f32 c) a).1 .f32 .rne).1) old
  | 1 => addends.foldl (fun c a => (roundF (xadd .rne (decodeF .f64 c) a).1 .f64 .rne).1) old
  | _ => addends.foldl (fun (c : Nat) a =>
      match a with
      | .fin m e => ((c : Int) + m * 2 ^ e.toNat).emod 4294967296 |>.toNat
      | _ => c) old

/-- Bytes of an element of an update. -/
def ChainUpd.width (x : ChainUpd) : Nat := if x.kind = 1 then 8 else 4

/-- A bank word's bytes after a chained add-on-store. -/
def ChainUpd.apply (x : ChainUpd) (old : List Byte) : List Byte :=
  x.parts.zipIdx.flatMap fun y =>
    natToBytes x.width (chainElem x.kind x.fresh (bytesToNat ((old.drop (x.width * y.2)).take x.width)) y.1)

/-- CHAINED_ADD_ON_STORE (R277): the k-th update of the core is applied, after every earlier one to its bank word. -/
def execChainedAddOnStore (s : State) : Out :=
  let c := s.args.core
  let l := (s.coreD c).updates
  match l[s.args.k]? with
  | none => .next s
  | some x =>
    if (l.take s.args.k).any fun y => y.off = x.off then .next s
    else
      let s := s.modCore c fun z => { z with updates := z.updates.eraseIdx s.args.k }
      .next ((s.shWrite c x.off (x.apply (s.shBytes c x.off (x.width * x.parts.length)))).tokensDone c)

/-! ### Drains (R369, R383) -/

/-- MDRAIN_READ (R369, R383): the drain at the front of the node's queue reads its tile once every earlier token's updates are
applied and the group's earlier writes are released at .core. -/
def execMdrainRead (s : State) : Out :=
  let c := s.args.core
  match (s.coreD c).node with
  | .drain id g k lin x org af xb phase cbase seq sg :: rest =>
    (match s.team? k lin with
    | none => .next s
    | some u =>
      if !(s.coreD c).updates.isEmpty || !s.storesBefore g seq then .next s
      else if !s.releasable c .core then .next (s.claimBack c fun _ => true)
      else
        let s := s.releaseL1 c .core
        let n := afBytes af
        let raw := fun i => bytesToNat (s.shBytes c (u.shBase + cbase + i * n) n)
        let val := fun i => if x.fmt = 4 then (fpCvt .f32 .bf16 .rne (raw i)).1 else raw i
        let d : Drain := { id := id, group := g, task := k, lin := lin, tensor := x, org := org, xb := xb, phase := phase, seg := sg,
                           elems := (List.range 4096).map fun i => BitVec.ofNat 64 (val i) }
        .next ((s.modCore c fun z => { z with node := rest, drains := z.drains ++ [d] }).engineDone c (.token id)))
  | _ => .next s

/-- One element's add-on-store by a drain (R66, R369). -/
def drainAdd (f old new : Nat) : Nat :=
  match f with
  | 1 => addOn .f64 old new
  | 2 => addOn .f32 old new
  | 4 => (fpAdd .bf16 .rne old new).1
  | _ => addOn .i32 old new

/-- The pieces of every row of a drain (R369): host memory is REMOTE_ATOMIC, as is a peer's refusal (R436), and a sparse page
PAGE_PROTECTION. -/
def State.drainPieces (s : State) (c : CoreId) (d : Drain) : List Nat → Except TFail (List (RowSpan × List Piece)) × State
  | [] => (.ok [], s)
  | r :: rs =>
    let p := rowSpan d.tensor d.org r
    match s.engineAccess c (ctxOf d.task) d.seg p.off (elemBytes d.tensor.fmt p.count) .both with
    | (.error e, s) => (.error e, s)
    | (.ok ps, s) =>
      let va := d.seg.base.toNat + p.off
      if ps.any fun q => (match q.spot with
          | .pa a => isHost a
          | _ => false) || (q.atPeer && !s.args.ok) then (.error (.fault cRemoteAtomic va), s)
      else match s.engineBytes c.die va ps with
      | .error a => (.error (.fault cPoison a), s)
      | .ok _ => match s.drainPieces c d rs with
        | (.ok l, s) => (.ok ((p, ps) :: l), s)
        | (.error e, s) => (.error e, s)

/-- One row of a drain added to its tensor. -/
def State.drainRow (s : State) (d : Drain) (r : Nat) (p : RowSpan) (ps : List Piece) : State :=
  let f := d.tensor.fmt
  let e := fmtHalves f / 2
  let old := ps.flatMap s.placeBytes
  let new := (List.range p.count).flatMap fun i =>
    natToBytes e (drainAdd f (bytesToNat ((old.drop (e * i)).take e)) ((d.elems.getD (64 * r + p.first + i) 0).toNat))
  s.engineWrite ps new

/-- TILE_DRAIN_UPDATE (R369): the core's k-th drained tile is added to its tensor as one unit, once the homes of its lines hold
them alone (R283, R447). -/
def execTileDrainUpdate (s : State) : Out :=
  let c := s.args.core
  match (s.coreD c).drains[s.args.k]? with
  | none => .next s
  | some d =>
    let gone := fun (s : State) => s.modCore c fun z => { z with drains := z.drains.filter fun y => y.id ≠ d.id }
    match s.drainPieces c d (List.range 64) with
    | (.error (.absent p a), s) =>
      (match s.startMigration (ctxOf d.task) p true (Migration.addCopy (d.group, d.id)) with
      | some s => .next s
      | none => .next ((gone s).modXb d.task d.lin d.xb fun b => b.copyFault cNonresident (BitVec.ofNat 64 a) true))
    | (.error (.fault code a), s) => .next ((gone s).modXb d.task d.lin d.xb fun b => b.copyFault code (BitVec.ofNat 64 a) true)
    | (.ok rows, s) =>
      let rs := rows.flatMap fun r => r.2.flatMap Piece.runs
      if !s.ownableAll none rs then .next (s.claimAll none rs)
      else
        let s := rows.zipIdx.foldl (fun s r => s.drainRow d r.2 r.1.1 r.1.2) s
        let a : Arrival := { task := d.task, lin := d.lin, xb := d.xb, phase := d.phase, left := 4096 * fmtHalves d.tensor.fmt / 2 }
        .next ((gone s).modCore c fun z => { z with arrivals := z.arrivals ++ [a] })

end Sys2Proof.Machine
end

