-- ==== Sys2Proof/Machine/RigCheck.lean ====
section
/-! DEFINITION. A spatial block: its items and every rule that rejects it (R85 to R88, R177, R180, R185, R186, R193 to
R199, R222 to R235, R472). -/

namespace Sys2Proof.Machine

/-! ### Operators and items -/

/-- The opcode of an operator word (R87). -/
def opOf (w : Word) : Nat := field w.toNat 24 256

/-- The fields of an operator word (R87). -/
def opFields (w : Word) : SFields := sFieldsAt w.toNat

def oSrc : Nat := 0xF0
def oSnk : Nat := 0xF1
def oCtr : Nat := 0xF2
def oSteer : Nat := 0xF3
def oMerge : Nat := 0xF4
def oAcc : Nat := 0xF5
def oOrd : Nat := 0xF6
def oConv : Nat := 0xF7
def oRdreg : Nat := 0xF8
def oWrreg : Nat := 0xF9
def oMtok : Nat := 0xFA
def oDup : Nat := 0xFB

/-- Whether an opcode is one that a block accepts (R88). -/
def opAccepted (op : Nat) : Bool := aluOperatorOp op || (decide (0xF0 ≤ op) && decide (op ≤ 0xFB))

/-- A configuration item: the index of its word in the block, and its fields (R196). -/
structure Item where
  idx : Nat
  lane : Nat
  kind : Nat
  val : Nat
  pay : List Word
  deriving DecidableEq, Repr

/-- A failing word with the lane that it configures, 0x7F where none applies (R405). -/
abbrev Reject := Nat × Nat

/-- Payload words of an item kind (R197). -/
def payload (kind : Nat) (wide : Bool) : Nat :=
  match kind with
  | 1 => if wide then 2 else 1
  | 3 => 3
  | 4 => 3
  | 8 => 1
  | _ => 0

/-- The items in the configuration words of a block, the first with index `i`; they must fill the words exactly (R196).
DESIGN CHOICE (log entry 44): after an item of KIND 9 to 15, or one whose payload runs past CFGN, no later word is read as an
item. -/
def frameItems (ops : List Word) : Nat → Nat → List Word → List Item × List Reject
  | 0, _, _ => ([], [])
  | _, _, [] => ([], [])
  | fuel + 1, i, w :: ws =>
    let lane := field w.toNat 25 128
    let kind := field w.toNat 21 16
    let n := payload kind ((ops[lane]?.map fun o => (opFields o).w).getD false)
    if 9 ≤ kind ∨ ws.length < n then ([], [(i, lane)])
    else
      let r := frameItems ops fuel (i + 1 + n) (ws.drop n)
      (⟨i, lane, kind, field w.toNat 0 2097152, ws.take n⟩ :: r.1, r.2)

/-- What must not be given twice on a lane (R197): a kind, a queue's QDEPTH, an ARC's lane. -/
def Item.key (x : Item) : Nat × Nat × Nat :=
  (x.lane, x.kind, if x.kind = 0 then field x.val 17 16 else if x.kind = 7 then x.val else 0)

/-- A payload word of an item. -/
def Item.word (x : Item) (k : Nat) : Word := x.pay.getD k 0

/-- The pairs of formats that a converter node converts (R232). -/
def convOk (f g : Nat) : Bool :=
  (f == 2 && [3, 4, 5, 6, 9, 10, 11].contains g) || (g == 2 && [3, 4, 5, 6, 9, 10, 11].contains f)

/-- The rejections of an item by its own fields (R196, R197). -/
def Item.bad (x : Item) : List Reject :=
  let v := x.val
  let at_ := [(x.idx, x.lane)]
  let range : Bool :=
    match x.kind with
    | 0 => decide (field v 17 16 < 12) && decide (1 ≤ field v 0 128) && decide (field v 0 128 ≤ 64) && decide (field v 7 1024 = 0)
    | 1 => v == 0
    | 2 => decide (v < 512)
    | 3 => decide (v < 4)
    | 4 => decide (field v 0 8 ≤ 3) && decide (field v 3 4 ≤ 1) && decide (field v 5 8 ≤ 4) && decide (field v 8 8 ≤ 4) &&
        decide (field v 11 16 ≤ 8) && decide (v < 32768)
    | 5 => decide (v < 1024) && convOk (field v 0 32) (field v 5 32)
    | 6 => decide (v < 16384) && decide (field v 7 128 ≤ 95) && (!bitOf v 6 || decide (field v 7 128 = 0))
    | 7 => decide (v < 128)
    | _ => v == 0
  let count := (x.word 2).toNat
  (if range then [] else at_) ++
    (if x.kind = 3 ∧ ¬ (1 ≤ count ∧ count ≤ 16777216) then [(x.idx + 3, 0x7F)] else [])

/-- The items of a lane as its configuration (R197). -/
def laneCfg (wide : Bool) (l : List Item) : LaneCfg :=
  l.foldl (fun (c : LaneCfg) x =>
    match x.kind with
    | 0 => { c with depth := c.depth ++ [(field x.val 17 16, field x.val 0 128)] }
    | 1 => { c with const := some (pairOf (x.word 0) (if wide then x.word 1 else 0)) }
    | 2 => { c with mode := some (BitVec.ofNat 32 x.val) }
    | 3 => { c with ctr := some (x.val % 4, x.word 0, x.word 1, (x.word 2).toNat) }
    | 4 => { c with port := some ⟨BitVec.ofNat 32 x.val, pairOf (x.word 0) (x.word 1), x.word 2⟩ }
    | 5 => { c with conv := some (field x.val 0 32, field x.val 5 32) }
    | 6 => { c with reg := some (bitOf x.val 6, field x.val 0 64, field x.val 7 128) }
    | 7 => { c with arcs := c.arcs ++ [field x.val 0 128] }
    | _ => { c with mtok := some (x.word 0) }) {}

/-! ### Fields of a lane's configuration (R197) -/

/-- MODE of a lane; absent means zero. -/
def LaneCfg.modeNat (c : LaneCfg) : Nat := (c.mode.map BitVec.toNat).getD 0
/-- MODE.f. -/
def LaneCfg.f (c : LaneCfg) : Bool := bitOf c.modeNat 0
/-- MODE.cond. -/
def LaneCfg.cond (c : LaneCfg) : Nat := field c.modeNat 1 8
/-- MODE.LVL. -/
def LaneCfg.lvl (c : LaneCfg) : Nat := field c.modeNat 7 4
/-- The depth of a queue; 0 for one that does not exist. -/
def LaneCfg.depthOf (c : LaneCfg) (q : Nat) : Nat := ((c.depth.find? fun x => x.1 = q).map (·.2)).getD 0
/-- The lane constant. -/
def LaneCfg.constant (c : LaneCfg) : DWord := c.const.getD 0
/-- The second destination of STEER and DUP (R225): lane and code. -/
def LaneCfg.other (c : LaneCfg) : Nat × Nat := (field c.constant.toNat 0 128, field c.constant.toNat 7 16)
/-- Bytes of a PORT access. -/
def PortCfg.size (p : PortCfg) : Nat := 2 ^ field p.value.toNat 0 8
/-- Whether a PORT names the shared store. -/
def PortCfg.sh (p : PortCfg) : Bool := field p.value.toNat 3 4 == 1
/-- PORT's operation. -/
def PortCfg.op (p : PortCfg) : Nat := field p.value.toNat 11 16
/-- PORT's order. -/
def PortCfg.order (p : PortCfg) : Nat := field p.value.toNat 8 8
/-- PORT's scope (R78). -/
def PortCfg.scope (p : PortCfg) : Scope :=
  match field p.value.toNat 5 8 with
  | 0 => .grp
  | 1 => .core
  | 2 => .die
  | 3 => .dev
  | _ => .sys

/-! ### Operators (R88, R222 to R224, R472) -/

/-- ALU opcodes with an FP64 operand or result (R88). -/
def opF64 (op : Nat) : Bool := [0x31, 0x35, 0x39, 0x3D, 0x41, 0x45, 0x49, 0x54, 0x55, 0x5E, 0x5F].contains op

/-- ALU opcodes that leave operand a unused (R222). -/
def opNoA (op : Nat) : Bool :=
  [0x04, 0x11, 0x1C, 0x1D, 0x1E, 0x54, 0x55, 0x56, 0x58, 0x5A, 0x5B, 0x5C, 0x5D, 0x5E, 0x5F, 0x62, 0x63].contains op ||
    (decide (0x4C ≤ op) && decide (op ≤ 0x53))

/-- ALU opcodes with a third operand (R222). -/
def opThird (op : Nat) : Bool := [0x0C, 0x1B, 0x3C, 0x3D, 0x3E, 0x3F, 0x60, 0x61].contains op

/-- ALU opcodes whose instruction has a variant bit (R472). -/
def opHasF (op : Nat) : Bool :=
  [0x07, 0x08, 0x0B, 0x0F, 0x10, 0x11, 0x17, 0x18, 0x1A, 0x1F, 0x20, 0x56, 0x58, 0x5C, 0x5D, 0x5F, 0x60, 0x61, 0x62, 0x63].contains op ||
    (decide (0x3C ≤ op) && decide (op ≤ 0x4B))

/-- The highest MODE.cond that an ALU opcode takes (R80, R472). -/
def opCondMax (op : Nat) : Nat :=
  if op = 0x1F ∨ op = 0x20 then 5 else if 0x48 ≤ op ∧ op ≤ 0x4B then 7 else if op = 0x62 ∨ op = 0x63 then 1 else 0

/-- ALU opcodes that round (R126, R472). -/
def opRounds (op : Nat) : Bool :=
  (decide (0x30 ≤ op) && decide (op ≤ 0x3F)) || [0x54, 0x57, 0x59, 0x5A, 0x5B, 0x5C, 0x5D, 0x5F, 0x60, 0x61].contains op

/-- Whether an operator's result is wide (R185, R224, R235). -/
def outWide (op : Nat) (o : SFields) (c : LaneCfg) : Bool :=
  if [0x1F, 0x20, 0x48, 0x49, 0x4A, 0x4B, 0x54, 0x5F].contains op then false
  else if op = oDup ∧ c.f = true then !o.w
  else o.w

/-- The bits of MODE that an operator uses (R472). -/
def modeUsed (op : Nat) (o : SFields) (c : LaneCfg) : Nat :=
  let idx := o.qa.val == 13 || o.qb.val == 13
  let lvl := fun (b : Bool) => if b then 0x180 else 0
  if op < 0xF0 then
    (opHasF op).toNat + (if opCondMax op = 0 then 0 else if opCondMax op = 1 then 2 else 14) +
      (if opRounds op then 0x70 else 0) + lvl (idx || o.f)
  else if op = oSrc then
    (c.port.any fun p => p.op == 0 && decide (p.size < 4)).toNat + lvl (o.qa.val == 13 || o.f)
  else if op = oSnk then lvl idx
  else if op = oSteer ∨ op = oMerge then lvl o.f
  else if op = oAcc then
    14 + (if c.cond = 5 ∨ c.cond = 6 then 1 else 0) + (if c.cond = 1 ∨ c.cond = 2 then 0x70 else 0) +
      lvl (o.qa.val == 13 || o.f || o.l)
  else if op = oConv then 0x180
  else if op = oRdreg ∨ op = oMtok then lvl (o.qa.val == 13)
  else if op = oDup then 1 + (if c.f && !o.w then 2 else 0) + lvl (o.qa.val == 13)
  else 0

/-- The highest MODE.cond of an operator. -/
def condMax (op : Nat) : Nat := if op < 0xF0 then opCondMax op else if op = oAcc then 6 else if op = oDup then 1 else 7

/-- Operand codes of a queue, or of a queue or an index token. -/
def isQ (n : Nat) : Bool := decide (n < 12)
def isQI (n : Nat) : Bool := decide (n < 12) || n == 13

/-- Whether an ALU operator's operands and flags are in range (R88, R188, R222, R223). -/
def aluOk (op : Nat) (o : SFields) : Bool :=
  let a := o.qa.val
  let b := o.qb.val
  o.w == opF64 op && !o.l && (if opNoA op then a == 14 else a != 14) && b != 14 &&
    (!opThird op || (a != 12 && b != 12)) && (op != 0x21 || o.g) &&
    (!o.c || (isQ b && a != b && !opThird op && op != 0x21)) && (isQI a || isQI b)

/-- Whether a spatial-only operator's operands and flags are in the columns of R225. -/
def onlyOk (op : Nat) (o : SFields) (c : LaneCfg) : Bool :=
  let a := o.qa.val
  let b := o.qb.val
  let none14 := o.dq.val == 14 && o.dl.val == 0
  let flags := fun (g l f : Bool) => (g || !o.g) && (l || !o.l) && (f || !o.f) && !o.c
  if op = oSrc then
    isQI a && (if ((c.port.map PortCfg.op).getD 0) ≠ 0 then isQI b else b == 14) && flags true false true
  else if op = oSnk then isQI a && (isQI b || b == 14) && none14 && flags true false false
  else if op = oCtr then a == 14 && b == 14 && !o.w && flags false false false
  else if op = oSteer then isQ a && b == 12 && flags false false true
  else if op = oMerge then isQ a && isQ b && flags false false true
  else if op = oAcc then isQI a && b == 14 && o.w == (c.cond == 2) && flags true true true
  else if op = oOrd then a == 14 && b == 14 && !o.w && flags false false false
  else if op = oConv then isQ a && b == 14 && !o.w && flags false false false
  else if op = oRdreg then (a == 13 || a == 14) && b == 14 && flags false false false
  else if op = oWrreg then isQ a && b == 14 && none14 && flags false false false
  else if op = oMtok then isQI a && b == 14 && none14 && !o.w && flags true false false
  else isQI a && b == 12 && flags true false false

/-- The item kinds that an operator uses beside QDEPTH and MODE, and those of them that it needs (R197, R225). -/
def itemKinds (op : Nat) (o : SFields) : List Nat :=
  if op < 0xF0 then (if o.qa.val = 12 ∨ o.qb.val = 12 ∨ o.c = true ∨ opThird op = true then [1] else [])
  else if op = oSrc ∨ op = oSnk then [4]
  else if op = oCtr then [3]
  else if op = oSteer ∨ op = oAcc ∨ op = oDup then [1]
  else if op = oOrd then [7]
  else if op = oConv then [5]
  else if op = oRdreg ∨ op = oWrreg then [6]
  else if op = oMtok then [8]
  else []

/-- Whether an operator word reads a queue q0 to q11: QDEPTH is an item of such operators alone (R197, R225). -/
def opQueues (op : Nat) (o : SFields) : Bool :=
  op ≠ oCtr && op ≠ oOrd && op ≠ oRdreg && (decide (o.qa.val < 12) || decide (o.qb.val < 12))

/-- Register rows of a lane (R186). -/
def laneRows (op : Nat) (o : SFields) (c : LaneCfg) : Nat :=
  let k := if o.w then 2 else 1
  (c.depth.map (·.2)).sum * k + (if c.const.isSome = true ∧ op ≠ oSteer ∧ op ≠ oDup then k else 0)

/-! ### A block with its items -/

/-- A fetched block as its checks see it: the operators, the items, the lanes' configuration. -/
structure Load where
  words : List Word
  ops : List Word
  items : List Item
  cfg : List LaneCfg
  broken : List Reject
  deriving DecidableEq, Repr

/-- Operators that a header names. -/
def headerOps (h : Word) : Nat := field h.toNat 25 128 + 1

/-- Words of a block after its header (R177). -/
def headerTail (h : Word) : Nat := headerOps h + field h.toNat 14 256

/-- The parts of a block's words. -/
def loadOf (ws : List Word) : Load :=
  let n := headerOps (ws.headD 0)
  let ops := (ws.drop 1).take n
  let r := frameItems ops ws.length (1 + n) (ws.drop (1 + n))
  { words := ws, ops := ops, items := r.1, broken := r.2
    cfg := ops.zipIdx.map fun x => laneCfg (opFields x.1).w (r.1.filter fun i => i.lane = x.2) }

/-- The operator on a lane. -/
def Load.op (l : Load) (n : Nat) : Option Nat := l.ops[n]?.map opOf

/-- The configuration of a lane. -/
def Load.cfgAt (l : Load) (n : Nat) : LaneCfg := l.cfg.getD n {}

/-- The levels that the CTR operators of a block name. -/
def Load.levels (l : Load) : List Nat := l.cfg.filterMap fun c => c.ctr.map (·.1)

/-- The rejections of a header (R85, R86, R177): reserved bits, RIG, the operator count, the end of the graph, agreement. -/
def Load.headerBad (l : Load) (k maxb : Nat) : List Reject :=
  let h := (l.words.headD 0).toNat
  let any := fun (p : Word → Bool) => l.ops.any p
  let ports := any fun w => opOf w == oSrc || opOf w == oSnk || (opFields w).dq.val == 13
  let bad := decide (4 < field h 22 8) || decide (field h 4 1024 ≠ 0) || decide (8 * 2 ^ field h 22 8 < l.ops.length) ||
    decide (maxb = 0) || decide (4096 < maxb) || (decide (k + 1 = maxb) && !bitOf h 3) ||
    bitOf h 2 != ports || bitOf h 1 != (any fun w => opOf w == oMtok) || bitOf h 0 != (any fun w => opOf w == oConv)
  if bad then [(0, 0x7F)] else []

/-- The rejections of the items by their fields, by repetition, by a lane beyond the operators, and by an operator that
does not use them (R196, R197). -/
def Load.itemsBad (l : Load) : List Reject :=
  l.items.zipIdx.flatMap fun x =>
    let i := x.1
    let twice := (l.items.take x.2).any fun y => y.key = i.key
    let used := match l.ops[i.lane]? with
      | some w => (i.kind == 0 && opQueues (opOf w) (opFields w)) || i.kind == 2 || (itemKinds (opOf w) (opFields w)).contains i.kind ||
          !opAccepted (opOf w)
      | none => false
    i.bad ++ if twice || !used then [(i.idx, i.lane)] else []

/-- The rejections of a lane's own word (R87, R88, R180, R185 to R188, R193, R194, R197, R222 to R225). -/
def Load.wordBad (l : Load) (n : Nat) (w : Word) : Bool :=
  let op := opOf w
  let o := opFields w
  let c := l.cfgAt n
  let kinds := (l.items.filter fun i => i.lane = n).map (·.kind)
  let place := if op = oSrc ∨ op = oSnk then n % 8 == 0 else if op = oConv then n % 8 == 7 else if op = oMtok then n == 1 else true
  let queues := [o.qa.val, o.qb.val].all fun q => !isQ q || c.depthOf q != 0
  let index := (o.qa.val != 13 && o.qb.val != 13) || l.levels.contains c.lvl
  let ctr := match c.ctr with
    | some (lv, _) => decide (lv < l.levels.length) && !((l.cfg.take n).any fun x => (x.ctr.map (·.1)) == some lv)
    | none => true
  !opAccepted op || !o.ok || decide (8 * 2 ^ field (l.words.headD 0).toNat 22 8 ≤ o.dl.val) || !place ||
    !(if op < 0xF0 then aluOk op o else onlyOk op o c) || !((itemKinds op o).all kinds.contains) || !queues || !index ||
    (op == oCtr && !ctr) || decide (256 < laneRows op o c) || (op == oOrd && decide (8 < c.arcs.length))

/-- Whether a token of a width may go to a destination (R185, R197, R199, R226). -/
def Load.destOk (l : Load) (wide : Bool) (dl dq : Nat) : Bool :=
  if dq = 12 ∨ dq = 14 then true
  else match l.ops[dl]? with
    | none => false
    | some w =>
      if dq = 13 then opOf w == oSnk && (opFields w).w == wide
      else decide ((l.cfgAt dl).depthOf dq ≠ 0) && (!opAccepted (opOf w) || (opFields w).w == wide)

/-- The index of a lane's first item of a kind. -/
def Load.itemAt (l : Load) (n kind : Nat) : Nat := ((l.items.find? fun i => i.lane = n ∧ i.kind = kind).map (·.idx)).getD 0

/-- The rejections of a lane's destinations: its own, and the one in the CONST of STEER and DUP (R199, R225, R405). -/
def Load.destBad (l : Load) (n : Nat) (w : Word) : List Reject :=
  let op := opOf w
  let o := opFields w
  let c := l.cfgAt n
  let wide := outWide op o c
  let own := if l.destOk wide o.dl.val o.dq.val then [] else [(n + 1, n)]
  let k := c.constant.toNat
  let second :=
    if (op = oSteer ∨ op = oDup) ∧ c.const.isSome = true then
      let at_ := l.itemAt n 1
      (if decide (2048 ≤ k % 4294967296) || decide (l.ops.length ≤ c.other.1) || c.other.2 == 13 || c.other.2 == 15 ||
          !l.destOk wide c.other.1 c.other.2 then [(at_ + 1, 0x7F)] else []) ++
        (if 4294967296 ≤ k then [(at_ + 2, 0x7F)] else [])
    else []
  own ++ second

/-- The rejections of a lane's MODE (R222, R231, R472). -/
def Load.modeBad (l : Load) (n : Nat) (w : Word) : List Reject :=
  let c := l.cfgAt n
  match c.mode with
  | none => []
  | some m =>
    let used := modeUsed (opOf w) (opFields w) c
    if used = 0 ∨ m &&& ~~~ (BitVec.ofNat 32 used) ≠ 0 ∨ condMax (opOf w) < c.cond then [(l.itemAt n 2, n)] else []

/-- Whether a PORT operation fits its size and order (R226). -/
def PortCfg.ok (p : PortCfg) (load wide : Bool) : Bool :=
  let op := p.op
  let sz := p.size
  (if op = 0 then p.order == 0 || (if load then p.order == 1 else p.order == 2)
   else if op = 8 then sz == 4 || sz == 8
   else if op = 2 ∨ op = 4 ∨ op = 5 then sz == 8 else sz == 4) &&
    (if wide then decide (4 ≤ sz) else decide (sz ≤ 4))

/-- Whether the portal carries a PORT operation to a physical address (R340). -/
def portalCarries (op pa : Nat) : Bool := !isHost pa || [0, 1, 2, 8].contains op

/-- Whether the memory that a gl BASE translates to takes a PORT operation (R199): an address without a translation is
left to the accesses. -/
def State.baseOk (s : State) (g : Group) (p : PortCfg) : Bool :=
  match s.walk g.ctx ((g.seg[0].base + p.base).toNat) with
  | .page q => portalCarries p.op (q.at (g.seg[0].base + p.base).toNat).pa
  | _ => true

/-- The rejections of a lane's PORT (R199, R226). -/
def Load.portBad (l : Load) (s : State) (g : Group) (n : Nat) (w : Word) : List Reject :=
  match l.cfgAt n |>.port with
  | none => []
  | some p =>
    let i := l.itemAt n 4
    if !p.ok (opOf w == oSrc) (opFields w).w then [(i, n)]
    else if p.sh then (if hiWord p.base ≠ 0 then [(i + 2, 0x7F)] else [])
    else if s.baseOk g p then [] else [(i, n)]

/-- The rejections of a lane's REG (R198, R233), ARCs (R228) and MTOKSET (R366). -/
def Load.regBad (l : Load) (g : Group) (u : Option Team) (n : Nat) (w : Word) : List Reject :=
  let c := l.cfgAt n
  let pair := (opFields w).w.toNat
  let regs := fun (k : Nat) =>
    if l.op k = some oWrreg then
      match (l.cfgAt k).reg with
      | some (sc, r, _) => (List.range (1 + ((l.ops[k]?.map fun x => (opFields x).w).getD false).toNat)).map fun i => (sc, r + i)
      | none => []
    else []
  let reg := match c.reg with
    | some (sc, r, _) => if (63 < r + pair) ∨ (sc = false ∧ g.v.length ≤ r + pair) then [(l.itemAt n 6, n)] else []
    | none => []
  let same := if (regs n).any fun x => ((List.range n).flatMap regs).contains x then [(n + 1, n)] else []
  let arcs := (l.items.filter fun i => i.lane = n ∧ i.kind = 7).flatMap fun i =>
    let port := l.op i.val == some oSrc || l.op i.val == some oSnk
    let other := (l.cfg.take n).any fun x => x.arcs.contains i.val
    if !port || other then [(i.idx, n)] else []
  let tok := match c.mtok, u with
    | some x, some u => if mtokBad u x.toNat then [(l.itemAt n 8 + 1, 0x7F)] else []
    | some _, none => [(l.itemAt n 8 + 1, 0x7F)]
    | none, _ => []
  reg ++ same ++ arcs ++ tok

/-- The rejections of one lane. -/
def Load.laneBad (l : Load) (s : State) (g : Group) (n : Nat) (w : Word) : List Reject :=
  if !opAccepted (opOf w) then [(n + 1, n)]
  else
    (if l.wordBad n w then [(n + 1, n)] else []) ++ l.destBad n w ++ l.modeBad n w ++ l.portBad s g n w ++
      l.regBad g (s.teamOf g) n w

/-- The rejection of lowest word index (R405). -/
def firstReject (rs : List Reject) : Option Reject :=
  rs.foldl (fun b r =>
    match b with
    | some x => if r.1 < x.1 then some r else some x
    | none => some r) none

/-- A block as its words lay it out (R85, R86). -/
def blockOf (addr : DWord) (ws : List Word) (lines : List Nat) : Block :=
  let l := loadOf ws
  let h := (ws.headD 0).toNat
  { addr := addr, words := ws, ops := l.ops, cfg := l.cfg, rigLog := field h 22 8, last := bitOf h 3, mx := bitOf h 1,
    lines := lines }

/-- The first failing word of block k of a graph of at most MAXB blocks, where a rule rejects it (R199). -/
def State.blockBad (s : State) (g : Group) (k maxb : Nat) (ws : List Word) : Option Reject :=
  let l := loadOf ws
  firstReject (l.headerBad k maxb ++ l.broken ++ l.itemsBad ++ l.ops.zipIdx.flatMap fun x => l.laneBad s g x.2 x.1)

/-- Granules that a block needs on a quadrant (R181, R186). -/
def Block.granules (b : Block) : Nat :=
  ((b.ops.zip b.cfg).foldl (fun n x => max n (laneRows (opOf x.1) (opFields x.1) x.2)) 0 + 7) / 8

/-- The address of the block after a block (R177). -/
def Block.nextAddr (b : Block) : DWord := b.addr + BitVec.ofNat 64 (4 * b.words.length)

end Sys2Proof.Machine
end

