-- ==== Sys2Proof/Machine/RigFire.lean ====
section
/-! DEFINITION. Tokens, queues and the firing of every spatial operator (R187 to R195, R222 to R235). -/

namespace Sys2Proof.Machine

/-! ### Rigs and lanes -/

/-- The rig of a group. -/
def State.rig? (s : State) (i : GroupId) : Option Rig := (s.coreD i.coreId).rigs.find? fun r => r.group = i

/-- A lane of a rig. -/
def Rig.lane (r : Rig) (n : Nat) : Lane := r.lanes.getD n {}

/-- A lane of a rig replaced. -/
def Rig.setLane (r : Rig) (n : Nat) (l : Lane) : Rig := { r with lanes := r.lanes.set n l }

/-- The configuration of a lane. -/
def Rig.cfg (r : Rig) (n : Nat) : LaneCfg := (r.block.bind fun b => b.cfg[n]?).getD {}

/-- The operator words of a rig's block. -/
def Rig.ops (r : Rig) : List Word := (r.block.map (·.ops)).getD []

/-- The address of the block in a rig. -/
def Rig.hdr (r : Rig) : DWord := (r.block.map (·.addr)).getD 0

/-- A lane's queue by its code: 0 to 11, 12 predicate, 13 index, 14 port, 15 done. -/
def Lane.queue (l : Lane) (qc arc : Nat) : List Token :=
  if qc < 12 then (l.q[qc]?).getD []
  else if qc = 12 then l.pq
  else if qc = 13 then l.iq
  else if qc = 14 then l.portq
  else l.doneq.getD arc []

/-- A lane's queue replaced. -/
def Lane.setQueue (l : Lane) (qc arc : Nat) (ts : List Token) : Lane :=
  if qc < 12 then { l with q := l.q.setIfInBounds qc ts }
  else if qc = 12 then { l with pq := ts }
  else if qc = 13 then { l with iq := ts }
  else if qc = 14 then { l with portq := ts }
  else { l with doneq := l.doneq.set arc ts }

/-- The queue that a dq code names on the destination lane (R87). -/
def destCode (dq : Nat) : Nat := if dq = 13 then 14 else dq

/-! ### Tags (R189, R190) -/

/-- A tag. -/
def tagOf (m ctx thr seq : Nat) : Word := BitVec.ofNat 32 (m % 16 * 2 ^ 28 + ctx % 1024 * 2 ^ 18 + thr % 64 * 4096 + seq % 4096)

/-- THR and SEQ of a tag. -/
def tagTS (t : Word) : Nat := field t.toNat 0 262144

/-- CTX of a tag. -/
def tagCtx (t : Word) : Nat := field t.toNat 18 1024

/-- M[LVL] of a tag. -/
def tagMark (t : Word) (lvl : Nat) : Bool := bitOf t.toNat (28 + lvl)

/-! ### Slots (R187, R188) -/

/-- The depth of a queue (R185, R192, R194, R226, R228). -/
def Rig.depth (r : Rig) (lane qc : Nat) : Nat :=
  if qc < 12 then (r.cfg lane).depthOf qc else if qc = 12 then 16 else 8

/-- Whether an access that has not replied will send a token to a queue. -/
def Rig.promised (r : Rig) (lane qc arc : Nat) (a : PortAcc) : Bool :=
  if qc = 15 then decide ((r.cfg lane).arcs[arc]? = some a.lane)
  else match r.ops[a.lane]? with
    | some w => opOf w == oSrc && (opFields w).dl.val == lane && (opFields w).dq.val != 14 && destCode (opFields w).dq.val == qc
    | none => false

/-- Slots of a queue that are taken: tokens in it and on their way, slots on their way back, tokens promised by a port. -/
def Rig.taken (r : Rig) (lane qc arc : Nat) : Nat :=
  ((r.lane lane).queue qc arc).length + r.flight.countP (fun f => f.lane == lane && f.qc == qc && f.arc == arc) +
    r.returns.countP (fun f => f.lane == lane && f.qc == qc && f.arc == arc) + r.accs.countP (r.promised lane qc arc)

/-- Whether a queue has a free slot. -/
def Rig.room (r : Rig) (lane qc arc : Nat) : Bool := decide (r.taken lane qc arc < r.depth lane qc)

/-- Whether a destination takes a token (R188): a discard always does. -/
def Rig.destRoom (r : Rig) (dl dq : Nat) : Bool := dq == 14 || r.room dl (destCode dq) 0

/-- A token sent. -/
def Rig.send (r : Rig) (src lane qc arc : Nat) (t : Token) : Rig :=
  let t : Token := if qc = 12 then ⟨t.val &&& 1, t.tag⟩ else t
  { r with flight := r.flight ++ [⟨src, lane, qc, arc, t⟩] }

/-- A token sent to a destination. -/
def Rig.sendTo (r : Rig) (src dl dq : Nat) (t : Token) : Rig := if dq = 14 then r else r.send src dl (destCode dq) 0 t

/-- The head of a queue consumed (R187, R188). -/
def Rig.consume (r : Rig) (lane qc arc : Nat) : Rig :=
  let l := r.lane lane
  { r.setLane lane (l.setQueue qc arc (l.queue qc arc).tail) with returns := r.returns ++ [⟨lane, qc, arc⟩] }

/-- Several queues' heads consumed. -/
def Rig.consumeAll (r : Rig) (lane : Nat) (qcs : List Nat) : Rig := qcs.foldl (fun r q => r.consume lane q 0) r

/-- Results of a lane sent in order as far as there is room; the rest waits. -/
def Rig.flush (r : Rig) (n dl dq : Nat) : List Token → Rig
  | [] => r.setLane n { r.lane n with outq := [] }
  | t :: ts => if r.destRoom dl dq then Rig.flush (r.sendTo n dl dq t) n dl dq ts else r.setLane n { r.lane n with outq := t :: ts }

/-! ### Operands -/

/-- An operand: its value, and its tag where it is a token. -/
abbrev Operand1 := DWord × Option Word

/-- The operand of a code (R87, R188): `none` while its queue is empty. -/
def Rig.operand (r : Rig) (n code : Nat) : Option Operand1 :=
  if code = 12 then some ((r.cfg n).constant, none)
  else if code = 14 then some (0, none)
  else ((r.lane n).queue code 0).head?.map fun t => (t.val, some t.tag)

/-- The queue code that an operand code consumes from. -/
def codeQueue (code : Nat) : List Nat := if code = 12 ∨ code = 14 then [] else [code]

/-- What the inputs of a lane allow: nothing, a failed check with its queue code and the offending tag, or a firing. -/
inductive Gather where
  | idle
  | bad (qc : Nat) (tag : Word)
  | go (a b : Operand1) (tag : Word) (pred : Option Bool) (r : Rig)
  deriving DecidableEq, Repr

/-- The inputs of an operator (R188, R190 to R192): operands a and b, where `bq` is 14 for a b that comes from the port
queue, a predicate token with G, the checks of tags, and the rig with one token of each queue consumed.

DESIGN CHOICE (log entry 44): where operand a is the constant or none, a guarded operator's predicate is compared with
operand b's tag (R191 names operand a alone), and a mismatch between a and b reports operand b's queue and tag (R205 does
not say which of the two offends). -/
def Rig.gather (r : Rig) (n : Nat) (o : SFields) (bq : Nat) : Gather :=
  let pred := if o.g then (r.lane n).pq.head?.map some else some none
  let port : Option Operand1 := (r.lane n).portq.head?.map fun t => (t.val, some t.tag)
  match r.operand n o.qa.val, (if bq = 14 then port else r.operand n o.qb.val), pred with
  | some a, some b, some p =>
    let tag := (a.2.orElse fun _ => b.2).getD (tagOf 0 r.context.toNat 0 0)
    let qs := (codeQueue o.qa.val ++ (if bq = 14 then [14] else codeQueue o.qb.val) ++ (if o.g then [12] else [])).dedup
    let clash := match a.2, b.2 with
      | some x, some y => !o.c && tagTS x != tagTS y
      | _, _ => false
    if clash then .bad (if bq = 14 then 14 else o.qb.val) (b.2.getD 0)
    else match p with
      | some t => if tagTS t.tag ≠ tagTS tag then .bad 12 t.tag else .go a b tag (some (bitOf t.val.toNat 0)) (r.consumeAll n qs)
      | none => .go a b tag none (r.consumeAll n qs)
  | _, _, _ => .idle

/-- A failed check of a lane (R191, R205, R405). -/
def State.tokenFault (s : State) (r : Rig) (n qc arc : Nat) (tag : Word) : State :=
  s.failRig r cFabricToken r.hdr (fabWords r.hdr 2 qc arc n (n + 1) tag)

/-- The firing of an operator with its inputs gathered. -/
def State.gathered (s : State) (r : Rig) (n : Nat) (o : SFields) (go : Operand1 → Operand1 → Word → Option Bool → Rig → Option State) :
    Option State :=
  match r.gather n o (if o.qb.val = 14 then 15 else o.qb.val) with
  | .idle => none
  | .bad qc tag => some (s.tokenFault r n qc 0 tag)
  | .go a b tag p r => go a b tag p r

/-- Whether the marker that F and L look at is set (R195). -/
def Rig.marked (r : Rig) (n : Nat) (tag : Word) : Bool := tagMark tag (r.cfg n).lvl

/-- The rounding mode of a lane (R197). -/
def Rig.mode (r : Rig) (n : Nat) : Rm :=
  let m := (r.cfg n).modeNat
  rmOf (if bitOf m 4 then field m 5 4 else r.rm.toNat)

/-- A step of the operator in focus (log entry 1); nothing happens while its rig does not run or its record is open. -/
def State.laneWord (s : State) (fire : Rig → Nat → Option State) : Out :=
  match s.focus with
  | .lane i n =>
    (match s.rig? i with
    | some r => if r.phase = .running ∧ r.open_ = false ∧ n < r.lanes.length then .next ((fire r n).getD s) else .next s
    | none => .fault .noLane)
  | _ => .fault .noLane

/-- A lane with results that wait sends them; else it fires. -/
def State.fireOr (s : State) (r : Rig) (n : Nat) (o : SFields) (fire : Option State) : Option State :=
  match (r.lane n).outq with
  | [] => fire
  | ts => if r.destRoom o.dl.val o.dq.val then some (s.putRig (r.flush n o.dl.val o.dq.val ts)) else none

/-! ### ALU opcodes as operators (R111, R126, R222 to R224) -/

/-- A 32-bit result. -/
def v32 (x : Word) : DWord × Flags := (x.zeroExtend 64, 0)

/-- A condition as a token. -/
def vBool (b : Bool) : DWord := if b then 1 else 0

/-- Operands of a floating operator of a format: the elements of a word, or the whole. -/
def fpBin (op : Bin) (F : Fmt) (rm : Rm) (a b : DWord) : DWord × Flags :=
  match F with
  | .f64 => one64 (op rm a.toNat b.toNat)
  | .f32 => let r := one (op rm (loWord a).toNat (loWord b).toNat); (r.1.zeroExtend 64, r.2)
  | _ => let r := two fun e => op rm (half (loWord a) e) (half (loWord b) e); (r.1.zeroExtend 64, r.2)

/-- The format of an arithmetic opcode by its place in a run of four (R116 to R118). -/
def fmtAt (k : Nat) : Fmt :=
  match k % 4 with
  | 0 => .f32
  | 1 => .f64
  | 2 => .f16
  | _ => .bf16

/-- The format's operands of an FCMP: element 1 with f for the 16-bit types (R118). -/
def cmpVal (F : Fmt) (f : Bool) (x : DWord) : Nat :=
  match F with
  | .f64 => x.toNat
  | .f32 => (loWord x).toNat
  | _ => half (loWord x) f.toNat

/-- A 32-bit result with flags. -/
def wide32 (r : Res32) : DWord × Flags := (r.1.zeroExtend 64, r.2)

/-- The integer opcodes' values (R95 to R109). `x` and `y` are the 64-bit patterns that a `.w` compare takes. -/
def intOp (op : Nat) (f : Bool) (cond : Cond) (a b z : Word) (x y : DWord) : DWord :=
  let r := fun (w : Word) => w.zeroExtend 64
  if op = 0x04 then r b
  else if op = 0x07 then r (iaddOf f a b)
  else if op = 0x08 then r (isubOf f a b)
  else if op = 0x0A then r (a * b)
  else if op = 0x0B then r (imulhOf f a b)
  else if op = 0x0C then r (a * b + z)
  else if op = 0x0F then r (iminOf f a b)
  else if op = 0x10 then r (imaxOf f a b)
  else if op = 0x11 then r (iabsOf f b)
  else if op = 0x12 then r (a &&& b)
  else if op = 0x13 then r (a ||| b)
  else if op = 0x14 then r (a ^^^ b)
  else if op = 0x15 then r (a &&& ~~~b)
  else if op = 0x16 then r (shlOf a b)
  else if op = 0x17 then r (shrAny f a b)
  else if op = 0x18 then r (rotAny f a b)
  else if op = 0x1A then r (bfeOf a b f)
  else if op = 0x1B then r (bfiOf a b z)
  else if op = 0x1C then r (BitVec.ofNat 32 (popCount b))
  else if op = 0x1D then r (BitVec.ofNat 32 (clzOf b))
  else if op = 0x1E then r (brevOf b)
  else if op = 0x1F then vBool (if f then intCond cond x.toInt y.toInt else intCond cond a.toInt b.toInt)
  else vBool (if f then intCond cond x.toNat y.toNat else intCond cond a.toNat b.toNat)

/-- CVTU as an operator: the single element 2f + cond[0] (R222). -/
def cvtuElem (G : Fmt) (f : Bool) (cond : Nat) (b : Word) : Res32 :=
  one (fpCvt G .f32 .rne (field b.toNat (8 * (2 * f.toNat + cond % 2)) 256))

/-- The conversions' values (R122 to R124). -/
def cvtOp (op : Nat) (f : Bool) (cond : Nat) (rm : Rm) (a b z : DWord) : DWord × Flags :=
  let w := loWord b
  if op = 0x54 then wide32 (one (fpCvt .f64 .f32 rm b.toNat))
  else if op = 0x55 then one64 (fpCvt .f32 .f64 rm w.toNat)
  else if op = 0x56 then wide32 (one (fpCvt .f16 .f32 rm (half w f.toNat)))
  else if op = 0x57 then wide32 (two fun e => fpCvt .f32 .f16 rm (if e = 0 then loWord a else w).toNat)
  else if op = 0x58 then wide32 (one (fpCvt .bf16 .f32 rm (half w f.toNat)))
  else if op = 0x59 then wide32 (two fun e => fpCvt .f32 .bf16 rm (if e = 0 then loWord a else w).toNat)
  else if op = 0x5A then wide32 (one (fromInt rm w.toInt))
  else if op = 0x5B then wide32 (one (fromInt rm w.toNat))
  else if op = 0x5C then wide32 (toI32 .f32 (cvtRm f rm) w.toNat)
  else if op = 0x5D then wide32 (toN32 .f32 (cvtRm f rm) w.toNat)
  else if op = 0x5E then one64 (roundF (xint w.toInt) .f64 rm)
  else if op = 0x5F then wide32 (toI32 .f64 (cvtRm f rm) b.toNat)
  else if op = 0x60 then wide32 (cvtpOf .e4m3 rm f (loWord a) w (loWord z))
  else if op = 0x61 then wide32 (cvtpOf .e5m2 rm f (loWord a) w (loWord z))
  else if op = 0x62 then wide32 (cvtuElem .e4m3 f cond w)
  else wide32 (cvtuElem .e5m2 f cond w)

/-- The floating opcodes' values (R116 to R120). -/
def floatOp (op : Nat) (f : Bool) (cond : Nat) (rm : Rm) (a b z : DWord) : DWord × Flags :=
  let F := fmtAt op
  if op < 0x34 then fpBin (fpAdd F) F rm a b
  else if op < 0x38 then fpBin (fpSub F) F rm a b
  else if op < 0x3C then fpBin (fpMul F) F rm a b
  else if op < 0x40 then
    match F with
    | .f64 => one64 (fpFma .f64 rm f a.toNat b.toNat z.toNat)
    | .f32 => wide32 (one (fpFma .f32 rm f (loWord a).toNat (loWord b).toNat (loWord z).toNat))
    | _ => wide32 (two fun e => fpFma F rm f (half (loWord a) e) (half (loWord b) e) (half (loWord z) e))
  else if op < 0x44 then fpBin (minMaxOp F false f) F rm a b
  else if op < 0x48 then fpBin (minMaxOp F true f) F rm a b
  else if op < 0x4C then
    let x := cmpVal F f a
    let y := cmpVal F f b
    (vBool (fpCond F (condOf cond) x y), fpCmpFlags F (f && (F == .f32 || F == .f64)) x y)
  else if op < 0x54 then wide32 (specialOf (op - 0x4C) (loWord b))
  else cvtOp op f cond rm a b z

/-- The value and the flags of an ALU operator (R222). -/
def aluValue (op : Nat) (c : LaneCfg) (rm : Rm) (a b : DWord) : DWord × Flags :=
  if op < 0x30 then (intOp op c.f (condOf c.cond) (loWord a) (loWord b) (loWord c.constant) a b, 0)
  else floatOp op c.f c.cond rm a b c.constant

/-- Whether an operator reads the high word of an operand of which a 32-bit token says nothing (log entry 17): an index
token as a wide operand, or a token of a `.w` compare. -/
def openHigh (op : Nat) (o : SFields) (c : LaneCfg) (code : Nat) : Bool :=
  (o.w && code == 13) || ((op == 0x1F || op == 0x20) && c.f)

/-- The operands of an operator with their open high words filled from the supply, and the next supply index. -/
def State.openOperands (s : State) (op : Nat) (o : SFields) (c : LaneCfg) (a b : DWord) : DWord × DWord × Nat :=
  let ha := openHigh op o c o.qa.val
  let hb := openHigh op o c o.qb.val
  let x := if ha then pairOf (loWord a) (Config.freeWord s.free) else a
  let y := if hb then pairOf (loWord b) (Config.freeWord (if o.qa = o.qb then s.free else s.free + 1)) else b
  (x, y, if ha || hb then s.free + 2 else s.free)

/-- An ALU opcode fires (R222, R223). -/
def State.fireAlu (s : State) (op : Nat) (o : SFields) (r : Rig) (n : Nat) : Option State :=
  if !r.destRoom o.dl.val o.dq.val then none
  else s.gathered r n o fun a b tag p r =>
    let c := r.cfg n
    if op = 0x21 then
      let t : Token := ⟨if p = some true then a.1 else b.1, tag⟩
      some (s.putRig (if o.f && !r.marked n tag then r else r.sendTo n o.dl.val o.dq.val t))
    else if p = some false then some (s.putRig r)
    else
      let x := s.openOperands op o c a.1 b.1
      let v := aluValue op c (r.mode n) x.1 x.2.1
      let r : Rig := { r with flags := r.flags ||| v.2 }
      let t : Token := ⟨v.1, tag⟩
      let r := if o.f && !r.marked n tag then r else r.sendTo n o.dl.val o.dq.val t
      some ({ s with free := x.2.2 }.putRig r)

/-- ALU_OPERATOR_FIRE (R222). -/
def execAluOperatorFire (op : BitVec 8) (o : SFields) (s : State) : Out := s.laneWord (s.fireAlu op.toNat o)

/-! ### The counter chain (R193, R194, R229) -/

/-- The counters of a rig by level: lane, START, STEP, COUNT. -/
def Rig.counters (r : Rig) : List (Nat × Word × Word × Nat) :=
  let all := ((r.block.map (·.cfg)).getD []).zipIdx.filterMap fun x => x.1.ctr.map fun c => (x.2, c)
  (List.range all.length).filterMap fun lv => (all.find? fun x => x.2.1 = lv).map fun x => (x.1, x.2.2)

/-- The lanes with an operand of code 13. -/
def Rig.indexLanes (r : Rig) : List Nat :=
  (r.ops.zipIdx.filter fun x => (opFields x.1).qa.val == 13 || (opFields x.1).qb.val == 13).map (·.2)

/-- The chain's position after one iteration: `none` after the last value of the outermost level. -/
def stepChain : List Nat → List Nat → Option (List Nat)
  | k :: ks, c :: cs => if k + 1 < c then some ((k + 1) :: ks) else (stepChain ks cs).map (0 :: ·)
  | _, _ => none

/-- The markers of an iteration: bit i where level i is at its last. -/
def chainMarks : List Nat → List Nat → Nat
  | k :: ks, c :: cs => (decide (k + 1 = c)).toNat + 2 * chainMarks ks cs
  | _, _ => 0

/-- One iteration of the chain: one index token of each level, with the markers of every level. -/
def Rig.iterate (r : Rig) : Rig :=
  let cs := r.counters
  let counts := cs.map fun c => c.2.2.2
  let thr := if 2 ≤ cs.length then r.chain.getLastD 0 else 0
  let tag := tagOf (chainMarks r.chain counts) r.context.toNat thr (r.chain.headD 0)
  let val := fun (lv : Nat) => match cs[lv]? with
    | some c => (c.2.1 + BitVec.ofNat 32 (r.chain.getD lv 0) * c.2.2.1).zeroExtend 64
    | none => 0
  let r1 := r.indexLanes.foldl (fun (q : Rig) n => q.send n n 13 0 ⟨val (r.cfg n).lvl, tag⟩) r
  let r2 := cs.zipIdx.foldl (fun (q : Rig) x =>
    match q.ops[x.1.1]? with
    | some w => if (opFields w).dq.val = 14 then q else q.flush x.1.1 (opFields w).dl.val (opFields w).dq.val [⟨val x.2, tag⟩]
    | none => q) r1
  match stepChain r.chain counts with
  | some k => { r2 with chain := k }
  | none => { r2 with chainOn := false }

/-- Whether the chain may advance (R194, R421). -/
def Rig.chainReady (r : Rig) : Bool :=
  r.chainOn && !r.gated && r.indexLanes.all (fun n => r.room n 13 0) && r.counters.all fun c =>
    (r.lane c.1).outq.isEmpty && match r.ops[c.1]? with
      | some w => r.destRoom (opFields w).dl.val (opFields w).dq.val
      | none => false

/-- CTR (R229): the whole chain steps. -/
def State.fireCtr (s : State) (o : SFields) (r : Rig) (n : Nat) : Option State :=
  s.fireOr r n o (if r.chainReady then some (s.putRig r.iterate) else none)

/-- CTR (R193, R229). -/
def execCtr (o : SFields) (s : State) : Out := s.laneWord (s.fireCtr o)

/-! ### STEER, MERGE, DUP (R230, R235) -/

/-- A data token routed with a predicate token (R191, R230). -/
def State.route (s : State) (o : SFields) (r : Rig) (n q dl dq : Nat) (p : Token) : Option State :=
  match ((r.lane n).queue q 0).head? with
  | none => none
  | some t =>
    if !r.destRoom dl dq then none
    else if tagTS p.tag ≠ tagTS t.tag then some (s.tokenFault r n 12 0 p.tag)
    else
      let r := r.consumeAll n [q, 12]
      some (s.putRig (if o.f && !r.marked n t.tag then r else r.sendTo n dl dq t))

/-- STEER fires (R230). -/
def State.fireSteer (s : State) (o : SFields) (r : Rig) (n : Nat) : Option State :=
  match (r.lane n).pq.head? with
  | none => none
  | some p =>
    let d := if bitOf p.val.toNat 0 then (o.dl.val, o.dq.val) else (r.cfg n).other
    s.route o r n o.qa.val d.1 d.2 p

/-- STEER (R230). -/
def execSteer (o : SFields) (s : State) : Out := s.laneWord (s.fireSteer o)

/-- MERGE fires (R230). -/
def State.fireMerge (s : State) (o : SFields) (r : Rig) (n : Nat) : Option State :=
  match (r.lane n).pq.head? with
  | none => none
  | some p => s.route o r n (if bitOf p.val.toNat 0 then o.qa.val else o.qb.val) o.dl.val o.dq.val p

/-- MERGE (R230). -/
def execMerge (o : SFields) (s : State) : Out := s.laneWord (s.fireMerge o)

/-- The value that DUP's copies carry (R235). -/
def dupValue (w : Bool) (c : LaneCfg) (x : DWord) : DWord :=
  if c.f then
    if w then (loWord x).zeroExtend 64
    else if bitOf c.cond 0 then (loWord x).signExtend 64 else (loWord x).zeroExtend 64
  else x

/-- A DUP with a copy still to send sends what it can: `outq` goes to dl and dq, `group` to the other destination. -/
def Rig.dupSend (r : Rig) (n : Nat) (o : SFields) : Option Rig :=
  let d := (r.cfg n).other
  let l := r.lane n
  match l.outq, l.group with
  | t :: ts, g =>
    if r.destRoom o.dl.val o.dq.val then some ((r.setLane n { l with outq := ts }).sendTo n o.dl.val o.dq.val t)
    else match g with
      | u :: us => if r.destRoom d.1 d.2 then some ((r.setLane n { l with group := us }).sendTo n d.1 d.2 u) else none
      | [] => none
  | [], u :: us => if r.destRoom d.1 d.2 then some ((r.setLane n { l with group := us }).sendTo n d.1 d.2 u) else none
  | [], [] => none

/-- DUP fires: the sends wait each for its own slot (R235). -/
def State.fireDup (s : State) (o : SFields) (r : Rig) (n : Nat) : Option State :=
  if (r.lane n).outq.isEmpty && (r.lane n).group.isEmpty then
    s.gathered r n o fun a _ tag p r =>
      if p = some false then some (s.putRig r)
      else
        let c := r.cfg n
        let x := s.openOperands oDup o c a.1 0
        let t : Token := ⟨dupValue o.w c x.1, tag⟩
        some ({ s with free := x.2.2 }.putRig (r.setLane n { r.lane n with outq := [t], group := [t] }))
  else (r.dupSend n o).map s.putRig

/-- DUP (R235). -/
def execDup (o : SFields) (s : State) : Out := s.laneWord (s.fireDup o)

/-! ### ACC (R231) -/

/-- ACC's operation on its state and a token. -/
def accValue (cond : Nat) (f : Bool) (rm : Rm) (x y : DWord) : DWord × Flags :=
  let a := loWord x
  let b := loWord y
  match cond with
  | 0 => v32 (a + b)
  | 1 => wide32 (one (fpAdd .f32 rm a.toNat b.toNat))
  | 2 => one64 (fpAdd .f64 rm x.toNat y.toNat)
  | 3 => v32 (iminOf false a b)
  | 4 => v32 (imaxOf false a b)
  | 5 => wide32 (one (fpMinMax .f32 false f a.toNat b.toNat))
  | _ => wide32 (one (fpMinMax .f32 true f a.toNat b.toNat))

/-- ACC fires (R231). -/
def State.fireAcc (s : State) (o : SFields) (r : Rig) (n : Nat) : Option State :=
  if !r.destRoom o.dl.val o.dq.val then none
  else s.gathered r n o fun a _ tag p r =>
    if p = some false then some (s.putRig r)
    else
      let c := r.cfg n
      let x := s.openOperands oAcc o c a.1 0
      let v := accValue c.cond c.f (r.mode n) (r.lane n).acc x.1
      let mk := r.marked n tag
      let r : Rig := { r.setLane n { r.lane n with acc := if o.l && mk then c.constant else v.1 } with flags := r.flags ||| v.2 }
      let t : Token := ⟨v.1, tag⟩
      some ({ s with free := x.2.2 }.putRig (if o.f && !mk then r else r.sendTo n o.dl.val o.dq.val t))

/-- ACC (R231). -/
def execAcc (o : SFields) (s : State) : Out := s.laneWord (s.fireAcc o)

/-! ### ORD (R228) -/

/-- ORD fires once every arc holds a done token (R228). -/
def State.fireOrd (s : State) (o : SFields) (r : Rig) (n : Nat) : Option State :=
  let heads := (List.range (r.cfg n).arcs.length).map fun i => ((r.lane n).queue 15 i).head?
  match heads.mapM id with
  | some (t :: ts) =>
    if !r.destRoom o.dl.val o.dq.val then none
    else match ts.zipIdx.find? fun x => tagTS x.1.tag ≠ tagTS t.tag with
      | some (u, i) => some (s.tokenFault r n 14 (i + 1) u.tag)
      | none =>
        let r := (List.range (ts.length + 1)).foldl (fun (r : Rig) i => r.consume n 15 i) r
        some (s.putRig (r.sendTo n o.dl.val o.dq.val ⟨0, t.tag⟩))
  | _ => none

/-- ORD (R228). -/
def execOrd (o : SFields) (s : State) : Out := s.laneWord (s.fireOrd o)

/-! ### CONV (R232) -/

/-- Inputs of a converter group. -/
def convInputs (f g : Nat) : Nat :=
  if f = 2 then (if isBlock g then 64 else if fmtHalves g = 4 then 2 else 4)
  else if isBlock f then 1 + 64 * fmtHalves f / 8
  else 1

/-- Bytes as 32-bit tokens. -/
def bytesTokens (bs : List Byte) : List DWord := (List.range (bs.length / 4)).map fun i => BitVec.ofNat 64 (bytesToNat ((bs.drop (4 * i)).take 4))

/-- The tokens that a converter group gives (R52, R59, R232). -/
def convOutputs (f g : Nat) (xs : List Nat) : List DWord :=
  if f = 2 then
    let r := fmtCodes g (xs.map (decodeF .f32))
    bytesTokens (packCodes g r.1) ++ r.2.map (BitVec.ofNat 64 ·)
  else
    let md := if isBlock f then xs.headD 0 else 0
    let data := (if isBlock f then xs.tail else xs).flatMap (natToBytes 4)
    (List.range (data.length * 2 / fmtHalves f)).map fun i => BitVec.ofNat 64 (roundF (fmtValue f (codeAt f data i) md) .f32 .rne).1

/-- CONV fires: a full group, or one that a marker ends early, is converted (R232). -/
def State.fireConv (s : State) (o : SFields) (r : Rig) (n : Nat) : Option State :=
  s.fireOr r n o <|
    if !r.destRoom o.dl.val o.dq.val then none
    else s.gathered r n o fun a _ tag _ r =>
      let c := r.cfg n
      let fg := c.conv.getD (2, 2)
      let l := r.lane n
      let group := l.group ++ [⟨a.1, tag⟩]
      let need := convInputs fg.1 fg.2
      if group.length < need ∧ r.marked n tag = false then some (s.putRig (r.setLane n { l with group := group }))
      else
        let xs := group.map (fun t => (loWord t.val).toNat) ++ List.replicate (need - group.length) 0
        let first := ((group.head?).map (·.tag)).getD tag
        let out := (convOutputs fg.1 fg.2 xs).map fun x => (⟨x, first⟩ : Token)
        some (s.putRig ((r.setLane n { l with group := [] }).flush n o.dl.val o.dq.val out))

/-- CONV (R232). -/
def execConv (o : SFields) (s : State) : Out := s.laneWord (s.fireConv o)

/-! ### RDREG, WRREG (R233) -/

/-- RDREG fires: once, or once per index token (R233). -/
def State.fireRdreg (s : State) (o : SFields) (r : Rig) (n : Nat) : Option State :=
  let l := r.lane n
  if !r.destRoom o.dl.val o.dq.val then none
  else if o.qa.val = 14 then
    if l.fired then none
    else
      let t : Token := ⟨l.rd, tagOf 15 r.context.toNat 0 0⟩
      some (s.putRig ((r.setLane n { l with fired := true }).sendTo n o.dl.val o.dq.val t))
  else s.gathered r n o fun _ _ tag _ r => some (s.putRig (r.sendTo n o.dl.val o.dq.val ⟨l.rd, tag⟩))

/-- RDREG (R233). -/
def execRdreg (o : SFields) (s : State) : Out := s.laneWord (s.fireRdreg o)

/-- WRREG fires: the last token is kept (R233). -/
def State.fireWrreg (s : State) (o : SFields) (r : Rig) (n : Nat) : Option State :=
  s.gathered r n o fun a _ _ _ r => some (s.putRig (r.setLane n { r.lane n with wr := some a.1 }))

/-- WRREG (R233). -/
def execWrreg (o : SFields) (s : State) : Out := s.laneWord (s.fireWrreg o)

/-! ### MTOK (R234) -/

/-- MTOK fires: a matrix token enters the node's queue; it stalls while the queue is full (R234, R367). -/
def State.fireMtok (s : State) (o : SFields) (r : Rig) (n : Nat) : Option State :=
  let c := r.group.coreId
  s.gathered r n o fun _ _ tag p q =>
    if p = some false then some (s.putRig q)
    else if 8 ≤ (s.coreD c).node.length then none
    else match s.group? r.group with
      | none => none
      | some g =>
        let x := s.newId c
        let item := NodeItem.token x.1 g.id g.task g.lin ((r.cfg n).mtok.getD 0) (some (n, tag)) r.hdr r.widx
        some ((x.2.putRig q).modCore c fun z => { z with node := z.node ++ [item] })

/-- MTOK (R234). -/
def execMtok (o : SFields) (s : State) : Out := s.laneWord (s.fireMtok o)

/-! ### SRC, SNK (R226 to R228) -/

/-- The ORD arc that joins a port: the ORD's lane and the arc's index (R228). -/
def Rig.arcOf (r : Rig) (n : Nat) : Option (Nat × Nat) :=
  (((r.block.map (·.cfg)).getD []).zipIdx.findSome? fun x => (x.1.arcs.findIdx? fun a => a == n).map fun i => (x.2, i))

/-- Whether a port may consume (R188, R228, R409, R410): no record of its own, no page of it in migration, room in its
done queue. -/
def State.portReady (s : State) (r : Rig) (n : Nat) : Bool :=
  !r.recs.any (fun p => p.lane == n) && !s.migrations.any (fun m => m.lanes.contains (r.group, n)) &&
    match r.arcOf n with
    | some (l, i) => r.room l 15 i
    | none => true

/-- A port's access fired: it waits for PORT_REPLY; with predicate 0 nothing is accessed. -/
def Rig.portFire (r : Rig) (n : Nat) (idx : Token) (data : Option DWord) (p : Option Bool) : Rig :=
  let l := r.lane n
  let r := r.setLane n { l with iters := l.iters + 1 }
  if p = some false then r else { r with accs := r.accs ++ [{ lane := n, iter := l.iters, idx := idx, data := data }] }

/-- SRC fires (R226). -/
def State.fireSrc (s : State) (o : SFields) (r : Rig) (n : Nat) : Option State :=
  s.fireOr r n o <|
    if !s.portReady r n || !r.destRoom o.dl.val o.dq.val then none
    else s.gathered r n o fun a b tag p r =>
      let x := s.openOperands oSrc o (r.cfg n) 0 b.1
      some ({ s with free := x.2.2 }.putRig (r.portFire n ⟨a.1, tag⟩ (if o.qb.val = 14 then none else some x.2.1) p))

/-- SRC (R226). -/
def execSrc (o : SFields) (s : State) : Out := s.laneWord (s.fireSrc o)

/-- SNK fires (R226): with qb = 14 its data come from the port queue. -/
def State.fireSnk (s : State) (o : SFields) (r : Rig) (n : Nat) : Option State :=
  if !s.portReady r n then none
  else
    match r.gather n o (if o.qb.val = 14 then 14 else o.qb.val) with
    | .idle => none
    | .bad qc tag => some (s.tokenFault r n qc 0 tag)
    | .go a b tag p r =>
      let x := s.openOperands oSnk o (r.cfg n) 0 b.1
      some ({ s with free := x.2.2 }.putRig (r.portFire n ⟨a.1, tag⟩ (some x.2.1) p))

/-- SNK (R226). -/
def execSnk (o : SFields) (s : State) : Out := s.laneWord (s.fireSnk o)

end Sys2Proof.Machine
end

