-- ==== Sys2Proof/Machine/RigSteps.lean ====
section
/-! DEFINITION. SPAT, the sequencer, placement, configuration, tokens and slots on their way, memory ports, quiescence,
and what stops or saves a rig (R175 to R206, R219, R226 to R228, R409, R410, R421). -/

namespace Sys2Proof.Machine

/-! ### SPAT (R175, R219) -/

/-- A SPAT's rig among those of its core, in the order in which the SPATs issued (R206). -/
def Core.joinRig (c : Core) (r : Rig) : Core :=
  let mine := fun (x : Rig) => decide (x.group = r.group ∧ x.phase = .wait)
  { c with rigs := if c.rigs.any mine then c.rigs.map fun x => if mine x then r else x else c.rigs ++ [r] }

/-- SPAT (R175, R219): once issued, it waits until every long-latency result is written; then the group parks at its word. -/
def execSpat (a : Reg) (s : State) : Out :=
  match s.cur with
  | none => .fault .noGroup
  | some g =>
    let r : Rig := { group := g.id, desc := g.spair a.val, rm := g.fpmode.truncate 2, retpc := g.clause.addr, widx := g.clause.next }
    if g.tx.isNone && !g.out.isEmpty then .next ((s.stall g).modCore g.id.coreId (·.joinRig { r with phase := .wait }))
    else s.memWord false (sRegs a.val 2) fun g s =>
      if g.tx.isSome then s.abortTx g 6 0
      else (s.put { g with status := .spat, turn := false, pending := [] }).modCore g.id.coreId (·.joinRig r)

/-- The rig of the step's group in a phase, with its group. -/
def State.rigAt (s : State) (p : RigPhase) : Option (Rig × Group) :=
  match s.rig? s.args.group, s.group? s.args.group with
  | some r, some g => if r.phase = p then some (r, g) else none
  | _, _ => none

/-- GRAPH_DESCRIPTOR_READ (R176). -/
def execGraphDescriptorRead (s : State) : Out :=
  match s.rigAt .descriptor with
  | none => .next s
  | some (r, g) =>
    let va := g.seg[0].base + r.desc
    match s.access g .gl r.desc.toNat 64 0 .load with
    | (.error e, s) => .next ((s.dropRig g.id).areaFails g false e)
    | (.ok (_, ps), s) =>
      let bytes := if ps.any Piece.atPeer && !s.args.ok then none else (s.supplied ps).readArea g ps
      match bytes with
      | none => .next ((s.dropRig g.id).raise g (g.wordFault (if s.linkLost ps then cLinkLost else cPoison) g.mask va))
      | some bs =>
        let first := areaDWord bs 0
        if bytesToNat (bs.drop 12) ≠ 0 ∨ first.toNat % 4 ≠ 0 ∨ canonical first.toNat = false then
          .next (s.failRig r cFabricConfig va (fabWords va 1 15 0 0x7F 0 0))
        else .next (s.putRig { r with next := first, maxb := (areaWord bs 8).toNat, phase := .fetch })

/-! ### Blocks (R177, R178, R400) -/

/-- The words of a block as a demand access of the issuing group: the index of the first that fails with its failure. -/
def State.fetchBlock (s : State) (g : Group) (va : DWord) : Except (Nat × TFail) (List Word) × State :=
  match s.fetchWord g va with
  | (.error e, s) => (.error (0, e), s)
  | (.ok h, s) =>
    match s.fetchWords g (va + 4) 1 (headerTail h) with
    | (.error e, s) => (.error e, s)
    | (.ok ws, s) => (.ok (h :: ws), s)

/-- One word read ahead, which is no demand: `none` where it fails. -/
def State.peekWord (s : State) (g : Group) (va : DWord) : Option Word × State :=
  if !canonical va.toNat then (none, s)
  else match s.translate g.id.coreId g.ctx va.toNat .fetch false with
    | (.error _, s) => (none, s)
    | (.ok x, s) =>
      match s.fetchPiece g.id.coreId va.toNat ⟨.pa x.pa, 4, x.cls, x.sparse⟩ with
      | (.ok w, s) => (some w, s)
      | (.error _, s) => (none, s)

/-- Words read ahead. -/
def State.peekWords (s : State) (g : Group) (va : DWord) : Nat → Option (List Word) × State
  | 0 => (some [], s)
  | n + 1 =>
    match s.peekWord g va with
    | (none, s) => (none, s)
    | (some w, s) =>
      match State.peekWords s g (va + 4) n with
      | (some ws, s) => (some (w :: ws), s)
      | (none, s) => (none, s)

/-- The lines that the words of a block came from (R291). -/
def State.blockLines (s : State) (g : Group) (va : DWord) (n : Nat) : List Nat :=
  (s.physRuns g.id.coreId g.ctx (va.toNat + 4 * n) 4 va.toNat).flatMap fun r => linesOf r.1 r.2

/-- The flags of a rig in FPSR of its group (R126, R203). -/
def State.keepFlags (s : State) (r : Rig) : State :=
  match s.group? r.group with
  | some g => s.put (g.raiseFlags r.flags)
  | none => s

/-- A block that a rule rejects (R178, R199, R219, R405): behind a fabric load, that load's drain comes first. -/
def State.rejectBlock (s : State) (r : Rig) (hdr : DWord) (x : Reject) : State :=
  (s.keepFlags r).failRig r cFabricConfig hdr (fabWords hdr 1 15 0 x.2 x.1 0)

/-- A block fetch that fails for good (R178). -/
def State.blockFault (s : State) (r : Rig) (code : Nat) (addr : Nat) : State :=
  let s := (s.keepFlags r).dropRig r.group
  match s.group? r.group with
  | some g =>
    s.raise g { code := code, mask := g.mask, addr := BitVec.ofNat 64 addr, widx := r.widx, retpc := r.retpc, retw := r.widx,
                rp := r.k == 0 && r.block.isNone }
  | none => s

/-! ### Placement (R181 to R184) -/

/-- A quadrant as the allocator sees it: free octets, whether a rig holds a page, running groups, free granules, and whether
it has given its granules to the request. -/
structure Quad where
  q : Nat
  octets : List Nat
  held : Bool
  running : Nat
  free : Nat
  gave : Bool := false
  deriving DecidableEq, Repr

/-- Whether a group runs (R151). -/
def State.runs (s : State) (g : Group) : Bool :=
  s.mayIssue g && match g.status with
    | .running => true
    | .held => true
    | .ending => true
    | _ => false

/-- The quadrants of a core. -/
def State.quads (s : State) (c : CoreId) : List Quad :=
  let used := (s.coreD c).rigs.flatMap (·.pages)
  (List.range 4).map fun q =>
    { q := q
      octets := ((List.range 4).map (4 * q + ·)).filter fun o => !used.contains o
      held := s.quadHeld c q
      running := s.groups.countP fun g => decide (g.id.coreId = c) && g.id.quad == q && s.runs g
      free := s.freeGranules c q }

/-- Whether the first quadrant ranks before the second (R181). -/
def Quad.before (x y : Quad) : Bool :=
  if x.held ≠ y.held then x.held
  else if x.running ≠ y.running then decide (x.running < y.running)
  else if x.free ≠ y.free then decide (y.free < x.free)
  else decide (x.q < y.q)

/-- The first qualifying quadrant for a page with `n` granules. -/
def bestQuad (n : Nat) (l : List Quad) : Option Quad :=
  (l.filter fun x => !x.octets.isEmpty && (x.gave || decide (n ≤ x.free))).foldl (fun b x =>
    match b with
    | some y => if x.before y then some x else some y
    | none => some x) none

/-- Pages taken one at a time: the octets, and the quadrants that give granules. -/
def takePages (n : Nat) : Nat → List Quad → Option (List Nat × List Nat)
  | 0, _ => some ([], [])
  | k + 1, l =>
    match bestQuad n l with
    | none => none
    | some x =>
      match x.octets with
      | [] => none
      | o :: os =>
        let y : Quad := { x with octets := os, held := true, gave := true, free := if x.gave then x.free else x.free - n }
        (takePages n k (l.map fun z => if z.q = x.q then y else z)).map fun r =>
          (o :: r.1, if x.gave then r.2 else x.q :: r.2)

/-- The pages of a block on a core in ascending order, and its granules by quadrant (R179, R181). -/
def State.choosePages (s : State) (c : CoreId) (b : Block) : Option (List Nat × List (Nat × Nat)) :=
  (takePages b.granules (2 ^ b.rigLog) (s.quads c)).map fun r => (r.1.mergeSort, r.2.map fun q => (q, b.granules))

/-- A fabric load on its pages: a new context, every lane to be configured, and the groups of its quadrants parked (R161,
R182, R190, R198). -/
def State.beginLoad (s : State) (r : Rig) : State :=
  let c := r.group.coreId
  let ctx := (s.coreD c).context + 1
  let fresh : List Lane := List.replicate (8 * 2 ^ ((r.block.map (·.rigLog)).getD 0)) {}
  let lanes := if r.gated then r.lanes.map fun l => { l with loaded := false } else fresh
  let s := s.mapGroups fun g => if decide (g.id.coreId = c) && r.pages.any (fun o => o / 4 == g.id.quad) then g.yieldTurn else g
  (s.modCore c fun k => { k with context := ctx }).putRig
    { r with context := ctx, phase := .config, lanes := lanes, ahead := .none, compact := false }

/-- Whether a rig has not been placed yet: its graph is at block 0 (R206). -/
def Rig.unplaced (r : Rig) : Bool := r.k == 0 && !r.gated && r.pages.isEmpty

/-- Whether an unplaced rig of a core issued its SPAT after that of `i` (R206): rigs stand in issue order. -/
def Core.issuedAfter (c : Core) (i : GroupId) (x : PoolReq) : Bool :=
  ((c.rigs.dropWhile fun r => r.group ≠ i).drop 1).any fun r => r.unplaced && decide (x = .rig r.group)

/-- A rig that waits for a placement: its request joins the pool's order (R164, R181), at block 0 in the order in which the
SPATs issued (R206). -/
def State.askPlace (s : State) (r : Rig) : State :=
  (s.putRig { r with phase := .place, pages := [], grans := [] }).modCore r.group.coreId fun c =>
    let later := if r.k = 0 ∧ r.gated = false then c.issuedAfter r.group else fun _ => false
    { c with pool := c.pool.takeWhile (fun x => !later x) ++ .rig r.group :: c.pool.dropWhile fun x => !later x }

/-- Whether an earlier SPAT of the core has not asked for its placement yet (R206). -/
def Core.earlierSpat (c : Core) (r : Rig) : Bool :=
  r.unplaced && (c.rigs.takeWhile fun x => x.group ≠ r.group).any fun x => x.unplaced && (x.phase == .wait || x.phase == .descriptor || x.phase == .fetch)

/-- The oldest request of a core's pool placed, where it is a rig's that fits and holds its claim (R181, R183); a block that
a rule rejects at its load is not placed (R199, R366). -/
def State.placeRig (s : State) (c : CoreId) : State :=
  match (s.coreD c).pool with
  | .rig i :: rest =>
    (match (s.rig? i).bind fun r => r.block.map fun b => (r, b) with
    | none => s.modCore c fun k => { k with pool := rest }
    | some (r, b) =>
      match (s.group? i).bind fun g => s.blockBad g r.k r.maxb b.words with
      | some x => s.rejectBlock r b.addr x
      | none =>
      if b.mx && (s.coreD c).claim != some i || (s.coreD c).earlierSpat r then s
      else match s.choosePages c b with
        | none => s
        | some (ps, gs) => (s.modCore c fun k => { k with pool := rest }).beginLoad { r with pages := ps, grans := gs })
  | _ => s

/-- RIG_PLACEMENT (R181, R182). -/
def execRigPlacement (s : State) : Out := .next (s.placeRig s.args.core)

/-- Whether a core's node has a token outstanding that a group issued (R183): in its queue, or with updates to apply. -/
def State.groupTokens (s : State) (c : CoreId) : Bool :=
  let issued := fun (n : Nat) => s.groups.any fun g => g.id.coreId == c && g.out.any fun o => decide (o.kind = .token n)
  (s.coreD c).updates.any (fun u => issued u.token) || (s.coreD c).node.any fun x => match x with
    | .token _ _ _ _ _ lane _ _ => lane.isNone
    | .drain _ _ _ _ _ _ _ _ _ _ _ _ => false

/-- MATRIX_NODE_CLAIM (R183): by the load whose placement is the pool's oldest request and the next in issue order (R181,
R206), while no other load holds the node and no token that a group issued is outstanding in it. -/
def execMatrixNodeClaim (s : State) : Out :=
  match s.rigAt .place with
  | none => .next s
  | some (r, _) =>
    let c := r.group.coreId
    let k := s.coreD c
    let turn := decide (k.pool.head? = some (.rig r.group)) && !k.earlierSpat r
    if ((r.block.map (·.mx)).getD false) && turn && k.claim.isNone && !s.groupTokens c then
      .next (s.modCore c fun k => { k with claim := some r.group })
    else .next s

/-- The quadrants that only some pages park: those on which no other rig holds a page. -/
def State.parks (s : State) (r : Rig) (pages : List Nat) : Nat :=
  let others := ((s.coreD r.group.coreId).rigs.filter fun x => x.group ≠ r.group).flatMap (·.pages)
  (List.range 4).countP fun q => pages.any (fun o => o / 4 == q) && !others.any fun o => o / 4 == q

/-- Whether R184 places a rig afresh, whose next block could keep its pages. -/
def State.placesAfresh (s : State) (r : Rig) (b : Block) : Bool :=
  r.compact &&
    match (s.putRig { r with pages := [], grans := [] }).choosePages r.group.coreId b with
    | some (ps, _) => decide (s.parks r ps < s.parks r (r.pages.take (2 ^ b.rigLog)))
    | none => false

/-- The other rigs of a core are to be looked at for compaction: a rig has released pages (R184). -/
def State.released (s : State) (i : GroupId) : State :=
  s.modCore i.coreId fun c => { c with rigs := c.rigs.map fun x => if x.group = i then x else { x with compact := true } }

/-- The boundary before the next block (R184, R202): the load keeps its pages, or is placed afresh. -/
def State.nextLoad (s : State) (r : Rig) (b : Block) : State :=
  let c := r.group.coreId
  let n := 2 ^ b.rigLog
  let old := (r.block.map Block.granules).getD 0
  let holds := (s.coreD c).claim == some r.group
  let next : Rig := { r with block := some b, k := r.k + 1, next := b.addr, past := (r.block.map Block.addr).toList ++ r.past }
  let unclaim := fun (s : State) => if holds then s.modCore c fun k => { k with claim := none } else s
  if decide (n ≤ r.pages.length) && decide (b.granules ≤ old) && (!b.mx || holds) && !s.placesAfresh r b then
    let pages := r.pages.take n
    let grans := (r.grans.filter fun x => pages.any fun o => o / 4 == x.1).map fun x => (x.1, b.granules)
    let s := if b.mx then s else unclaim s
    let s := if pages.length < r.pages.length then s.released r.group else s
    s.beginLoad { next with pages := pages, grans := grans }
  else ((unclaim s).released r.group).askPlace next

/-- The next block at its load: checked against every rule (R178, R199, R366). -/
def State.loadNext (s : State) (r : Rig) (g : Group) (b : Block) : State :=
  match s.blockBad g (r.k + 1) r.maxb b.words with
  | some x => s.rejectBlock r b.addr x
  | none => s.nextLoad r b

/-- BLOCK_FETCH (R177, R178): block 0, or a later block whose read-ahead failed. -/
def execBlockFetch (s : State) : Out :=
  match s.rigAt .fetch with
  | none => .next s
  | some (r, g) =>
    match s.fetchBlock g r.next with
    | (.error (_, .absent p va), s) =>
      (match s.startMigration g.ctx p false (Migration.addLane (g.id, 127)) with
      | some s => .next s
      | none => .next (s.blockFault r cNonresident va))
    | (.error (_, .fault c va), s) => .next (s.blockFault r c va)
    | (.ok ws, s) =>
      let b := blockOf r.next ws (s.blockLines g r.next ws.length)
      if r.block.isSome then .next (s.loadNext r g b)
      else match s.blockBad g r.k r.maxb ws with
        | some x => .next (s.rejectBlock r r.next x)
        | none => .next (s.askPlace { r with block := some b })

/-- BLOCK_READ_AHEAD (R178, R400): the next block is fetched while a load runs; a failed fetch leaves no trace. -/
def execBlockReadAhead (s : State) : Out :=
  match s.rig? s.args.group, s.group? s.args.group with
  | some r, some g =>
    (match r.block with
    | none => .next s
    | some b =>
      if b.last || r.ahead != .none || !(r.phase == .running || r.phase == .config) then .next s
      else match s.peekWord g b.nextAddr with
        | (none, s) => .next s
        | (some h, s) =>
          match s.peekWords g (b.nextAddr + 4) (headerTail h) with
          | (none, s) => .next s
          | (some ws, s) =>
            let n := blockOf b.nextAddr (h :: ws) (s.blockLines g b.nextAddr (ws.length + 1))
            .next (s.putRig { r with ahead := .block n }))
  | _, _ => .next s

/-! ### Configuration and start (R175, R198) -/

/-- CONFIG_ITEM_ARRIVAL (R198): the last item of lane t arrives. -/
def execConfigItemArrival (s : State) : Out :=
  match s.rigAt .config with
  | some (r, _) => .next (s.putRig (r.setLane s.args.t { r.lane s.args.t with loaded := true }))
  | none => .next s

/-- The register that a REG item names, as a group holds it (R198, R233). -/
def Group.regItem (g : Group) (wide : Bool) (x : Bool × Nat × Nat) : DWord :=
  let w := fun (n : Nat) => if x.1 then g.sget n else g.vget n x.2.2
  pairOf (w x.2.1) (if wide then w (x.2.1 + 1) else 0)

/-- A lane as its configuration leaves it: ACC's state, RDREG's value, a loop-carried queue's first token (R198, R223,
R231). -/
def Rig.startLane (r : Rig) (g : Group) (n : Nat) (l : Lane) : Lane :=
  let c := r.cfg n
  let w := r.ops[n]?.getD 0
  let o := opFields w
  let rd := match c.reg with
    | some x => if opOf w = oRdreg then g.regItem o.w x else 0
    | none => 0
  let l : Lane := { l with acc := c.constant, rd := rd, doneq := List.replicate c.arcs.length [] }
  if o.c then l.setQueue o.qb.val 0 [⟨c.constant, tagOf 0 r.context.toNat 0 0⟩] else l

/-- A tag under a new context (R421). -/
def retag (ctx : Nat) (t : Token) : Token :=
  ⟨t.val, BitVec.ofNat 32 (t.tag.toNat - tagCtx t.tag * 262144 + ctx % 1024 * 262144)⟩

/-- A lane's saved tokens under a new context (R421). -/
def Lane.refill (ctx : Nat) (l : Lane) : Lane :=
  let f := fun (ts : List Token) => ts.map (retag ctx)
  { l with q := l.q.map f, pq := f l.pq, iq := f l.iq, portq := f l.portq, doneq := l.doneq.map f, group := f l.group,
           outq := f l.outq }

/-- SOURCE_START (R175, R202): every lane is configured, and the sources may emit; a restored load is refilled first
(R421). -/
def execSourceStart (s : State) : Out :=
  match s.rigAt .config with
  | none => .next s
  | some (r, g) =>
    if !r.lanes.all (·.loaded) then .next s
    else if r.gated then
      let ctx := r.context.toNat
      .next (s.putRig { r with
        phase := .running
        gated := false
        lanes := r.lanes.map (Lane.refill ctx)
        accs := r.accs.map fun a => { a with idx := retag ctx a.idx } })
    else
      let cs := r.counters
      .next (s.putRig { r with
        phase := .running
        lanes := r.lanes.zipIdx.map fun x => r.startLane g x.2 x.1
        chain := cs.map fun _ => 0
        chainOn := !cs.isEmpty })

/-! ### Tokens and slots on their way (R187, R191) -/

/-- A rig that runs and is not frozen by an open record (R410). -/
def State.movingRig (s : State) : Option (Rig × Group) :=
  match s.rigAt .running with
  | some (r, g) => if r.open_ then none else some (r, g)
  | none => none

/-- TOKEN_ARRIVAL (R187, R191): the k-th token in flight enters its queue, behind every earlier one on its path. -/
def execTokenArrival (s : State) : Out :=
  match s.movingRig with
  | none => .next s
  | some (r, _) =>
    match r.flight[s.args.k]? with
    | none => .next s
    | some f =>
      if (r.flight.take s.args.k).any fun x => x.src == f.src && x.lane == f.lane && x.qc == f.qc && x.arc == f.arc then .next s
      else if tagCtx f.tok.tag ≠ r.context.toNat then
        .next (s.tokenFault r f.lane (min f.qc 14) f.arc f.tok.tag)
      else
        let l := r.lane f.lane
        let r : Rig := { r with flight := r.flight.eraseIdx s.args.k }
        .next (s.putRig (r.setLane f.lane (l.setQueue f.qc f.arc (l.queue f.qc f.arc ++ [f.tok]))))

/-- SLOT_RETURN (R187): the k-th freed slot is seen by its producers. -/
def execSlotReturn (s : State) : Out :=
  match s.movingRig with
  | some (r, _) => .next (s.putRig { r with returns := r.returns.eraseIdx s.args.k })
  | none => .next s

/-! ### Firing by lane -/

/-- What the operator of a lane would do. -/
def State.fireLane (s : State) (r : Rig) (n : Nat) : Option State :=
  match r.ops[n]? with
  | none => none
  | some w =>
    let op := opOf w
    let o := opFields w
    if op < 0xF0 then s.fireAlu op o r n
    else if op = oSrc then s.fireSrc o r n
    else if op = oSnk then s.fireSnk o r n
    else if op = oCtr then s.fireCtr o r n
    else if op = oSteer then s.fireSteer o r n
    else if op = oMerge then s.fireMerge o r n
    else if op = oAcc then s.fireAcc o r n
    else if op = oOrd then s.fireOrd o r n
    else if op = oConv then s.fireConv o r n
    else if op = oRdreg then s.fireRdreg o r n
    else if op = oWrreg then s.fireWrreg o r n
    else if op = oMtok then s.fireMtok o r n
    else s.fireDup o r n

/-- The first lane of a rig that can fire. -/
def State.firstLane (s : State) (r : Rig) : Option Nat := (List.range r.ops.length).find? fun n => (s.fireLane r n).isSome

/-! ### Memory ports (R226 to R228, R323, R409, R410) -/

/-- The read-modify-write of a PORT operation: its AtomOp (R197, R226). -/
def portAtom (op : Nat) : AtomOp :=
  match op with
  | 1 => .fetchAdd
  | 2 => .fetchAdd
  | 3 => .addF32
  | 4 => .addF64
  | 5 => .addBf16
  | 6 => .minI32
  | 7 => .maxI32
  | _ => .swap

/-- The orders of PORT (R78). -/
def PortCfg.mo (p : PortCfg) : Order :=
  match p.order with
  | 0 => .rlx
  | 1 => .acq
  | 2 => .rel
  | 3 => .acqrel
  | _ => .sc

/-- A failed port access: the migration that R299 allows, or its record (R409, R410). -/
def State.portFails (s : State) (r : Rig) (g : Group) (a : PortAcc) (p : PortCfg) (write : Bool) (e : TFail) : State :=
  let note := fun (s : State) (c va : Nat) =>
    s.putRig { r with recs := r.recs ++
      [{ header := r.hdr, lane := a.lane, code := c, iter := a.iter, base := p.base, stride := p.stride, value := p.value,
         va := BitVec.ofNat 64 va }] }
  match e with
  | .absent q va =>
    (match s.startMigration g.ctx q write (Migration.addLane (g.id, a.lane)) with
    | some s => s
    | none => note s cNonresident va)
  | .fault c va => note s c va

/-- The token that an SRC's bytes give (R226, R227). -/
def srcValue (size : Nat) (signed : Bool) (x : Nat) : DWord :=
  if size < 4 then (if signed then (trunc32 (sx x (8 * size))).zeroExtend 64 else BitVec.ofNat 64 x) else BitVec.ofNat 64 x

/-- A port access that has replied: the result token, and the done token (R226, R228). -/
def Rig.portDone (r : Rig) (a : PortAcc) (res : DWord) : Rig :=
  let r : Rig := { r with accs := r.accs.filter fun x => ¬ (x.lane = a.lane ∧ x.iter = a.iter) }
  let r := match r.ops[a.lane]? with
    | some w =>
      let o := opFields w
      if opOf w = oSrc ∧ ¬ (o.f = true ∧ r.marked a.lane a.idx.tag = false) ∧ o.dq.val ≠ 14 then
        r.flush a.lane o.dl.val o.dq.val ((r.lane a.lane).outq ++ [(⟨res, a.idx.tag⟩ : Token)])
      else r
    | none => r
  match r.arcOf a.lane with
  | some (l, i) => r.send a.lane l 15 i ⟨0, a.idx.tag⟩
  | none => r

/-- One event of a port performed: the old value or the value loaded, and `none` where it must wait for invalidations. An S
store at a scope beyond the core goes on to the L2 (R286). -/
def State.portEvent (s : State) (g : Group) (p : PortCfg) (write : Bool) (v : Nat) (ps : List Piece) : Option Nat × State :=
  let sc := p.scope
  let c := g.id.coreId
  if write && p.mo.releases && !s.releasable c sc then (none, s.claimBack c fun _ => true)
  else if !write then
    if (s.plainPieces g g.seq ps).any (s.awaitsAck g.id.die) then (none, s)
    else
      let s := if p.mo.acquires then s.acquireL1 c sc else s
      let x := ((s.readArea g ps).map bytesToNat).getD 0
      let t := s.fillPieces c (s.plainPieces g g.seq ps)
      (some x, t)
  else if p.op = 0 then
    match ps with
    | [q] =>
      let past := q.cls = .s ∧ sc ≠ .grp ∧ sc ≠ .core
      if past ∧ s.ownableAll (some c.die) q.runs = false then (none, s.claimAll (some c.die) q.runs)
      else if s.writable c q then
        let s := if p.mo.releases then s.releaseL1 c sc else s
        let s := s.writePiece g.id q (natToBytes p.size v)
        (some 0, if past then s.writeBackS c (inRuns q.runs) else s)
      else (none, s.claim c q)
    | _ => (none, s)
  else
    match s.atomPlaces c ps with
    | (false, s) => (none, s)
    | (true, s) =>
      let s := if p.mo.releases then s.releaseL1 c sc else s
      let r := s.rmw g.id (portAtom p.op) p.size v 0 ps
      let t := if p.mo.acquires then r.2.acquireL1 c sc else r.2
      (some r.1, t)

/-- The oldest access of a lane's port performed, or its failure. Where a peer denies it a load takes POISON, an atomic REMOTE_ATOMIC, and
a store is discarded and logged in FLOG (R436). An atomic that is lost beyond a portal may have been performed there (R341). -/
def State.portStep (s : State) (r : Rig) (g : Group) (a : PortAcc) (p : PortCfg) (op : Nat) (o : SFields) (f : Bool) : State :=
  let size := p.size
  let two := o.w && size == 4
  let second := two && a.lo.isSome
  let off : Int := (p.base.toNat : Int) + (loWord a.idx.val).toInt * p.stride.toInt + (if second then 4 else 0)
  let seg : Seg := if p.sh then .sh else .gl
  let write := op == oSnk || p.op != 0
  let need : Need := if op == oSnk && p.op == 0 then .store else if write then .both else .load
  let base := (g.segment seg).base.toNat
  if off < 0 ∨ (if p.sh then (2 : Int) ^ 32 else 2 ^ 64) ≤ off then
    s.portFails r g a p write (.fault cSegment (trunc64 ((base : Int) + off)).toNat)
  else
    match s.access g seg off.toNat size 0 need with
    | (.error e, s) => s.portFails r g a p write e
    | (.ok (va, ps), s) =>
      if s.blocked g g.seq 96 ps (!write) false || !s.reachable ps then s
      else
        let ps := s.resolvePieces ps
        let beyond := (⟨0, 0, ps, []⟩ : Target).beyondPortal
        let linked := ps.any fun q => match q.spot with
          | .pa x => !isHbm x
          | _ => false
        let host := ps.any fun q => match q.spot with
          | .pa x => !portalCarries p.op x
          | _ => false
        let fail := fun (s : State) (c : Nat) => s.portFails r g a p write (.fault c va)
        let atomic := p.op != 0
        if host || (atomic && beyond && s.args.reply == .refused) then fail s cRemoteAtomic
        else
          let data := (a.data.getD 0).toNat
          let v := if second then data / 4294967296 else if two then data % 4294967296 else data % 2 ^ (8 * size)
          let loads := op == oSrc || p.op != 0
          if s.linkLost ps then fail s cLinkLost
          else if linked && s.args.reply == .lost then
            fail (if beyond && write && loads && s.args.ok then (s.portEvent g p write v ps).2 else s) cLinkLost
          else
            let s := s.supplied ps
            let denied := ps.any Piece.atPeer && (!s.args.ok || s.args.reply == .refused)
            if atomic && denied then fail s cRemoteAtomic
            else if loads && (denied || (s.readArea g ps).isNone) then fail s cPoison
            else
              let discard := s.flog g.task cPoison (BitVec.ofNat 64 va) (locWord g.id.coreId) (s.depth g.id.coreId)
              match (if denied then (some 0, discard) else s.portEvent g p write v ps) with
              | (none, s) => s
              | (some x, s) =>
                if two && !second then
                  let first : PortAcc := { a with lo := some (BitVec.ofNat 32 x) }
                  s.putRig { r with accs := r.accs.map fun y => if y.lane = a.lane ∧ y.iter = a.iter then first else y }
                else
                  let res := if second then pairOf (a.lo.getD 0) (BitVec.ofNat 32 x) else srcValue size f x
                  s.putRig (r.portDone a res)

/-- Whether nothing of a rig can go on but its ports' records (R409). -/
def State.rigSettled (s : State) (r : Rig) : Bool :=
  r.flight.isEmpty && r.returns.isEmpty && (s.firstLane r).isNone &&
    r.accs.all fun a => r.recs.any fun x => x.lane == a.lane

/-- PORT_REPLY (R228, R409): the oldest access of lane t is performed or fails; once everything else stands still, the next
record is delivered. -/
def execPortReply (s : State) : Out :=
  match s.movingRig with
  | none => .next s
  | some (r, g) =>
    if !r.recs.isEmpty && s.rigSettled r then .next (s.deliverRecord r)
    else
      let n := s.args.t
      match r.accs.find? fun a => a.lane = n, (r.cfg n).port, r.ops[n]? with
      | some a, some p, some w =>
        if r.recs.any fun x => x.lane == n then .next s
        else .next (s.portStep r g a p (opOf w) (opFields w) (r.cfg n).f)
      | _, _, _ => .next s

/-! ### Quiescence and the drain (R201 to R203) -/

/-- Whether a lane holds no token. -/
def Lane.empty (l : Lane) (dup : Bool) : Bool :=
  l.q.toList.all List.isEmpty && l.pq.isEmpty && l.iq.isEmpty && l.portq.isEmpty && l.doneq.all List.isEmpty && l.outq.isEmpty &&
    (!dup || l.group.isEmpty)

/-- Whether the sources can emit no more (R201): the chain has ended, and every RDREG without an index has fired. -/
def Rig.sourcesDone (r : Rig) : Bool :=
  !r.chainOn && r.ops.zipIdx.all fun x => opOf x.1 != oRdreg || (opFields x.1).qa.val != 14 || (r.lane x.2).fired

/-- Whether a rig holds no token, no slot on its way and no reply (R201). -/
def Rig.drained (r : Rig) : Bool :=
  r.flight.isEmpty && r.returns.isEmpty && r.accs.isEmpty && r.recs.isEmpty &&
    r.lanes.zipIdx.all fun x => x.1.empty ((r.ops[x.2]?.map opOf) == some oDup)

/-- Whether the emptiness detector reports quiescence. -/
def Rig.quiescent (r : Rig) : Bool := r.drained && r.sourcesDone

/-- A load's WRREG results written to the issuing group's registers (R202, R233). -/
def Rig.writeRegs (r : Rig) (g : Group) : Group :=
  r.lanes.zipIdx.foldl (fun (g : Group) x =>
    match x.1.wr, (r.cfg x.2).reg with
    | some v, some (sc, n, t) =>
      let wide := ((r.ops[x.2]?).map fun w => (opFields w).w).getD false
      let one := fun (g : Group) (n : Nat) (w : Word) => if sc then g.sset n w else g.vput n t w
      if wide then one (one g n (loWord v)) (n + 1) (hiWord v) else one g n (loWord v)
    | _, _ => g) g

/-- The end of the graph (R203): flags, release, and the group at the header after its SPAT clause. -/
def State.drainToSimt (s : State) (r : Rig) : State :=
  let s := (s.keepFlags r).dropRig r.group
  match s.group? r.group with
  | some g =>
    let h := ({ g with status := .running } : Group).jumpTo (r.retpc + BitVec.ofNat 64 (4 * (r.widx + 1)))
    s.put { h with serial := h.serial.orElse fun _ => g.serial }
  | none => s

/-- QUIESCENCE (R201 to R203): the WRREG results are written; then the graph ends, or the next block loads. -/
def execQuiescence (s : State) : Out :=
  match s.movingRig with
  | none => .next s
  | some (r, g) =>
    match r.block with
    | none => .next s
    | some b =>
      if !r.quiescent then .next s
      else
        let s := s.put (r.writeRegs g)
        if b.last then .next (s.drainToSimt r)
        else match r.ahead with
          | .block n => .next (s.loadNext r (r.writeRegs g) n)
          | .none => .next (s.putRig { r with phase := .fetch, next := b.nextAddr })

/-! ### A stuck rig (R204, R205, R405) -/

/-- The input queues of a lane: codes and arcs. -/
def Rig.inputs (r : Rig) (n : Nat) : List (Nat × Nat) :=
  match r.ops[n]? with
  | none => []
  | some w =>
    let op := opOf w
    let o := opFields w
    if op = oOrd then (List.range (r.cfg n).arcs.length).map fun i => (15, i)
    else ((codeQueue o.qa.val ++ (if op = oSnk ∧ o.qb.val = 14 then [14] else codeQueue o.qb.val) ++
      if o.g = true ∨ op = oSteer ∨ op = oMerge then [12] else []).dedup).map fun q => (q, 0)

/-- Tokens of MERGE's queues that have a partner: each predicate token takes its own from the queue that it selects. -/
def mergeMatched (qa qb : Nat) : List Token → Nat → Nat → Nat → Nat → Nat × Nat × Nat
  | [], _, _, i, j => (i, j, i + j)
  | t :: ts, a, b, i, j =>
    if bitOf t.val.toNat 0 then (if a = 0 then (i, j, i + j) else mergeMatched qa qb ts (a - 1) (if qa = qb then b - 1 else b) (i + 1) j)
    else (if b = 0 then (i, j, i + j) else mergeMatched qa qb ts (if qa = qb then a - 1 else a) (b - 1) i (j + 1))

/-- How many tokens of a queue have a partner in every other input queue of the lane. -/
def Rig.matched (r : Rig) (n : Nat) (key : Nat × Nat) : Nat :=
  let l := r.lane n
  let ins := r.inputs n
  match r.ops[n]? with
  | none => 0
  | some w =>
    let o := opFields w
    if opOf w = oMerge then
      let m := mergeMatched o.qa.val o.qb.val l.pq (l.queue o.qa.val 0).length (l.queue o.qb.val 0).length 0 0
      if key.1 = 12 then m.2.2
      else (if key.1 = o.qa.val then m.1 else 0) + (if key.1 = o.qb.val then m.2.1 else 0)
    else if ins.contains key then (ins.map fun k => (l.queue k.1 k.2).length).min?.getD 0
    else 0

/-- The queues of a lane in the order of R405. -/
def Rig.queueKeys (r : Rig) (n : Nat) : List (Nat × Nat) :=
  (List.range 15).map (fun q => (q, 0)) ++ (List.range (r.cfg n).arcs.length).map fun i => (15, i)

/-- The lowest lane and queue that hold a token with no partner, with that token. -/
def Rig.unmatched (r : Rig) : Option (Nat × (Nat × Nat) × Token) :=
  (List.range r.lanes.length).findSome? fun n =>
    (r.queueKeys n).findSome? fun k => (((r.lane n).queue k.1 k.2)[r.matched n k]?).map fun t => (n, k, t)

/-- RIG_STUCK (R204): nothing of the rig can move, nothing is outstanding, and it is not quiescent. -/
def execRigStuck (s : State) : Out :=
  match s.movingRig with
  | none => .next s
  | some (r, _) =>
    if r.gated || r.quiescent || !r.flight.isEmpty || !r.returns.isEmpty || !r.accs.isEmpty || !r.recs.isEmpty ||
        (s.firstLane r).isSome then .next s
    else
      let ws := match r.unmatched with
        | some (n, k, t) => fabWords r.hdr 3 (min k.1 14) k.2 n (n + 1) t.tag
        | none => fabWords r.hdr 3 15 0 0x7F 0 0
      .next (s.failRig r cFabricToken r.hdr ws)

/-! ### Saving a rig (R421, R422) -/

/-- Whether a rig's team is being pre-empted. -/
def State.rigTaken (s : State) (g : Group) : Bool := ((s.teamOf g).map (·.taken)).getD false

/-- Whether the drain back to SIMT has started (R203): it runs to its end first. -/
def Rig.ending (r : Rig) : Bool := ((r.block.map (·.last)).getD false) && r.sourcesDone

/-- RIG_SAVE (R421): the chain of a running rig whose team is pre-empted is gated; once drained, the rig stands still. A rig that drains
back to SIMT is not taken, but for one with a port fault record open (R422). -/
def execRigSave (s : State) : Out :=
  match s.rigAt .running with
  | none => .next s
  | some (r, g) =>
    if !s.rigTaken g || (!r.gated && r.ending && !r.open_ && r.recs.isEmpty) then .next s
    else if !r.gated then .next (s.putRig { r with gated := true })
    else .next (if r.drained then s.putRig { r with phase := .quiet } else s)

/-- RIG_SAVE_TIMEOUT (R421): a gated rig in which nothing moves stands still as it is. -/
def execRigSaveTimeout (s : State) : Out :=
  match s.rigAt .running with
  | none => .next s
  | some (r, _) =>
    if r.gated && r.flight.isEmpty && r.returns.isEmpty && (r.open_ || (s.firstLane r).isNone) then
      .next (s.putRig { r with phase := .quiet })
    else .next s

end Sys2Proof.Machine
end

