-- ==== Sys2Proof/Machine/Migration.lean ====
section
/-! DEFINITION. The end of a page migration: its completion and the replay, or its abandonment (R300, R301, R397,
R398). -/

namespace Sys2Proof.Machine

/-! ### The page -/

/-- Bytes that a page's frame holds (R292). -/
def Migration.bytes (m : Migration) : Nat := if bitOf m.pte.toNat 57 then m.size / 2 else m.size

/-- A frame's bytes and poison copied to another frame. -/
def State.copyFrame (s : State) (src dst n : Nat) : State :=
  let t := (List.range n).foldl (fun (s : State) i => s.writePa (dst + i) (s.readPa (src + i))) s
  if s.poison.isEmpty then t
  else
    let bad := ((List.range n).filter fun i => s.poisoned (.pa (src + i)) 1).map fun i => Poison.cell (s.eccOf (.pa (dst + i)))
    let gone := (List.range n).map fun i => Poison.cell (s.eccOf (.pa (dst + i)))
    { t with poison := bad.dedup ++ t.poison.filter fun x => !gone.contains x }

/-- The entry as step 3 of R300 writes it. -/
def Migration.newEntry (m : Migration) : DWord :=
  let keep := m.pte.toNat / 2 ^ 40 * 2 ^ 40 + m.frame / 4096
  BitVec.ofNat 64 keep ||| BitVec.ofNat 64 (2 ^ 63 + acDt (if m.wr then .store else .load))

/-- Whether the links that a migration's copy uses are up (R301, R401). -/
def State.migrationLinks (s : State) (m : Migration) : Bool := s.linkUp m.backing && s.linkUp m.frame

/-- A migration off the list. -/
def State.dropMigration (s : State) (m : Migration) : State :=
  { s with migrations := s.migrations.filter fun x => x.entry ≠ m.entry }

/-! ### Abandonment (R301) -/

/-- The first address of some runs of a context that a migration's entry maps. -/
def State.firstIn (s : State) (m : Migration) (ctx : Nat) (runs : List (Nat × Nat)) : Nat :=
  (((runs.flatMap fun r => engineCuts r.1 r.2).map (·.1)).find? fun a => s.entryOf ctx a == some m.entry).getD m.page

/-- The tensor that a group's current word names where that word is TDEF. -/
def Group.atTdef (g : Group) : Option (Fin 256) :=
  match decodeWord (g.clause.words[g.clause.next]?.getD 0) none with
  | .ok (.tdef t) => some t
  | _ => none

/-- A waiting group's LINK_LOST at the access that missed the page, or at its fetch; TDEF's is a delayed fault (R375). -/
def State.failWaiter (s : State) (m : Migration) (i : GroupId) : State :=
  let s : State := { s with migrations := s.migrations.map fun x => { x with waiters := x.waiters.filter fun j => j ≠ i } }
  match s.group? i with
  | none => s
  | some g =>
    let x := ((g.missed.find? fun x => s.entryOf g.ctx x.2.1 == some m.entry).orElse fun _ => g.missed.head?).getD (0, m.page, false)
    match g.replay with
    | some k =>
      (match g.atTdef with
      | some t =>
        let h : Group := { g with status := .running, turn := false, replay := none, missed := [] }
        s.issueEng (h.delay cLinkLost g.clause.addr g.clause.next) { seq := 0, ctr := 0, kind := .tdef, d := t.val }
      | none => s.raise { g with replay := none, missed := [] }
          { g.wordFault cLinkLost k (BitVec.ofNat 64 x.2.1) with write := x.2.2 })
    | none => s.raise { g with missed := [] } (g.fetchFault x.1 (.fault cLinkLost x.2.1))

/-- A waiting copy's or drain's LINK_LOST (R359, R369). -/
def State.failWaitingCopy (s : State) (m : Migration) (x : GroupId × Nat) : State :=
  let c := x.1.coreId
  match (s.coreD c).copies.find? fun y => y.id = x.2 with
  | some y =>
    let p := rowSpan y.tensor y.org y.row
    let b := y.seg.base.toNat
    s.faultCopy c y cLinkLost (s.firstIn m (ctxOf y.task) [(b + p.off, elemBytes y.tensor.fmt p.count),
      (b + (p.md y.tensor y.org).1, (p.md y.tensor y.org).2)])
  | none =>
    match (s.coreD c).drains.find? fun d => d.id = x.2 with
    | some d =>
      let runs := (List.range 64).map fun r =>
        let p := rowSpan d.tensor d.org r
        (d.seg.base.toNat + p.off, elemBytes d.tensor.fmt p.count)
      let s := s.modCore c fun z => { z with drains := z.drains.filter fun y => y.id ≠ d.id }
      s.modXb d.task d.lin d.xb fun b => b.copyFault cLinkLost (BitVec.ofNat 64 (s.firstIn m (ctxOf d.task) runs)) true
    | none => s

/-- A waiting rig's LINK_LOST: of its block fetch, or of a lane's port (R178, R409). -/
def State.failWaitingLane (s : State) (m : Migration) (x : GroupId × Nat) : State :=
  match s.rig? x.1, s.group? x.1 with
  | some r, some g =>
    if x.2 = 127 then s.blockFault r cLinkLost (s.firstIn m g.ctx [(r.next.toNat, 65536)])
    else
      match r.accs.find? fun a => a.lane = x.2, (r.cfg x.2).port with
      | some a, some p =>
        let off : Int := (p.base.toNat : Int) + (loWord a.idx.val).toInt * p.stride.toInt + (if a.lo.isSome then 4 else 0)
        s.portFails r g a p (r.portWrites a.lane) (.fault cLinkLost (trunc64 ((g.seg[0].base.toNat : Int) + off)).toNat)
      | _, _ => s
  | _, _ => s

/-- A migration abandoned: its entry stays invalid, and whatever waits takes LINK_LOST. The spec does not say what else the entry
holds then: it is written back as it was before the migration, unmarked, and a store made to it meanwhile is lost (DESIGN CHOICE, log
entry 48). -/
def State.abandonMigration (s : State) (m : Migration) : State :=
  let s := ((s.deviceWrite none (.pa m.entry) (natToBytes 8 m.pte.toNat)).dropMigration m).disown fun l =>
    (decide (m.frame ≤ l) && decide (l < m.frame + m.bytes)) || (decide (m.backing ≤ l) && decide (l < m.backing + m.bytes))
  let s := m.waiters.foldl (fun s i => s.failWaiter m i) s
  let s := m.copies.foldl (fun s x => s.failWaitingCopy m x) s
  m.lanes.foldl (fun s x => s.failWaitingLane m x) s

/-- Every migration whose copy needs a link that is down, abandoned. -/
def State.abandonLost (s : State) : State :=
  (s.migrations.filter fun m => !s.migrationLinks m).foldl State.abandonMigration s

/-! ### Completion (R300 steps 2 to 5) -/

/-- A group on after its last page: its word is replayed for the threads that missed, or its clause fetched again (R398). -/
def Group.resumeReplay (g : Group) : Group :=
  let h : Group := { g with status := .running, turn := false, replay := none, missed := [] }
  match g.replay with
  | some k => { h.setMask k with restore := some (g.restore.getD g.mask) }
  | none => h

/-- Groups that wait for no migration any more, on. -/
def State.resumeWaiters (s : State) (ws : List GroupId) : State :=
  ws.foldl (fun (s : State) i =>
    if s.migrations.any fun m => m.waiters.contains i then s
    else match s.group? i with
      | some g => if g.status = .migrating then s.put g.resumeReplay else s
      | none => s) s

/-- The lines whose copies a migration's copy and its write of the entry wait for: every copy of a line of the frame, the
host's of the source (R447) and every one of the entry's. -/
def State.migrationLines (s : State) (m : Migration) : List Nat :=
  (s.dir.filter fun e => (decide (m.frame ≤ e.line) && decide (e.line < m.frame + m.bytes)) ||
    (e.host && decide (m.backing ≤ e.line) && decide (e.line < m.backing + m.bytes)) || decide (e.line = lineOf m.entry)).map (·.line)

/-- A migration completed: the copy, the entry, the return ring and the replays; it waits while a listed copy remains, and
while the ring is full. -/
def State.finishMigration (s : State) (m : Migration) (c : Ctx) : State :=
  let lines := s.migrationLines m
  if !lines.isEmpty then lines.foldl (fun s l => s.invalidate none l) s
  else
    let t := (s.copyFrame m.backing m.frame m.bytes).deviceWrite none (.pa m.entry) (natToBytes 8 m.newEntry.toNat)
    match t.ringPush (c.desc + 0xA0) (natToBytes 8 (m.backing + sizeIndex m.size)) with
    | none => s
    | some t => (t.dropMigration m).resumeWaiters m.waiters

/-- MIGRATION_COMPLETE (R300, R301): the k-th migration ends; without `ok` its copy fails. It waits while a checkpoint's images are
made (R453). -/
def execMigrationComplete (s : State) : Out :=
  match s.migrations[s.args.k]? with
  | none => .next s
  | some m =>
    if s.imaging then .next s
    else if !s.args.ok || !s.migrationLinks m then .next (s.abandonMigration m)
    else match s.ctx? m.ctx with
      | some c => .next (s.finishMigration m c)
      | none => .next (s.dropMigration m)

end Sys2Proof.Machine
end

