-- ==== Sys2Proof/Machine/Scheduler.lean ====
section
/-! DEFINITION. The schedulers: starting, moving, pre-empting, saving and restoring teams, the register pool, the launch
window, successors, remote sleepers, contexts (R149, R164, R171, R241 to R245, R418 to R423, R431, R437, R438). -/

namespace Sys2Proof.Machine

/-! ### The pool (R149, R164) -/

/-- A GROW granted, where its granules are free. -/
def State.grantGrow (s : State) (c : CoreId) (rest : List PoolReq) (i : GroupId) (b : Nat) : State :=
  let done := s.modCore c fun k => { k with pool := rest }
  match s.group? i with
  | none => done
  | some g =>
    let more := b - g.v.length
    if 3 * more / 8 ≤ s.freeGranules c g.id.quad then
      done.put ({ g with v := g.v ++ List.replicate more (Vector.replicate 96 0) } : Group).unhold
    else s

/-- A CTXLD granted, where a slot and its registers are free (R149): the restored group may issue, and its slot number is
the result. -/
def State.grantCtxld (s : State) (c : CoreId) (rest : List PoolReq) (i : GroupId) (d : Nat) (saved : Group) : State :=
  let done := s.modCore c fun k => { k with pool := rest }
  match s.group? i with
  | none => done
  | some g =>
    match s.placement c none [saved.v.length] with
    | some [slot] =>
      let h : Group := { saved with id := ⟨c.die, c.core, slot⟩ }
      let o : Outst := { seq := 0, ctr := 0, kind := .ctxld, dst := [.s d], res := [(0, [BitVec.ofNat 32 slot])] }
      let t := done.put (g.issueLong o).unhold
      { t with groups := t.groups ++ [h] }
    | _ => s

/-- The oldest request of a core's pool granted, where it fits (R164). -/
def State.grantPool (s : State) (c : CoreId) : State :=
  match (s.coreD c).pool with
  | [] => s
  | .rig _ :: _ => s.placeRig c
  | .grow i b :: rest => s.grantGrow c rest i b
  | .ctxld i d saved :: rest => s.grantCtxld c rest i d saved

/-- POOL_GRANT (R164). -/
def execPoolGrant (s : State) : Out := .next (s.grantPool s.args.core)

/-! ### Starting teams (R243, R244, R420) -/

/-- A team that a core can take: an unstarted one of a task, or a saved one, with its place. -/
inductive Start where
  | fresh (t : Task) (lin : Nat) (p : List Nat × Nat)
  | back (v : Saved) (p : List Nat × Nat)
  deriving DecidableEq, Repr

/-- The first team of a queue entry on a core, where it fits. -/
def State.tryEntry (s : State) (c : CoreId) (r : Ready) : Option Start :=
  match s.task? r.task with
  | none => none
  | some t =>
    if r.saved then
      (s.saved.find? fun v => v.team.task = r.task ∧ v.team.lin = r.first).bind fun v =>
        (s.savedRoom c none v).map fun p => .back v p
    else (s.roomFor c none t r.first t.budgets false).map fun p => .fresh t r.first p

/-- EPRIO of an entry's task. -/
def State.entryPrio (s : State) (r : Ready) : Nat := ((s.task? r.task).map (·.eprio)).getD 0

/-- The first team of a queue that fits a core, from the highest priority downwards (R243). -/
def State.nextStart (s : State) (c : CoreId) (queue : List Ready) : Option Start :=
  (List.range 8).findSome? fun i => (queue.filter fun r => s.entryPrio r + i = 7).findSome? (s.tryEntry c)

/-- TEAM_START (R243, R244): the core starts the team that its die's queues give it, where that is an unstarted one. -/
def execTeamStart (s : State) : Out :=
  let c := s.args.core
  match s.nextStart c (s.ready.filter fun r => r.die = c.die) with
  | some (.fresh t lin p) => .next (s.startTeam c t lin 0 p)
  | _ => .next s

/-- TEAM_RESTORE (R420): the core takes the team that the queues of die n give it, where that is a saved one. Only cores
of the die take its unstarted teams. -/
def execTeamRestore (s : State) : Out :=
  let c := s.args.core
  match s.nextStart c (s.ready.filter fun r => r.die = s.args.n ∧ (r.saved = true ∨ s.args.n = c.die)) with
  | some (.back v p) =>
    let s := s.restoreSaved c v 0 p
    (match s.task? v.team.task with
    | some t => .next (if v.team.live = 0 then s.freeCluster t v.team.lin else s)
    | none => .next s)
  | _ => .next s

/-- TEAM_BALANCE (R243): of the k-th queue entry, the n teams from linear index x move to die t: the unstarted members of a
cluster together, to the die to which its started members bind them (R155). -/
def execTeamBalance (s : State) : Out :=
  let a := s.args.x.toNat
  let n := s.args.n
  match s.ready[s.args.k]? with
  | none => .next s
  | some r =>
    match s.task? r.task with
    | none => .next s
    | some t =>
      let whole := (a % t.k == 0 || a == r.first) && ((a + n) % t.k == 0 || a + n == r.first + r.count)
      let bound := ((s.clusterDie t a false).map fun d => d == s.args.t).getD true
      if !r.saved && whole && bound && decide (r.first ≤ a) && decide (a + n ≤ r.first + r.count) && decide (s.args.t < 8) then
        let parts := [{ r with count := a - r.first }, { r with first := a, count := n, die := s.args.t },
          { r with first := a + n, count := r.first + r.count - (a + n) }].filter fun x => x.count ≠ 0
        .next { s with ready := s.ready.take s.args.k ++ parts ++ s.ready.drop (s.args.k + 1) }
      else .next s

/-! ### Choosing teams to pre-empt (R171, R418) -/

/-- The teams adopted above a waiting team in a stack of frames, the top first. -/
def framesAbove (w : TaskKey × Nat) : List Frame → List (TaskKey × Nat)
  | [] => []
  | f :: fs => if (f :: fs).any fun x => decide (x.waiter = w) then f.adopted :: framesAbove w fs else []

/-- A state without some teams and what they hold. -/
def State.without (s : State) (ts : List (TaskKey × Nat)) : State :=
  let gone := (s.groups.filter fun g => ts.contains (g.task, g.lin)).map (·.id)
  let one := fun (k : Core) =>
    { k with
      frames := k.frames.filter fun f => !ts.contains f.adopted
      rigs := k.rigs.filter fun r => !gone.contains r.group
      pool := k.pool.filter fun x => !gone.contains x.group }
  { s with
    groups := s.groups.filter fun g => !ts.contains (g.task, g.lin)
    teams := s.teams.filter fun t => !ts.contains (t.task, t.lin)
    cores := s.cores.map one }

/-- A team with the teams adopted above it. -/
def State.withAbove (s : State) (u : Team) : List (TaskKey × Nat) :=
  framesAbove (u.task, u.lin) (s.coreD u.core).frames ++ [(u.task, u.lin)]

/-- Whether every live group of a team waits on a barrier of which a queue entry's team is an unstarted member (R171). -/
def State.waitsOnMember (s : State) (u : Team) (r : Ready) : Bool :=
  let k := ((s.task? u.task).map (·.k)).getD 1
  let gs := s.groups.filter fun g => g.task = u.task ∧ g.lin = u.lin
  let on := fun (lv : BarLevel) => match lv with
    | .team => false
    | .cluster => decide (r.first / k = u.lin / k)
    | .launch => true
  !r.saved && decide (r.task = u.task) && !gs.isEmpty && gs.all fun g =>
    match g.status, g.wait.map Wait.kind with
    | .held, some (.phase lv _ _) => on lv
    | .held, some (.arrive lv _ _) => on lv
    | _, _ => false

/-- The resident teams of a core that may be pre-empted for a queue entry, in the order of R418: lower priority, lowest
first and most recently started first, then those of R171. -/
def State.candidates (s : State) (c : CoreId) (r : Ready) : List Team :=
  let e := fun (u : Team) => ((s.task? u.task).map (·.eprio)).getD 0
  let mine := s.teams.filter fun u => u.core = c ∧ u.live ≠ 0 ∧ u.taken = false
  let low := (mine.filter fun u => e u < s.entryPrio r).mergeSort fun x y =>
    decide (e x < e y) || (decide (e x = e y) && decide (y.started ≤ x.started))
  low ++ mine.filter fun u => decide (s.entryPrio r ≤ e u) && s.waitsOnMember u r

/-- The fewest candidates whose leaving makes room for an entry's team, with the teams above them. -/
def State.victims (s : State) (c : CoreId) (r : Ready) (gone : List (TaskKey × Nat)) : List Team → Option (List (TaskKey × Nat))
  | [] => if ((s.without gone).tryEntry c r).isSome then some gone else none
  | u :: us =>
    if ((s.without gone).tryEntry c r).isSome then some gone else s.victims c r (gone ++ s.withAbove u) us

/-- The size of a team's state that a program can see, as the room that its save takes (log entry 11). -/
def State.saveRoom (s : State) (u : Team) : Nat :=
  Config.saveBytes (u.shLen + ((s.groups.filter fun g => g.task = u.task ∧ g.lin = u.lin).map fun g => areaSize g.v.length).sum)

/-- Whether the save pools of their contexts hold room for some teams (R418). -/
def State.poolHas (s : State) (us : List Team) : Bool :=
  us.all fun u =>
    let n := ctxOf u.task
    let used := ((s.saved.filter fun v => ctxOf v.team.task = n).map (·.room)).sum
    let need := ((us.filter fun x => ctxOf x.task = n).map s.saveRoom).sum
    ((s.ctx? n).map fun x => decide (used + need ≤ x.savesz)).getD false

/-- PREEMPTION_TIMEOUT (R171, R418): the team of the k-th queue entry has fitted on no core of its die for long enough, and
teams of the step's core are taken to make room. -/
def execPreemptionTimeout (s : State) : Out :=
  let c := s.args.core
  match s.ready[s.args.k]? with
  | none => .next s
  | some r =>
    if r.die ≠ c.die ∨ (List.range (s.coresOf c.die)).any (fun i => (s.tryEntry ⟨c.die, i⟩ r).isSome) then .next s
    else
      let going := ((s.teams.filter fun u => u.core = c ∧ u.taken = true).flatMap s.withAbove).dedup
      match s.victims c r going (s.candidates c r) with
      | none => .next s
      | some vs =>
        let us := s.teams.filter fun u => u.taken = false ∧ vs.contains (u.task, u.lin) = true
        if s.poolHas us then
          .next { s with teams := s.teams.map fun u => if vs.contains (u.task, u.lin) then { u with taken := true } else u }
        else .next s

/-! ### Saving a team (R419 to R423) -/

/-- Whether a rig stands where a save may take it (R421, R422). -/
def Rig.takeable (r : Rig) : Bool := decide (r.phase ≠ .running)

/-- Whether a group of a team being pre-empted is taken (R419): a running group at a header, a parked or waiting one where
it stands, as one whose SPAT waits for its results does (R422), its results written and its accesses performed. -/
def State.takeable (s : State) (g : Group) : Bool :=
  !g.ownWork && ((s.rig? g.id).map Rig.takeable).getD true &&
    match g.status with
    | .running => decide (g.stage ≠ .issuing) || (g.tx.bind (·.seen)).isSome || !s.mayIssue g ||
        ((s.rig? g.id).map (·.phase)) == some .wait
    | .held => decide (g.wait.map Wait.kind ≠ some .hmask ∧ g.wait.map Wait.kind ≠ some .commit)
    | .spat => true
    | .migrating => true
    | .trapping => true
    | .ending => false

/-- Whether the engines of a team's core still work for it (R372, R419). -/
def State.engineBusy (s : State) (u : Team) : Bool :=
  let c := s.coreD u.core
  let here := fun (x : TaskKey × Nat) => decide (x = (u.task, u.lin))
  c.copies.any (fun x => here (x.task, x.lin)) || c.drains.any (fun x => here (x.task, x.lin)) ||
    c.arrivals.any (fun x => here (x.task, x.lin)) || c.updates.any (fun x => x.task = u.task) ||
    c.node.any fun x => match x with
      | .token _ _ k l _ _ _ _ => here (k, l)
      | .drain _ _ k l _ _ _ _ _ _ _ _ => here (k, l)

/-- A load saved so that its block is loaded again from its header (R422). -/
def Rig.again (r : Rig) (k : Nat) (hdr : DWord) : Rig :=
  { group := r.group, desc := r.desc, next := hdr, maxb := r.maxb, k := k, phase := .fetch, flags := r.flags, rm := r.rm,
    retpc := r.retpc, widx := r.widx }

/-- A saved rig, `none` where nothing of it is kept and SPAT executes again (R421, R422). -/
def Rig.kept (r : Rig) : Option Rig :=
  let still : Rig := { r with phase := .place, pages := [], grans := [], gated := true, compact := false, ahead := .none }
  let hdr := ((r.block.map (·.addr)).getD r.next)
  match r.phase with
  | .wait => none
  | .descriptor => none
  | .fetch => if r.block.isNone ∧ r.k = 0 then none else some (r.again (if r.block.isSome then r.k + 1 else r.k) r.next)
  | .place => if r.gated then some still else if r.k = 0 then none else some (r.again r.k hdr)
  | .config => some (if r.gated then still else r.again r.k hdr)
  | .running => some still
  | .quiet => some still

/-- The transaction of a pre-empted group aborted (R415, R419): the save proceeds in place of the abort header, unless
another cause has been seen before; a recorded fault stays, to be delivered on resume (R423). -/
def Group.preemptTx (g : Group) : Group :=
  match g.tx with
  | none => g
  | some t =>
    match t.seen with
    | some (cause, code) =>
      if g.fault.isSome then { g with tx := none, txStatus := BitVec.ofNat 32 (code * 256 + cause) } else g.finishAbort
    | none => { g with tx := none, txStatus := 12 }

/-- A group as the save keeps it: its transaction aborted, its waiting word given up, its replay to come (R419, R423). -/
def Group.kept (g : Group) (rigGone : Bool) : Group :=
  let g : Group := { g.preemptTx with turn := false }
  match g.status with
  | .held => g.suspend
  | .migrating => g.resumeReplay
  | .spat => if rigGone then { g with status := .running } else g
  | .running => g
  | .trapping => g
  | .ending => g

/-- A team that sleeps no more, its waiting word not performed again (R260). -/
def State.unsleep (s : State) (u : Team) : State :=
  match u.sleep with
  | none => s
  | some sl => sl.raised.foldl State.recomputePrio ((s.putTeam { u with sleep := none }).setWaiton u.task 0)

/-- A taken team saved (R420): a release at .dev, for whose lines it waits; it leaves its core and waits in its die's
queues. -/
def State.saveTeam (s : State) (u : Team) : State := s.releasing u.core .dev fun s =>
  let c := u.core
  let room := s.saveRoom u
  let s := s.unsleep u
  let gs := s.groups.filter fun g => g.task = u.task ∧ g.lin = u.lin
  let ids := gs.map (·.id)
  let rigs := (s.coreD c).rigs.filter fun r => ids.contains r.group
  let keep := rigs.filterMap Rig.kept
  let gone := fun (i : GroupId) => rigs.any (fun r => r.group = i) && !keep.any fun r => r.group = i
  let v : Saved :=
    { team := { u with sleep := none, taken := false, depth := 0 }
      die := c.die
      groups := gs.map fun g => g.kept (gone g.id)
      bytes := s.shBytes c u.shBase u.shLen
      rigs := keep
      room := room }
  let s := (gs.foldl (fun s g => s.vacate g.id) s).modCore c fun k =>
    { k with
      rigs := dropRigs (fun r => ids.contains r.group) k.rigs
      claim := if (k.claim.map ids.contains).getD false then none else k.claim }
  let s : State := { s with
    teams := s.teams.filter fun t => ¬ (t.task = u.task ∧ t.lin = u.lin)
    saved := s.saved ++ [v]
    ready := s.ready ++ [⟨c.die, u.task, u.lin, 1, true⟩]
    migrations := s.migrations.map fun m => { m with lanes := m.lanes.filter fun x => !ids.contains x.1 } }
  s.popFrame c u.task u.lin

/-- TEAM_SAVE (R419 to R423): the team of linear index t of task `task` of context n, once every group of it is taken and
the teams adopted above it are saved. Without room in the save pool the team runs on; under a checkpoint its task is
killed (R453). -/
def execTeamSave (s : State) : Out :=
  match s.team? (keyOf s.args.n s.args.task) s.args.t with
  | none => .next s
  | some u =>
    let gs := s.groups.filter fun g => g.task = u.task ∧ g.lin = u.lin
    let above := (s.coreD u.core).frames.any fun f => f.waiter = (u.task, u.lin)
    if !u.taken || above || s.engineBusy u || !gs.all s.takeable then .next s
    else if s.poolHas [u] then .next (s.saveTeam u)
    else if s.ckpt.state = .running then .next (s.kill u.task 0 0 (locWord u.core) (s.depth u.core))
    else .next (s.runOn fun t => decide (t.task = u.task ∧ t.lin = u.lin))

/-! ### The launch window (R241) -/

/-- The status with which a slot's task is launched or refused: the address of the TCB, and the launch. -/
def State.windowLaunch (s : State) (c : Ctx) (va : Nat) : Bool × State :=
  match s.slotId c.n va with
  | none => (false, s)
  | some i =>
    match s.tcbPa c.n i with
    | none => (false, s)
    | some pa =>
      if isHost pa || isCap pa || s.poisoned (.pa pa) 256 || s.tcbBad (keyOf c.n i) pa then (false, s)
      else (true, s.launch (keyOf c.n i) pa c.ldie 0)

/-- The filled slots of a window taken from the head, while the launch die's paddock has room and no copy of the head slot's
line is left (R447). -/
def State.scanWindow (n : Nat) : Nat → State → State
  | 0, s => s
  | fuel + 1, s =>
    match s.ctx? n with
    | none => s
    | some c =>
      let slot := c.window + 8 * c.head
      let v := s.paNat slot 8
      if v % 2 = 0 then s.putCtx { c with scan := false }
      else if s.paddockFree c.ldie = 0 then s
      else if !s.ownable none slot then s.claimLine none slot
      else
        let va := v - 1
        let r := s.windowLaunch c va
        let s := r.2.deviceWrite none (.pa slot) (natToBytes 8 (va ||| if r.1 then 0 else 2))
        match s.ctx? n with
        | some c => State.scanWindow n fuel (s.putCtx { c with head := (c.head + 1) % 256 })
        | none => s

/-- LAUNCH_WINDOW_SCAN (R241): of context n, once its doorbell has rung. A checkpoint holds it (R453), and host launches
stop with the host port (R448). -/
def execLaunchWindowScan (s : State) : Out :=
  match s.ctx? s.args.n with
  | none => .next s
  | some c =>
    if !c.scan || s.held || s.hostLink.state ≠ .up then .next s
    else .next (State.scanWindow c.n 257 s)

/-! ### Successors (R245, R438, R439) -/

/-- PRED of a TCB in memory decremented at its home; `out` where a peer asks for it. -/
def State.decrementMemory (s : State) (pa : Nat) (out : Bool := false) : State :=
  s.homeWrite out (.pa (pa + 0x24)) (natToBytes 4 (s.paNat (pa + 0x24) 4 + 4294967295))

/-- A decrement that cannot be delivered, in FLOG (R439). -/
def State.lostDecrement (s : State) (k : TaskKey) (succ : Word) (code : Nat) : State :=
  let va := ((s.ctx? (ctxOf k)).map fun c => c.arena.toNat + 256 * (succ.toNat % 16777216)).getD 0
  s.flog k code (BitVec.ofNat 64 va) 0 0

/-- The launched task of this device whose PRED the table holds. -/
def State.liveTask? (s : State) (k : TaskKey) : Option Task :=
  (s.task? k).filter fun t => t.state == .pending || t.state == .ready || t.state == .running

/-- PRED of a successor on this device decremented; a PENDING one that reaches zero becomes READY. `out` where a peer asks for it. -/
def State.decrement (s : State) (k : TaskKey) (succ : Word) (out : Bool := false) : State :=
  match s.liveTask? (keyOf (ctxOf k) succ) with
  | none =>
    (match s.tcbPa (ctxOf k) succ with
    | some pa => s.decrementMemory pa out
    | none => s.lostDecrement k succ cNonresident)
  | some t =>
    if t.state = .pending ∧ t.pred = 1 then
      let u : Task := { t with pred := 0, state := .ready }
      (s.putTask u out).makeReady u
    else s.putTask { t with pred := t.pred - 1 } out

/-- The line that the decrement of a successor waits for (R447): that of PRED, where it is decremented in memory. -/
def State.decrementLine (s : State) (k : TaskKey) (succ : Word) : Option Nat :=
  if field succ.toNat 24 256 = s.devidx ∧ (s.liveTask? (keyOf (ctxOf k) succ)).isNone then
    ((s.tcbPa (ctxOf k) succ).map (· + 0x24)).filter fun a => !s.ownable none a
  else none

/-- A decrement sent to its successor's home: this device's, or a peer that may refuse it (R438). -/
def State.sendDecrement (s : State) (k : TaskKey) (succ : Word) : State :=
  if field succ.toNat 24 256 = s.devidx then s.decrement k succ
  else if !s.anyUa then s.lostDecrement k succ cLinkLost
  else if !s.args.ok then s.lostDecrement k succ cRemoteAtomic
  else { s with outbox := s.outbox ++ [.decrement succ] }

/-- SUCCESSOR_DECREMENT (R245, R438): the k-th decrement in flight reaches its successor's home, behind the earlier ones of
its task; behind the last, the sleepers on the completed task wake. It waits while a checkpoint's images are made (R453). -/
def execSuccessorDecrement (s : State) : Out :=
  match s.decrs[s.args.k]? with
  | none => .next s
  | some d =>
    if s.imaging || (s.decrs.take s.args.k).any fun x => x.task = d.task then .next s
    else
      match d.succ.bind (s.decrementLine d.task) with
      | some a => .next (s.claimLine none a)
      | none =>
        let s : State := { s with decrs := s.decrs.eraseIdx s.args.k }
        match d.succ with
        | some x => .next (s.sendDecrement d.task x)
        | none => .next (s.wakeChain d.task)

/-! ### Remote sleepers (R437) -/

/-- REMOTE_WAKE (R246, R437): the wake of a watcher at a peer's object of physical address `pa`; else the wake that follows the kill of
task `task` of context n on another device, toward what waits here for an object that names it (log entry 47). -/
def execRemoteWake (s : State) : Out :=
  if isPeer s.args.pa then .next (s.wakeAt (.pa s.args.pa) 1)
  else if slotNamed s.args.task && !s.ownTask s.args.task then .next (s.wakeOwned (keyOf s.args.n s.args.task))
  else .next s

/-- REMOTE_SLEEPER_RETRY (R437): the step's group performs its operations on objects at a peer again; its team wakes where it
sleeps on such an object. -/
def execRemoteSleeperRetry (s : State) : Out :=
  match s.group? s.args.group with
  | none => .next s
  | some g =>
    let s := s.put { g with out := g.out.map Outst.retryPeer }
    match s.teamOf g with
    | some u => .next (if ((u.sleep.bind (·.obj)).map isPeer).getD false then s.wakeTeam u else s)
    | none => .next s

/-! ### Contexts (R393, R431) -/

/-- A context as its descriptor reads (R393). -/
def State.readCtx (s : State) (n d : Nat) : Ctx :=
  let w := fun o k => s.paNat (d + o) k
  { n := n, desc := d, root := w 0 8, fe := bitOf (w 8 4) 0, priv := bitOf (w 8 4) 1, ldie := w 0x0C 4,
    arena := BitVec.ofNat 64 (w 0x10 8), nslot := w 0x18 4, window := w 0x20 8, save := w 0x28 8, savesz := w 0x30 8,
    scan := true }

/-- EN := 1 of a context entry (R431, R432), once the device takes contexts (R463). -/
def State.enableContext (s : State) (n : Nat) : State :=
  match s.ctxReg[n]? with
  | none => s
  | some e =>
    if e.1 || s.psc.boot ≠ .ready then s
    else
      let d := e.2.toNat % 2 ^ 52
      { s with ctxReg := s.ctxReg.setIfInBounds n (true, e.2), ctxs := s.ctxs ++ [s.readCtx n d] }

/-- EN := 0 of a context entry (R431): every task is killed, and nothing of the context remains. -/
def State.disableContext (s : State) (n : Nat) : State :=
  match s.ctxReg[n]? with
  | none => s
  | some e =>
    if !e.1 then s
    else
      let ks := (s.tasks.filter fun t => ctxOf t.key = n).map (·.key)
      let s := ks.foldl (fun s k => s.kill k 0 0 0 0) s
      { s with
        ctxReg := s.ctxReg.setIfInBounds n (false, e.2)
        ctxs := s.ctxs.filter fun c => c.n ≠ n
        tasks := s.tasks.filter fun t => ctxOf t.key ≠ n
        saved := s.saved.filter fun v => ctxOf v.team.task ≠ n }

/-- CONTEXT_ENABLE (R431): context n. -/
def execContextEnable (s : State) : Out := .next (s.enableContext s.args.n)
/-- CONTEXT_DISABLE (R431): context n. -/
def execContextDisable (s : State) : Out := .next (s.disableContext s.args.n)

end Sys2Proof.Machine
end

