-- ==== Sys2Proof/Machine/Links.lean ====
section
/-! DEFINITION. Links, reduction chains and the load-store domain (R370, R371, R401, R429, R434 to R443, R454). -/

namespace Sys2Proof.Machine

/-! ### Reduction chains: the slot (R440 to R443) -/

/-- CID, STAGE, NSTG, KIND and DIE of a slot (R442). -/
def Chain.cid (h : Chain) : Nat := field h.ctl.toNat 20 256
def Chain.stage (h : Chain) : Nat := field h.ctl.toNat 15 32
def Chain.nstg (h : Chain) : Nat := field h.ctl.toNat 10 32
def Chain.kind (h : Chain) : Nat := field h.ctl.toNat 7 8
def Chain.die (h : Chain) : Nat := field h.ctl.toNat 3 16

/-- NDEV and NDIE of a slot (R442). -/
def Chain.ndev (h : Chain) : Nat := field h.nextDev.toNat 8 256
def Chain.ndie (h : Chain) : Nat := field h.nextDev.toNat 0 16

/-- Whether a slot is the last stage of its chain. -/
def Chain.isLast (h : Chain) : Bool := h.stage == h.nstg

/-- Whether R441 refuses a slot: `ctxOn` says that its context is enabled. -/
def Chain.bad (h : Chain) (ctxOn : Bool) : Bool :=
  let hbm := fun (x : DWord) (n : Nat) => isHbm x.toNat && isHbm (x.toNat + n - 1)
  field h.ctl.toNat 0 8 != 0 || field h.ctx.toNat 8 16777216 != 0 || field h.nextDev.toNat 16 65536 != 0 ||
    field h.nextDev.toNat 4 16 != 0 ||
    h.len.toNat % 16 != 0 || decide (h.len.toNat < 16) || decide (67108864 < h.len.toNat) || h.apbase.toNat % 16 != 0 || !ctxOn ||
    decide (4 < h.kind) || decide (h.nstg < h.stage) ||
    (h.isLast && (!hbm h.dest h.len.toNat || !hbm h.done 8 || h.done.toNat % 8 != 0))

/-- A slot without elements under way. -/
def Chain.cleared (h : Chain) : Chain := { h with localElems := [], incoming := [], part := [], sent := [], feeder := none }

/-- EN := 1 of a slot with EN = 0 (R441); a stopped one stays stopped until RST (R371). -/
def State.enableChain (s : State) (k : Fin 16) : State :=
  let h := s.chains[k]
  if h.en || s.psc.boot ≠ .ready then s
  else
    let bad := h.bad ((s.ctx? (h.ctx.toNat % 256)).isSome)
    let st : ChainState := if h.state = .stopped then .stopped else if bad then .refused else .running
    { s with chains := s.chains.set k { h.cleared with en := true, state := st } }

/-- EN := 0 of a slot: it takes no traffic. A stop stands until RST (R371). -/
def State.disableChain (s : State) (k : Fin 16) : State :=
  let h := s.chains[k]
  { s with chains := s.chains.set k { h.cleared with en := false, state := if h.state = .stopped then .stopped else .idle } }

/-- RST of a slot, which acts on a stopped one (R443). -/
def State.resetChain (s : State) (k : Fin 16) : State :=
  let h := s.chains[k]
  if h.state = .stopped then { s with chains := s.chains.set k { h.cleared with state := .idle, round := 0 } } else s

/-- CHAIN_SLOT_ENABLE (R441): slot k. -/
def execChainSlotEnable (s : State) : Out :=
  if h : s.args.k < 16 then .next (s.enableChain ⟨s.args.k, h⟩) else .next s

/-- CHAIN_SLOT_RESET (R443): slot k. -/
def execChainSlotReset (s : State) : Out :=
  if h : s.args.k < 16 then .next (s.resetChain ⟨s.args.k, h⟩) else .next s

/-! ### Reduction chains: the stages (R66, R370, R371) -/

/-- The gl offset of the first row of a TSTORE not yet accepted that lies in the aperture of a slot that `p` admits (R371). -/
def Copy.offIn (x : Copy) (s : State) (c : CoreId) (p : Fin 16 → Bool) : Option Nat :=
  if x.store && !x.moved then
    ((List.range x.rows).drop x.row).findSome? fun r =>
      let y := rowSpan x.tensor x.org r
      if y.count = 0 then none
      else ((s.aperture c.die (ctxOf x.task) y.off (elemBytes x.tensor.fmt y.count)).filter p).map fun _ => y.off
  else none

/-- Every running stage of a chain on this device stopped, with LINK_LOST as a copy fault of every TSTORE of which bytes in its
aperture are not accepted (R371). -/
def State.stopChain (s : State) (cid : Nat) : State :=
  let ends := fun (h : Chain) => decide (h.state = .running) && h.cid == cid
  let lost := fun (c : CoreId) (x : Copy) => x.offIn s c fun i => ends s.chains[i]
  let t : State := { s with chains := s.chains.map fun h => if ends h then { h.cleared with state := .stopped } else h }
  s.cores.foldl (fun t k => k.copies.foldl (fun t x => match lost k.id x with
    | some o => t.faultCopy k.id x cLinkLost (x.seg.base.toNat + o)
    | none => t) t) t

/-- The sum that a stage sends (R66). -/
def chainSum (kind x y : Nat) : Nat :=
  match kind with
  | 0 => addOn .f32 x y
  | 1 => addOn .f64 x y
  | 2 => addOn .bf16x4 x y
  | 3 => addOn .i32 x y
  | _ => (x + y) % 2 ^ 64

/-- The element of an offset in a list, the oldest first. -/
def elemAt (l : List (Nat × DWord)) (o : Nat) : Option DWord := (l.find? fun x => x.1 = o).map (·.2)

/-- A list without the oldest element of an offset. -/
def takeElem (l : List (Nat × DWord)) (o : Nat) : List (Nat × DWord) :=
  match l.findIdx? fun x => x.1 = o with
  | some i => l.eraseIdx i
  | none => l

/-- A slot after it has sent the element of an offset: with the last one its round is over (R443). -/
def Chain.sentOne (h : Chain) (o : Nat) : Chain :=
  let h : Chain := { h with localElems := takeElem h.localElems o, incoming := takeElem h.incoming o, sent := o :: h.sent }
  if h.sent.length * h.elem = h.len.toNat then { h with sent := [], round := h.round + 1 } else h

/-- The slot of the next stage on this device. -/
def State.nextStage (s : State) (h : Chain) : Option (Fin 16) :=
  (List.finRange 16).find? fun i =>
    let n := s.chains[i]
    n.en && n.state = .running && n.cid == h.cid && n.stage == h.stage + 1 && n.die == h.ndie

/-- The completion word of a chain's round incremented, a release at .sys of the round's writes (R370). -/
def State.roundDone (s : State) (h : Chain) : State :=
  s.deviceWrite none (.pa h.done.toNat) (natToBytes 8 (s.paNat h.done.toNat 8 + 1))

/-- Whether a chain has started (R441): every stage of it reads STATE = 1. Of this device's stages their slots say so, each
that a stage here names as its next among them, and each that a slot not enabled names; of the others the step does, those of this
device that no slot names yet among them (log entry 46). -/
def State.chainStarted (s : State) (h : Chain) : Bool :=
  let on := s.chains.toList.filter fun x => x.en && x.cid == h.cid
  let off := s.chains.toList.any fun x => !x.en && x.cid == h.cid && x.nstg == h.nstg && !on.any fun y => y.stage == x.stage
  decide (s.args.reply ≠ .refused) && !off && on.all fun x =>
    decide (x.state = .running) &&
      (x.isLast || x.ndev != s.devidx || on.any fun y => y.stage == x.stage + 1 && y.die == x.ndie)

/-- The result of the last stage written, and with the last element the completion word; it waits while another copy of a
line remains (R283, R370). -/
def State.chainWrite (s : State) (k : Fin 16) (o v : Nat) : State :=
  let h := s.chains[k]
  let a := h.dest.toNat + o
  let rs : List (Nat × Nat) := if (h.sent.length + 1) * h.elem = h.len.toNat then [(a, h.elem), (h.done.toNat, 8)] else [(a, h.elem)]
  if !s.ownableAll none rs then s.claimAll none rs
  else
    let s := s.deviceWrite none (.pa a) (natToBytes h.elem v)
    let n := h.sentOne o
    let s : State := { s with chains := s.chains.set k n }
    if n.sent.isEmpty then s.roundDone h else s

/-- The sum of a stage forwarded: to the next stage on this device, or over the domain. -/
def State.chainForward (s : State) (k : Fin 16) (o v : Nat) : State :=
  let h := s.chains[k]
  let x : DWord := BitVec.ofNat 64 v
  if h.ndev = s.devidx then
    match s.nextStage h with
    | none => s
    | some i =>
      let cs := s.chains.set k (h.sentOne o)
      { s with chains := cs.set i { cs[i] with incoming := cs[i].incoming ++ [(o, x)] } }
  else if !s.anyUa then s.stopChain h.cid
  else { s with chains := s.chains.set k (h.sentOne o), outbox := s.outbox ++ [.chain h.ndev h.ndie h.cid o x] }

/-- A stage's adder at an offset: both elements present, and the offset not yet sent in this round. The writes of the last stage
wait while a checkpoint's images are made (R453). -/
def State.chainAdd (s : State) (k : Fin 16) (o : Nat) : State :=
  let h := s.chains[k]
  let inn := if h.stage = 0 then some 0 else elemAt h.incoming o
  if h.sent.contains o || !s.chainStarted h then s
  else match elemAt h.localElems o, inn with
    | some y, some x =>
      let v := if h.stage = 0 then y.toNat else chainSum h.kind x.toNat y.toNat
      if !h.isLast then s.chainForward k o v else if s.imaging then s else s.chainWrite k o v
    | _, _ => s

/-- A request that this device denies (R436): logged through the PSC and completed with an error. -/
def State.deny (s : State) (dev : Nat) : State :=
  { s with psc := { s.psc with log := s.psc.log ++ [(2, dev)] }, outbox := s.outbox ++ [.denied dev] }

/-- Whether an inbound word allows a kind of request: bit 0 loads, 1 stores, atomics and chains, 2 cells (R436). -/
def State.allowed (s : State) (dev bit : Nat) : Bool := ((s.inbound[dev]?).map fun w => w.getLsbD bit).getD false

/-- CHAIN_STAGE_ADD (R370, R371): slot k at stream offset n. `data` is an element come from the previous stage on device t
through an UP port; without `ok` the chain's link has failed; the reply `refused` says that a stage on another device does
not run yet (R441). -/
def execChainStageAdd (s : State) : Out :=
  if hk : s.args.k < 16 then
    let k : Fin 16 := ⟨s.args.k, hk⟩
    let h := s.chains[k]
    let o := s.args.n
    if h.state ≠ .running ∨ o % h.elem ≠ 0 ∨ h.len.toNat ≤ o then .next s
    else if !s.args.ok then .next (s.stopChain h.cid)
    else match s.args.data with
      | none => .next (s.chainAdd k o)
      | some bs =>
        if !s.anyUa then .next s
        else if !s.allowed s.args.t 1 then .next (s.deny s.args.t)
        else
          let x : DWord := BitVec.ofNat 64 (bytesToNat (bs.take h.elem))
          let h : Chain := { h with incoming := h.incoming ++ [(o, x)], feeder := some s.args.t }
          .next (State.chainAdd { s with chains := s.chains.set k h } k o)
  else .next s

/-! ### Links (R401, R434, R454) -/

/-- The link word of a port. -/
def State.link (s : State) : Port → Link
  | .ua n => s.ua[n]
  | .host => s.hostLink
  | .cap n => s.capLink[n]

/-- A link word stored. -/
def State.setLink (s : State) (p : Port) (l : Link) : State :=
  match p with
  | .ua n => { s with ua := s.ua.set n l }
  | .host => { s with hostLink := l }
  | .cap n => { s with capLink := s.capLink.set n l }

/-- The host's copies of device memory forgotten when its port goes down (R448). -/
def State.forgetHost (s : State) : State :=
  { s with
    dir := (s.dir.map fun e => { e with host := false }).filter fun e => !e.dies.isEmpty
    invals := s.invals.filter fun i => i.die.isSome }

/-- The chains whose next or previous stage is reached through a port, stopped (R371). -/
def State.stopThrough (s : State) (p : Port) : State :=
  let far := fun (d : Nat) => d != s.devidx && s.through p (2 ^ 48 + d * 2 ^ 40)
  let hit := s.chains.toList.filter fun h =>
    decide (h.state = .running) && ((!h.isLast && far h.ndev) || (h.feeder.map far).getD false)
  hit.foldl (fun s h => s.stopChain h.cid) s

/-- The end of a checkpoint (R453 step 5): everything held resumes. -/
def State.endSave (s : State) (st : CkptState) : State :=
  { s.runOn (fun _ => true) with
    held := false
    ckpt := { s.ckpt with state := st } }

/-- A checkpoint that runs fails with a capacity link (R453). -/
def State.failSave (s : State) (p : Port) : State :=
  match p with
  | .cap _ => if s.ckpt.state = .running then s.endSave .failed else s
  | _ => s

/-- A link that enters DOWN or FAILED (R371, R401, R434, R453): what was outstanding through it is lost. -/
def State.dropLink (s : State) (p : Port) (st : LinkState) : State :=
  let s := (s.losePort p).stopThrough p
  let s := ((s.setLink p { s.link p with state := st }).abandonLost).failSave p
  match p with
  | .host => s.forgetHost
  | _ => s

/-- RETRAIN (R434), once the device has booted (R463). -/
def State.retrain (s : State) (p : Port) : State :=
  if s.psc.boot = .ready then s.setLink p { s.link p with state := .training } else s

/-- DOWNEN (R434). -/
def State.takeDown (s : State) (p : Port) : State := if (s.link p).state = .down then s else s.dropLink p .down

/-- LINK_RETRAIN (R434). -/
def execLinkRetrain (s : State) : Out := .next (s.retrain s.args.port)
/-- LINK_DOWN_ENABLE (R434). -/
def execLinkDownEnable (s : State) : Out := .next (s.takeDown s.args.port)

/-- LINK_TRAINED (R434): training ends with UP, or without `ok` with FAILED. -/
def execLinkTrained (s : State) : Out :=
  let p := s.args.port
  if (s.link p).state ≠ .training then .next s
  else if s.args.ok then .next (s.setLink p { s.link p with state := .up })
  else .next (s.dropLink p .failed)

/-- LINK_FAILURE (R401): the link fails, or without `ok` goes down. -/
def execLinkFailure (s : State) : Out := .next (s.dropLink s.args.port (if s.args.ok then .failed else .down))

/-- LANE_REMAP (R454): the spare lane takes over with no other effect; without one the link fails. -/
def execLaneRemap (s : State) : Out :=
  let p := s.args.port
  let l := s.link p
  if l.spare = 0 then .next (s.dropLink p .failed) else .next (s.setLink p { l with spare := l.spare - 1 })

/-! ### Requests from peers (R436 to R438) -/

/-- A peer's physical address on this device: its own HBM4E address (R272). -/
def State.peerOk (s : State) (a n : Nat) : Bool := isHbm a && isHbm (a + n - 1) && s.backed a

/-- Remote watchers in the home L3 slice of an address: one of its saddle's (R273, R437). -/
def State.watchersIn (s : State) (a : Nat) : Nat :=
  s.watchers.countP fun w => sameL3 (lineOf w.pa) (lineOf a)

/-- A peer's operation on a cell, lock or queue entry, performed at its home (R249, R437). A wait takes an entry of the
slice's watcher table where one is free. Context n of the step holds the requesting task. -/
def State.peerRecord (s : State) (dev ctx : Nat) (self : Word) (k : LLKind) (pa : Nat) (args : List Word) : State :=
  let size := k.record
  if !s.peerOk pa size || pa % size ≠ 0 || s.poisoned (.pa pa) size then s.complete false []
  else if !s.exclusive none (lineOf pa) then s.invalidateFor (lineOf pa)
  else
    let r := s.answer ctx self k args (s.paBytes pa size)
    let s : State := { s with free := s.free + 1 }
    let s := match r.bytes with
      | some bs => s.outsideWrite (.pa pa) bs
      | none => s
    match r with
    | .done ws _ _ => s.complete true (ws.flatMap wb)
    | .fault _ => s.complete false []
    | .wait _ =>
      let s : State := { s with outbox := s.outbox ++ [.waits dev pa] }
      if s.watchersIn pa < 64 then { s with watchers := s.watchers ++ [⟨dev, pa, args.getD 2 0⟩] } else s

/-- The kind of permission that a request needs: a bit of its inbound word (R436). -/
def peerBit : PeerReq → Nat
  | .load _ _ => 0
  | .store _ _ => 1
  | .atomic _ _ _ _ _ => 1
  | _ => 2

/-- A peer's request performed at this device's homes (R435 to R438). -/
def State.peerPerform (s : State) (dev ctx : Nat) : PeerReq → State
  | .load pa n =>
    if s.peerOk pa n && !s.poisoned (.pa pa) n then s.complete true (s.paBytes pa n) else s.complete false []
  | .store pa bs =>
    if !s.peerOk pa bs.length then s.complete false []
    else if !s.exclusive none (lineOf pa) then s.invalidateFor (lineOf pa)
    else (s.outsideWrite (.pa pa) bs).complete true []
  | .atomic op pa size x cmp =>
    if s.peerOk pa size && pa % size == 0 && !s.poisoned (.pa pa) size then
      s.outsideRmw op pa size (x % 2 ^ (8 * size)) (cmp % 2 ^ (8 * size))
    else s.complete false []
  | .cell op pa gen v self => s.peerRecord dev ctx self (.cell op .sys .rlx) pa [loWord v, hiWord v, gen]
  | .lock acq pa self => s.peerRecord dev ctx self (.lock acq .sys .rlx) pa []
  | .qrsv pa self => s.peerRecord dev ctx self .qrsv pa [0]
  | .qput pa v self => s.peerRecord dev ctx self (.qput .sys .rlx) pa [loWord v, hiWord v]
  | .qget pa => s.peerRecord dev ctx 0 (.qget .sys .rlx) pa []
  | .predIncrement x =>
    match s.tcbPa ctx x with
    | none => s.complete false []
    | some q =>
      if !s.ownTask x || !s.linkable ctx x then s.complete false []
      else if !s.exclusive none (lineOf (q + 0x24)) then s.invalidateFor (lineOf (q + 0x24))
      else (s.bumpPred ctx x true).complete true []
  | .succDecrement x => (s.decrement (keyOf ctx 0) x true).complete true []
  | .succLink p x =>
    match s.tcbPa ctx p with
    | none => s.complete false []
    | some pa =>
      let r := s.linkSuccessor ctx pa x true
      match r.2 with
      | some st => r.1.complete true (wb st)
      | none => s.complete false []

/-- PEER_REQUEST (R436): from the device of index n, about tasks of context k; it arrives through an UP port. -/
def execPeerRequest (s : State) : Out :=
  let dev := s.args.n
  if !s.anyUa then .next s
  else if !s.allowed dev (peerBit s.args.peer) then .next (s.deny dev)
  else .next (s.peerPerform dev s.args.k s.args.peer)

end Sys2Proof.Machine
end

