-- ==== Sys2Proof/Machine/HostPort.lean ====
section
/-! DEFINITION. The host port and the capacity decoders (R285, R288, R429, R432, R444 to R450). -/

namespace Sys2Proof.Machine

/-! ### The HDM decoder (R446) -/

/-- Whether a device range lies inside the HBM4E stacks in service (R446). -/
def State.stacksHold (s : State) (a n : Nat) : Bool :=
  (List.range 12).all fun i => s.caps.inService.getLsbD i || !overlaps a n (i * 2 ^ 36) (2 ^ 36)

/-- Whether the HDM decoder's setting is one that R446 admits. -/
def State.hdmOk (s : State) : Bool :=
  let h := s.hdm
  let d := h.dbase.toNat
  let n := h.hsize.toNat
  h.enabled && n % 2 ^ 30 == 0 && decide (n ≤ 768 * 2 ^ 30) && d % 2 ^ 30 == 0 && decide (d + n ≤ 0xC000000000) && s.stacksHold d n

/-- The device physical address of `n` bytes at a host physical address. -/
def State.hdmAddr (s : State) (a n : Nat) : Option Nat :=
  let b := s.hdm.hbase.toNat
  if s.hdmOk && decide (b ≤ a) && decide (a + n ≤ b + s.hdm.hsize.toNat) then some (a - b + s.hdm.dbase.toNat) else none

/-! ### CXL.mem (R303, R327, R447, R448) -/

/-- Whether no compute die holds a line, and none is being invalidated. -/
def State.diesOff (s : State) (line : Nat) : Bool :=
  (s.dirOf line).dies.isEmpty && !s.invals.any fun i => i.line = line ∧ i.die.isSome

/-- Invalidations sent to the dies that hold a line. -/
def State.claimFromDies (s : State) (line : Nat) : State := s.sendInvals line ((s.dirOf line).dies.map some) true false

/-- The back-invalidation in flight on a line. -/
def State.backInval (s : State) (line : Nat) : Option Nat := s.invals.findIdx? fun i => i.line = line ∧ i.die = none

/-- A host access performed at the line's home. The host keeps a copy of the line it reads with `keep`. -/
def State.hostPerform (s : State) (a n : Nat) (data : Option (List Byte)) (keep : Bool) : State :=
  match data with
  | some bs => (s.outsideWrite (.pa a) bs).complete true []
  | none =>
    if s.poisoned (.pa a) n then s.complete false []
    else
      let s := if keep then s.putDir { s.dirOf (lineOf a) with host := true } else s
      s.complete true (s.paBytes a n)

/-- A host request at a line's home, `f`: a back-invalidation in flight on the line yields to it once (R348, R447). It has
yielded once the request is performed, a write having the dies' copies invalidated first; a later request waits until the device's
operation is performed. -/
def State.hostFirst (s : State) (a : Nat) (write : Bool) (f : State → State) : State :=
  if s.owed.contains (lineOf a) then s
  else if write && !s.diesOff (lineOf a) then s.claimFromDies (lineOf a)
  else
    match s.backInval (lineOf a) with
    | none => f s
    | some k =>
      match s.invals[k]? with
      | none => s
      | some i => if i.yielded then s else f (s.putInval k { i with yielded := true })

/-- HOST_MEM_ACCESS (R447, R448): a read of n bytes or a write of `data` at host physical address `pa`, within one line. -/
def execHostMemAccess (s : State) : Out :=
  let n := (s.args.data.map List.length).getD s.args.n
  match (if s.hostLink.state = .up then s.hdmAddr s.args.pa n else none) with
  | none => .next (s.complete false [])
  | some a =>
    if n = 0 ∨ lineOf a ≠ lineOf (a + n - 1) then .next (s.complete false [])
    else .next (s.hostFirst a s.args.data.isSome fun s => s.hostPerform a n s.args.data s.args.ok)

/-- HOST_ATOMIC_OP (R342, R348): through an UP port (R463); Completer Abort where it is not performed, of whatever size it is where it is
not aligned to it or meets poison (DESIGN CHOICE, log entry 53). The host's own copy of the line is no hindrance; copies of the dies
are invalidated first. -/
def execHostAtomicOp (s : State) : Out :=
  let a := s.args
  if s.hostLink.state = .up && hostAtomOk a.atom a.n && isDevice a.pa && s.backed a.pa && a.pa % a.n == 0 && !s.poisoned (.pa a.pa) a.n then
    .next (s.hostFirst a.pa true fun s =>
      s.outsideAtom a.atom a.pa a.n ((atomOperands a).1 % 2 ^ (8 * a.n)) ((atomOperands a).2 % 2 ^ (8 * a.n)))
  else .next (s.complete false [])

/-- HOST_SNOOP (R288, R445): the device answers for a line of host memory and gives up its copies. -/
def execHostSnoop (s : State) : Out :=
  if !isHost s.args.pa then .next s
  else
    let line := lineOf s.args.pa
    let t := (List.range 8).foldl (fun s d => s.dropLine d line true) s
    .next ((t.putDir { t.dirOf line with dies := [] }).complete true (s.paBytes line 128))

/-- BI_RESPONSE (R447): the host answers the k-th invalidation in flight, a back-invalidation; the dirty data that it
held is applied first. -/
def execBiResponse (s : State) : Out :=
  match s.invals[s.args.k]? with
  | none => .next s
  | some i =>
    if i.die.isSome then .next s
    else
      let s := match s.args.data with
        | some bs => s.outsideWrite (.pa i.line) (bs.take 128)
        | none => s
      .next (s.acknowledge s.args.k i)

/-! ### Fuse counters (R457, R458) -/

/-- A counter after fuses are blown one at a time toward a value: all of them, or `n` of them where the burn is cut short. It only
rises, to the number of its fuses at most. -/
def burned {m : Nat} (old : Fin (m + 1)) (want n : Nat) (ok : Bool) : Fin (m + 1) :=
  let v := if ok then max old.val want else max old.val (min want (old.val + n))
  ⟨min v m, Nat.lt_succ_of_le (Nat.min_le_right v m)⟩

/-! ### Capacity decoders (R429, R450) -/

/-- The range of a decoder's setting on port p. -/
def decoderRange (p : Nat) (d : DWord) : Nat × Nat :=
  (0x40000000000 + p * 0x20000000000 + field d.toNat 0 2048 * 2 ^ 30, field d.toNat 30 4096 * 2 ^ 30)

/-- Whether a decoder's setting may be enabled: WAYS is not 3 and no enabled decoder of its port overlaps. -/
def State.decoderOk (s : State) (k : Nat) (d : DWord) : Bool :=
  let r := decoderRange (k / 8) d
  field d.toNat 60 4 != 3 && (List.range 16).all fun j =>
    let e := s.decoders[j]?.getD 0
    let q := decoderRange (j / 8) e
    j == k || j / 8 != k / 8 || !bitOf e.toNat 63 || !overlaps r.1 r.2 q.1 q.2

/-- Sum of the enabled SIZE values (R450). -/
def gibSum (ds : List DWord) : Nat := (ds.map fun d => if bitOf d.toNat 63 then field d.toNat 30 4096 else 0).sum

/-- The bits of a decoder that software writes, without EN: WAYS, TGT, SIZE and BASE; the reserved ones read zero (R3,
R450). -/
def decoderBits (d : Nat) : Nat := d % 2 ^ 62 / 2 ^ 56 * 2 ^ 56 + d % 2 ^ 42 / 2 ^ 30 * 2 ^ 30 + d % 2 ^ 11

/-- Whether the targets of a decoder's setting on port p are persistent, as the expanders report (R450, R469). -/
def State.targetsPersistent (s : State) (p : Nat) (d : DWord) : Bool :=
  (List.range (2 ^ field d.toNat 60 4)).all fun i =>
    let x := (s.expanders[16 * p + field d.toNat 56 16 + i]?.getD 0).toNat
    decide (field d.toNat 56 16 + i < 16) && bitOf x 14 && bitOf x 13

/-- A decoder written: PM is the expanders', EN stays 0 where the setting is refused, and CAPTIER follows. -/
def State.writeDecoder (s : State) (k : Nat) (d : DWord) : State :=
  let en := bitOf d.toNat 63 && s.decoderOk k d && s.psc.boot = .ready
  let pm := s.targetsPersistent (k / 8) d
  let v : DWord := BitVec.ofNat 64 (decoderBits d.toNat + pm.toNat * 2 ^ 62 + en.toNat * 2 ^ 63)
  let ds := s.decoders.setIfInBounds k v
  { s with decoders := ds, caps := { s.caps with gib := gibSum ds.toList } }

/-- CAPACITY_DECODER_ENABLE (R450): EN := 1 of decoder k. -/
def execCapacityDecoderEnable (s : State) : Out :=
  let k := s.args.k
  .next (if k < 16 then s.writeDecoder k ((s.decoders[k]?.getD 0) ||| BitVec.ofNat 64 (2 ^ 63)) else s)

end Sys2Proof.Machine
end

