-- ==== Sys2Proof/Machine/Service.lean ====
section
/-! DEFINITION. The whole-device checkpoint, slices, ECC and grooms (R451 to R456, R465). -/

namespace Sys2Proof.Machine

/-! ### The checkpoint's images and records (R451, R453) -/

/-- The stacks in service that a capacity port serves. -/
def State.portStacks (s : State) (p : Nat) : List Nat :=
  ((List.range 6).map (6 * p + ·)).filter fun i => s.caps.inService.getLsbD i

/-- The target of a port's image. -/
def State.ckptTarget (s : State) (p : Nat) : Nat := if p = 0 then s.ckpt.tgt0.toNat else s.ckpt.tgt1.toNat

/-- Bytes of a port's image. -/
def State.imageSize (s : State) (p : Nat) : Nat := (s.portStacks p).length * 2 ^ 36

/-- Whether an enabled decoder of a port with persistent targets covers an address. -/
def State.pmCovers (s : State) (p a : Nat) : Bool :=
  (List.range 8).any fun j =>
    let d := s.decoders[8 * p + j]?.getD 0
    let r := decoderRange p d
    bitOf d.toNat 63 && bitOf d.toNat 62 && decide (r.1 ≤ a) && decide (a < r.1 + r.2)

/-- Whether a port's image and record have their memory (R451). -/
def State.imageCovered (s : State) (p : Nat) : Bool :=
  let t := s.ckptTarget p
  let n := s.imageSize p + 4096
  decide (t % 4096 = 0) && s.pmCovers p (t + n - 1) && (List.range (n / 2 ^ 30 + 1)).all fun i => s.pmCovers p (t + i * 2 ^ 30)

/-- CRC-32C over bytes. Log entry 40. -/
def crc32c (bs : List Byte) : Nat :=
  let bit := fun (c : Nat) => if c % 2 = 1 then (c / 2) ^^^ 0x82F63B78 else c / 2
  (bs.foldl (fun c b => (List.range 8).foldl (fun c _ => bit c) (c ^^^ b.toNat)) 0xFFFFFFFF) ^^^ 0xFFFFFFFF

/-- A record (R453): GEN, IDX, REV, STACKS and every HMASK, one word each, and the CRC in the last word. Log entry 40. -/
def State.ckptRecord (s : State) : List Byte :=
  let ws : List Nat := [s.ckpt.gen.toNat, s.devidx, Config.rev.toNat, s.caps.inService.toNat] ++
    s.hmask.toList.flatMap fun m => m.toList.map (·.toNat)
  let body := ws.flatMap (natToBytes 4) ++ List.replicate (4092 - 4 * ws.length) 0
  body ++ natToBytes 4 (crc32c body)

/-- Whether a port's record fits this device: its CRC, IDX, STACKS and HMASK values (R453). -/
def State.recordFits (s : State) (p : Nat) : Bool :=
  let bs := s.paBytes (s.ckptTarget p + s.imageSize p) 4096
  let want := s.ckptRecord
  bytesToNat (bs.drop 4092) == crc32c (bs.take 4092) && (bs.drop 4).take 4 == (want.drop 4).take 4 &&
    (bs.drop 12).take 292 == (want.drop 12).take 292

/-- A port's stacks copied to its image, or back from it. -/
def State.copyImage (s : State) (p : Nat) (back : Bool) : State :=
  (s.portStacks p).zipIdx.foldl (fun s x =>
    let a := x.1 * 2 ^ 36
    let b := s.ckptTarget p + x.2 * 2 ^ 36
    if back then s.copyFrame b a (2 ^ 36) else s.copyFrame a b (2 ^ 36)) s

/-- The address in a port's image of an HBM4E address of a stack in service. -/
def State.imageOf (s : State) (a : Nat) : Option Nat :=
  let p := a / 2 ^ 36 / 6
  (s.portStacks p).idxOf? (a / 2 ^ 36) |>.map fun i => s.ckptTarget p + i * 2 ^ 36 + a % 2 ^ 36

/-- Both images made (R453 step 3): the granules that were copied at an earlier moment hold their value of that moment. -/
def State.copyImages (s : State) : State :=
  let t := (s.copyImage 0 false).copyImage 1 false
  { s.ckpt.early.foldl (fun (t : State) x => ((s.imageOf x.1).map fun b => t.writePaBytes b x.2).getD t) t with
    ckpt := { t.ckpt with early := [] } }

/-- Every dirty line of the L1s, the L2s and the L3s written back (R453 step 2). -/
def State.writeBackAll (s : State) : State :=
  let s := s.cores.foldl (fun s k => s.writeBackS k.id fun _ => true) s
  let s := s.l2.foldl (fun s x => s.landPoison x.die x.line) s
  { s with
    l2 := s.l2.map fun x => if x.state = .dirty then { x with state := .shared } else x
    homes := s.homes.map fun x => { x with dirty := false } }

/-! ### The checkpoint's course (R452, R453) -/

/-- A core is being retired: SAVE waits for it (R456). -/
def State.retiring (s : State) : Bool := s.cores.any (·.retired)

/-- Step 1 of SAVE: launches and starts are held, and every resident team is to be pre-empted. -/
def State.holdAll (s : State) : State :=
  { s with held := true, teams := s.teams.map fun t => if t.live = 0 then t else { t with taken := true } }

/-- Whether both capacity links are up. -/
def State.capsUp (s : State) : Bool := s.capLink.toList.all fun l => l.state = .up

/-- SAVE (R452, R453). -/
def State.ckptSave (s : State) : State :=
  if s.ckpt.state = .running ∨ s.psc.boot ≠ .ready then s
  else if !(s.imageCovered 0 && s.imageCovered 1) then { s with ckpt := { s.ckpt with state := .failed, loading := false } }
  else
    let s : State := { s with ckpt := { s.ckpt with state := .running, loading := false, early := [] } }
    if s.retiring then s else s.holdAll

/-- LOAD (R452, R453): both records are checked and the images copied back. -/
def State.ckptLoad (s : State) : State :=
  if s.ckpt.state = .running ∨ s.psc.boot ≠ .ready then s
  else
    let ok := s.ctxs.isEmpty && s.capsUp && s.imageCovered 0 && s.imageCovered 1 && s.recordFits 0 && s.recordFits 1
    if ok then
      let s := (s.copyImage 0 true).copyImage 1 true
      { s with ckpt := { s.ckpt with state := .done, loading := true } }
    else { s with ckpt := { s.ckpt with state := .failed, loading := true } }

/-- CHECKPOINT_SAVE (R453). -/
def execCheckpointSave (s : State) : Out := .next s.ckptSave
/-- CHECKPOINT_LOAD (R452). -/
def execCheckpointLoad (s : State) : Out := .next s.ckptLoad

/-- CHECKPOINT_COPY_DONE (R453): once every resident team is saved and the lines may be written back, they are, and the
images and records are made; without `ok`, or with a link down, it fails. `x` is the length of the copy phase in cycles. With `t`
the 128-byte granule at `pa` alone is copied now, at a moment of its own in step 3. -/
def execCheckpointCopyDone (s : State) : Out :=
  if s.ckpt.state ≠ .running then .next s
  else if !s.args.ok || !s.capsUp then .next (s.endSave .failed)
  else if !s.held then .next (if s.retiring then s else s.holdAll)
  else if s.teams.any fun t => decide (t.live ≠ 0) then .next s
  else match s.cores.find? fun k => !s.backable k.id fun _ => true with
  | some k => .next (s.claimBack k.id fun _ => true)
  | none =>
    let s := s.writeBackAll
    let granule := lineOf s.args.pa
    if s.args.t ≠ 0 then
      .next { s with ckpt := { s.ckpt with
        early := (granule, s.paBytes granule 128) :: s.ckpt.early.filter fun x => x.1 ≠ granule } }
    else
      let s := s.copyImages
      let bs := s.ckptRecord
      let s := (s.deviceWrite none (.pa (s.ckptTarget 0 + s.imageSize 0)) bs).deviceWrite none
        (.pa (s.ckptTarget 1 + s.imageSize 1)) bs
      .next (State.endSave { s with ckpt := { s.ckpt with elapsed := s.args.x } } .done)

/-! ### Slices and ECC (R429, R454, R455) -/

/-- SLICE_RETIRE (R454): an L2 slice of die n with `ok`, else an L3 slice. Homes move and no value changes. -/
def execSliceRetire (s : State) : Out :=
  let c := s.caps
  if s.args.ok then
    .next { s with caps := { c with l2s := c.l2s.setIfInBounds s.args.n ((c.l2s[s.args.n]?.getD 0) - 1) } }
  else .next { s with caps := { c with l3s := c.l3s - 1 } }

/-- An entry of the PSC's log: 0 a corrected error, 1 an uncorrectable error, 2 a denied request, 3 a request to vacate a
stack, 4 and 5 a corrected and an uncorrectable error in a shared store, 6 an uncorrectable error in a cache. -/
def State.pscLog (s : State) (kind x : Nat) : State := { s with psc := { s.psc with log := s.psc.log ++ [(kind, x)] } }

/-- ECC_CORRECTABLE_ERROR (R455): corrected in place and logged; without `ok` in a shared store. -/
def execEccCorrectableError (s : State) : Out := .next (s.pscLog (if s.args.ok then 0 else 4) s.args.pa)

/-- What an uncorrectable error in a cache poisons (R455): of the ECC word of an address what the core's L1 (n = 1), its die's L2
(n = 2) or its instruction cache (n = 3) holds. -/
def State.cacheWord (s : State) (c : CoreId) (n a : Nat) : List Poison :=
  let k := s.coreD c
  let as := (List.range Config.eccBytes).map (eccAt a + ·)
  if n = 1 then (as.filter fun b => k.l1d.contains (lineOf b) || (l1Find k.l1s b).isSome).map (.l1 c)
  else if n = 2 then (if s.inL2 c.die (lineOf a) then [.l2 c.die (eccAt a)] else [])
  else (as.filter fun b => k.icache.any fun x => x.1 == b).map (.ic c)

/-- Poison added, logged where it is new. -/
def State.addPoison (s : State) (new : List Poison) (kind a : Nat) : State :=
  match new.filter fun e => !s.poison.contains e with
  | [] => s
  | es => State.pscLog { s with poison := es ++ s.poison } kind a

/-- ECC_UNCORRECTABLE_ERROR (R455): the ECC word at a physical address, or without `ok` at offset `pa` of the core's shared
store, is poisoned; with n from 1 to 3 the copy of a cache. -/
def execEccUncorrectableError (s : State) : Out :=
  let a := s.args.pa
  let c := s.args.core
  if 0 < s.args.n ∧ s.args.n < 4 then .next (s.addPoison (s.cacheWord c s.args.n a) 6 a)
  else if s.args.ok then .next (if isDevice a then s.addPoison [.cell (s.eccOf (.pa a))] 1 a else s)
  else .next (if a < shSize then s.addPoison [.cell (s.eccOf (.sh c.die c.core a))] 5 a else s)

/-- SCRUB_INTERVAL (R455): every stack is scrubbed; values do not change. -/
def execScrubInterval (s : State) : Out := .next s

/-! ### Grooms (R454, R463, R465) -/

/-- A groom changed. -/
def State.modGroom (s : State) (k : Nat) (f : Groom → Groom) : State :=
  { s with grooms := s.grooms.setIfInBounds k (f (s.grooms[k]?.getD {})) }

/-- A stack out of service (R454, R465). -/
def State.dropStack (s : State) (k : Nat) : State :=
  { s with caps := { s.caps with inService := s.caps.inService &&& ~~~ BitVec.ofNat 12 (2 ^ k) } }

/-- Whether the PSC runs verified firmware, so that it commands the grooms (R463, R465). -/
def State.firmwareUp (s : State) : Bool := s.psc.boot = .init || s.psc.boot = .ready

/-- A command of the PSC to groom k, which has its component: without an answer its stack leaves service (R465). -/
def State.groomDoes (s : State) (k : Nat) (f : State → State) : State :=
  if !s.firmwareUp || !((s.grooms[k]?).map (·.loaded)).getD false then s
  else if s.args.reply = .lost then s.dropStack k
  else f s

/-- GROOM_LOAD (R465): groom k takes its component, or does not answer. -/
def execGroomLoad (s : State) : Out :=
  if !s.firmwareUp then .next s
  else .next (if s.args.ok then s.modGroom s.args.k fun g => { g with loaded := true } else s.dropStack s.args.k)

/-- GROOM_TRAIN (R465): a loaded groom trains its stack, or fails. -/
def execGroomTrain (s : State) : Out :=
  .next (s.groomDoes s.args.k fun s =>
    if s.args.ok then s.modGroom s.args.k fun g => { g with trained := true } else s.dropStack s.args.k)

/-- GROOM_ROW_REPAIR (R454): row n of stack k is remapped. -/
def execGroomRowRepair (s : State) : Out :=
  .next (s.groomDoes s.args.k fun s => s.modGroom s.args.k fun g => { g with rows := g.rows ++ [s.args.n] })

/-- GROOM_PC_SPARE (R454): pseudo-channel n of stack k moves to a spare one. With none left the driver is asked to vacate
the stack, and without `ok` the vacated stack leaves service. -/
def execGroomPcSpare (s : State) : Out :=
  let k := s.args.k
  .next (s.groomDoes k fun s =>
    if 0 < ((s.grooms[k]?).map (·.pcSpares)).getD 0 then
      s.modGroom k fun g => { g with pcSpares := g.pcSpares - 1, pcs := g.pcs ++ [s.args.n] }
    else if s.args.ok then s.pscLog 3 k
    else s.dropStack k)

/-- GROOM_SCRUB (R455, R465): values do not change. -/
def execGroomScrub (s : State) : Out := .next (s.groomDoes s.args.k fun s => s)

/-- GROOM_TELEMETRY (R465, R469): the PSC has a new reading of groom k. -/
def execGroomTelemetry (s : State) : Out :=
  .next (s.groomDoes s.args.k fun s => { s with psc := { s.psc with readings := s.psc.readings + 1 } })

end Sys2Proof.Machine
end

