-- ==== Sys2Proof/Machine/Boot.lean ====
section
/-! DEFINITION. The PSC: signature blocks, the firmware image, boot, the mailbox's commands, telemetry (R457 to R466,
R469). -/

namespace Sys2Proof.Machine

/-! ### Status codes (R462) -/

def stOk : Nat := 0
def stBadCmd : Nat := 1
def stBadArg : Nat := 2
def stFormat : Nat := 3
def stKey : Nat := 4
def stSigRsa : Nat := 5
def stSigSlh : Nat := 6
def stRollback : Nat := 7
def stRevision : Nat := 8
def stFuse : Nat := 0x0A

/-! ### Bytes of an image -/

/-- The little-endian value of `n` bytes of an image from offset `o`. -/
def imgNat (b : List Byte) (o n : Nat) : Nat := bytesToNat ((b.drop o).take n)

/-- Whether `n` bytes from offset `o` are zero. -/
def imgZero (b : List Byte) (o n : Nat) : Bool := imgNat b o n == 0

/-- Bytes of a signature block (R459). -/
def sigBytes : Nat := 17040

/-- The message of an image: SHA-384 of its bytes before the signature block (R459). -/
def imgMessage (b : List Byte) (sigoff : Nat) : List Byte := Config.sha384 (b.take sigoff)

/-- The hash of the public keys of a signature block. -/
def keyHash (b : List Byte) (sigoff : Nat) : List Byte := Config.sha384 ((b.drop sigoff).take 432)

/-- The signature block verified in the order of R459: the first failure, or OK. -/
def sigStatus (b : List Byte) (sigoff : Nat) (want : List Byte) : Nat :=
  let part := fun (o n : Nat) => (b.drop (sigoff + o)).take n
  let m := imgMessage b sigoff
  if keyHash b sigoff ≠ want then stKey
  else if !Config.rsaVerify (part 0 384) m (part 432 384) then stSigRsa
  else if !Config.slhVerify (part 384 48) m (part 816 16224) then stSigSlh
  else stOk

/-! ### Firmware (R463, R464) -/

/-- Whether a firmware image's header and component table break R464. -/
def fwBad (b : List Byte) (len : Nat) : Bool :=
  let sigoff := imgNat b 8 4
  let ncomp := imgNat b 0x14 4
  let entry := fun (i : Nat) =>
    let o := 64 + 16 * i
    let at_ := imgNat b (o + 4) 4
    let n := imgNat b (o + 8) 4
    !imgZero b (o + 12) 4 || decide (at_ < 64) || decide (sigoff < at_ + n)
  b.take 8 != [0x44, 0x58, 0x46, 0x57, 0, 0, 1, 0] || !imgZero b 0x18 40 || sigoff % 16 != 0 || decide (sigoff + sigBytes ≠ len) ||
    decide (ncomp < 1) || decide (8 < ncomp) || (List.range ncomp).any entry

/-- The status with which the verification of a firmware image ends (R463 step 2). -/
def State.fwStatus (s : State) (b : List Byte) (len : Nat) : Nat :=
  if fwBad b len then stFormat
  else if Config.rev.toNat < imgNat b 0x10 4 then stRevision
  else
    let sig := sigStatus b (imgNat b 8 4) (natToBytes 48 s.fuses.vkh.toNat)
    if sig ≠ stOk then sig
    else if imgNat b 0x0C 4 < s.fuses.fwsvn.val then stRollback
    else stOk

/-- Bytes of the staging window (R460). -/
def stagingSize : Nat := 8388608

/-- Data stored in the staging window at an offset (R460): in REJECTED the window is cleared first and the state is
WAITING again. -/
def State.stage (s : State) (o : Nat) (bs : List Byte) : State :=
  let p := s.psc
  if stagingSize < o + bs.length then s
  else match p.boot with
    | .waiting => { s with psc := { p with staging := p.staging.writeBytes o bs } }
    | .rejected => { s with psc := { p with boot := .waiting, staging := Memory.writeBytes [] o bs } }
    | _ => s

/-- STAGING_WINDOW_WRITE (R460): `data` at offset k of the window; an access is of 4 or 8 bytes, naturally aligned
(R428). -/
def execStagingWindowWrite (s : State) : Out :=
  match s.args.data with
  | none => .next s
  | some bs =>
    if (bs.length = 4 ∨ bs.length = 8) ∧ s.args.k % bs.length = 0 then .next (s.stage s.args.k bs)
    else .next (s.complete false [])

/-! ### Commands (R460, R461) -/

/-- The mailbox's status set as a command completes. -/
def State.finish (s : State) (code status : Nat) : State :=
  { s with psc := { s.psc with code := BitVec.ofNat 16 code, busy := false, status := status } }

/-- MBARG word i. -/
def State.mbarg (s : State) (i : Nat) : Nat := ((s.psc.args[i]?).getD 0).toNat

/-- Results written to the MBARG words from the first. -/
def State.results (s : State) (ws : List DWord) : State :=
  { s with psc := { s.psc with args := ws.zipIdx.foldl (fun a x => a.setIfInBounds x.2 x.1) s.psc.args } }

/-- A command given in one of the states listed for it; BADCMD otherwise, and nothing while the mailbox is busy. -/
def State.command (s : State) (code : Nat) (states : List BootState) (f : State → State) : State :=
  if s.psc.busy then s
  else if states.contains s.psc.boot then f s
  else s.finish code stBadCmd

/-- FWLOAD: verification of the staged image starts (R463). -/
def State.fwload (s : State) : State :=
  s.command 1 [.waiting] fun s =>
    if stagingSize < s.mbarg 0 then s.finish 1 stBadArg
    else { s with psc := { s.psc with code := 1, busy := true, boot := .verifying, imageLen := s.mbarg 0 } }

/-- FWLOAD (R463). -/
def execFwload (s : State) : Out := .next s.fwload

/-- FIRMWARE_VERIFIED (R463 steps 2 and 3). -/
def execFirmwareVerified (s : State) : Out :=
  let p := s.psc
  if p.boot ≠ .verifying then .next s
  else
    let b := p.staging.readBytes 0 p.imageLen
    let st := s.fwStatus b p.imageLen
    if st = stOk then
      .next (State.finish { s with psc := { p with boot := .init, fwsvn := imgNat b 0x0C 4 } } 1 stOk)
    else .next (State.finish { s with psc := { p with boot := .rejected, reason := st, staging := [] } } 1 st)

/-- Hash masks as the firmware writes them: six to a stack (R463 step 4). -/
def hmaskOf (l : List (BitVec 23)) : Vector (Vector (BitVec 23) 6) 12 :=
  Vector.ofFn fun i : Fin 12 => Vector.ofFn fun j : Fin 6 => l.getD (6 * i.val + j.val) 0

/-- The words of the expanders found (R449, R469): zero for one that is not present. -/
def expandersOf (l : List Word) : Vector Word 32 :=
  Vector.ofFn fun i : Fin 32 => let x := l.getD i.val 0 &&& 0x7FFF; if bitOf x.toNat 14 then x else 0

/-- The capability words as the firmware writes them (R429, R463): the stacks that trained, and counts of no more than there
are units. -/
def capsOf (live : BitVec 12) (f : Found) : Caps :=
  { cores := Vector.ofFn fun i : Fin 8 => min 320 (f.cores.getD i.val 320)
    spare := Vector.ofFn fun i : Fin 8 => min 16 (f.spare.getD i.val 16)
    l2s := Vector.ofFn fun i : Fin 8 => min 48 (f.l2s.getD i.val 48)
    l3s := min 128 f.l3s
    inService := live }

/-- FIRMWARE_INIT_DONE (R463 steps 4 and 5): a stack that a groom has lost in the bring-up stays out of service (R465), and a
failure has one of the reasons of R463. -/
def execFirmwareInitDone (s : State) : Out :=
  if s.psc.boot ≠ .init then .next s
  else match s.args.boot with
    | .failed r =>
      .next (if r.toNat = stFuse ∨ 0x80 ≤ r.toNat then { s with psc := { s.psc with boot := .failed, reason := r.toNat } } else s)
    | .ready live caps masks found =>
      let live := live &&& s.caps.inService
      let cap := fun (i : Fin 2) => ({ s.capLink[i] with state := if caps.getLsbD i.val then .up else .down } : Link)
      .next { s with
        psc := { s.psc with boot := .ready }
        hmask := hmaskOf masks
        caps := capsOf live found
        expanders := expandersOf found.expanders
        hostLink := { s.hostLink with state := .up }
        capLink := Vector.ofFn cap
        grooms := Vector.ofFn fun i : Fin 12 =>
          if live.getLsbD i.val then { s.grooms[i] with loaded := true, trained := true } else s.grooms[i] }

/-- A container of `len` bytes refused by its header (R466 check 1). -/
def codeBad (b : List Byte) (len : Nat) : Bool :=
  let sigoff := imgNat b 8 4
  let n := imgNat b 0x1C 4
  let sect := fun (i : Nat) =>
    let o := 0x30 + 16 * i
    let kind := imgNat b o 4
    let at_ := imgNat b (o + 4) 4
    decide (kind < 1) || decide (6 < kind) || !imgZero b (o + 12) 4 || decide (at_ < 256) || decide (sigoff < at_ + imgNat b (o + 8) 4)
  b.take 8 != [0x41, 0x4D, 0x43, 0x49, 0x41, 0, 1, 0] || !imgZero b 0x20 16 || sigoff % 16 != 0 || decide (len ≠ sigoff + sigBytes) ||
    decide (n < 1) || decide (13 < n) || decide (32 < imgNat b 0x0C 4) || decide (3 < imgNat b 0x10 4) || (List.range n).any sect

/-- The fused hash of a key slot: `none` where it is empty or revoked (R457, R459). -/
def Fuses.slot (f : Fuses) (k : Nat) : Option (List Byte) :=
  let h := f.okh[k]?.getD 0
  if h = 0 ∨ (f.okrev[k]?.getD false) = true then none else some (natToBytes 48 h.toNat)

/-- The status of CODEVERIFY on a container (R466). -/
def State.codeStatus (s : State) (b : List Byte) (len : Nat) : Nat :=
  if codeBad b len then stFormat
  else
    let k := imgNat b 0x10 4
    let sig := match s.fuses.slot k with
      | none => stKey
      | some h => sigStatus b (imgNat b 8 4) h
    if sig ≠ stOk then sig
    else if imgNat b 0x0C 4 < (s.fuses.csvn[k]?.getD 0).val then stRollback
    else if Config.rev.toNat < imgNat b 0x18 4 then stRevision
    else stOk

/-- CODEVERIFY of a container in HBM4E (R461, R466). -/
def State.codeverify (s : State) : State :=
  s.command 2 [.ready] fun s =>
    let a := s.mbarg 0
    let len := s.mbarg 1
    if !isHbm a || !isHbm (a + (len - 1)) then s.finish 2 stBadArg
    else
      let b := s.paBytes a len
      let st := s.codeStatus b len
      if st ≠ stOk then s.finish 2 st
      else
        let k := imgNat b 0x10 4
        let v := imgNat b 0x0C 4
        let m := imgMessage b (imgNat b 8 4)
        let words := (List.range 6).map fun i => (BitVec.ofNat 64 (imgNat m (8 * i) 8) : DWord)
        let acc := s.psc.accepted.setIfInBounds k (max v (s.psc.accepted[k]?.getD 0))
        (State.results { s with psc := { s.psc with accepted := acc } } (BitVec.ofNat 64 k :: BitVec.ofNat 64 v :: words)).finish 2 stOk

/-- CODEVERIFY (R466). -/
def execCodeverify (s : State) : Out := .next s.codeverify

/-- SVNCOMMIT (R458, R461): with `ok` false a fuse does not read back, and `n` fuses are blown. -/
def State.svncommit (s : State) (n : Nat) (ok : Bool) : State :=
  s.command 3 [.ready] fun s =>
    let f := s.fuses
    let st := if ok then stOk else stFuse
    match s.mbarg 0 with
    | 0 =>
      if 128 < s.psc.fwsvn then s.finish 3 stBadArg
      else
        let v := burned f.fwsvn s.psc.fwsvn n ok
        (State.results { s with fuses := { f with fwsvn := v } } [BitVec.ofNat 64 v.val]).finish 3 st
    | k + 1 =>
      let want := s.psc.accepted[k]?.getD 0
      if 3 < k ∨ 32 < want then s.finish 3 stBadArg
      else
        let v := burned (f.csvn[k]?.getD 0) want n ok
        (State.results { s with fuses := { f with csvn := f.csvn.setIfInBounds k v } } [BitVec.ofNat 64 v.val]).finish 3 st

/-- SVNCOMMIT (R461). -/
def execSvncommit (s : State) : Out := .next (s.svncommit s.args.n s.args.ok)

/-- KEYPROG (R458, R461): an empty slot takes the hash; one whose burn does not read back stays empty. -/
def State.keyprog (s : State) (ok : Bool) : State :=
  s.command 4 [.ready] fun s =>
    let k := s.mbarg 0
    let h := (List.range 6).flatMap fun i => natToBytes 8 (s.mbarg (i + 1))
    if 3 < k ∨ s.fuses.okh[k]?.getD 0 ≠ 0 then s.finish 4 stBadArg
    else if !ok then s.finish 4 stFuse
    else State.finish { s with fuses := { s.fuses with okh := s.fuses.okh.setIfInBounds k (BitVec.ofNat 384 (bytesToNat h)) } } 4 stOk

/-- KEYPROG (R461). -/
def execKeyprog (s : State) : Out := .next (s.keyprog s.args.ok)

/-- KEYREVOKE (R461): a programmed slot is revoked. -/
def State.keyrevoke (s : State) (ok : Bool) : State :=
  s.command 5 [.ready] fun s =>
    let k := s.mbarg 0
    if 3 < k ∨ s.fuses.okh[k]?.getD 0 = 0 then s.finish 5 stBadArg
    else if !ok then s.finish 5 stFuse
    else State.finish { s with fuses := { s.fuses with okrev := s.fuses.okrev.setIfInBounds k true } } 5 stOk

/-- KEYREVOKE (R461). -/
def execKeyrevoke (s : State) : Out := .next (s.keyrevoke s.args.ok)

/-- Errors of a kind that the PSC has logged for a stack (R455, R469). -/
def State.errors (s : State) (kind stack : Nat) : Nat :=
  s.psc.log.countP fun x => x.1 == kind && isHbm x.2 && x.2 / 2 ^ 36 == stack

/-- Sixteen 32-bit words as the eight doublewords of a page. -/
def pageWords (f : Nat → Word) : List DWord := (List.range 8).map fun i => pairOf (f (2 * i)) (f (2 * i + 1))

/-- A telemetry page (R469): pages 2 and 3 the corrected and the uncorrected errors, a 32-bit word for each stack (the layout is
log entry 13), page 4 from the fuses, pages 5 and 6 the expanders, pages 7 to 15 zero, the others as the sensors read. -/
def State.page (s : State) (n : Nat) : List DWord :=
  let d := fun (x : Nat) => (BitVec.ofNat 64 x : DWord)
  if n = 4 then
    let rev := (s.fuses.okrev.toList.zipIdx.map fun x => x.1.toNat * 2 ^ x.2).sum
    d s.fuses.fwsvn.val :: s.fuses.csvn.toList.map (fun x => d x.val) ++ [d rev, d Config.rev.toNat, 0]
  else if n = 2 ∨ n = 3 then pageWords fun i => if i < 12 then BitVec.ofNat 32 (s.errors (n - 2) i) else 0
  else if n = 5 ∨ n = 6 then pageWords fun i => s.expanders[16 * (n - 5) + i]?.getD 0
  else if n < 7 then (List.range 8).map fun w => Config.telemetry n w s.psc.readings
  else List.replicate 8 0

/-- HEALTH (R469). -/
def State.health (s : State) : State :=
  s.command 0x10 [.init, .ready] fun s =>
    if 15 < s.mbarg 0 then s.finish 0x10 stBadArg else (s.results (s.page (s.mbarg 0))).finish 0x10 stOk

/-- HEALTH (R461). -/
def execHealth (s : State) : Out := .next s.health

/-- RETIRE of the mailbox (R461), as the register's. -/
def State.pscRetire (s : State) : State :=
  s.command 0x11 [.ready] fun s => (s.retireCore (coreOfWord (BitVec.ofNat 32 (s.mbarg 0)))).finish 0x11 stOk

/-- PSC_RETIRE (R461). -/
def execPscRetire (s : State) : Out := .next s.pscRetire

/-- KILL of the mailbox (R461), as the register's. -/
def State.pscKill (s : State) : State :=
  s.command 0x12 [.ready] fun s => (s.killTask (s.mbarg 1) (BitVec.ofNat 32 (s.mbarg 0)) 0 0).finish 0x12 stOk

/-- PSC_KILL (R461). -/
def execPscKill (s : State) : Out := .next s.pscKill

/-- PLDM_REQUEST (R469): page n is sent to the requester. -/
def execPldmRequest (s : State) : Out :=
  if s.firmwareUp then .next { s with outbox := s.outbox ++ [.telemetry (s.page s.args.n)] } else .next s

/-- The command codes of R461. -/
def listedCodes : List Nat := [1, 2, 3, 4, 5, 0x10, 0x11, 0x12]

/-- A command code that R461 does not list. -/
def State.unlisted (s : State) (code : Nat) : State := if s.psc.busy then s else s.finish code stBadCmd

/-- UNLISTED_COMMAND (R461): code k. -/
def execUnlistedCommand (s : State) : Out :=
  let k := s.args.k % 65536
  .next (if listedCodes.contains k then s else s.unlisted k)

end Sys2Proof.Machine
end

