-- ==== Sys2Proof/Machine/Driver.lean ====
section
/-! DEFINITION. The device register space, resets and the cycle counter (R36, R40, R428, R431, R434, R436, R442, R446,
R450, R452, R460, R463). -/

namespace Sys2Proof.Machine

/-! ### Words of the register space -/

/-- A half of a doubleword register: the low one with `i` 0. -/
def halfOf (x : DWord) (i : Nat) : Word := if i = 0 then loWord x else hiWord x

/-- A doubleword register with one half replaced. -/
def setHalf (x : DWord) (i : Nat) (w : Word) : DWord := if i = 0 then pairOf w (hiWord x) else pairOf (loWord x) w

/-- STATE codes of links, chain slots, the checkpoint and the boot (R434, R442, R452, R460). -/
def LinkState.code : LinkState → Nat
  | .down => 0
  | .training => 1
  | .up => 2
  | .failed => 3

/-- STATE of a chain slot. -/
def ChainState.code : ChainState → Nat
  | .idle => 0
  | .running => 1
  | .stopped => 2
  | .refused => 3

/-- STATE of the checkpoint block. -/
def CkptState.code : CkptState → Nat
  | .idle => 0
  | .running => 1
  | .done => 2
  | .failed => 3

/-- STATE of BOOTSTATE. -/
def BootState.code : BootState → Nat
  | .waiting => 0
  | .verifying => 1
  | .rejected => 2
  | .init => 3
  | .ready => 4
  | .failed => 5

/-- The port of a link word: 1 to 16 UALink, 17 the host's, 18 and 19 the capacity ports'. -/
def portOfWord (i : Nat) : Option Port :=
  if h : 1 ≤ i ∧ i ≤ 16 then some (.ua ⟨i - 1, by omega⟩)
  else if i = 17 then some .host
  else if i = 18 then some (.cap 0)
  else if i = 19 then some (.cap 1)
  else none

/-- A link word as it reads (R434). RETRAIN reads 0; what DOWNEN reads after a write of 1 R434 does not say, and it reads 0 too:
DESIGN CHOICE, log entry 41. -/
def Link.word (l : Link) : Word := BitVec.ofNat 32 (l.spare * 16 + l.state.code)

/-- CTL of a chain slot as it reads (R3, R442). -/
def Chain.ctlWord (h : Chain) : Word :=
  BitVec.ofNat 32 (h.en.toNat * 2 ^ 31 + h.state.code * 2 ^ 28 + h.ctl.toNat % 2 ^ 28 / 8 * 8)

/-- Word i of a chain slot as it reads: the reserved bits, which R441 checks as they were written, read zero (R3, R442). -/
def Chain.word (h : Chain) (i : Nat) : Word :=
  if i = 0 then h.ctlWord
  else if i = 1 then h.len
  else if i < 4 then halfOf h.apbase (i - 2)
  else if i = 4 then h.ctx &&& 0xFF
  else if i = 5 then h.nextDev &&& 0xFF0F
  else if i < 8 then halfOf h.dest (i - 6)
  else if i < 10 then halfOf h.done (i - 8)
  else if i = 10 then h.round
  else 0

/-- Word i of the decoder block: HBASE, HSIZE, DBASE, then the sixteen capacity decoders. Log entry 41. -/
def State.decoderWord (s : State) (i : Nat) : Word :=
  let j := i / 2
  let x := if j = 0 then s.hdm.hbase else if j = 1 then s.hdm.hsize else if j = 2 then s.hdm.dbase else (s.decoders[j - 3]?).getD 0
  halfOf x (i % 2)

/-- Word i of the checkpoint block (R452). -/
def State.ckptWord (s : State) (i : Nat) : Word :=
  if i = 0 then BitVec.ofNat 32 (s.ckpt.state.code * 4)
  else if i = 2 ∨ i = 3 then halfOf s.ckpt.tgt0 (i - 2)
  else if i = 4 ∨ i = 5 then halfOf s.ckpt.tgt1 (i - 4)
  else if i = 6 then s.ckpt.gen
  else if i = 8 ∨ i = 9 then halfOf s.ckpt.elapsed (i - 8)
  else 0

/-- Word i of the mailbox (R460). -/
def State.mailWord (s : State) (i : Nat) : Word :=
  if i = 1 then BitVec.ofNat 32 (s.psc.busy.toNat * 2 ^ 31 + s.psc.status)
  else if 2 ≤ i ∧ i < 18 then halfOf ((s.psc.args[(i - 2) / 2]?).getD 0) (i % 2)
  else if i = 32 then BitVec.ofNat 32 (s.psc.reason * 256 + s.psc.boot.code)
  else 0

/-- The word at an offset of the register space; what is not listed reads zero (R428). -/
def State.regWord (s : State) (o : Nat) : Word :=
  if o < 0x30 then s.capWord (o / 4)
  else if o < 0x10000 then 0
  else if o < 0x11000 then
    let e := (s.ctxReg[(o - 0x10000) / 16]?).getD (false, 0)
    let i := o % 16 / 4
    if i < 2 then halfOf e.2 i else if i = 2 then BitVec.ofNat 32 e.1.toNat else 0
  else if o < 0x20000 then 0
  else if o = 0x20000 then BitVec.ofNat 32 s.devidx
  else if o < 0x20050 then ((portOfWord ((o - 0x20000) / 4)).map fun p => (s.link p).word).getD 0
  else if o < 0x30000 then 0
  else if o < 0x30400 then (((s.inbound[(o - 0x30000) / 4]?).getD 0).zeroExtend 32)
  else if o < 0x40000 then 0
  else if o < 0x40400 then ((s.chains[(o - 0x40000) / 64]?).getD {}).word (o % 64 / 4)
  else if o < 0x50000 then 0
  else if o < 0x50098 then s.decoderWord ((o - 0x50000) / 4)
  else if o < 0x60000 then 0
  else if o < 0x60028 then s.ckptWord ((o - 0x60000) / 4)
  else if o < 0x100000 then 0
  else if o < 0x100084 then s.mailWord ((o - 0x100000) / 4)
  else 0

/-! ### Writes -/

/-- A word of context entry n written (R431). -/
def State.writeCtxWord (s : State) (n i : Nat) (w : Word) : State :=
  let e := (s.ctxReg[n]?).getD (false, 0)
  if i = 0 then { s with ctxReg := s.ctxReg.setIfInBounds n (e.1, setHalf e.2 0 w) }
  else if i = 1 then { s with ctxReg := s.ctxReg.setIfInBounds n (e.1, setHalf e.2 1 (w &&& 0xFFFFF)) }
  else if i = 2 then (if bitOf w.toNat 0 then s.enableContext n else s.disableContext n)
  else s

/-- A word of the link block written (R434): IDX stays while a UALink port is UP. Where DOWNEN and RETRAIN are both written 1 the
link goes down first and then trains (R434 gives no order): DESIGN CHOICE, log entry 41. -/
def State.writeLinkWord (s : State) (i : Nat) (w : Word) : State :=
  if i = 0 then (if s.anyUa then s else { s with devidx := w.toNat % 256 })
  else match portOfWord i with
    | none => s
    | some p =>
      let s := if bitOf w.toNat 2 then s.takeDown p else s
      if bitOf w.toNat 3 then s.retrain p else s

/-- CTL of a chain slot written (R441 to R443). -/
def State.writeChainCtl (s : State) (k : Fin 16) (w : Word) : State :=
  let s := if bitOf w.toNat 30 then s.resetChain k else s
  let en := s.chains[k].en
  let s : State := { s with chains := s.chains.set k { s.chains[k] with ctl := w &&& 0x0FFFFFFF } }
  if bitOf w.toNat 31 then (if en then s else s.enableChain k) else if en then s.disableChain k else s

/-- A word of a chain slot written (R442). -/
def State.writeChainWord (s : State) (k : Fin 16) (i : Nat) (w : Word) : State :=
  let h := s.chains[k]
  let put := fun (h : Chain) => ({ s with chains := s.chains.set k h } : State)
  if i = 0 then s.writeChainCtl k w
  else if i = 1 then put { h with len := w }
  else if i < 4 then put { h with apbase := setHalf h.apbase (i - 2) w }
  else if i = 4 then put { h with ctx := w }
  else if i = 5 then put { h with nextDev := w }
  else if i < 8 then put { h with dest := setHalf h.dest (i - 6) w }
  else if i < 10 then put { h with done := setHalf h.done (i - 8) w }
  else s

/-- A word of the decoder block written: the HDM decoder stays while HDM is enabled (R446, R450). -/
def State.writeDecoderWord (s : State) (i : Nat) (w : Word) : State :=
  let j := i / 2
  let h := s.hdm
  if 3 ≤ j then
    let k := j - 3
    let old := (s.decoders[k]?).getD 0
    let new := setHalf old (i % 2) w
    s.writeDecoder k new
  else if h.enabled then s
  else if j = 0 then { s with hdm := { h with hbase := setHalf h.hbase (i % 2) w } }
  else if j = 1 then { s with hdm := { h with hsize := setHalf h.hsize (i % 2) w } }
  else { s with hdm := { h with dbase := setHalf h.dbase (i % 2) w } }

/-- A word of the checkpoint block written (R452). -/
def State.writeCkptWord (s : State) (i : Nat) (w : Word) : State :=
  let c := s.ckpt
  if i = 0 then
    let s := if bitOf w.toNat 0 then s.ckptSave else s
    if bitOf w.toNat 1 then s.ckptLoad else s
  else if i = 2 ∨ i = 3 then { s with ckpt := { c with tgt0 := setHalf c.tgt0 (i - 2) w } }
  else if i = 4 ∨ i = 5 then { s with ckpt := { c with tgt1 := setHalf c.tgt1 (i - 4) w } }
  else if i = 6 then { s with ckpt := { c with gen := w } }
  else s

/-- MBCMD written (R460, R461). -/
def State.writeCommand (s : State) (w : Word) : State :=
  let code := w.toNat % 65536
  if code = 1 then s.fwload
  else if code = 2 then s.codeverify
  else if code = 3 then s.svncommit s.args.n s.args.ok
  else if code = 4 then s.keyprog s.args.ok
  else if code = 5 then s.keyrevoke s.args.ok
  else if code = 0x10 then s.health
  else if code = 0x11 then s.pscRetire
  else if code = 0x12 then s.pscKill
  else s.unlisted code

/-- A word of the mailbox written (R460). -/
def State.writeMailWord (s : State) (i : Nat) (w : Word) : State :=
  if i = 0 then s.writeCommand w
  else if 2 ≤ i ∧ i < 18 then
    let j := (i - 2) / 2
    { s with psc := { s.psc with args := s.psc.args.setIfInBounds j (setHalf ((s.psc.args[j]?).getD 0) (i % 2) w) } }
  else s

/-- A word of the register space written; what is not listed ignores it (R428). -/
def State.regWrite (s : State) (o : Nat) (w : Word) : State :=
  if o < 0x10000 then s
  else if o < 0x11000 then s.writeCtxWord ((o - 0x10000) / 16) (o % 16 / 4) w
  else if o < 0x20000 then s
  else if o < 0x20050 then s.writeLinkWord ((o - 0x20000) / 4) w
  else if o < 0x30000 then s
  else if o < 0x30400 then { s with inbound := s.inbound.setIfInBounds ((o - 0x30000) / 4) (w.truncate 3) }
  else if o < 0x40000 then s
  else if o < 0x40400 then
    (if h : (o - 0x40000) / 64 < 16 then s.writeChainWord ⟨(o - 0x40000) / 64, h⟩ (o % 64 / 4) w else s)
  else if o < 0x50000 then s
  else if o < 0x50098 then s.writeDecoderWord ((o - 0x50000) / 4) w
  else if o < 0x60000 then s
  else if o < 0x60028 then s.writeCkptWord ((o - 0x60000) / 4) w
  else if o < 0x100000 then s
  else if o < 0x100084 then s.writeMailWord ((o - 0x100000) / 4) w
  else if 0x1000000 ≤ o ∧ o < 0x1800000 then s.stage (o - 0x1000000) (wb w)
  else s

/-- The bytes of an access of 4 or 8 bytes. -/
def State.regBytes (s : State) (o n : Nat) : List Byte :=
  (List.range (n / 4)).flatMap fun i => wb (s.regWord (o + 4 * i))

/-- Words of an access written in ascending order. -/
def State.regWrites (s : State) (o : Nat) (bs : List Byte) : State :=
  (List.range (bs.length / 4)).foldl (fun s i => s.regWrite (o + 4 * i) (BitVec.ofNat 32 (imgNat bs (4 * i) 4))) s

/-- REGISTER_SPACE_WRITE (R428): the host's access at offset `pa` of the register space: `data` is written, or n bytes are
read. With k = 1 it is the write of the HDM enable, bit 0 of x, in the host's CXL configuration (R446). -/
def execRegisterSpaceWrite (s : State) : Out :=
  let o := s.args.pa
  let n := (s.args.data.map List.length).getD s.args.n
  if s.args.k = 1 then .next { s with hdm := { s.hdm with enabled := bitOf s.args.x.toNat 0 } }
  else if (n ≠ 4 ∧ n ≠ 8) ∨ o % n ≠ 0 ∨ 0x2000000 < o + n then .next (s.complete false [])
  else match s.args.data with
    | some bs => .next (s.regWrites o bs)
    | none => .next (s.complete true (s.regBytes o n))

/-! ### Resets and CYC -/

/-- A core as a core reset leaves it (R40): no group is resident, its stores, registers and CYC are zero, and its shared
store holds no poison. -/
def State.resetCore (s : State) (c : CoreId) : State :=
  let here := fun (g : GroupId) => decide (g.coreId = c)
  let k : Core := { Core.fresh c with retired := (s.coreD c).retired }
  { s with
    poison := s.poison.filter fun x => match x with
      | .cell (.sh d i _) => decide (d ≠ c.die ∨ i ≠ c.core)
      | .l1 d _ => decide (d ≠ c)
      | .ic d _ => decide (d ≠ c)
      | _ => true
    hmaskQ := s.hmaskQ.map (HmaskReq.orphan ((s.groups.map (·.id)).filter here))
    groups := s.groups.filter fun g => !here g.id
    teams := s.teams.filter fun t => t.core ≠ c
    cores := k :: s.cores.filter fun x => x.id ≠ c
    migrations := s.migrations.map fun m =>
      { m with waiters := m.waiters.filter fun g => !here g, copies := m.copies.filter fun x => !here x.1,
               lanes := m.lanes.filter fun x => !here x.1 } }

/-- CORE_RESET (R40). -/
def execCoreReset (s : State) : Out := .next (s.resetCore s.args.core)

/-- The fuses as a reset or a power loss leaves them in the command of code n whose arguments stand in the mailbox (R458): an SVNCOMMIT
has blown `k` of the fuses that it was to blow. A key slot whose burn is interrupted is read as it was. -/
def State.tornFuses (s : State) : Fuses := if s.args.n = 3 then (s.svncommit s.args.k false).fuses else s.fuses

/-- Whether a poisoned word lies in a main memory, which a reset leaves. -/
def Poison.inMemory : Poison → Bool
  | .cell x => !x.isSh
  | _ => false

/-- DEVICE_RESET (R458, R463): the state after reset; the fuses stay, and so do the main memories (log entry 42). Without `ok` it
falls in the command of code n. -/
def execDeviceReset (s : State) : Out :=
  let fuses := if s.args.ok then s.fuses else s.tornFuses
  .next { State.reset with mem := s.mem, poison := s.poison.filter Poison.inMemory, fuses := fuses, schedule := s.schedule,
                           free := s.free }

/-- CYC_INCREMENT (R36): the count of the step's core, which no other core's follows (R5); the TCBs of tasks that a wait has
changed are mirrored (R240, log entry 47). -/
def execCycIncrement (s : State) : Out := .next ((if s.imaging then s else s.mirrorStale).modCore s.args.core fun k => { k with cyc := k.cyc + 1 })

end Sys2Proof.Machine
end

