-- ==== Sys2Proof/Machine/Tx.lean ====
section
/-! DEFINITION. Hardware transactions: TXBEG, TXEND, TXABT, TXST, abort and commit (R324, R325, R411 to R417). -/

namespace Sys2Proof.Machine

/-- TXBEG (R413): it waits for the group's results; inside a transaction it aborts that one with NEST. -/
def execTxbeg (disp : BitVec 20) (s : State) : Out :=
  s.stallWord (fun g => g.tx.isNone && !g.out.isEmpty) false maskRegs fun g =>
    if g.tx.isSome then s.abortTx g 11 0
    else
      (s.acquireL1 g.id.coreId .dev).put ({ g with tx := some { abortHdr := g.target disp, mask := g.mask } }.nextWord 1)

/-- The bytes of a run out of an L1: the committed bytes at the home are newer than the core's own S copies. -/
def State.dropRun (s : State) (c : CoreId) (x : Spot) (n : Nat) : State :=
  match x with
  | .pa a => s.modCore c fun k => { k with l1s := k.l1s.filter fun y => ¬ (a ≤ y.pa ∧ y.pa < a + n) }
  | _ => s

/-- Whether a transaction can commit now: its reads are done, the group's earlier stores are performed, and every place
it writes can be reached (R325, R416). -/
def State.canCommit (s : State) (g : Group) (t : Tx) : Bool :=
  !g.reading && g.stores.isEmpty && t.writes.all fun x => (s.resolve x).isSome

/-- The granules of device memory that a transaction writes. -/
def Tx.runs (t : Tx) : List (Nat × Nat) := t.writes.filterMap fun x => match x with
  | .pa a => some (a, 64)
  | _ => none

/-- Whether a commit's lines, and those of its release at .dev, are its die's alone (R283, R286, R447). -/
def State.ownsCommit (s : State) (g : Group) (t : Tx) : Bool :=
  s.releasable g.id.coreId .dev && s.ownableAll (some g.id.die) t.runs

/-- The invalidations for which a commit waits. -/
def State.claimCommit (s : State) (g : Group) (t : Tx) : State :=
  (s.claimBack g.id.coreId fun _ => true).claimAll (some g.id.die) t.runs

/-- A commit (R324, R325): a release at .dev, and every buffered byte performed as one event; its lines are dirty in the
L2. -/
def State.commitTx (s : State) (g : Group) (t : Tx) : State :=
  let s := s.releaseL1 g.id.coreId .dev
  let runs := t.writes.flatMap (granuleRuns (t.buf.map (·.2)))
  let s := s.put (({ g with tx := none, txStatus := 0, status := .running, wait := none } : Group).jumpTo g.afterClause)
  let s := runs.foldl (fun s r =>
    match s.resolve r.1 with
    | some x => (s.dropRun g.id.coreId x r.2.length).deviceWrite (some g.id) x r.2
    | none => s) s
  t.runs.foldl (fun s r => s.takeDirty g.id.die r.1) s

/-- The commit of a group that is held at its TXEND, once its reads are done and the release that the commit is can be performed
(R325, R416). -/
def State.tryCommit (s : State) (g : Group) (t : Tx) : State :=
  if t.seen.isSome || !s.canCommit g t then s
  else if !s.ownsCommit g t then s.claimCommit g t
  else s.commitTx g t

/-- TXEND (R416): ILLEGAL without a transaction. The group is held at the word, the last of its clause, until the transaction
commits or aborts. -/
def execTxend (s : State) : Out :=
  s.word false [] fun g =>
    match g.tx with
    | none => s.groupFault g cIllegal
    | some t => (s.put (g.hold .commit 0)).tryCommit (g.hold .commit 0) t

/-- TX_COMMIT (R416): the group is held at its TXEND. -/
def execTxCommit (s : State) : Out :=
  match s.group? s.args.group with
  | none => .next s
  | some g =>
    match g.tx, g.wait.map Wait.kind with
    | some t, some .commit => .next (s.tryCommit g t)
    | _, _ => .next s

/-- TXABT (R414): without a transaction it has no effect. -/
def execTxabt (code : BitVec 8) (s : State) : Out :=
  s.word false [] fun g => if g.tx.isSome then s.abortTx g 10 code.toNat else s.put (g.jumpTo g.afterClause)

/-- TXST (R416). -/
def execTxst (d : Reg) (s : State) : Out :=
  s.plain 1 [.s d.val] fun g => g.sset d.val (g.txStatus ||| if g.tx.isSome then 0x80000000 else 0)

/-- TX_ABORT (R415): a cause that is seen takes its course once every result is written. -/
def execTxAbort (s : State) : Out :=
  match s.group? s.args.group with
  | none => .next s
  | some g => .next (if g.status = .running ∨ g.wait.map Wait.kind = some .commit then s.put g.finishAbort else s)

end Sys2Proof.Machine
end

