-- ==== Sys2Proof/Machine/Serve.lean ====
section
/-! DEFINITION. What a step executes (log entry 1): the head of the schedule, or else the next thing that the group or
lane in focus can do. Every step is one instruction of the opcode table on the state with its arguments in place. -/

namespace Sys2Proof.Machine

/-- A step and what it concerns. -/
abbrev Job := Instr × StepArgs

/-- The step that lets time pass. -/
def idleJob : Job := (.cycIncrement, {})

/-- The arguments of a step about a group. -/
def groupArgs (i : GroupId) : StepArgs := { group := i, core := i.coreId, n := i.quad }

/-- The step that performs one thread's access of an outstanding instruction. -/
def Outst.performer (o : Outst) (t : Target) : Instr :=
  match o.kind with
  | .load _ _ _ => if t.isSh then .bankRead else .loadPerform
  | .atomic _ _ _ _ => if t.isSh then .bankAtomic else if t.beyondPortal then .portalCompletion else .atomicPerform
  | .cell _ _ _ => .cellRequest
  | .lock _ _ _ => .lockRequest
  | .tlbinv _ _ _ => .tlbinvComplete
  | .publish _ _ _ => .invalidationAck
  | .copy _ => .copyStart
  | .token _ => .matrixTokenFire
  | .ctxld => .poolGrant
  | .slotwt _ _ _ => .waitingWordRetry
  | .tdef => .loadPerform
  | .bufdef => .resultWriteback
  | .tlaunch => .waitingWordRetry
  | .tsucc => .portalCompletion
  | .special => .resultWriteback
  | .ctxsv => .resultWriteback
  | .qrsv => .queueRequest
  | .qput _ _ => .queueRequest
  | .qget _ _ => .queueRequest

/-- The step that performs a store. -/
def StoreReq.performer (st : StoreReq) : Instr :=
  if st.isSh then (if st.add then .addOnStore else .bankWrite) else (if st.add then .lineAddOnStore else .storePerform)

/-- The arguments of the step that moves an outstanding instruction on; `x` is 1 for the completion of a PUBLISH, which
shares its step with the acknowledgements of lines. -/
def Outst.args (o : Outst) (a : StepArgs) (t : Nat) : StepArgs :=
  { a with k := o.seq, t := t, x := if o.isPublish then 1 else 0 }

/-! ### Work beside the groups -/

/-- The next step of the coherence traffic: the oldest invalidation moves on. -/
def State.invalJob (s : State) : Option Job :=
  match s.invals with
  | [] => none
  | i :: _ =>
    some (if i.die.isNone then (.biResponse, {}) else if i.dropped then (.invalidationAck, {}) else (.coherenceInvalidation, {}))

/-- The step that performs a store of a group. -/
def Group.storeJob (g : Group) (x : StoreReq) : Job := (x.performer, { groupArgs g.id with k := x.seq, t := x.thread })

/-- The step that performs one thread of an outstanding instruction; TSUCC goes over UALink only where it must (R438). -/
def State.threadJob (s : State) (g : Group) (o : Outst) (t : Target) : Job :=
  let i := if o.kind = .tsucc ∧ s.linksFar t = false then .waitingWordRetry else o.performer t
  (i, o.args (groupArgs g.id) t.thread)

/-- The step that moves an outstanding instruction of a group on, where it is not the engines'. -/
def State.threadsJob (s : State) (g : Group) (o : Outst) : Job :=
  match o.todo with
  | t :: _ => s.threadJob g o t
  | [] => (o.performer ⟨0, 0, [], []⟩, o.args (groupArgs g.id) 0)

/-- The older of a store and an outstanding instruction, as the step that moves it on. -/
def Group.olderJob (g : Group) (job : Outst → Job) (x : Option StoreReq) (o : Option Outst) : Option Job :=
  match o, x with
  | some o, some x => some (if x.seq ≤ o.seq then g.storeJob x else job o)
  | some o, none => some (job o)
  | none, some x => some (g.storeJob x)
  | none, none => none

/-- The oldest access of a group before instruction `n`, as the step that performs it: what a release waits for. -/
def State.beforeJob (s : State) (g : Group) (n : Nat) : Option Job :=
  g.olderJob (s.threadsJob g) (g.stores.find? fun x => decide (x.seq < n))
    (g.out.find? fun o => decide (o.seq < n) && (!o.todo.isEmpty || o.isPublish))

/-- What an engine instruction of a group waits for before its release, as the step that performs it (R312). -/
def State.releaseJob (s : State) (i : GroupId) (seq : Nat) : Option Job :=
  if s.storesBefore i seq then none else (s.group? i).bind fun g => s.beforeJob g seq

/-- The next step of a copy: an arrival, or its next row. -/
def State.copyJob (s : State) (c : CoreId) (id : Nat) : Job :=
  let a : StepArgs := { core := c, k := id }
  match (s.coreD c).copies.find? fun x => x.id = id with
  | some x =>
    if x.moved || 16 ≤ x.left then (.arrivalPost, { a with n := x.left })
    else if x.started then (.copyStart, a)
    else (s.releaseJob x.group x.seq).getD (.copyStart, a)
  | none => idleJob

/-- The next step of a core's matrix node and its drains. -/
def State.nodeJob (s : State) (c : CoreId) : Job :=
  let k := s.coreD c
  let a : StepArgs := { core := c }
  if !k.updates.isEmpty then (.chainedAddOnStore, a)
  else match k.node with
    | .token _ _ _ _ _ _ _ _ :: _ => (.matrixTokenFire, a)
    | .drain _ g _ _ _ _ _ _ _ _ seq _ :: _ => (s.releaseJob g seq).getD (.mdrainRead, a)
    | [] =>
      if !k.drains.isEmpty then (.tileDrainUpdate, a)
      else match k.arrivals with
        | x :: _ => (.arrivalPost, { a with ok := false, n := x.left })
        | [] => idleJob

/-- The next step of a core's engines: the first copy that can go on, else the node, else what the first copy waits for. -/
def State.engineJob (s : State) (c : CoreId) : Job :=
  let k := s.coreD c
  match s.invalJob, k.copies.find? (fun x => x.started || s.copyTurn c x), k.copies with
  | some j, _, _ => j
  | none, some x, _ => s.copyJob c x.id
  | none, none, [] => s.nodeJob c
  | none, none, x :: _ => if s.nodeJob c = idleJob then s.copyJob c x.id else s.nodeJob c

/-- A core on which a queue entry's team fits. -/
def State.coreFor (s : State) (r : Ready) : Option CoreId :=
  ((List.range (s.coresOf r.die)).map fun i => (⟨r.die, i⟩ : CoreId)).find? fun c => (s.tryEntry c r).isSome

/-- The next step of the device's own work: coherence, successors, the launch windows, the starts of teams, migrations. -/
def State.deviceJob (s : State) : Job :=
  match s.invalJob with
  | some j => j
  | none =>
    if !s.decrs.isEmpty then (.successorDecrement, {})
    else match s.ctxs.find? (·.scan) with
      | some c => (.launchWindowScan, { n := c.n })
      | none =>
        match s.ready.findSome? fun r => (s.coreFor r).map fun c => (r, c) with
        | some (r, c) => (if r.saved then .teamRestore else .teamStart, { core := c, n := r.die })
        | none => if s.migrations.isEmpty then idleJob else (.migrationComplete, {})

/-! ### A group's work -/

/-- The step that moves an outstanding instruction of a group on. -/
def State.outJob (s : State) (g : Group) (o : Outst) : Job :=
  match o.kind with
  | .copy id => s.copyJob g.id.coreId id
  | .token _ => s.nodeJob g.id.coreId
  | _ => s.threadsJob g o

/-- The oldest thing that a group has outstanding, as the step that moves it on: a result to write back, else the first
access in the group's order that is not performed, else an arrival or a slot state that is still to take effect. -/
def State.drainJob (s : State) (g : Group) : Job :=
  let a := groupArgs g.id
  match g.out.find? fun o => o.ready && o.todo.isEmpty && o.held.isEmpty with
  | some o => (.resultWriteback, { a with k := o.seq })
  | none => ((s.invalJob.orElse fun _ =>
      g.olderJob (s.outJob g) g.stores.head? (g.out.find? fun o => !o.todo.isEmpty || !o.ready)).getD
        (if !g.posts.isEmpty then (.barrierRelease, a) else if !g.sets.isEmpty then (.xbwaitResume, a) else (.cycIncrement, a)))

/-- The literal word after the word at which a group stands. -/
def Group.nextLiteral (g : Group) : Option Word := g.clause.words[g.clause.next + 1]?

/-- The instruction at which an issuing group stands, with the order of its threads that the schedule gives (R67). -/
def Group.wordJob (g : Group) (order : Option (List Byte)) : Job :=
  match decodeWord (g.clause.words[g.clause.next]?.getD 0) g.nextLiteral with
  | .ok i => (i, { groupArgs g.id with data := order })
  | .error _ => (.clauseDecode, groupArgs g.id)

/-- The step of a group held at a barrier: its posted arrival, an inspection for a member that has not started, or the
release. -/
def State.barrierJob (s : State) (g : Group) (lv : BarLevel) (n : Nat) : Job :=
  let a := groupArgs g.id
  match g.posts with
  | (_, _, seq) :: _ => if g.settledBefore seq then (.barrierRelease, a) else (s.beforeJob g seq).getD (.barrierRelease, a)
  | [] =>
    if g.hasArrival lv n && s.unstartedMember g lv && !((s.teamOf g).map s.teamParked).getD false then (.waitingWordRetry, a)
    else (.barrierRelease, a)

/-- The step of a group held in a waiting instruction (R160). -/
def State.heldJob (s : State) (g : Group) : Job :=
  let a := groupArgs g.id
  let on := fun (n : Nat) =>
    match g.out.find? fun o => o.seq = n with
    | some o =>
      (match o.todo, o.held with
      | t :: _, _ =>
        ((s.invalJob.orElse fun _ => s.beforeJob g n).getD (s.threadJob g o t))
      | [], [] => (.resultWriteback, { a with k := n })
      | [], _ :: _ => (.waitingWordRetry, a))
    | none => (.waitingWordRetry, a)
  match g.wait.map Wait.kind with
  | none => (.cycIncrement, a)
  | some (.grow _) => (.poolGrant, a)
  | some (.arrive lv n _) => s.invalJob.getD (s.barrierJob g lv n)
  | some (.phase lv n _) => s.invalJob.getD (s.barrierJob g lv n)
  | some .hmask => (.hmaskApply, a)
  | some .commit =>
    (match g.tx with
    | some t =>
      if t.seen.isSome then (if g.out.isEmpty then (.txAbort, a) else s.drainJob g)
      else if s.canCommit g t && s.invals.isEmpty then (.txCommit, a)
      else s.drainJob g
    | none => (.cycIncrement, a))
  | some (.launch n) => on n
  | some (.object n) => on n
  | some (.xb n p _) =>
    let b := s.xbOf g n
    if !g.sets.isEmpty then s.invalJob.getD (.xbwaitResume, a)
    else if b.fcode ≠ 0 ∨ b.ovf = true ∨ b.past p = true then (.xbwaitResume, a) else s.engineJob g.id.coreId

/-- The instruction of an operator word (R87, R222). -/
def operatorJob (w : Word) (i : GroupId) (lane : Nat) : Job :=
  match decodeOperator w with
  | .ok x => (x, { groupArgs i with t := lane })
  | .error _ => (.cycIncrement, groupArgs i)

/-- The operator of a lane of a group's rig. -/
def State.laneJob (s : State) (i : GroupId) (n : Nat) : Job :=
  match (s.rig? i).bind (·.block) with
  | some b => operatorJob (b.ops[n]?.getD 0) i n
  | none => (.cycIncrement, groupArgs i)

/-- The next step of a running rig, and the focus in which it executes. -/
def State.runJob (s : State) (r : Rig) : Job × Focus :=
  let i := r.group
  let a := groupArgs i
  let on := fun (x : Instr) => (((x, a) : Job), Focus.group i)
  let free := r.accs.find? fun p => !r.recs.any fun x => x.lane == p.lane
  if !r.flight.isEmpty then on .tokenArrival
  else if !r.returns.isEmpty then on .slotReturn
  else match s.firstLane r with
    | some n => (s.laneJob i n, .lane i n)
    | none =>
      match free with
      | some p => (s.invalJob.getD (.portReply, { a with t := p.lane }), .group i)
      | none =>
        if !r.recs.isEmpty then on .portReply
        else if r.gated then on (if r.drained then .rigSave else .rigSaveTimeout)
        else if (s.group? i).any s.rigTaken && !r.ending then on .rigSave
        else if r.quiescent then on .quiescence
        else if ((r.block.map (·.mx)).getD false) && !(s.coreD i.coreId).node.isEmpty then (s.nodeJob i.coreId, .group i)
        else on .rigStuck

/-- The next step of a group's rig (R175, R202, R203). -/
def State.rigJob (s : State) (r : Rig) : Job × Focus :=
  let i := r.group
  let a := groupArgs i
  let on := fun (x : Instr) (b : StepArgs) => (((x, b) : Job), Focus.group i)
  match r.phase with
  | .wait => on .cycIncrement a
  | .descriptor => on .graphDescriptorRead a
  | .fetch => on .blockFetch a
  | .place =>
    let c := s.coreD i.coreId
    if ((r.block.map (·.mx)).getD false) && c.claim != some i && c.pool.head? == some (.rig i) then
      (if s.groupTokens i.coreId then (s.nodeJob i.coreId, .group i) else on .matrixNodeClaim a)
    else on (if c.pool.head? = some (.rig i) then .rigPlacement else .poolGrant) a
  | .config =>
    (match r.lanes.findIdx? fun l => !l.loaded with
    | some n => on .configItemArrival { a with t := n }
    | none => on .sourceStart a)
  | .running => s.runJob r
  | .quiet => on .cycIncrement a

/-- The save of a group's team, once every group of it is taken. -/
def State.saveJob (s : State) (g : Group) : Option Job :=
  if ((s.teamOf g).map (·.taken)).getD false &&
      (s.groups.filter fun h => h.task = g.task ∧ h.lin = g.lin).all s.takeable then
    some (.teamSave, { groupArgs g.id with n := g.ctx, task := idOf g.task, t := g.lin })
  else none

/-- The step of a group by its situation. -/
def State.groupJob (s : State) (g : Group) (order : Option (List Byte)) : Job × Focus :=
  let a := groupArgs g.id
  let on := fun (j : Job) => (j, Focus.group g.id)
  let quiet := g.quiet && s.invals.isEmpty
  match g.status with
  | .trapping => on (if quiet then (.trapEntry, a) else s.drainJob g)
  | .ending => on (if quiet then (.groupEnd, a) else s.drainJob g)
  | .migrating =>
    on (.migrationComplete, { a with k := (s.migrations.findIdx? fun m => m.waiters.contains g.id).getD 0 })
  | .held => on (s.heldJob g)
  | .spat => (match s.rig? g.id with
    | some r => s.rigJob r
    | none => on (.cycIncrement, a))
  | .running =>
    on (if (g.tx.bind (·.seen)).isSome then (if g.out.isEmpty then (.txAbort, a) else s.drainJob g)
    else if !s.mayIssue g then s.drainJob g
    else if g.delayedDue then (.delayedFaultDelivery, a)
    else match g.stage with
      | .header => (.clauseFetch, a)
      | .fetched => (.clauseDecode, a)
      | .decoded =>
        if g.resume.isNone && !(g.waitMet && g.serialMet) then s.drainJob g
        else if g.turn then (.clauseStart, a) else (.issueSelect, a)
      | .issuing => if g.lateHere then (.trapEntry, a) else if g.turn then g.wordJob order else if quiet then (.issueSelect, a) else s.drainJob g)

/-- The step toward the save of a rig whose group handles a fault record of one of its ports, the team being taken (R421, R422). -/
def State.openRigJob (s : State) (g : Group) : Option Job :=
  if ((s.teamOf g).map (·.taken)).getD false && s.portHandler g && g.atHeader then
    (s.rig? g.id).bind fun r => if r.takeable then none else some (if r.gated then .rigSaveTimeout else .rigSave, groupArgs g.id)
  else none

/-- The step that serves a group: the first group where it is gone, and the device's own work where there is none. -/
def State.groupServe (s : State) (i : GroupId) (order : Option (List Byte)) : Job × Focus :=
  match (s.group? i).orElse fun _ => s.groups.head? with
  | some g => (match (s.saveJob g).orElse fun _ => s.openRigJob g with
    | some j => (j, .group g.id)
    | none => s.groupJob g order)
  | none => (s.deviceJob, .idle)

/-- The step that serves a focus, and the focus in which it executes. -/
def State.served (s : State) (order : Option (List Byte)) : Focus → Job × Focus
  | .idle => (s.deviceJob, .idle)
  | .group i => s.groupServe i order
  | .lane i n => (s.laneJob i n, .lane i n)

/-- The focus that stands while nothing is scheduled: a lane that cannot fire gives way to its group. -/
def State.standing (s : State) : Focus :=
  match s.focus with
  | .lane i n => if ((s.rig? i).bind fun r => if r.phase = .running then s.fireLane r n else none).isSome then .lane i n else .group i
  | f => f

/-- The next step's instruction, and the state in which it executes: its schedule entry consumed, its arguments in place
(log entry 1). -/
def State.nextStep (s : State) : Instr × State :=
  match s.schedule with
  | .step i a :: rest => (if (encodeNat i).isNone then i else .cycIncrement, { s with schedule := rest, args := a })
  | .serve f order :: rest =>
    let j := s.served order f
    (j.1.1, { s with schedule := rest, focus := j.2, args := j.1.2 })
  | [] =>
    let j := s.served none s.standing
    (j.1.1, { s with focus := j.2, args := j.1.2 })

/-! ### Lines that the host holds (R447) -/

/-- Whether a step is the host's own, for which no line of its own is called back. -/
def hostOwn : Instr → Bool
  | .hostMemAccess => true
  | .hostAtomicOp => true
  | .hostSnoop => true
  | .biResponse => true
  | _ => false

/-- The lines that the host holds and that the step from one state to another has written as the device, whether or not a byte of
them has another value now. -/
def State.heldLines (s t : State) : List Nat := (t.called.drop s.called.length).dedup

/-- A back-invalidation sent for a line, where none is on its way. -/
def State.callBack (s : State) (line : Nat) : State :=
  if (s.backInval line).isSome then s else { s with invals := s.invals ++ [{ line := line, die := none }] }

/-- A scheduled entry that waits goes behind the next one. -/
def defer : List Due → List Due
  | d :: x :: rest => x :: d :: rest
  | l => l

/-- The outcome `o` of an instruction executed in `n`, from a state `s` in which it was next: a write of the device on a line
that the host holds is not performed before the host has answered the back-invalidation (R447). -/
def State.behindHost (s : State) (i : Instr) (n : State) (o : Out) : Out :=
  match o with
  | .next t =>
    let ls := if hostOwn i then [] else n.heldLines t
    if ls.isEmpty then o else .next { ls.foldl State.callBack n with schedule := defer s.schedule }
  | _ => o

/-! ### An instruction placed (log entry 10) -/

/-- The group that runs a placed word: slot 0 of core 0 of die 0, a full mask, 64 registers of zero, privileged. -/
def placedGroup (ws : List Word) : Group :=
  { id := ⟨0, 0, 0⟩
    pv := true
    stage := .issuing
    turn := true
    clause := { addr := 0, words := ws, next := 1 }
    v := List.replicate 64 (Vector.replicate 96 0)
    s := #v[0, 0, 0, 0, 0, 0, 0, 0, 0, 0, 0, 0, 0, 0, 0, 0, 0, 0, 0, 0, 0, 0, 0, 0, 0, 0, 0, 0, 0, 0, 0, 0,
      0, 0, 0, 0, 0, 0, 0, 0, 0, 0, 0, 0, 0, 0, 0, 0, 0, 0, 0, 0, 0, 0, 0, 0, 0, 0, 0, 0,
      0xFFFFFFFF, 0xFFFFFFFF, 0xFFFFFFFF, 1] }

/-- The header of a clause of `n` words of an instruction's class (R68). -/
def headerFor (i : Option Instr) (n : Nat) : Word :=
  encodeHeader { n := n, cls := (i.bind Instr.cls).getD .alu, wait := 0, setc := 0, yield := false, serial := false }

/-- The rig that fires a placed operator word on lane 0. -/
def placedRig (w : Word) : Rig :=
  { group := ⟨0, 0, 0⟩
    desc := 0
    phase := .running
    block := some { addr := 0, words := [0, w], ops := [w], cfg := [{}], rigLog := 0, last := true, mx := false }
    lanes := [{ loaded := true }] }

/-- A state without what core 0 of die 0 and task 0 of context 0 hold. -/
def State.cleared (s : State) : State :=
  { s with
    groups := s.groups.filter fun g => g.id.coreId ≠ ⟨0, 0⟩
    teams := s.teams.filter fun t => t.core ≠ ⟨0, 0⟩ ∧ t.task ≠ 0
    cores := s.cores.filter fun c => c.id ≠ ⟨0, 0⟩ }

/-- A state with an instruction placed: its group or lane is what the schedule serves. -/
def State.placeWord (s : State) (w : Nat) : State :=
  let w0 : Word := BitVec.ofNat 32 w
  let s := s.cleared
  if 0xF0 ≤ field w 24 256 then
    { s with
      schedule := [.serve (.lane ⟨0, 0, 0⟩ 0)]
      groups := { placedGroup [] with status := .spat } :: s.groups
      cores := { id := ⟨0, 0⟩, rigs := [placedRig w0] } :: s.cores }
  else
    let i := decodeTableWord 64 w
    let n := (i.map Instr.literals).getD 0 + 1
    { s with
      schedule := [.serve (.group ⟨0, 0, 0⟩)]
      groups := placedGroup (headerFor i n :: w0 :: if n = 2 then [BitVec.ofNat 32 (w / 4294967296)] else []) :: s.groups }

end Sys2Proof.Machine
end

