-- ==== Sys2Proof/Machine/Dispatch.lean ====
section
/-! DEFINITION. One arm per row of the opcode table: the meaning of each step. -/

namespace Sys2Proof.Machine

/-- The meaning of a step on a state. -/
def exec (i : Instr) (s : State) : Host.Outcome State Fault Refusal :=
  match i with
  | .nop => Sys2Proof.Machine.execNop s
  | .movi g d imm => Sys2Proof.Machine.execMovi g d imm s
  | .movl g d lit => Sys2Proof.Machine.execMovl g d lit s
  | .mov g d b => Sys2Proof.Machine.execMov g d b s
  | .movx g d sb k => Sys2Proof.Machine.execMovx g d sb k s
  | .movy g d sb k => Sys2Proof.Machine.execMovy g d sb k s
  | .iadd g d a b sat => Sys2Proof.Machine.execIadd g d a b sat s
  | .isub g d a b sat => Sys2Proof.Machine.execIsub g d a b sat s
  | .iaddi g d a imm => Sys2Proof.Machine.execIaddi g d a imm s
  | .imul g d a b => Sys2Proof.Machine.execImul g d a b s
  | .imulh g d a b n => Sys2Proof.Machine.execImulh g d a b n s
  | .imad g d a b => Sys2Proof.Machine.execImad g d a b s
  | .imadw g d a b n => Sys2Proof.Machine.execImadw g d a b n s
  | .iadd64 g d a b w => Sys2Proof.Machine.execIadd64 g d a b w s
  | .imin g d a b n => Sys2Proof.Machine.execImin g d a b n s
  | .imax g d a b n => Sys2Proof.Machine.execImax g d a b n s
  | .iabs g d b sat => Sys2Proof.Machine.execIabs g d b sat s
  | .and g d a b => Sys2Proof.Machine.execAnd g d a b s
  | .or g d a b => Sys2Proof.Machine.execOr g d a b s
  | .xor g d a b => Sys2Proof.Machine.execXor g d a b s
  | .andn g d a b => Sys2Proof.Machine.execAndn g d a b s
  | .shl g d a b => Sys2Proof.Machine.execShl g d a b s
  | .shr g d a b ar => Sys2Proof.Machine.execShr g d a b ar s
  | .rot g d a b r => Sys2Proof.Machine.execRot g d a b r s
  | .shifti g d a kind n => Sys2Proof.Machine.execShifti g d a kind n s
  | .bfe g d a b sx => Sys2Proof.Machine.execBfe g d a b sx s
  | .bfi g d a b => Sys2Proof.Machine.execBfi g d a b s
  | .popc g d b => Sys2Proof.Machine.execPopc g d b s
  | .clz g d b => Sys2Proof.Machine.execClz g d b s
  | .brev g d b => Sys2Proof.Machine.execBrev g d b s
  | .icmp g pair cond a b w => Sys2Proof.Machine.execIcmp g pair cond a b w s
  | .icmpn g pair cond a b w => Sys2Proof.Machine.execIcmpn g pair cond a b w s
  | .sel p d a b => Sys2Proof.Machine.execSel p d a b s
  | .smovi d imm => Sys2Proof.Machine.execSmovi d imm s
  | .smovl d lit => Sys2Proof.Machine.execSmovl d lit s
  | .sadd d a b => Sys2Proof.Machine.execSadd d a b s
  | .ssub d a b => Sys2Proof.Machine.execSsub d a b s
  | .smul d a b => Sys2Proof.Machine.execSmul d a b s
  | .sand d a b => Sys2Proof.Machine.execSand d a b s
  | .sor d a b => Sys2Proof.Machine.execSor d a b s
  | .sxor d a b => Sys2Proof.Machine.execSxor d a b s
  | .sshl d a b => Sys2Proof.Machine.execSshl d a b s
  | .sshr d a b ar => Sys2Proof.Machine.execSshr d a b ar s
  | .scmp pair cond a b n => Sys2Proof.Machine.execScmp pair cond a b n s
  | .readl d a k => Sys2Proof.Machine.execReadl d a k s
  | .writel d a k => Sys2Proof.Machine.execWritel d a k s
  | .faddF32 g d a b => Sys2Proof.Machine.execFaddF32 g d a b s
  | .faddF64 g d a b => Sys2Proof.Machine.execFaddF64 g d a b s
  | .faddH2 g d a b => Sys2Proof.Machine.execFaddH2 g d a b s
  | .faddBH2 g d a b => Sys2Proof.Machine.execFaddBH2 g d a b s
  | .fsubF32 g d a b => Sys2Proof.Machine.execFsubF32 g d a b s
  | .fsubF64 g d a b => Sys2Proof.Machine.execFsubF64 g d a b s
  | .fsubH2 g d a b => Sys2Proof.Machine.execFsubH2 g d a b s
  | .fsubBH2 g d a b => Sys2Proof.Machine.execFsubBH2 g d a b s
  | .fmulF32 g d a b => Sys2Proof.Machine.execFmulF32 g d a b s
  | .fmulF64 g d a b => Sys2Proof.Machine.execFmulF64 g d a b s
  | .fmulH2 g d a b => Sys2Proof.Machine.execFmulH2 g d a b s
  | .fmulBH2 g d a b => Sys2Proof.Machine.execFmulBH2 g d a b s
  | .ffmaF32 g d a b neg => Sys2Proof.Machine.execFfmaF32 g d a b neg s
  | .ffmaF64 g d a b neg => Sys2Proof.Machine.execFfmaF64 g d a b neg s
  | .ffmaH2 g d a b neg => Sys2Proof.Machine.execFfmaH2 g d a b neg s
  | .ffmaBH2 g d a b neg => Sys2Proof.Machine.execFfmaBH2 g d a b neg s
  | .fminF32 g d a b nan => Sys2Proof.Machine.execFminF32 g d a b nan s
  | .fminF64 g d a b nan => Sys2Proof.Machine.execFminF64 g d a b nan s
  | .fminH2 g d a b nan => Sys2Proof.Machine.execFminH2 g d a b nan s
  | .fminBH2 g d a b nan => Sys2Proof.Machine.execFminBH2 g d a b nan s
  | .fmaxF32 g d a b nan => Sys2Proof.Machine.execFmaxF32 g d a b nan s
  | .fmaxF64 g d a b nan => Sys2Proof.Machine.execFmaxF64 g d a b nan s
  | .fmaxH2 g d a b nan => Sys2Proof.Machine.execFmaxH2 g d a b nan s
  | .fmaxBH2 g d a b nan => Sys2Proof.Machine.execFmaxBH2 g d a b nan s
  | .fcmpF32 g pair cond a b sig => Sys2Proof.Machine.execFcmpF32 g pair cond a b sig s
  | .fcmpF64 g pair cond a b sig => Sys2Proof.Machine.execFcmpF64 g pair cond a b sig s
  | .fcmpH2 g pair cond a b hi => Sys2Proof.Machine.execFcmpH2 g pair cond a b hi s
  | .fcmpBH2 g pair cond a b hi => Sys2Proof.Machine.execFcmpBH2 g pair cond a b hi s
  | .frcp g d b => Sys2Proof.Machine.execFrcp g d b s
  | .frsq g d b => Sys2Proof.Machine.execFrsq g d b s
  | .fsqrt g d b => Sys2Proof.Machine.execFsqrt g d b s
  | .fexp2 g d b => Sys2Proof.Machine.execFexp2 g d b s
  | .flog2 g d b => Sys2Proof.Machine.execFlog2 g d b s
  | .fsin g d b => Sys2Proof.Machine.execFsin g d b s
  | .fcos g d b => Sys2Proof.Machine.execFcos g d b s
  | .ftanh g d b => Sys2Proof.Machine.execFtanh g d b s
  | .cvtF32F64 g d b => Sys2Proof.Machine.execCvtF32F64 g d b s
  | .cvtF64F32 g d b => Sys2Proof.Machine.execCvtF64F32 g d b s
  | .cvtF32H2 g d b hi => Sys2Proof.Machine.execCvtF32H2 g d b hi s
  | .cvtH2F32 g d a b => Sys2Proof.Machine.execCvtH2F32 g d a b s
  | .cvtF32Bh2 g d b hi => Sys2Proof.Machine.execCvtF32Bh2 g d b hi s
  | .cvtBh2F32 g d a b => Sys2Proof.Machine.execCvtBh2F32 g d a b s
  | .cvtF32I32 g d b => Sys2Proof.Machine.execCvtF32I32 g d b s
  | .cvtF32N32 g d b => Sys2Proof.Machine.execCvtF32N32 g d b s
  | .cvtI32F32 g d b rz => Sys2Proof.Machine.execCvtI32F32 g d b rz s
  | .cvtN32F32 g d b rz => Sys2Proof.Machine.execCvtN32F32 g d b rz s
  | .cvtF64I32 g d b => Sys2Proof.Machine.execCvtF64I32 g d b s
  | .cvtI32F64 g d b rz => Sys2Proof.Machine.execCvtI32F64 g d b rz s
  | .cvtpE4m3 g d a b hi => Sys2Proof.Machine.execCvtpE4m3 g d a b hi s
  | .cvtpE5m2 g d a b hi => Sys2Proof.Machine.execCvtpE5m2 g d a b hi s
  | .cvtuE4m3 g d b hi => Sys2Proof.Machine.execCvtuE4m3 g d b hi s
  | .cvtuE5m2 g d b hi => Sys2Proof.Machine.execCvtuE5m2 g d b hi s
  | .braAny g disp => Sys2Proof.Machine.execBraAny g disp s
  | .braAll g disp => Sys2Proof.Machine.execBraAll g disp s
  | .braNone g disp => Sys2Proof.Machine.execBraNone g disp s
  | .jmp disp => Sys2Proof.Machine.execJmp disp s
  | .call disp => Sys2Proof.Machine.execCall disp s
  | .callr a => Sys2Proof.Machine.execCallr a s
  | .ret a => Sys2Proof.Machine.execRet a s
  | .mskand d p not => Sys2Proof.Machine.execMskand d p not s
  | .mskset a p => Sys2Proof.Machine.execMskset a p s
  | .exit g => Sys2Proof.Machine.execExit g s
  | .ldS8 g d a seg off => Sys2Proof.Machine.execLdS8 g d a seg off s
  | .ldN8 g d a seg off => Sys2Proof.Machine.execLdN8 g d a seg off s
  | .ldS16 g d a seg off => Sys2Proof.Machine.execLdS16 g d a seg off s
  | .ldN16 g d a seg off => Sys2Proof.Machine.execLdN16 g d a seg off s
  | .ldB32 g d a seg off => Sys2Proof.Machine.execLdB32 g d a seg off s
  | .ldB64 g d a seg off => Sys2Proof.Machine.execLdB64 g d a seg off s
  | .ldB128 g d a seg off => Sys2Proof.Machine.execLdB128 g d a seg off s
  | .stB8 g d a seg off => Sys2Proof.Machine.execStB8 g d a seg off s
  | .stB16 g d a seg off => Sys2Proof.Machine.execStB16 g d a seg off s
  | .stB32 g d a seg off => Sys2Proof.Machine.execStB32 g d a seg off s
  | .stB64 g d a seg off => Sys2Proof.Machine.execStB64 g d a seg off s
  | .stB128 g d a seg off => Sys2Proof.Machine.execStB128 g d a seg off s
  | .ldaqB32 g d a seg sc off => Sys2Proof.Machine.execLdaqB32 g d a seg sc off s
  | .ldaqB64 g d a seg sc off => Sys2Proof.Machine.execLdaqB64 g d a seg sc off s
  | .strlB32 g d a seg sc off => Sys2Proof.Machine.execStrlB32 g d a seg sc off s
  | .strlB64 g d a seg sc off => Sys2Proof.Machine.execStrlB64 g d a seg sc off s
  | .trap g code => Sys2Proof.Machine.execTrap g code s
  | .srr d num => Sys2Proof.Machine.execSrr d num s
  | .swr d num => Sys2Proof.Machine.execSwr d num s
  | .segset k a => Sys2Proof.Machine.execSegset k a s
  | .eret => Sys2Proof.Machine.execEret s
  | .tlbinv sc all a => Sys2Proof.Machine.execTlbinv sc all a s
  | .ctxsv a b => Sys2Proof.Machine.execCtxsv a b s
  | .ctxld d a => Sys2Proof.Machine.execCtxld d a s
  | .shfl g d a b x => Sys2Proof.Machine.execShfl g d a b x s
  | .shfli g d a kind n => Sys2Proof.Machine.execShfli g d a kind n s
  | .ptos d p b cnt => Sys2Proof.Machine.execPtos d p b cnt s
  | .stop g p a not => Sys2Proof.Machine.execStop g p a not s
  | .plop g pd pa pb tt => Sys2Proof.Machine.execPlop g pd pa pb tt s
  | .vconf g d a b last => Sys2Proof.Machine.execVconf g d a b last s
  | .vrank g d a b n => Sys2Proof.Machine.execVrank g d a b n s
  | .rsumk g d a b int => Sys2Proof.Machine.execRsumk g d a b int s
  | .redi g op d b toS => Sys2Proof.Machine.execRedi g op d b toS s
  | .redf g f64 d b toS => Sys2Proof.Machine.execRedf g f64 d b toS s
  | .bar lv n => Sys2Proof.Machine.execBar lv n s
  | .bara lv n => Sys2Proof.Machine.execBara lv n s
  | .barw lv n => Sys2Proof.Machine.execBarw lv n s
  | .spat a => Sys2Proof.Machine.execSpat a s
  | .grow n => Sys2Proof.Machine.execGrow n s
  | .shrnk n => Sys2Proof.Machine.execShrnk n s
  | .tlaunch g d a seg => Sys2Proof.Machine.execTlaunch g d a seg s
  | .tsucc g d a seg => Sys2Proof.Machine.execTsucc g d a seg s
  | .propose g d a seg sc mo => Sys2Proof.Machine.execPropose g d a seg sc mo s
  | .cellrd g d a seg sc mo => Sys2Proof.Machine.execCellrd g d a seg sc mo s
  | .cellwt g d a seg sc mo => Sys2Proof.Machine.execCellwt g d a seg sc mo s
  | .cellinit g d a seg sc mo => Sys2Proof.Machine.execCellinit g d a seg sc mo s
  | .cellrst g d a seg sc mo => Sys2Proof.Machine.execCellrst g d a seg sc mo s
  | .lkacq g d a seg sc mo => Sys2Proof.Machine.execLkacq g d a seg sc mo s
  | .lkrel g d a seg sc mo => Sys2Proof.Machine.execLkrel g d a seg sc mo s
  | .qrsv g d a seg => Sys2Proof.Machine.execQrsv g d a seg s
  | .qput g d a seg sc mo => Sys2Proof.Machine.execQput g d a seg sc mo s
  | .qget g d a seg sc mo => Sys2Proof.Machine.execQget g d a seg sc mo s
  | .ataddI32 g d a seg sc mo => Sys2Proof.Machine.execAtaddI32 g d a seg sc mo s
  | .ataddI64 g d a seg sc mo => Sys2Proof.Machine.execAtaddI64 g d a seg sc mo s
  | .ataddF32 g d a seg sc mo => Sys2Proof.Machine.execAtaddF32 g d a seg sc mo s
  | .atminI32 g d a seg sc mo => Sys2Proof.Machine.execAtminI32 g d a seg sc mo s
  | .atmaxI32 g d a seg sc mo => Sys2Proof.Machine.execAtmaxI32 g d a seg sc mo s
  | .atandB32 g d a seg sc mo => Sys2Proof.Machine.execAtandB32 g d a seg sc mo s
  | .atorB32 g d a seg sc mo => Sys2Proof.Machine.execAtorB32 g d a seg sc mo s
  | .atxorB32 g d a seg sc mo => Sys2Proof.Machine.execAtxorB32 g d a seg sc mo s
  | .atxchB32 g d a seg sc mo => Sys2Proof.Machine.execAtxchB32 g d a seg sc mo s
  | .atxchB64 g d a seg sc mo => Sys2Proof.Machine.execAtxchB64 g d a seg sc mo s
  | .atcasB32 g d a seg sc mo => Sys2Proof.Machine.execAtcasB32 g d a seg sc mo s
  | .atcasB64 g d a seg sc mo => Sys2Proof.Machine.execAtcasB64 g d a seg sc mo s
  | .redstF32 g d a seg sc mo => Sys2Proof.Machine.execRedstF32 g d a seg sc mo s
  | .fence sc mo => Sys2Proof.Machine.execFence sc mo s
  | .publish d a sc => Sys2Proof.Machine.execPublish d a sc s
  | .pref g lv a seg off => Sys2Proof.Machine.execPref g lv a seg off s
  | .tdef t => Sys2Proof.Machine.execTdef t s
  | .tinv t => Sys2Proof.Machine.execTinv t s
  | .tcopy t a b => Sys2Proof.Machine.execTcopy t a b s
  | .tstore t a b => Sys2Proof.Machine.execTstore t a b s
  | .mma fmt ac ra rb a => Sys2Proof.Machine.execMma fmt ac ra rb a s
  | .mdrain t a b => Sys2Proof.Machine.execMdrain t a b s
  | .xbexp n b => Sys2Proof.Machine.execXbexp n b s
  | .xbwait n k => Sys2Proof.Machine.execXbwait n k s
  | .slotset buf slot full => Sys2Proof.Machine.execSlotset buf slot full s
  | .slotwt buf slot full => Sys2Proof.Machine.execSlotwt buf slot full s
  | .bufdef buf a b => Sys2Proof.Machine.execBufdef buf a b s
  | .bufdefFree buf => Sys2Proof.Machine.execBufdefFree buf s
  | .txbeg disp => Sys2Proof.Machine.execTxbeg disp s
  | .txend => Sys2Proof.Machine.execTxend s
  | .txabt code => Sys2Proof.Machine.execTxabt code s
  | .txst d => Sys2Proof.Machine.execTxst d s
  | .src o => Sys2Proof.Machine.execSrc o s
  | .snk o => Sys2Proof.Machine.execSnk o s
  | .ctr o => Sys2Proof.Machine.execCtr o s
  | .steer o => Sys2Proof.Machine.execSteer o s
  | .merge o => Sys2Proof.Machine.execMerge o s
  | .acc o => Sys2Proof.Machine.execAcc o s
  | .ord o => Sys2Proof.Machine.execOrd o s
  | .conv o => Sys2Proof.Machine.execConv o s
  | .rdreg o => Sys2Proof.Machine.execRdreg o s
  | .wrreg o => Sys2Proof.Machine.execWrreg o s
  | .mtok o => Sys2Proof.Machine.execMtok o s
  | .dup o => Sys2Proof.Machine.execDup o s
  | .aluOperatorFire op o => Sys2Proof.Machine.execAluOperatorFire op o s
  | .coreReset => Sys2Proof.Machine.execCoreReset s
  | .deviceReset => Sys2Proof.Machine.execDeviceReset s
  | .clauseFetch => Sys2Proof.Machine.execClauseFetch s
  | .clauseDecode => Sys2Proof.Machine.execClauseDecode s
  | .clauseStart => Sys2Proof.Machine.execClauseStart s
  | .issueSelect => Sys2Proof.Machine.execIssueSelect s
  | .resultWriteback => Sys2Proof.Machine.execResultWriteback s
  | .trapEntry => Sys2Proof.Machine.execTrapEntry s
  | .migrationComplete => Sys2Proof.Machine.execMigrationComplete s
  | .delayedFaultDelivery => Sys2Proof.Machine.execDelayedFaultDelivery s
  | .groupEnd => Sys2Proof.Machine.execGroupEnd s
  | .teamStart => Sys2Proof.Machine.execTeamStart s
  | .teamBalance => Sys2Proof.Machine.execTeamBalance s
  | .poolGrant => Sys2Proof.Machine.execPoolGrant s
  | .barrierRelease => Sys2Proof.Machine.execBarrierRelease s
  | .launchWindowScan => Sys2Proof.Machine.execLaunchWindowScan s
  | .successorDecrement => Sys2Proof.Machine.execSuccessorDecrement s
  | .cellRequest => Sys2Proof.Machine.execCellRequest s
  | .lockRequest => Sys2Proof.Machine.execLockRequest s
  | .queueRequest => Sys2Proof.Machine.execQueueRequest s
  | .waitingWordRetry => Sys2Proof.Machine.execWaitingWordRetry s
  | .remoteWake => Sys2Proof.Machine.execRemoteWake s
  | .remoteSleeperRetry => Sys2Proof.Machine.execRemoteSleeperRetry s
  | .atomicPerform => Sys2Proof.Machine.execAtomicPerform s
  | .storePerform => Sys2Proof.Machine.execStorePerform s
  | .loadPerform => Sys2Proof.Machine.execLoadPerform s
  | .coherenceInvalidation => Sys2Proof.Machine.execCoherenceInvalidation s
  | .invalidationAck => Sys2Proof.Machine.execInvalidationAck s
  | .lineWriteback => Sys2Proof.Machine.execLineWriteback s
  | .directoryEviction => Sys2Proof.Machine.execDirectoryEviction s
  | .bankRead => Sys2Proof.Machine.execBankRead s
  | .bankWrite => Sys2Proof.Machine.execBankWrite s
  | .addOnStore => Sys2Proof.Machine.execAddOnStore s
  | .bankAtomic => Sys2Proof.Machine.execBankAtomic s
  | .chainedAddOnStore => Sys2Proof.Machine.execChainedAddOnStore s
  | .lineAddOnStore => Sys2Proof.Machine.execLineAddOnStore s
  | .tileDrainUpdate => Sys2Proof.Machine.execTileDrainUpdate s
  | .pageWalk => Sys2Proof.Machine.execPageWalk s
  | .tlbinvComplete => Sys2Proof.Machine.execTlbinvComplete s
  | .hmaskApply => Sys2Proof.Machine.execHmaskApply s
  | .portalCompletion => Sys2Proof.Machine.execPortalCompletion s
  | .completionTimeout => Sys2Proof.Machine.execCompletionTimeout s
  | .hostAtomicOp => Sys2Proof.Machine.execHostAtomicOp s
  | .graphDescriptorRead => Sys2Proof.Machine.execGraphDescriptorRead s
  | .blockFetch => Sys2Proof.Machine.execBlockFetch s
  | .blockReadAhead => Sys2Proof.Machine.execBlockReadAhead s
  | .rigPlacement => Sys2Proof.Machine.execRigPlacement s
  | .matrixNodeClaim => Sys2Proof.Machine.execMatrixNodeClaim s
  | .configItemArrival => Sys2Proof.Machine.execConfigItemArrival s
  | .sourceStart => Sys2Proof.Machine.execSourceStart s
  | .tokenArrival => Sys2Proof.Machine.execTokenArrival s
  | .slotReturn => Sys2Proof.Machine.execSlotReturn s
  | .quiescence => Sys2Proof.Machine.execQuiescence s
  | .rigStuck => Sys2Proof.Machine.execRigStuck s
  | .portReply => Sys2Proof.Machine.execPortReply s
  | .copyStart => Sys2Proof.Machine.execCopyStart s
  | .walkAhead => Sys2Proof.Machine.execWalkAhead s
  | .arrivalPost => Sys2Proof.Machine.execArrivalPost s
  | .xbwaitResume => Sys2Proof.Machine.execXbwaitResume s
  | .matrixTokenFire => Sys2Proof.Machine.execMatrixTokenFire s
  | .mdrainRead => Sys2Proof.Machine.execMdrainRead s
  | .chainStageAdd => Sys2Proof.Machine.execChainStageAdd s
  | .chainSlotEnable => Sys2Proof.Machine.execChainSlotEnable s
  | .chainSlotReset => Sys2Proof.Machine.execChainSlotReset s
  | .preemptionTimeout => Sys2Proof.Machine.execPreemptionTimeout s
  | .teamSave => Sys2Proof.Machine.execTeamSave s
  | .teamRestore => Sys2Proof.Machine.execTeamRestore s
  | .rigSave => Sys2Proof.Machine.execRigSave s
  | .rigSaveTimeout => Sys2Proof.Machine.execRigSaveTimeout s
  | .txAbort => Sys2Proof.Machine.execTxAbort s
  | .txCommit => Sys2Proof.Machine.execTxCommit s
  | .kill => Sys2Proof.Machine.execKill s
  | .reclaim => Sys2Proof.Machine.execReclaim s
  | .retire => Sys2Proof.Machine.execRetire s
  | .contextEnable => Sys2Proof.Machine.execContextEnable s
  | .contextDisable => Sys2Proof.Machine.execContextDisable s
  | .registerSpaceWrite => Sys2Proof.Machine.execRegisterSpaceWrite s
  | .linkRetrain => Sys2Proof.Machine.execLinkRetrain s
  | .linkDownEnable => Sys2Proof.Machine.execLinkDownEnable s
  | .linkTrained => Sys2Proof.Machine.execLinkTrained s
  | .linkFailure => Sys2Proof.Machine.execLinkFailure s
  | .laneRemap => Sys2Proof.Machine.execLaneRemap s
  | .peerRequest => Sys2Proof.Machine.execPeerRequest s
  | .hostMemAccess => Sys2Proof.Machine.execHostMemAccess s
  | .hostSnoop => Sys2Proof.Machine.execHostSnoop s
  | .biResponse => Sys2Proof.Machine.execBiResponse s
  | .capacityDecoderEnable => Sys2Proof.Machine.execCapacityDecoderEnable s
  | .checkpointSave => Sys2Proof.Machine.execCheckpointSave s
  | .checkpointLoad => Sys2Proof.Machine.execCheckpointLoad s
  | .checkpointCopyDone => Sys2Proof.Machine.execCheckpointCopyDone s
  | .sliceRetire => Sys2Proof.Machine.execSliceRetire s
  | .eccCorrectableError => Sys2Proof.Machine.execEccCorrectableError s
  | .eccUncorrectableError => Sys2Proof.Machine.execEccUncorrectableError s
  | .scrubInterval => Sys2Proof.Machine.execScrubInterval s
  | .groomLoad => Sys2Proof.Machine.execGroomLoad s
  | .groomTrain => Sys2Proof.Machine.execGroomTrain s
  | .groomRowRepair => Sys2Proof.Machine.execGroomRowRepair s
  | .groomPcSpare => Sys2Proof.Machine.execGroomPcSpare s
  | .groomScrub => Sys2Proof.Machine.execGroomScrub s
  | .groomTelemetry => Sys2Proof.Machine.execGroomTelemetry s
  | .stagingWindowWrite => Sys2Proof.Machine.execStagingWindowWrite s
  | .fwload => Sys2Proof.Machine.execFwload s
  | .firmwareVerified => Sys2Proof.Machine.execFirmwareVerified s
  | .firmwareInitDone => Sys2Proof.Machine.execFirmwareInitDone s
  | .codeverify => Sys2Proof.Machine.execCodeverify s
  | .svncommit => Sys2Proof.Machine.execSvncommit s
  | .keyprog => Sys2Proof.Machine.execKeyprog s
  | .keyrevoke => Sys2Proof.Machine.execKeyrevoke s
  | .health => Sys2Proof.Machine.execHealth s
  | .pscRetire => Sys2Proof.Machine.execPscRetire s
  | .pscKill => Sys2Proof.Machine.execPscKill s
  | .pldmRequest => Sys2Proof.Machine.execPldmRequest s
  | .cycIncrement => Sys2Proof.Machine.execCycIncrement s
  | .cleanLineDrop => Sys2Proof.Machine.execCleanLineDrop s
  | .unlistedCommand => Sys2Proof.Machine.execUnlistedCommand s

end Sys2Proof.Machine
end

