-- ==== Sys2Proof/Machine/Step.lean ====
section
/-! DEFINITION. One step of the machine. -/

namespace Sys2Proof.Machine

/-- One step (log entry 1): the instruction that is next, executed; a write waits for a line that the host holds (R447). -/
def step (s : State) : Host.Outcome State Fault Refusal :=
  s.behindHost s.nextStep.1 s.nextStep.2 (exec s.nextStep.1 s.nextStep.2)

/-- The state with an instruction placed where the next step takes its instruction from (log entry 10): a clause word in
the clause buffer of a group in focus, an operator word on a lane in focus. -/
def State.withFetchWord (s : State) (_nbits w : Nat) : State := s.placeWord w

end Sys2Proof.Machine
end

