-- ==== Sys2Proof/Safety.lean ====
section
/-! DEFINITION. What a safe run is: no stop of the model, and every memory in its canonical form. -/

namespace Sys2Proof.Machine

/-- An outcome that goes on. -/
def goesOn (o : Host.Outcome State Fault Refusal) : Prop := ∃ t, o = .next t

/-- A run of `k` steps that meets no stop. -/
def safeFor (k : Nat) (s : State) : Prop := goesOn (Sys2Proof.core.run k s)

/-- Every memory of the state in its canonical form: main memory, each core's shared store, the staging window. -/
def State.memWf (s : State) : Bool := s.mem.wf && s.cores.all (fun c => c.shared.wf) && s.psc.staging.wf

end Sys2Proof.Machine
end

