-- ==== Sys2Proof/Certificates/Slice0/Obligations.lean ====
section
/-! DEFINITION. The statements for the provers. Every statement about a word holds of the group in focus; what a word does
when one of its checks fails is stated apart. -/

namespace Sys2Proof.Slice0

open Sys2Proof Sys2Proof.Machine

/-! ### What the statements say of words -/

/-- The group `g` is in focus, and no register of `rs` is beyond its budget or pending (R13, R27). -/
abbrev issues (s : State) (g : Group) (rs : List PReg) : Prop :=
  s.cur = some g ∧ ∀ r ∈ rs, g.beyond r = false ∧ g.isPending r = false

/-- The group `h` is `g` with v(d) written as `f` says for the threads of `enabled()`: no other register, flag or field of
the group differs (R9, R14). -/
def wroteV (g h : Group) (gd : Guard) (d : Nat) (f : Nat → Word) : Prop :=
  h = { g with v := h.v } ∧ h.v.length = g.v.length ∧
    ∀ n t, t < 96 → h.vget n t = if n = d ∧ g.on gd t = true then f t else g.vget n t

/-- The group `h` is `g` with the pair v[d:d+1] written as `f` says for the threads of `enabled()` (R2, R14). -/
def wrotePair (g h : Group) (gd : Guard) (d : Nat) (f : Nat → DWord) : Prop :=
  h = { g with v := h.v } ∧ h.v.length = g.v.length ∧
    ∀ n t, t < 96 → h.vget n t =
      if n = d ∧ g.on gd t = true then (f t).extractLsb' 0 32
      else if n = d + 1 ∧ g.on gd t = true then (f t).extractLsb' 32 32
      else g.vget n t

/-- The group `h` is `g` with s(d) written: every other scalar register and every other field is as before. -/
def wroteS (g h : Group) (d : Nat) (x : Word) : Prop :=
  h = { g with s := h.s } ∧ ∀ n, h.sget n = if n = d then x else g.sget n

/-- The group `h` is `g` with FPSR's flags raised by the flags of the threads of `enabled()`: bit k is set when it was or
when one of them raises it (R38). -/
def raised (g h : Group) (gd : Guard) (fl : Nat → Flags) : Prop :=
  h = { g with fpsr := h.fpsr } ∧
    ∀ k, h.fpsr.getLsbD k = (g.fpsr.getLsbD k || (threads.any fun t => g.on gd t && (fl t).getLsbD k))

/-- The group `h` is `g` with its words moved on past the word at which it stands, which takes `n` words of the clause (R15,
R20). -/
def movedOn (g h : Group) (n : Nat) : Prop :=
  if g.clause.next + n < g.clause.words.length then
    h = { g with clause := { g.clause with next := g.clause.next + n } }
  else
    h.pc = g.clause.addr + BitVec.ofNat 64 (4 * g.clause.words.length) ∧ h.stage = .header ∧ h.turn = false ∧
      h.yielding = (g.yielding || g.yields) ∧
      h = { g with pc := h.pc, stage := h.stage, turn := h.turn, serial := h.serial, yielding := h.yielding, clause := {} }

/-- `v` with bits above its width cut. -/
def bits (f : Nat → Bool) : Word := BitVec.ofFnLE fun i : Fin 32 => f i.val

/-- The amount of a shift: bits 5 to 0 (R104). -/
def amount (y : Word) : Nat := y.toNat % 64

/-- OFFSET and the cut WIDTH of a bit-field descriptor (R106): bits 5 to 0, and bits 13 to 8 cut at bit 31. -/
def fieldOff (y : Word) : Nat := y.toNat % 64
def fieldWidth (y : Word) : Nat := min (y.toNat / 256 % 64) (32 - fieldOff y)

/-- What a 32-bit word of R101 to R107 writes into v(d): its guard, d, the registers it names besides, and the value for one
thread from the thread's operands. -/
def intValue : Instr → Option (Guard × Reg × List PReg × (Group → Nat → Word))
  | .movi gd d imm => some (gd, d, [], fun _ _ => imm.signExtend 32)
  | .mov gd d b => some (gd, d, [bReg b], fun g t => g.bval b t)
  | .iadd gd d a b false => some (gd, d, [.v a.val, bReg b], fun g t => BitVec.ofInt 32 ((g.vget a.val t).toInt + (g.bval b t).toInt))
  | .iadd gd d a b true => some (gd, d, [.v a.val, bReg b], fun g t =>
      BitVec.ofInt 32 (max (-2 ^ 31) (min (2 ^ 31 - 1) ((g.vget a.val t).toInt + (g.bval b t).toInt))))
  | .isub gd d a b false => some (gd, d, [.v a.val, bReg b], fun g t => BitVec.ofInt 32 ((g.vget a.val t).toInt - (g.bval b t).toInt))
  | .isub gd d a b true => some (gd, d, [.v a.val, bReg b], fun g t =>
      BitVec.ofInt 32 (max (-2 ^ 31) (min (2 ^ 31 - 1) ((g.vget a.val t).toInt - (g.bval b t).toInt))))
  | .iaddi gd d a imm => some (gd, d, [.v a.val], fun g t => BitVec.ofInt 32 ((g.vget a.val t).toInt + imm.toInt))
  | .imul gd d a b => some (gd, d, [.v a.val, bReg b], fun g t => BitVec.ofInt 32 ((g.vget a.val t).toInt * (g.bval b t).toInt))
  | .imulh gd d a b false => some (gd, d, [.v a.val, bReg b], fun g t =>
      BitVec.extractLsb' 32 32 ((g.vget a.val t).signExtend 64 * (g.bval b t).signExtend 64))
  | .imulh gd d a b true => some (gd, d, [.v a.val, bReg b], fun g t =>
      BitVec.extractLsb' 32 32 ((g.vget a.val t).zeroExtend 64 * (g.bval b t).zeroExtend 64))
  | .imad gd d a b => some (gd, d, [.v a.val, bReg b], fun g t =>
      BitVec.ofInt 32 ((g.vget a.val t).toInt * (g.bval b t).toInt + (g.vget d.val t).toInt))
  | .imin gd d a b false => some (gd, d, [.v a.val, bReg b], fun g t => BitVec.ofInt 32 (min (g.vget a.val t).toInt (g.bval b t).toInt))
  | .imin gd d a b true => some (gd, d, [.v a.val, bReg b], fun g t => BitVec.ofNat 32 (min (g.vget a.val t).toNat (g.bval b t).toNat))
  | .imax gd d a b false => some (gd, d, [.v a.val, bReg b], fun g t => BitVec.ofInt 32 (max (g.vget a.val t).toInt (g.bval b t).toInt))
  | .imax gd d a b true => some (gd, d, [.v a.val, bReg b], fun g t => BitVec.ofNat 32 (max (g.vget a.val t).toNat (g.bval b t).toNat))
  | .iabs gd d b false => some (gd, d, [bReg b], fun g t => BitVec.ofNat 32 (g.bval b t).toInt.natAbs)
  | .iabs gd d b true => some (gd, d, [bReg b], fun g t => BitVec.ofNat 32 (min (2 ^ 31 - 1) (g.bval b t).toInt.natAbs))
  | .and gd d a b => some (gd, d, [.v a.val, bReg b], fun g t => bits fun i => (g.vget a.val t).getLsbD i && (g.bval b t).getLsbD i)
  | .or gd d a b => some (gd, d, [.v a.val, bReg b], fun g t => bits fun i => (g.vget a.val t).getLsbD i || (g.bval b t).getLsbD i)
  | .xor gd d a b => some (gd, d, [.v a.val, bReg b], fun g t => bits fun i => (g.vget a.val t).getLsbD i != (g.bval b t).getLsbD i)
  | .andn gd d a b => some (gd, d, [.v a.val, bReg b], fun g t => bits fun i => (g.vget a.val t).getLsbD i && !(g.bval b t).getLsbD i)
  | .shl gd d a b => some (gd, d, [.v a.val, bReg b], fun g t => BitVec.ofNat 32 ((g.vget a.val t).toNat * 2 ^ amount (g.bval b t)))
  | .shr gd d a b false => some (gd, d, [.v a.val, bReg b], fun g t => BitVec.ofNat 32 ((g.vget a.val t).toNat / 2 ^ amount (g.bval b t)))
  | .shr gd d a b true => some (gd, d, [.v a.val, bReg b], fun g t => BitVec.ofInt 32 ((g.vget a.val t).toInt / 2 ^ amount (g.bval b t)))
  | .rot gd d a b false => some (gd, d, [.v a.val, bReg b], fun g t => (g.vget a.val t).rotateLeft ((g.bval b t).toNat % 32))
  | .rot gd d a b true => some (gd, d, [.v a.val, bReg b], fun g t => (g.vget a.val t).rotateRight ((g.bval b t).toNat % 32))
  | .shifti gd d a .shl n => some (gd, d, [.v a.val], fun g t => BitVec.ofNat 32 ((g.vget a.val t).toNat * 2 ^ n.val))
  | .shifti gd d a .shr n => some (gd, d, [.v a.val], fun g t => BitVec.ofNat 32 ((g.vget a.val t).toNat / 2 ^ n.val))
  | .shifti gd d a .sar n => some (gd, d, [.v a.val], fun g t => BitVec.ofInt 32 ((g.vget a.val t).toInt / 2 ^ n.val))
  | .shifti gd d a .rot n => some (gd, d, [.v a.val], fun g t => (g.vget a.val t).rotateLeft (n.val % 32))
  | .bfe gd d a b sgn => some (gd, d, [.v a.val, bReg b], fun g t =>
      let y := g.bval b t
      let x := g.vget a.val t
      bits fun i => if i < fieldWidth y then x.getLsbD (fieldOff y + i)
        else sgn && decide (0 < fieldWidth y) && x.getLsbD (fieldOff y + fieldWidth y - 1))
  | .bfi gd d a b => some (gd, d, [.v a.val, bReg b], fun g t =>
      let y := g.bval b t
      bits fun i => if fieldOff y ≤ i ∧ i < fieldOff y + fieldWidth y then (g.vget a.val t).getLsbD (i - fieldOff y)
        else (g.vget d.val t).getLsbD i)
  | .popc gd d b => some (gd, d, [bReg b], fun g t =>
      BitVec.ofNat 32 ((List.range 32).filter fun i => (g.bval b t).getLsbD i).length)
  | .clz gd d b => some (gd, d, [bReg b], fun g t =>
      BitVec.ofNat 32 (((List.range 32).find? fun i => (g.bval b t).getLsbD (31 - i)).getD 32))
  | .brev gd d b => some (gd, d, [bReg b], fun g t => bits fun i => (g.bval b t).getLsbD (31 - i))
  | .sel p d a b => some (.always, d, [.p p.val, .v a.val, bReg b], fun g t => if g.pget p.val t then g.vget a.val t else g.bval b t)
  | _ => none

/-- What a 64-bit word of R102 writes into v[d:d+1]. -/
def pairValue : Instr → Option (Guard × Reg × List PReg × (Group → Nat → DWord))
  | .imadw gd d a b false => some (gd, d, [.v a.val, bReg b], fun g t =>
      BitVec.ofInt 64 ((g.vget a.val t).toInt * (g.bval b t).toInt + (g.vpair d.val t).toInt))
  | .imadw gd d a b true => some (gd, d, [.v a.val, bReg b], fun g t =>
      BitVec.ofNat 64 ((g.vget a.val t).toNat * (g.bval b t).toNat + (g.vpair d.val t).toNat))
  | .iadd64 gd d a b false => some (gd, d, vRegs a.val 2 ++ [bReg b], fun g t =>
      BitVec.ofInt 64 ((g.vpair a.val t).toInt + (g.bval b t).toInt))
  | .iadd64 gd d a b true => some (gd, d, vRegs a.val 2 ++ bRegs 2 b, fun g t =>
      BitVec.ofInt 64 ((g.vpair a.val t).toInt + (g.bpair b t).toInt))
  | _ => none

/-- What a scalar word of R98, R100, R103, R104 and R110 writes into s(d), executed once for the group. -/
def scalarValue : Instr → Option (Reg × List PReg × Nat × (Group → Word))
  | .smovi d imm => some (d, [], 1, fun _ => imm.signExtend 32)
  | .smovl d lit => some (d, [], 2, fun _ => lit)
  | .sadd d a b => some (d, [.s a.val, .s b.val], 1, fun g => BitVec.ofInt 32 ((g.sget a.val).toInt + (g.sget b.val).toInt))
  | .ssub d a b => some (d, [.s a.val, .s b.val], 1, fun g => BitVec.ofInt 32 ((g.sget a.val).toInt - (g.sget b.val).toInt))
  | .smul d a b => some (d, [.s a.val, .s b.val], 1, fun g => BitVec.ofNat 32 ((g.sget a.val).toNat * (g.sget b.val).toNat))
  | .sand d a b => some (d, [.s a.val, .s b.val], 1, fun g => bits fun i => (g.sget a.val).getLsbD i && (g.sget b.val).getLsbD i)
  | .sor d a b => some (d, [.s a.val, .s b.val], 1, fun g => bits fun i => (g.sget a.val).getLsbD i || (g.sget b.val).getLsbD i)
  | .sxor d a b => some (d, [.s a.val, .s b.val], 1, fun g => bits fun i => (g.sget a.val).getLsbD i != (g.sget b.val).getLsbD i)
  | .sshl d a b => some (d, [.s a.val, .s b.val], 1, fun g => BitVec.ofNat 32 ((g.sget a.val).toNat * 2 ^ amount (g.sget b.val)))
  | .sshr d a b false => some (d, [.s a.val, .s b.val], 1, fun g => BitVec.ofNat 32 ((g.sget a.val).toNat / 2 ^ amount (g.sget b.val)))
  | .sshr d a b true => some (d, [.s a.val, .s b.val], 1, fun g => BitVec.ofInt 32 ((g.sget a.val).toInt / 2 ^ amount (g.sget b.val)))
  | .readl d a k => some (d, [.v a.val], 1, fun g => g.vget a.val k.val)
  | _ => none

/-- What an integer compare (R80, R108) decides for one thread: its pair, its condition, the registers it names, the threads
it evaluates, and the two numbers compared. -/
def intCompare : Instr → Option (Fin 6 × Cond × List PReg × (Group → Nat → Bool) × (Group → Nat → Int × Int))
  | .icmp gd pair c a b false => some (pair, c, guardRegs gd ++ [.v a.val, bReg b], fun g t => g.guardBit gd t,
      fun g t => ((g.vget a.val t).toInt, (g.bval b t).toInt))
  | .icmp gd pair c a b true => some (pair, c, guardRegs gd ++ vRegs a.val 2 ++ bRegs 2 b, fun g t => g.guardBit gd t,
      fun g t => ((g.vpair a.val t).toInt, (g.bpair b t).toInt))
  | .icmpn gd pair c a b false => some (pair, c, guardRegs gd ++ [.v a.val, bReg b], fun g t => g.guardBit gd t,
      fun g t => ((g.vget a.val t).toNat, (g.bval b t).toNat))
  | .icmpn gd pair c a b true => some (pair, c, guardRegs gd ++ vRegs a.val 2 ++ bRegs 2 b, fun g t => g.guardBit gd t,
      fun g t => ((g.vpair a.val t).toNat, (g.bpair b t).toNat))
  | .scmp pair c a b false => some (pair, c, [.s a.val, .s b.val], fun _ _ => true, fun g _ => ((g.sget a.val).toInt, (g.sget b.val).toInt))
  | .scmp pair c a b true => some (pair, c, [.s a.val, .s b.val], fun _ _ => true, fun g _ => ((g.sget a.val).toNat, (g.sget b.val).toNat))
  | _ => none

/-- Whether a condition of R80 holds of two integers; `un` and `ord` are not conditions of an integer compare. -/
def holds (c : Cond) (x y : Int) : Prop :=
  match c with
  | .eq => x = y
  | .ne => x ≠ y
  | .lt => x < y
  | .le => x ≤ y
  | .gt => y < x
  | .ge => y ≤ x
  | .un => False
  | .ord => False

/-- The group `h` is `g` with predicate p(n) written, all others and every other field as before. -/
def wroteP (g h : Group) (ns : List Nat) (f : Nat → Nat → Bool) : Prop :=
  h = { g with p := h.p } ∧ ∀ n t, n < 12 → t < 96 → h.pget n t = if n ∈ ns then f n t else g.pget n t

end Sys2Proof.Slice0

open Sys2Proof Sys2Proof.Machine Sys2Proof.Slice0

namespace Sys2Proof.Slice0

open Sys2Proof Sys2Proof.Machine

/-! ### What the statements say of floating-point words -/

/-- The code and the flags of an exact result brought into a format (R54), with NV for a signalling operand or an invalid
operation (R57). -/
def rounded (F : Fmt) (rm : Rm) (snan : Bool) (z : XReal × Bool) : Nat × Flags :=
  ((roundF z.1 F rm).1, (if snan || z.2 then 16#5 else 0#5) ||| (roundF z.1 F rm).2)

/-- One element of FADD, FSUB and FMUL (R116): the exact result, rounded once (R60). FSUB is x + (-y). -/
def addElem (F : Fmt) (rm : Rm) (x y : Nat) : Nat × Flags :=
  rounded F rm (F.isSnan x || F.isSnan y) (xadd rm (decodeF F x) (decodeF F y))
def subElem (F : Fmt) (rm : Rm) (x y : Nat) : Nat × Flags :=
  rounded F rm (F.isSnan x || F.isSnan y) (xadd rm (decodeF F x) (xneg (decodeF F y)))
def mulElem (F : Fmt) (rm : Rm) (x y : Nat) : Nat × Flags :=
  rounded F rm (F.isSnan x || F.isSnan y) (xmul (decodeF F x) (decodeF F y))

/-- One element of FFMA (R116): the exact product, negated with `.neg`, and the addend, rounded once. -/
def fmaElem (F : Fmt) (rm : Rm) (neg : Bool) (x y z : Nat) : Nat × Flags :=
  let p := xmul (decodeF F x) (decodeF F y)
  let w := xadd rm (if neg then xneg p.1 else p.1) (decodeF F z)
  rounded F rm (F.isSnan x || F.isSnan y || F.isSnan z) (w.1, p.2 || w.2)

/-- One element of FMIN and FMAX (R117): `lt` orders by value with -0 below +0; equal operands give x. -/
def minMaxElem (F : Fmt) (isMax nan : Bool) (x y : Nat) : Nat × Flags :=
  let lt := fun a b => minLt (decodeF F a) (decodeF F b)
  let v :=
    match F.isNan x, F.isNan y with
    | true, true => F.qnan
    | true, false => if nan then F.qnan else y
    | false, true => if nan then F.qnan else x
    | false, false => if isMax then (if lt x y then y else x) else (if lt y x then y else x)
  (v, if F.isSnan x || F.isSnan y then 16#5 else 0#5)

/-- Element e of a word of 16-bit elements (R48). -/
def elem16 (x : Word) (e : Nat) : Nat := x.toNat / 2 ^ (16 * e) % 65536

/-- Two 16-bit results in a word, their flags together (R48). -/
def pack16 (lo hi : Nat × Flags) : Word × Flags := (BitVec.ofNat 32 (lo.1 + 65536 * hi.1), lo.2 ||| hi.2)

/-- One 32-bit result. -/
def pack32 (r : Nat × Flags) : Word × Flags := (BitVec.ofNat 32 r.1, r.2)

/-- A two-operand operation on elements of 16 bits, and on one element of 32 bits. -/
def on16 (f : Rm → Nat → Nat → Nat × Flags) (a : Reg) (b : BOp) (g : Group) (t : Nat) : Word × Flags :=
  let x := g.vget a.val t
  let y := g.bval b t
  pack16 (f g.rm (elem16 x 0) (elem16 y 0)) (f g.rm (elem16 x 1) (elem16 y 1))
def on32 (f : Rm → Nat → Nat → Nat × Flags) (a : Reg) (b : BOp) (g : Group) (t : Nat) : Word × Flags :=
  pack32 (f g.rm (g.vget a.val t).toNat (g.bval b t).toNat)
def on64 (f : Rm → Nat → Nat → Nat × Flags) (a : Reg) (b : BOp) (g : Group) (t : Nat) : DWord × Flags :=
  let r := f g.rm (g.vpair a.val t).toNat (g.bpair b t).toNat
  (BitVec.ofNat 64 r.1, r.2)

/-- FFMA on its three operands. -/
def fma32 (neg : Bool) (d a : Reg) (b : BOp) (g : Group) (t : Nat) : Word × Flags :=
  pack32 (fmaElem .f32 g.rm neg (g.vget a.val t).toNat (g.bval b t).toNat (g.vget d.val t).toNat)
def fma64 (neg : Bool) (d a : Reg) (b : BOp) (g : Group) (t : Nat) : DWord × Flags :=
  let r := fmaElem .f64 g.rm neg (g.vpair a.val t).toNat (g.bpair b t).toNat (g.vpair d.val t).toNat
  (BitVec.ofNat 64 r.1, r.2)
def fma16 (F : Fmt) (neg : Bool) (d a : Reg) (b : BOp) (g : Group) (t : Nat) : Word × Flags :=
  let el := fun e => fmaElem F g.rm neg (elem16 (g.vget a.val t) e) (elem16 (g.bval b t) e) (elem16 (g.vget d.val t) e)
  pack16 (el 0) (el 1)

/-- What a floating-point word of R116 and R117 with a 32-bit destination writes into v(d), with the flags of each thread. -/
def floatValue : Instr → Option (Guard × Reg × List PReg × (Group → Nat → Word × Flags))
  | .faddF32 gd d a b => some (gd, d, [.v a.val, bReg b], on32 (addElem .f32) a b)
  | .faddH2 gd d a b => some (gd, d, [.v a.val, bReg b], on16 (addElem .f16) a b)
  | .faddBH2 gd d a b => some (gd, d, [.v a.val, bReg b], on16 (addElem .bf16) a b)
  | .fsubF32 gd d a b => some (gd, d, [.v a.val, bReg b], on32 (subElem .f32) a b)
  | .fsubH2 gd d a b => some (gd, d, [.v a.val, bReg b], on16 (subElem .f16) a b)
  | .fsubBH2 gd d a b => some (gd, d, [.v a.val, bReg b], on16 (subElem .bf16) a b)
  | .fmulF32 gd d a b => some (gd, d, [.v a.val, bReg b], on32 (mulElem .f32) a b)
  | .fmulH2 gd d a b => some (gd, d, [.v a.val, bReg b], on16 (mulElem .f16) a b)
  | .fmulBH2 gd d a b => some (gd, d, [.v a.val, bReg b], on16 (mulElem .bf16) a b)
  | .ffmaF32 gd d a b neg => some (gd, d, [.v a.val, bReg b], fma32 neg d a b)
  | .ffmaH2 gd d a b neg => some (gd, d, [.v a.val, bReg b], fma16 .f16 neg d a b)
  | .ffmaBH2 gd d a b neg => some (gd, d, [.v a.val, bReg b], fma16 .bf16 neg d a b)
  | .fminF32 gd d a b n => some (gd, d, [.v a.val, bReg b], on32 (fun _ => minMaxElem .f32 false n) a b)
  | .fminH2 gd d a b n => some (gd, d, [.v a.val, bReg b], on16 (fun _ => minMaxElem .f16 false n) a b)
  | .fminBH2 gd d a b n => some (gd, d, [.v a.val, bReg b], on16 (fun _ => minMaxElem .bf16 false n) a b)
  | .fmaxF32 gd d a b n => some (gd, d, [.v a.val, bReg b], on32 (fun _ => minMaxElem .f32 true n) a b)
  | .fmaxH2 gd d a b n => some (gd, d, [.v a.val, bReg b], on16 (fun _ => minMaxElem .f16 true n) a b)
  | .fmaxBH2 gd d a b n => some (gd, d, [.v a.val, bReg b], on16 (fun _ => minMaxElem .bf16 true n) a b)
  | _ => none

/-- What a floating-point word of R116 and R117 with a pair destination writes. -/
def floatPair : Instr → Option (Guard × Reg × List PReg × (Group → Nat → DWord × Flags))
  | .faddF64 gd d a b => some (gd, d, vRegs a.val 2 ++ bRegs 2 b, on64 (addElem .f64) a b)
  | .fsubF64 gd d a b => some (gd, d, vRegs a.val 2 ++ bRegs 2 b, on64 (subElem .f64) a b)
  | .fmulF64 gd d a b => some (gd, d, vRegs a.val 2 ++ bRegs 2 b, on64 (mulElem .f64) a b)
  | .ffmaF64 gd d a b neg => some (gd, d, vRegs a.val 2 ++ bRegs 2 b, fma64 neg d a b)
  | .fminF64 gd d a b n => some (gd, d, vRegs a.val 2 ++ bRegs 2 b, on64 (fun _ => minMaxElem .f64 false n) a b)
  | .fmaxF64 gd d a b n => some (gd, d, vRegs a.val 2 ++ bRegs 2 b, on64 (fun _ => minMaxElem .f64 true n) a b)
  | _ => none

/-- A code converted between floating formats (R122). -/
def cvtElem (F G : Fmt) (rm : Rm) (x : Nat) : Nat × Flags := rounded G rm (F.isSnan x) (decodeF F x, false)

/-- The mode of a conversion to an integer: toward zero with `.rz` (R122). -/
def intMode (rz : Bool) (g : Group) : Rm := if rz then .rtz else g.rm

/-- A conversion to an integer of the range `lo` to `hi` (R56): a NaN gives 0, a value outside the range its nearer end. -/
def toIntElem (F : Fmt) (rm : Rm) (lo hi : Int) (x : Nat) : Word × Flags :=
  match decodeF F x with
  | .nan => (0, 16#5)
  | .inf neg => (BitVec.ofInt 32 (if neg then lo else hi), 16#5)
  | .zero _ => (0, 0#5)
  | .fin m e =>
    let r := roundMag rm (decide (m < 0)) m.natAbs e
    let n : Int := if m < 0 then -(r.1 : Int) else (r.1 : Int)
    if n < lo then (BitVec.ofInt 32 lo, 16#5) else if hi < n then (BitVec.ofInt 32 hi, 16#5)
    else (BitVec.ofInt 32 n, if r.2 then 0#5 else 1#5)

/-- Elements 2f and 2f + 1 of a word of four 8-bit elements replaced (R123). -/
def replaced (hi : Bool) (old : Word) (x y : Nat) : Word :=
  BitVec.ofNat 32 (if hi then old.toNat % 2 ^ 16 + 2 ^ 16 * x + 2 ^ 24 * y else old.toNat / 2 ^ 16 * 2 ^ 16 + x + 2 ^ 8 * y)

/-- CVTP of one thread (R123). -/
def packFp8 (G : Fmt) (hi : Bool) (d a : Reg) (b : BOp) (g : Group) (t : Nat) : Word × Flags :=
  let x := cvtElem .f32 G g.rm (g.vget a.val t).toNat
  let y := cvtElem .f32 G g.rm (g.bval b t).toNat
  (replaced hi (g.vget d.val t) x.1 y.1, x.2 ||| y.2)

/-- What a conversion of R122 and R123 writes into v(d). -/
def convertValue : Instr → Option (Guard × Reg × List PReg × (Group → Nat → Word × Flags))
  | .cvtF32F64 gd d b => some (gd, d, bRegs 2 b, fun g t => pack32 (cvtElem .f64 .f32 g.rm (g.bpair b t).toNat))
  | .cvtF32H2 gd d b hi => some (gd, d, [bReg b], fun g t => pack32 (cvtElem .f16 .f32 g.rm (elem16 (g.bval b t) hi.toNat)))
  | .cvtF32Bh2 gd d b hi => some (gd, d, [bReg b], fun g t => pack32 (cvtElem .bf16 .f32 g.rm (elem16 (g.bval b t) hi.toNat)))
  | .cvtH2F32 gd d a b => some (gd, d, [.v a.val, bReg b], fun g t =>
      pack16 (cvtElem .f32 .f16 g.rm (g.vget a.val t).toNat) (cvtElem .f32 .f16 g.rm (g.bval b t).toNat))
  | .cvtBh2F32 gd d a b => some (gd, d, [.v a.val, bReg b], fun g t =>
      pack16 (cvtElem .f32 .bf16 g.rm (g.vget a.val t).toNat) (cvtElem .f32 .bf16 g.rm (g.bval b t).toNat))
  | .cvtF32I32 gd d b => some (gd, d, [bReg b], fun g t => pack32 (roundF (xint (g.bval b t).toInt) .f32 g.rm))
  | .cvtF32N32 gd d b => some (gd, d, [bReg b], fun g t => pack32 (roundF (xint (g.bval b t).toNat) .f32 g.rm))
  | .cvtI32F32 gd d b rz => some (gd, d, [bReg b], fun g t =>
      toIntElem .f32 (intMode rz g) (-2 ^ 31) (2 ^ 31 - 1) (g.bval b t).toNat)
  | .cvtN32F32 gd d b rz => some (gd, d, [bReg b], fun g t => toIntElem .f32 (intMode rz g) 0 (2 ^ 32 - 1) (g.bval b t).toNat)
  | .cvtI32F64 gd d b rz => some (gd, d, bRegs 2 b, fun g t =>
      toIntElem .f64 (intMode rz g) (-2 ^ 31) (2 ^ 31 - 1) (g.bpair b t).toNat)
  | .cvtpE4m3 gd d a b hi => some (gd, d, [.v a.val, bReg b], packFp8 .e4m3 hi d a b)
  | .cvtpE5m2 gd d a b hi => some (gd, d, [.v a.val, bReg b], packFp8 .e5m2 hi d a b)
  | _ => none

/-- CVTU of one thread (R124): elements 2f and 2f + 1, the lower first; E5M2's signalling codes raise NV. -/
def unpackFp8 (G : Fmt) (hi : Bool) (b : BOp) (g : Group) (t : Nat) : DWord × Flags :=
  let el := fun e => cvtElem G .f32 .rne ((g.bval b t).toNat / 2 ^ (16 * hi.toNat + 8 * e) % 256)
  (BitVec.ofNat 64 ((el 0).1 + 2 ^ 32 * (el 1).1), (el 0).2 ||| (el 1).2)

/-- What a conversion with a pair destination writes (R122, R124). -/
def convertPair : Instr → Option (Guard × Reg × List PReg × (Group → Nat → DWord × Flags))
  | .cvtF64F32 gd d b => some (gd, d, [bReg b], fun g t =>
      let r := cvtElem .f32 .f64 g.rm (g.bval b t).toNat
      (BitVec.ofNat 64 r.1, r.2))
  | .cvtF64I32 gd d b => some (gd, d, [bReg b], fun g t =>
      let r := roundF (xint (g.bval b t).toInt) .f64 g.rm
      (BitVec.ofNat 64 r.1, r.2))
  | .cvtuE4m3 gd d b hi => some (gd, d, [bReg b], unpackFp8 .e4m3 hi b)
  | .cvtuE5m2 gd d b hi => some (gd, d, [bReg b], unpackFp8 .e5m2 hi b)
  | _ => none

/-- What FCMP compares for one thread (R118): its format, whether it signals, its guard, pair, condition and registers, and
the two codes. -/
def floatCompare : Instr → Option (Fmt × Bool × Guard × Fin 6 × Cond × List PReg × (Group → Nat → Nat × Nat))
  | .fcmpF32 gd pair c a b sig => some (.f32, sig, gd, pair, c, [.v a.val, bReg b],
      fun g t => ((g.vget a.val t).toNat, (g.bval b t).toNat))
  | .fcmpF64 gd pair c a b sig => some (.f64, sig, gd, pair, c, vRegs a.val 2 ++ bRegs 2 b,
      fun g t => ((g.vpair a.val t).toNat, (g.bpair b t).toNat))
  | .fcmpH2 gd pair c a b hi => some (.f16, false, gd, pair, c, [.v a.val, bReg b],
      fun g t => (elem16 (g.vget a.val t) hi.toNat, elem16 (g.bval b t) hi.toNat))
  | .fcmpBH2 gd pair c a b hi => some (.bf16, false, gd, pair, c, [.v a.val, bReg b],
      fun g t => (elem16 (g.vget a.val t) hi.toNat, elem16 (g.bval b t) hi.toNat))
  | _ => none

/-- Whether FCMP's condition holds of two codes (R118): -0 equals +0, and a NaN is unordered. -/
def floatHolds (F : Fmt) (c : Cond) (x y : Nat) : Prop :=
  let un := F.isNan x = true ∨ F.isNan y = true
  let lt := fun a b => xlt (decodeF F a) (decodeF F b) = true
  match c with
  | .eq => ¬un ∧ ¬lt x y ∧ ¬lt y x
  | .ne => un ∨ lt x y ∨ lt y x
  | .lt => ¬un ∧ lt x y
  | .le => ¬un ∧ ¬lt y x
  | .gt => ¬un ∧ lt y x
  | .ge => ¬un ∧ ¬lt x y
  | .un => un
  | .ord => ¬un

/-- The special functions (R119): the number of the function, guard, destination and operand. -/
def specialCall : Instr → Option (Nat × Guard × Reg × BOp)
  | .frcp gd d b => some (0, gd, d, b)
  | .frsq gd d b => some (1, gd, d, b)
  | .fsqrt gd d b => some (2, gd, d, b)
  | .fexp2 gd d b => some (3, gd, d, b)
  | .flog2 gd d b => some (4, gd, d, b)
  | .fsin gd d b => some (5, gd, d, b)
  | .fcos gd d b => some (6, gd, d, b)
  | .ftanh gd d b => some (7, gd, d, b)
  | _ => none

end Sys2Proof.Slice0

/-! ### Integer words (R98 to R110) -/

/-- R98, R101, R103 to R107, R109: a 32-bit vector word writes its value into v(d) for each thread of `enabled()`, nothing
else of the group changes, and the group moves on. -/
def Sys2Proof.Slice0.IntegerValueWords : Prop :=
  ∀ (i : Instr) (gd : Guard) (d : Reg) (rs : List PReg) (f : Machine.Group → Nat → Word) (s : State) (g : Machine.Group),
    intValue i = some (gd, d, rs, f) → issues s g (vecRegs gd ++ .v d.val :: rs) →
    ∃ h : Machine.Group, exec i s = .next (s.put (h.nextWord 1)) ∧ wroteV g h gd d.val (f g)

/-- R102: IMADW and IADD64 write their pair. -/
def Sys2Proof.Slice0.PairWordsWriteTheirValue : Prop :=
  ∀ (i : Instr) (gd : Guard) (d : Reg) (rs : List PReg) (f : Machine.Group → Nat → DWord) (s : State) (g : Machine.Group),
    pairValue i = some (gd, d, rs, f) → issues s g (vecRegs gd ++ vRegs d.val 2 ++ rs) →
    ∃ h : Machine.Group, exec i s = .next (s.put (h.nextWord 1)) ∧ wrotePair g h gd d.val (f g)

/-- R98, R99, R100: MOVL, MOVX, MOVY, WRITEL and NOP. The computed index of MOVX and MOVY is s(b) + k exactly; a
literal takes a word of the clause; WRITEL writes thread k whatever the mask. -/
def Sys2Proof.Slice0.MovesWriteTheirRegister : Prop :=
  ∀ (gd : Guard) (d a : Reg) (k : Fin 64) (l : Fin 96) (lit : Word) (s : State) (g : Machine.Group),
    (issues s g [] → exec .nop s = .next (s.put (g.nextWord 1))) ∧
    (issues s g (vecRegs gd ++ [.v d.val]) →
      ∃ h : Machine.Group, exec (.movl gd d lit) s = .next (s.put (h.nextWord 2)) ∧ wroteV g h gd d.val fun _ => lit) ∧
    (issues s g (vecRegs gd ++ [.v d.val, .s a.val, .v ((g.sget a.val).toNat + k.val)]) →
      ∃ h : Machine.Group, exec (.movx gd d a k) s = .next (s.put (h.nextWord 1)) ∧
        wroteV g h gd d.val (g.vget ((g.sget a.val).toNat + k.val))) ∧
    (issues s g (vecRegs gd ++ [.v d.val, .s a.val, .v ((g.sget a.val).toNat + k.val)]) →
      ∃ h : Machine.Group, exec (.movy gd d a k) s = .next (s.put (h.nextWord 1)) ∧
        wroteV g h gd ((g.sget a.val).toNat + k.val) (g.vget d.val)) ∧
    (issues s g [.v d.val, .s a.val] →
      ∃ h : Machine.Group, exec (.writel d a l) s = .next (s.put (h.nextWord 1)) ∧ h = { g with v := h.v } ∧
        ∀ n t, t < 96 → h.vget n t = if n = d.val ∧ t = l.val then g.sget a.val else g.vget n t)

/-- R98, R100, R103, R104, R110: a scalar word writes s(d) once for the group, whatever the mask. -/
def Sys2Proof.Slice0.ScalarWordsWriteTheirValue : Prop :=
  ∀ (i : Instr) (d : Reg) (rs : List PReg) (n : Nat) (f : Machine.Group → Word) (s : State) (g : Machine.Group),
    scalarValue i = some (d, rs, n, f) → issues s g (.s d.val :: rs) →
    ∃ h : Machine.Group, exec i s = .next (s.put (h.nextWord n)) ∧ wroteS g h d.val (f g)

/-- R80, R108: ICMP, ICMPN and SCMP write the pair p2k, p2k+1: the condition and its complement for an active thread that the
guard lets through, 0 and 0 for an inactive one, the old values for an active thread that the guard stops. -/
def Sys2Proof.Slice0.IntegerComparesWritePredicatePair : Prop :=
  ∀ (i : Instr) (pair : Fin 6) (c : Cond) (rs : List PReg) (e : Machine.Group → Nat → Bool) (xy : Machine.Group → Nat → Int × Int)
    (s : State) (g : Machine.Group),
    intCompare i = some (pair, c, rs, e, xy) → issues s g (maskRegs ++ pairRegs pair ++ rs) →
    ∃ h : Machine.Group, exec i s = .next (s.put (h.nextWord 1)) ∧ h = { g with p := h.p } ∧
      (∀ n t, n < 12 → n ≠ 2 * pair.val → n ≠ 2 * pair.val + 1 → h.pget n t = g.pget n t) ∧
      ∀ t, t < 96 →
        (g.isActive t = false → h.pget (2 * pair.val) t = false ∧ h.pget (2 * pair.val + 1) t = false) ∧
        (g.isActive t = true → e g t = true →
          (h.pget (2 * pair.val) t = true ↔ holds c (xy g t).1 (xy g t).2) ∧
          (h.pget (2 * pair.val + 1) t = true ↔ ¬ holds c (xy g t).1 (xy g t).2)) ∧
        (g.isActive t = true → e g t = false →
          h.pget (2 * pair.val) t = g.pget (2 * pair.val) t ∧ h.pget (2 * pair.val + 1) t = g.pget (2 * pair.val + 1) t)

/-! ### Floating-point words (R112 to R124) -/

/-- R48, R60, R116, R117: FADD, FSUB, FMUL, FFMA, FMIN and FMAX of .f32, .h2 and .bh2 write each element of v(d) rounded
once, for each thread of `enabled()`, and raise the flags of those threads. -/
def Sys2Proof.Slice0.FloatSingleWordsRoundOnce : Prop :=
  ∀ (i : Instr) (gd : Guard) (d : Reg) (rs : List PReg) (f : Machine.Group → Nat → Word × Flags) (s : State) (g : Machine.Group),
    floatValue i = some (gd, d, rs, f) → issues s g (vecRegs gd ++ .v d.val :: rs) →
    ∃ h k : Machine.Group, exec i s = .next (s.put (k.nextWord 1)) ∧
      wroteV g h gd d.val (fun t => (f g t).1) ∧ raised h k gd fun t => (f g t).2

/-- R116, R117: the .f64 forms write a pair. -/
def Sys2Proof.Slice0.FloatPairWordsRoundOnce : Prop :=
  ∀ (i : Instr) (gd : Guard) (d : Reg) (rs : List PReg) (f : Machine.Group → Nat → DWord × Flags) (s : State) (g : Machine.Group),
    floatPair i = some (gd, d, rs, f) → issues s g (vecRegs gd ++ vRegs d.val 2 ++ rs) →
    ∃ h k : Machine.Group, exec i s = .next (s.put (k.nextWord 1)) ∧
      wrotePair g h gd d.val (fun t => (f g t).1) ∧ raised h k gd fun t => (f g t).2

/-- R56, R122, R123, R124: the conversions, CVTP and CVTU, with one destination register and with a pair. -/
def Obligations.ConversionsWriteTheirValue : Prop :=
  (∀ (i : Instr) (gd : Guard) (d : Reg) (rs : List PReg) (f : Machine.Group → Nat → Word × Flags) (s : State) (g : Machine.Group),
    convertValue i = some (gd, d, rs, f) → issues s g (vecRegs gd ++ .v d.val :: rs) →
    ∃ h k : Machine.Group, exec i s = .next (s.put (k.nextWord 1)) ∧
      wroteV g h gd d.val (fun t => (f g t).1) ∧ raised h k gd fun t => (f g t).2) ∧
  ∀ (i : Instr) (gd : Guard) (d : Reg) (rs : List PReg) (f : Machine.Group → Nat → DWord × Flags) (s : State) (g : Machine.Group),
    convertPair i = some (gd, d, rs, f) → issues s g (vecRegs gd ++ vRegs d.val 2 ++ rs) →
    ∃ h k : Machine.Group, exec i s = .next (s.put (k.nextWord 1)) ∧
      wrotePair g h gd d.val (fun t => (f g t).1) ∧ raised h k gd fun t => (f g t).2

/-- R118: FCMP writes its predicate pair as R108 says, and raises NV for a signalling NaN operand of a thread it evaluates,
with `.sig` for any NaN. -/
def Sys2Proof.Slice0.FloatComparesWritePredicatePair : Prop :=
  ∀ (i : Instr) (F : Fmt) (sig : Bool) (gd : Guard) (pair : Fin 6) (c : Cond) (rs : List PReg)
    (xy : Machine.Group → Nat → Nat × Nat) (s : State) (g : Machine.Group),
    floatCompare i = some (F, sig, gd, pair, c, rs, xy) → issues s g (vecRegs gd ++ pairRegs pair ++ rs) →
    ∃ h k : Machine.Group, exec i s = .next (s.put (k.nextWord 1)) ∧ h = { g with p := h.p } ∧ k = { h with fpsr := k.fpsr } ∧
      (∀ n t, n < 12 → n ≠ 2 * pair.val → n ≠ 2 * pair.val + 1 → h.pget n t = g.pget n t) ∧
      (∀ t, t < 96 →
        (g.isActive t = false → h.pget (2 * pair.val) t = false ∧ h.pget (2 * pair.val + 1) t = false) ∧
        (g.on gd t = true →
          (h.pget (2 * pair.val) t = true ↔ floatHolds F c (xy g t).1 (xy g t).2) ∧
          (h.pget (2 * pair.val + 1) t = true ↔ ¬ floatHolds F c (xy g t).1 (xy g t).2)) ∧
        (g.isActive t = true → g.on gd t = false →
          h.pget (2 * pair.val) t = g.pget (2 * pair.val) t ∧ h.pget (2 * pair.val + 1) t = g.pget (2 * pair.val + 1) t)) ∧
      ∀ b, k.fpsr.getLsbD b = (g.fpsr.getLsbD b || (decide (b = 4) && threads.any fun t => g.on gd t &&
        (F.isSnan (xy g t).1 || F.isSnan (xy g t).2 || (sig && (F.isNan (xy g t).1 || F.isNan (xy g t).2)))))

/-- R24, R113, R121: a special function is long-latency: it takes a place in the group's order, counts its clause's counter
up by one, makes v(d) pending with that counter, and holds for each thread of `enabled()` the result and the flags that its
return will write. No register, flag of FPSR or predicate changes at issue. -/
def Sys2Proof.Slice0.SpecialFunctionsIssue : Prop :=
  ∀ (i : Instr) (n : Nat) (gd : Guard) (d : Reg) (b : BOp) (s : State) (g : Machine.Group),
    specialCall i = some (n, gd, d, b) → issues s g (vecRegs gd ++ [.v d.val, bReg b]) → g.dc[g.setc] ≠ 63 →
    ∃ (h : Machine.Group) (o : Outst), exec i s = .next (s.put (h.nextWord 1)) ∧
      h = { g with
        dc := g.dc.set g.setc (g.dc[g.setc] + 1)
        pending := ⟨.v d.val, g.setc, g.seq⟩ :: g.pending
        out := g.out ++ [o]
        seq := g.seq + 1 } ∧
      o.seq = g.seq ∧ o.ctr = g.setc ∧ o.kind = .special ∧ o.d = d.val ∧ o.todo = [] ∧ o.held = [] ∧ o.late = [] ∧
      o.res = (g.enabled gd).map (fun t => (t, [(specialOf n (g.bval b t)).1])) ∧
      ∀ k, o.flags.getLsbD k = threads.any fun t => g.on gd t && (specialOf n (g.bval b t)).2.getLsbD k

/-- R120: listed results of the special functions, as (function, operand, result, flags), functions in the order FRCP to
FTANH: zeros, infinities, negative operands, exact powers and quarter turns. -/
def Sys2Proof.Slice0.SpecialFunctionListedResults : Prop :=
  ∀ r ∈ ([(0, 0x00000000#32, 0x7F800000#32, 8#5), (0, 0x80000000#32, 0xFF800000#32, 8#5), (0, 0xFF800000#32, 0x80000000#32, 0#5),
      (0, 0x40800000#32, 0x3E800000#32, 0#5), (0, 0x00000001#32, 0x7F800000#32, 4#5),
      (1, 0x80000000#32, 0xFF800000#32, 8#5), (1, 0xBF800000#32, 0x7FC00000#32, 16#5), (1, 0x41800000#32, 0x3E800000#32, 0#5),
      (2, 0x80000000#32, 0x80000000#32, 0#5), (2, 0x41100000#32, 0x40400000#32, 0#5), (2, 0xC0000000#32, 0x7FC00000#32, 16#5),
      (3, 0x80000000#32, 0x3F800000#32, 0#5), (3, 0xC3150000#32, 0x00000001#32, 0#5), (3, 0x43000000#32, 0x7F800000#32, 4#5),
      (3, 0xFF800000#32, 0x00000000#32, 0#5), (4, 0x3F800000#32, 0x00000000#32, 0#5), (4, 0x41000000#32, 0x40400000#32, 0#5),
      (4, 0x80000000#32, 0xFF800000#32, 8#5), (5, 0xBF000000#32, 0x80000000#32, 0#5), (5, 0x3E800000#32, 0x3F800000#32, 0#5),
      (5, 0x7F800000#32, 0x7FC00000#32, 16#5), (6, 0x3F000000#32, 0xBF800000#32, 0#5), (6, 0x3F400000#32, 0x00000000#32, 0#5),
      (7, 0x80000000#32, 0x80000000#32, 0#5), (7, 0xC1100000#32, 0xBF800000#32, 0#5), (7, 0x7FA00000#32, 0x7FC00000#32, 16#5)] :
        List (Nat × Word × Word × Flags)), specialOf r.1 r.2.1 = (r.2.2.1, r.2.2.2)

/-- R47, R57: a NaN operand of an addition, a difference, a product or a fused multiply-add gives the format's canonical NaN,
in every mode; an addition or a difference then raises NV exactly for a signalling operand, and no other flag. -/
def Sys2Proof.Slice0.NanOperandsGiveTheCanonicalNan : Prop :=
  ∀ (F : Fmt) (rm : Rm) (neg : Bool) (x y z : Nat),
    (F.isNan x = true ∨ F.isNan y = true →
      (fpAdd F rm x y).1 = F.qnan ∧ (fpSub F rm x y).1 = F.qnan ∧ (fpMul F rm x y).1 = F.qnan ∧
      (fpFma F rm neg x y z).1 = F.qnan ∧
      (fpAdd F rm x y).2 = (if F.isSnan x = true ∨ F.isSnan y = true then fNV else 0) ∧
      (fpSub F rm x y).2 = (if F.isSnan x = true ∨ F.isSnan y = true then fNV else 0) ∧
      (fpMul F rm x y).2 = (if F.isSnan x = true ∨ F.isSnan y = true then fNV else 0)) ∧
    (F.isNan z = true → (fpFma F rm neg x y z).1 = F.qnan)

/-- R43, R54, R55: a code of a format that is not a NaN rounds to itself with no flag, in every mode: subnormals, zeros with
their sign and infinities among them. -/
def Sys2Proof.Slice0.DecodedValueRoundsToItself : Prop :=
  ∀ (F : Fmt) (rm : Rm) (c : Nat), c < 2 ^ F.width → F.isNan c = false → roundF (decodeF F c) F rm = (c, 0)

/-! ### Words across the threads of a group (R207 to R216) -/

namespace Sys2Proof.Slice0

open Sys2Proof Sys2Proof.Machine

/-- The source thread of a shuffle (R209), as an integer: outside 0 to 95 it names no thread. -/
def shuffleFrom : Instr → Option (Guard × Reg × Reg × List PReg × (Group → Nat → Int))
  | .shfl gd d a b false => some (gd, d, a, [.v a.val, bReg b], fun g t => ((g.bval b t).toNat % 128 : Nat))
  | .shfl gd d a b true => some (gd, d, a, [.v a.val, bReg b], fun g t => (t ^^^ ((g.bval b t).toNat % 128) : Nat))
  | .shfli gd d a .up n => some (gd, d, a, [.v a.val], fun _ t => (t : Int) - n.val)
  | .shfli gd d a .down n => some (gd, d, a, [.v a.val], fun _ t => (t : Int) + n.val)
  | .shfli gd d a .xor n => some (gd, d, a, [.v a.val], fun _ t => (t ^^^ n.val : Nat))
  | .shfli gd d a .rot n => some (gd, d, a, [.v a.val], fun _ t => (32 * (t / 32) + (t + n.val) % 32 : Nat))
  | _ => none

/-- E(t) of R213 in ascending order: the active threads whose key is thread t's. -/
def keyThreads (g : Group) (key : Nat → Word) (t : Nat) : List Nat := threads.filter fun j => g.isActive j && key j == key t

/-- The key of VCONF and VRANK. -/
def andKey (g : Group) (a : Reg) (b : BOp) (j : Nat) : Word := g.vget a.val j &&& g.bval b j

/-- What a keyed word of R213 and the integer form of R214 writes. -/
def keyedValue : Instr → Option (Guard × Reg × List PReg × (Group → Nat → Word))
  | .vconf gd d a b false => some (gd, d, [.v a.val, bReg b], fun g t => BitVec.ofNat 32 ((keyThreads g (andKey g a b) t).headD t))
  | .vconf gd d a b true => some (gd, d, [.v a.val, bReg b], fun g t => BitVec.ofNat 32 ((keyThreads g (andKey g a b) t).getLastD t))
  | .vrank gd d a b false => some (gd, d, [.v a.val, bReg b], fun g t =>
      BitVec.ofNat 32 ((keyThreads g (andKey g a b) t).filter fun j => decide (j < t)).length)
  | .vrank gd d a b true => some (gd, d, [.v a.val, bReg b], fun g t => BitVec.ofNat 32 (keyThreads g (andKey g a b) t).length)
  | .rsumk gd d a b true => some (gd, d, [.v a.val, bReg b], fun g t =>
      BitVec.ofNat 32 ((keyThreads g (g.vget a.val) t).map fun j => (g.bval b j).toNat).sum)
  | _ => none

/-- The sum of R214 over the b values of one key, in ascending thread order. -/
def rsumkSum (rm : Rm) : List Nat → Nat × Flags
  | [] => (0, 0#5)
  | x :: xs => xs.foldl (fun (acc : Nat × Flags) y => ((addElem .f32 rm acc.1 y).1, acc.2 ||| (addElem .f32 rm acc.1 y).2))
      (if Fmt.f32.isNan x then (Fmt.f32.qnan, if Fmt.f32.isSnan x then 16#5 else 0#5) else (x, 0#5))

/-- The result of REDI over the active threads (R215), the identity for none. -/
def rediResult (op : RedOp) (xs : List Word) : Word :=
  match op with
  | .add => BitVec.ofNat 32 (xs.map BitVec.toNat).sum
  | .min => BitVec.ofInt 32 (xs.foldl (fun m x => min m x.toInt) (2 ^ 31 - 1))
  | .max => BitVec.ofInt 32 (xs.foldl (fun m x => max m x.toInt) (-2 ^ 31))
  | .minn => BitVec.ofNat 32 (xs.foldl (fun m x => min m x.toNat) (2 ^ 32 - 1))
  | .maxn => BitVec.ofNat 32 (xs.foldl (fun m x => max m x.toNat) 0)
  | .and => bits fun i => xs.all fun x => x.getLsbD i
  | .or => bits fun i => xs.any fun x => x.getLsbD i
  | .xor => bits fun i => (xs.filter fun x => x.getLsbD i).length % 2 == 1

/-- The exact sum of two codes, rounded (R61). -/
def sum2 (F : Fmt) (rm : Rm) (p q : Nat × Flags) : Nat × Flags :=
  ((addElem F rm p.1 q.1).1, p.2 ||| q.2 ||| (addElem F rm p.1 q.1).2)

/-- The balanced tree of R61 over 2^n codes from code i. -/
def treeSum (F : Fmt) (rm : Rm) (x : Nat → Nat) : Nat → Nat → Nat × Flags
  | 0, i => (x i, 0#5)
  | n + 1, i => sum2 F rm (treeSum F rm x n i) (treeSum F rm x n (i + 2 ^ n))

/-- redf_sum (R61): (beat 0 + beat 1) + beat 2. -/
def redfResult (F : Fmt) (rm : Rm) (x : Nat → Nat) : Nat × Flags :=
  sum2 F rm (sum2 F rm (treeSum F rm x 5 0) (treeSum F rm x 5 32)) (treeSum F rm x 5 64)

end Sys2Proof.Slice0

/-- R209: SHFL and SHFLI give each enabled thread v(a) of its source thread where that one is active, else its own. -/
def Sys2Proof.Slice0.ShufflesReadActiveThreads : Prop :=
  ∀ (i : Instr) (gd : Guard) (d a : Reg) (rs : List PReg) (j : Machine.Group → Nat → Int) (s : State) (g : Machine.Group),
    shuffleFrom i = some (gd, d, a, rs, j) → issues s g (vecRegs gd ++ .v d.val :: rs) →
    ∃ h : Machine.Group, exec i s = .next (s.put (h.nextWord 1)) ∧ wroteV g h gd d.val fun t =>
      if 0 ≤ j g t ∧ j g t < 96 ∧ g.isActive (j g t).toNat = true then g.vget a.val (j g t).toNat else g.vget a.val t

/-- R81, R210, R211, R212: PTOS, STOP and PLOP. -/
def Sys2Proof.Slice0.PredicateWordsWriteTheirValue : Prop :=
  ∀ (gd : Guard) (d b a : Reg) (p pa pb : Pred) (tt : BitVec 4) (not : Bool) (s : State) (g : Machine.Group),
    let ballot := fun t => g.isActive t && g.pget p.val t && (g.sget (b.val + t / 32)).getLsbD (t % 32)
    (issues s g (maskRegs ++ .p p.val :: sRegs b.val 3 ++ sRegs d.val 3) →
      ∃ h : Machine.Group, exec (.ptos d p b false) s = .next (s.put (h.nextWord 1)) ∧ h = { g with s := h.s } ∧
        ∀ n, n < 64 → h.sget n = if d.val ≤ n ∧ n < d.val + 3 then bits (fun i => ballot (32 * (n - d.val) + i)) else g.sget n) ∧
    (issues s g (maskRegs ++ .p p.val :: sRegs b.val 3 ++ sRegs d.val 1) →
      ∃ h : Machine.Group, exec (.ptos d p b true) s = .next (s.put (h.nextWord 1)) ∧
        wroteS g h d.val (BitVec.ofNat 32 (threads.filter ballot).length)) ∧
    (issues s g (vecRegs gd ++ .p p.val :: sRegs a.val 3) →
      ∃ h : Machine.Group, exec (.stop gd p a not) s = .next (s.put (h.nextWord 1)) ∧ wroteP g h [p.val] fun n t =>
        if g.on gd t then (g.sget (a.val + t / 32)).getLsbD (t % 32) != not else g.pget n t) ∧
    (issues s g (vecRegs gd ++ [.p p.val, .p pa.val, .p pb.val]) →
      ∃ h : Machine.Group, exec (.plop gd p pa pb tt) s = .next (s.put (h.nextWord 1)) ∧ wroteP g h [p.val] fun n t =>
        if g.on gd t then tt.getLsbD (2 * (g.pget pa.val t).toNat + (g.pget pb.val t).toNat) else g.pget n t)

/-- R213, R214: VCONF, VRANK and RSUMK.i compare keys among the active threads and write the enabled ones. -/
def Sys2Proof.Slice0.KeyedWordsWriteTheirValue : Prop :=
  ∀ (i : Instr) (gd : Guard) (d : Reg) (rs : List PReg) (f : Machine.Group → Nat → Word) (s : State) (g : Machine.Group),
    keyedValue i = some (gd, d, rs, f) → issues s g (vecRegs gd ++ .v d.val :: rs) →
    ∃ h : Machine.Group, exec i s = .next (s.put (h.nextWord 1)) ∧ wroteV g h gd d.val (f g)

/-- R62, R214: RSUMK's floating-point sum of each key, in ascending thread order with one rounding an addition. -/
def Sys2Proof.Slice0.KeyedSumsAddInThreadOrder : Prop :=
  ∀ (gd : Guard) (d a : Reg) (b : BOp) (s : State) (g : Machine.Group),
    issues s g (vecRegs gd ++ [.v d.val, .v a.val, bReg b]) →
    let r := fun t => rsumkSum g.rm ((keyThreads g (g.vget a.val) t).map fun j => (g.bval b j).toNat)
    ∃ h k : Machine.Group, exec (.rsumk gd d a b false) s = .next (s.put (k.nextWord 1)) ∧
      wroteV g h gd d.val (fun t => BitVec.ofNat 32 (r t).1) ∧ raised h k gd fun t => (r t).2

/-- R61, R215, R216: REDI and REDF reduce over the active threads, guard or no guard; the result goes to v(d) of the enabled
threads, or with `.s` once to s(d). REDF raises the flags of every rounding. -/
def Sys2Proof.Slice0.ReductionsWriteTheirValue : Prop :=
  ∀ (gd : Guard) (op : RedOp) (d : Reg) (b : BOp) (s : State) (g : Machine.Group),
    let r := rediResult op ((threads.filter g.isActive).map (g.bval b))
    let x := redfResult .f32 g.rm fun t => if g.isActive t then (g.bval b t).toNat else 0
    let y := redfResult .f64 g.rm fun t => if g.isActive t then (g.bpair b t).toNat else 0
    let flagged := fun (h k : Machine.Group) (fl : Flags) => k = { h with fpsr := h.fpsr ||| fl.zeroExtend 32 }
    (issues s g (vecRegs gd ++ [.v d.val, bReg b]) →
      (∃ h : Machine.Group, exec (.redi gd op d b false) s = .next (s.put (h.nextWord 1)) ∧ wroteV g h gd d.val fun _ => r) ∧
      ∃ h k : Machine.Group, exec (.redf gd false d b false) s = .next (s.put (k.nextWord 1)) ∧
        wroteV g h gd d.val (fun _ => BitVec.ofNat 32 x.1) ∧ flagged h k x.2) ∧
    (issues s g (vecRegs gd ++ [.s d.val, bReg b]) →
      (∃ h : Machine.Group, exec (.redi gd op d b true) s = .next (s.put (h.nextWord 1)) ∧ wroteS g h d.val r) ∧
      ∃ h k : Machine.Group, exec (.redf gd false d b true) s = .next (s.put (k.nextWord 1)) ∧
        wroteS g h d.val (BitVec.ofNat 32 x.1) ∧ flagged h k x.2) ∧
    (issues s g (vecRegs gd ++ vRegs d.val 2 ++ bRegs 2 b) →
      ∃ h k : Machine.Group, exec (.redf gd true d b false) s = .next (s.put (k.nextWord 1)) ∧
        wrotePair g h gd d.val (fun _ => BitVec.ofNat 64 y.1) ∧ flagged h k y.2) ∧
    (d.val ≤ 62 → issues s g (vecRegs gd ++ sRegs d.val 2 ++ bRegs 2 b) →
      ∃ h k : Machine.Group, exec (.redf gd true d b true) s = .next (s.put (k.nextWord 1)) ∧ h = { g with s := h.s } ∧
        (∀ n, n < 64 → h.sget n = if n = d.val then BitVec.ofNat 32 y.1
          else if n = d.val + 1 then BitVec.ofNat 32 (y.1 / 2 ^ 32) else g.sget n) ∧ flagged h k y.2)

/-! ### Issue checks, traps and control (R11 to R31, R127 to R132, R402 to R406) -/

namespace Sys2Proof.Slice0

open Sys2Proof Sys2Proof.Machine

/-- The group `h` is `g` with its clause ended and its program counter at `pc` (R15, R25, R162); a replayed word gives
back the mask of the fault as it ends (R398, R406). -/
def ended (g h : Group) (pc : DWord) : Prop :=
  h.s = (match g.restore with
    | some m => (g.setMask m).s
    | none => g.s) ∧
  h = { g with
    pc := pc
    stage := .header
    turn := false
    clause := {}
    serial := if g.isSerial then some (g.clauseSeq, g.setc) else none
    yielding := g.yielding || g.yields
    s := h.s
    restore := none }

/-- The address of the word after the clause (R15). -/
def afterClause (g : Group) : DWord := g.clause.addr + BitVec.ofNat 64 (4 * g.clause.words.length)

/-- The target of a displacement (R71). -/
def branchTarget (g : Group) (disp : BitVec 20) : DWord := g.clause.addr + BitVec.ofInt 64 (4 * disp.toInt)

/-- A word that has no destination register besides scalar ones, with the registers that it names. -/
def plainWord : Instr → Option (List PReg)
  | .nop => some []
  | .smovi d _ => some [.s d.val]
  | .smovl d _ => some [.s d.val]
  | .jmp _ => some []
  | .call _ => some (sRegs 56 2)
  | .ret a => some (sRegs a.val 2)
  | _ => none

/-- The registers that a word names, for the words that write values, predicates or the program counter alone. -/
def namedRegs (i : Instr) : Option (List PReg) :=
  ((intValue i).map fun x => vecRegs x.1 ++ .v x.2.1.val :: x.2.2.1) <|>
  ((pairValue i).map fun x => vecRegs x.1 ++ vRegs x.2.1.val 2 ++ x.2.2.1) <|>
  ((scalarValue i).map fun x => .s x.1.val :: x.2.1) <|>
  ((intCompare i).map fun x => maskRegs ++ pairRegs x.1 ++ x.2.2.1) <|>
  ((floatValue i).map fun x => vecRegs x.1 ++ .v x.2.1.val :: x.2.2.1) <|>
  ((floatPair i).map fun x => vecRegs x.1 ++ vRegs x.2.1.val 2 ++ x.2.2.1) <|>
  ((convertValue i).map fun x => vecRegs x.1 ++ .v x.2.1.val :: x.2.2.1) <|>
  ((convertPair i).map fun x => vecRegs x.1 ++ vRegs x.2.1.val 2 ++ x.2.2.1) <|>
  ((floatCompare i).map fun x => vecRegs x.2.2.1 ++ pairRegs x.2.2.2.1 ++ x.2.2.2.2.2.1) <|>
  ((shuffleFrom i).map fun x => vecRegs x.1 ++ .v x.2.1.val :: x.2.2.2.1) <|>
  ((keyedValue i).map fun x => vecRegs x.1 ++ .v x.2.1.val :: x.2.2.1) <|>
  plainWord i

/-- What trap entry leaves of a group (R402 to R405, R470): the fault registers, the return point, the handler's mask with
every thread that is not retired, and the group at its handler's header. A fault in a replay saves in RETMASK the mask that the
replay would give back (log entry 50). Every register, segment, counter and mode of the group
but the mask stays. -/
def entered (g h : Group) (r : FaultRec) (traph : DWord) : Prop :=
  h.inHandler = true ∧ h.pc = traph ∧ h.stage = .header ∧ h.status = .running ∧ h.fault = none ∧
  h.mask = ~~~ g.x ∧ h.faultMask = r.mask ||| g.lateMask ∧
  h.faultCode.toNat % 256 = r.code % 256 ∧ h.faultCode.toNat / 65536 % 16384 = r.imm % 16384 ∧
  (h.faultCode.getLsbD 15 = r.write) ∧ (h.faultCode.getLsbD 30 = r.late) ∧ (h.faultCode.getLsbD 31 = r.port.isSome) ∧
  h.faultCode.toNat / 256 % 16 = r.widx % 16 ∧
  h.faultAddr = r.addr ∧ h.retpc = r.retpc ∧ h.retw.toNat % 16 = r.retw % 16 ∧ h.retw.getLsbD 4 = r.rp ∧
  h.retmask = g.restore.getD g.mask ∧ h.pending = [] ∧ h.tx = none ∧
  (h.v, h.p, h.x, h.dc, h.fpmode, h.fpsr, h.seg, h.scr, h.pv, h.task, h.lin, h.gidx, h.id) =
    (g.v, g.p, g.x, g.dc, g.fpmode, g.fpsr, g.seg, g.scr, g.pv, g.task, g.lin, g.gidx, g.id) ∧
  ∀ n, n < 60 ∨ n = 63 → h.sget n = g.sget n

end Sys2Proof.Slice0

/-- R15, R20, R162, R398: a word that takes `n` words of its clause leaves the group at the next word of the clause, or with the
clause ended at the header that follows it; nothing else of the group changes but the mask that a replay gives back. -/
def Sys2Proof.Slice0.WordsMoveOnToNextWordOrHeader : Prop :=
  ∀ (g : Machine.Group) (n : Nat),
    (g.clause.words.length ≤ g.clause.next + n → ended g (g.nextWord n) (Slice0.afterClause g)) ∧
    (g.clause.next + n < g.clause.words.length →
      (g.nextWord n).s = (match g.restore with
        | some m => (g.setMask m).s
        | none => g.s) ∧
      g.nextWord n = { g with clause := { g.clause with next := g.clause.next + n }, s := (g.nextWord n).s, restore := none })

/-- R206, R402, R403, R404, R470: a fault of a group that nothing parks and that runs outside a handler, whose task has one
and which has nothing outstanding, takes the trap: the group is as `entered` says, and every other group is untouched. A SPAT of the
group that waits to be placed in its core's order gives its place up; without one nothing but the group changes. -/
def Sys2Proof.Slice0.RaisedFaultEntersTheHandler : Prop :=
  ∀ (s : State) (g : Machine.Group) (r : FaultRec), s.cur = some g → g.inHandler = false → s.traph g ≠ 0 →
    s.mayIssue g = true → g.out = [] → g.stores = [] → g.posts = [] → g.sets = [] → r.port = none → r.raw = none →
    r.code < 256 → r.widx < 16 → r.retw < 16 → r.imm < 16384 → (s.coreD g.id.coreId).l1s = [] →
    (∃ h : Machine.Group, s.raise g r = (s.leaveSpat g.id).put h ∧ entered g h r (s.traph g)) ∧
    ((∀ x ∈ (s.coreD g.id.coreId).rigs, x.group = g.id → x.phase ≠ .wait) → s.leaveSpat g.id = s)

/-- R206, R402, R407: while the group is parked, or its results, stores, arrivals or slot changes are outstanding, the fault
is recorded and the group waits; with no handler, or in one, its task is killed with the fault's code once nothing parks it. -/
def Sys2Proof.Slice0.RaisedFaultWaitsOrKills : Prop :=
  ∀ (s : State) (g : Machine.Group) (r : FaultRec), r.port = none →
    let waits := s.put { g with fault := some r, status := .trapping, turn := false }
    (s.mayIssue g = false → s.raise g r = waits) ∧
    (g.inHandler = false → s.traph g ≠ 0 → (g.out ≠ [] ∨ g.stores ≠ [] ∨ g.posts ≠ [] ∨ g.sets ≠ []) → s.raise g r = waits) ∧
    (s.mayIssue g = true → (g.inHandler = true ∨ s.traph g = 0) →
      s.raise g r = waits.kill g.task r.word.toNat r.addr (locWord g.id.coreId) (s.depth g.id.coreId))

/-- R25, R406, R410: ERET in a handler leaves it with RETPC's header next. With WIDX 0 the mask is RETMASK without the retired
threads; else the group continues at word WIDX, with RP the faulting threads alone that the handler's mask leaves. The handler
of a port fault record with RP = 0 goes on after the SPAT clause and its rig is gone; with RP = 1 the group waits for its rig
again, at its SPAT. Outside a handler ERET is ILLEGAL. -/
def Obligations.EretReturnsToTheReturnPoint : Prop :=
  ∀ (s : State) (g : Machine.Group), issues s g maskRegs →
    (g.inHandler = false → exec .eret s = .next (s.raise g
      { code := 0x01, mask := g.mask, addr := g.clause.addr, widx := g.clause.next, retpc := g.clause.addr,
        retw := g.clause.next, rp := true })) ∧
    (g.inHandler = true → (∀ r ∈ (s.coreD g.id.coreId).rigs, r.group = g.id → r.open_ = false) →
      ∃ h : Machine.Group, exec .eret s = .next (s.put h) ∧
        h.inHandler = false ∧ h.pc = g.retpc &&& ~~~3 ∧ h.stage = .header ∧ h.turn = false ∧
        h.serial = (if g.isSerial then some (g.clauseSeq, g.setc) else none) ∧
        (g.retw.toNat % 16 = 0 → h.mask = g.retmask &&& ~~~ g.x ∧ h.resume = g.resume) ∧
        (g.retw.toNat % 16 ≠ 0 → h.mask = (if g.retw.getLsbD 4 then g.mask &&& ~~~ g.x else g.mask) ∧
          h.resume = some ⟨g.retw.toNat % 16, g.retw.getLsbD 4, g.retmask &&& ~~~ g.x⟩) ∧
        (h.v, h.p, h.fpmode, h.fpsr, h.seg, h.scr, h.retpc, h.retw, h.retmask, h.pv, h.x) =
          (g.v, g.p, g.fpmode, g.fpsr, g.seg, g.scr, g.retpc, g.retw, g.retmask, g.pv, g.x) ∧
        ∀ n, n < 60 ∨ n = 63 → h.sget n = g.sget n) ∧
    (g.inHandler = true → ∀ r : Rig, (s.coreD g.id.coreId).rigs.find? (fun x => decide (x.group = g.id) && x.open_) = some r →
      (g.retw.getLsbD 4 = false → ∃ h : Machine.Group, exec .eret s = .next ((s.dropRig g.id).put h) ∧ h.inHandler = false ∧
        h.pc = (r.retpc + BitVec.ofNat 64 (4 * (r.widx + 1))) &&& ~~~3 ∧ h.stage = .header ∧
        h.mask = g.retmask &&& ~~~ g.x ∧ ∀ n, n < 60 ∨ n = 63 → h.sget n = g.sget n) ∧
      (g.retw.getLsbD 4 = true → r.recs.tail = [] → ∃ h : Machine.Group,
        exec .eret s = .next ((s.put h).putRig { r with recs := [], open_ := false }) ∧ h.inHandler = false ∧
        h.status = .spat ∧ h.clause.addr = r.retpc ∧ h.clause.next = r.widx ∧
        h.mask = g.retmask &&& ~~~ g.x ∧ ∀ n, n < 60 ∨ n = 63 → h.sget n = g.sget n))

/-- R71, R129: BRA.any, BRA.all and BRA.none continue at their target when some, all or none of the active threads pass the
guard, else at the header after the clause; the mask stays. -/
def Sys2Proof.Slice0.BranchesContinueByTheirCondition : Prop :=
  ∀ (gd : Guard) (disp : BitVec 20) (s : State) (g : Machine.Group), issues s g (vecRegs gd) →
    let goes := fun (i : Instr) (taken : Prop) => ∃ h : Machine.Group, exec i s = .next (s.put h) ∧
      (taken → ended g h (branchTarget g disp)) ∧ (¬ taken → ended g h (Slice0.afterClause g))
    goes (.braAny gd disp) (∃ t, t < 96 ∧ g.on gd t = true) ∧
    goes (.braAll gd disp) (∀ t, t < 96 → g.isActive t = true → g.on gd t = true) ∧
    goes (.braNone gd disp) (∀ t, t < 96 → g.on gd t = false)

/-- R8, R71, R130: JMP, CALL, CALLR and RET. CALL and CALLR write the link pair with the address after the clause; CALLR
reads its pair before, and a misaligned target of CALLR is MISALIGNED; RET ignores bits [1:0]. -/
def Sys2Proof.Slice0.JumpsAndCallsContinueAtTheirTarget : Prop :=
  ∀ (disp : BitVec 20) (a : Reg) (s : State) (g : Machine.Group), a.val ≤ 62 →
    let linked := fun (k : Machine.Group) => k = { g with s := k.s } ∧ ∀ n, n < 64 → k.sget n =
      if n = 56 then (Slice0.afterClause g).extractLsb' 0 32
      else if n = 57 then (Slice0.afterClause g).extractLsb' 32 32 else g.sget n
    (issues s g [] → ∃ h : Machine.Group, exec (.jmp disp) s = .next (s.put h) ∧ ended g h (branchTarget g disp)) ∧
    (issues s g (sRegs 56 2) → ∃ h k : Machine.Group, exec (.call disp) s = .next (s.put h) ∧ linked k ∧
      ended k h (branchTarget g disp)) ∧
    (issues s g (sRegs a.val 2) → ∃ h : Machine.Group, exec (.ret a) s = .next (s.put h) ∧
      ended g h (BitVec.ofNat 64 ((g.spair a.val).toNat / 4 * 4))) ∧
    (issues s g (sRegs a.val 2 ++ sRegs 56 2) →
      ((g.spair a.val).toNat % 4 = 0 → ∃ h k : Machine.Group, exec (.callr a) s = .next (s.put h) ∧ linked k ∧
        ended k h (g.spair a.val)) ∧
      ((g.spair a.val).toNat % 4 ≠ 0 → exec (.callr a) s = .next (s.raise g
        { code := 0x04, mask := g.mask, addr := g.clause.addr, widx := g.clause.next, retpc := g.clause.addr,
          retw := g.clause.next, rp := true })))

/-- R9, R131: MSKAND saves the mask in s(d) to s(d+2) and keeps the threads of its predicate; d from 58, where the triple would
overlap s60 to s62, does not decode. MSKSET sets the mask from three scalar registers, with `.and` cut by a predicate, and never
gives a retired thread back. -/
def Sys2Proof.Slice0.MaskWordsRewriteTheMask : Prop :=
  ∀ (d a : Reg) (p : Pred) (not : Bool) (q : Option Pred) (s : State) (g : Machine.Group),
    (d.val ≤ 57 → issues s g (maskRegs ++ .p p.val :: sRegs d.val 3) →
      ∃ h : Machine.Group, exec (.mskand d p not) s = .next (s.put (h.nextWord 1)) ∧ h = { g with s := h.s } ∧
        (∀ t, t < 96 → h.isActive t = (g.isActive t && (g.pget p.val t != not))) ∧
        (∀ n, n < 3 → h.sget (d.val + n) = g.sget (60 + n)) ∧
        ∀ n, n < d.val ∨ (d.val + 3 ≤ n ∧ n < 60) ∨ n = 63 → h.sget n = g.sget n) ∧
    (57 < d.val → ∀ (w : Word) (l : Option Word), decodeWord w l ≠ .ok (.mskand d p not)) ∧
    (a.val ≤ 61 → issues s g (maskRegs ++ (q.elim [] fun x => [.p x.val]) ++ sRegs a.val 3) →
      ∃ h : Machine.Group, exec (.mskset a q) s = .next (s.put (h.nextWord 1)) ∧ h = { g with s := h.s } ∧
        (∀ t, t < 96 → h.isActive t =
          ((g.sget (a.val + t / 32)).getLsbD (t % 32) && (q.elim true fun x => g.pget x.val t) && !maskBit g.x t)) ∧
        ∀ n, n < 60 ∨ n = 63 → h.sget n = g.sget n)

/-- R132: EXIT takes the threads of `enabled()` from the mask and retires them; the clause ends there, and with all 96
threads retired the group ends. A replayed EXIT takes them from the mask that the replay gives back (log entry 50). -/
def Sys2Proof.Slice0.ExitRetiresThreads : Prop :=
  ∀ (gd : Guard) (s : State) (g : Machine.Group), issues s g (vecRegs gd) → g.tx = none →
    let before := fun (t : Nat) => match g.restore with
      | some m => maskBit m t
      | none => g.isActive t
    ∃ k h : Machine.Group, exec (.exit gd) s = .next (s.put h) ∧ k = { g with s := k.s, x := k.x, restore := none } ∧
      (∀ t, t < 96 → k.isActive t = (before t && !g.on gd t) ∧ maskBit k.x t = (maskBit g.x t || g.on gd t)) ∧
      (∀ n, n < 60 ∨ n = 63 → k.sget n = g.sget n) ∧
      ((∀ t, t < 96 → maskBit k.x t = true) → h = { k with status := .ending, turn := false }) ∧
      ((∃ t, t < 96 ∧ maskBit k.x t = false) → h = { k with
        pc := Slice0.afterClause g, stage := .header, turn := false, clause := {},
        serial := if g.isSerial then some (g.clauseSeq, g.setc) else none, yielding := g.yielding || g.yields })

/-! ### System words (R140 to R149) -/

namespace Sys2Proof.Slice0

open Sys2Proof Sys2Proof.Machine

/-- The record of a fault at the word at which a group stands, for its active threads, to be replayed (R470). -/
def atWord (g : Group) (code : Nat) : FaultRec :=
  { code := code, mask := g.mask, addr := g.clause.addr, widx := g.clause.next, retpc := g.clause.addr, retw := g.clause.next,
    rp := true }

/-- The words that SRR reads for each number that is assigned (R35, R297, R395, R403, R405, R409, R429): two for a pair. -/
def srrValue (s : State) (g : Group) (n : Nat) : Option (List Word) :=
  let pair := fun (x : DWord) => some [x.extractLsb' 0 32, x.extractLsb' 32 32]
  match n with
  | 0x00 => some [BitVec.ofNat 32 g.task]
  | 0x01 => some [BitVec.ofNat 32 g.id.core]
  | 0x02 => some [BitVec.ofNat 32 g.id.die]
  | 0x03 => some [BitVec.ofNat 32 s.devidx]
  | 0x04 => pair (s.coreD g.id.coreId).cyc
  | 0x10 => some [g.fpmode]
  | 0x11 => some [g.fpsr]
  | 0x20 => some [BitVec.ofNat 32 g.v.length]
  | 0x21 => (s.teamOf g).map fun u => [u.live.zeroExtend 32]
  | 0x30 => some [bits fun i => maskBit g.faultMask i]
  | 0x31 => some [bits fun i => maskBit g.faultMask (32 + i)]
  | 0x32 => some [bits fun i => maskBit g.faultMask (64 + i)]
  | 0x33 => some [g.faultCode]
  | 0x34 => pair g.faultAddr
  | 0x36 => (s.core? g.id.coreId).map fun c => [BitVec.ofNat 32 c.frames.length]
  | 0x37 => some [BitVec.ofNat 32 (g.id.die * 2 ^ 16 + g.id.core)]
  | 0x38 => pair g.retpc
  | 0x3A => some [g.retw]
  | 0x3B => some [bits fun i => maskBit g.retmask i]
  | 0x3C => some [bits fun i => maskBit g.retmask (32 + i)]
  | 0x3D => some [bits fun i => maskBit g.retmask (64 + i)]
  | 0x40 => some [g.scr[0]]
  | 0x41 => some [g.scr[1]]
  | 0x42 => some [g.scr[2]]
  | 0x43 => some [g.scr[3]]
  | 0x44 => some [g.fabrec[0]]
  | 0x45 => some [g.fabrec[1]]
  | 0x46 => some [g.fabrec[2]]
  | 0x47 => some [g.fabrec[3]]
  | 0x58 => some [BitVec.ofNat 32 (s.caps.l3s % 2 ^ 8 * 2 ^ 12 + s.caps.inService.toNat)]
  | 0x59 => some [bits fun i => if i < 16 then decide (s.ua[i]?.map Link.state = some .up)
      else if i = 16 then decide (s.hostLink.state = .up) else decide (s.capLink[i - 17]?.map Link.state = some .up)]
  | 0x5A => some [BitVec.ofNat 32 (Config.rev.toNat * 2 ^ 8 + 64)]
  | 0x5B => some [BitVec.ofNat 32 (s.caps.gib % 2 ^ 13)]
  | 0x163 => some [BitVec.ofNat 32 (g.task / 2 ^ 32)]
  | n =>
    if 0x48 ≤ n ∧ n < 0x50 then g.portrec[n - 0x48]?.map fun w => [w]
    else if 0x50 ≤ n ∧ n < 0x58 then
      some [BitVec.ofNat 32 (s.caps.l2s[n - 0x50]?.getD 0 % 2 ^ 6 * 2 ^ 15 + s.caps.spare[n - 0x50]?.getD 0 % 2 ^ 6 * 2 ^ 9 +
        s.caps.cores[n - 0x50]?.getD 0 % 2 ^ 9)]
    else if 0x100 ≤ n then (s.hmask[(n - 0x100) / 8]?.bind fun v => v[n % 8]?).map fun w => [w.zeroExtend 32]
    else none

/-- The group after an SWR of a register of its own (R143, R403): reserved bits of FPMODE, FPSR and RETW stay zero. -/
def swrGroup (g : Group) (n : Nat) (w : Word) (pair : DWord) : Option Group :=
  match n with
  | 0x10 => some { g with fpmode := w &&& 3#32 }
  | 0x11 => some { g with fpsr := w &&& 31#32 }
  | 0x38 => some { g with retpc := pair }
  | 0x3A => some { g with retw := w &&& 31#32 }
  | 0x3B => some { g with retmask := (g.retmask.extractLsb' 32 64) ++ w }
  | 0x3C => some { g with retmask := (g.retmask.extractLsb' 64 32) ++ w ++ (g.retmask.extractLsb' 0 32) }
  | 0x3D => some { g with retmask := w ++ (g.retmask.extractLsb' 0 64) }
  | 0x40 => some { g with scr := g.scr.set 0 w }
  | 0x41 => some { g with scr := g.scr.set 1 w }
  | 0x42 => some { g with scr := g.scr.set 2 w }
  | 0x43 => some { g with scr := g.scr.set 3 w }
  | _ => none

end Sys2Proof.Slice0

/-- R142: TRAP moves on to the next header when no active thread passes its guard; else the group is given USER_TRAP with
those threads, the code, and no replay. -/
def Sys2Proof.Slice0.TrapRaisesUserTrap : Prop :=
  ∀ (gd : Guard) (code : BitVec 14) (s : State) (g : Machine.Group), issues s g (vecRegs gd) →
    ((∀ t, t < 96 → g.on gd t = false) → ∃ h : Machine.Group, exec (.trap gd code) s = .next (s.put h) ∧
      ended g h (Slice0.afterClause g)) ∧
    ((∃ t, t < 96 ∧ g.on gd t = true) → ∃ r : FaultRec, exec (.trap gd code) s = .next (s.raise g r) ∧
      r = { atWord g 0x13 with mask := r.mask, imm := code.toNat, rp := false } ∧
      ∀ t, t < 96 → maskBit r.mask t = g.on gd t)

/-- R35, R36, R143, R403: SRR copies a special register into s(d), a pair into s[d:d+1], and changes nothing else. -/
def Sys2Proof.Slice0.SrrReadsSpecialRegisters : Prop :=
  ∀ (d : Reg) (n : BitVec 14) (ws : List Word) (s : State) (g : Machine.Group), srrValue s g n.toNat = some ws →
    srrOk n.toNat d = true → (0x100 ≤ n.toNat → g.pv = true) → issues s g (sRegs d.val ws.length) →
    ∃ h : Machine.Group, exec (.srr d n) s = .next (s.put (h.nextWord 1)) ∧ h = { g with s := h.s } ∧
      ∀ k, k < 64 → h.sget k = if d.val ≤ k ∧ k < d.val + ws.length then ws.getD (k - d.val) 0 else g.sget k

/-- R37, R143, R403: SWR writes FPMODE, FPSR, RETPC, RETW, RETMASK or a scratch register, and nothing else. -/
def Sys2Proof.Slice0.SwrWritesGroupRegisters : Prop :=
  ∀ (d : Reg) (n : BitVec 14) (h : Machine.Group) (s : State) (g : Machine.Group),
    swrGroup g n.toNat (g.sget d.val) (g.spair d.val) = some h → swrOk n.toNat d = true →
    issues s g (sRegs d.val (if n.toNat = 0x38 then 2 else 1)) →
    exec (.swr d n) s = .next (s.put (h.nextWord 1))

/-- R298, R350, R395, R424, R425: SWR of HMASKi.s holds the group until the stack's controller has taken the value; SWR of
KILL, RECLAIM and RETIRE acts on the context's task or on the core named, and a kill of the group's own task is ILLEGAL. -/
def Sys2Proof.Slice0.SwrPrivilegedRegistersAct : Prop :=
  ∀ (d : Reg) (st i : Nat) (s : State) (g : Machine.Group), g.pv = true → issues s g [.s d.val] →
    let w := g.sget d.val
    (st < 12 → i < 6 → ∃ t : State, exec (.swr d (BitVec.ofNat 14 (0x100 + 8 * st + i))) s = .next t ∧
      t = { s.put { g with status := .held, turn := false, wait := some { kind := .hmask } } with
          hmaskQ := s.hmaskQ ++ [⟨st, i, w.extractLsb' 0 23, some g.id⟩] }) ∧
    (g.task / 2 ^ 32 * 2 ^ 32 + w.toNat = g.task → exec (.swr d 0x160) s = .next (s.raise g (atWord g 0x01))) ∧
    (g.task / 2 ^ 32 * 2 ^ 32 + w.toNat ≠ g.task → exec (.swr d 0x160) s =
      .next ((s.killTask g.ctx w (locWord g.id.coreId) (s.depth g.id.coreId)).goOn g.id)) ∧
    exec (.swr d 0x161) s = .next ((s.reclaim g.ctx w).goOn g.id) ∧
    exec (.swr d 0x162) s = .next ((s.retireCore ⟨w.toNat / 2 ^ 16 % 8, w.toNat % 512⟩).goOn g.id)

/-- R144: SEGSET writes sg(k) with the base and the limit; for sg1 a base that is no multiple of 16, or an end past the
shared store, is SEGMENT and changes nothing. -/
def Sys2Proof.Slice0.SegsetWritesASegment : Prop :=
  ∀ (k : Fin 4) (a : Reg) (s : State) (g : Machine.Group), a.val ≤ 60 → g.pv = true → g.tx = none →
    issues s g (sRegs a.val 4) →
    let base := g.spair a.val
    let limit := g.spair (a.val + 2)
    let bad := base.toNat % 16 ≠ 0 ∨ 524288 < base.toNat + limit.toNat
    (k = 1 → bad → exec (.segset k a) s = .next (s.raise g (atWord g 0x05))) ∧
    (k ≠ 1 ∨ ¬ bad → exec (.segset k a) s = .next (s.put ({ g with seg := g.seg.set k ⟨base, limit⟩ }.nextWord 1)))

/-- R26, R146, R148, R149: TLBINV issues as long-latency work that no register waits for; CTXSV stalls while its target's
results are outstanding, is ILLEGAL for no such target, and else frees the slot and the registers and issues the area, line by
line, as a store of its group after whose last line it is complete; CTXLD of a good area asks the pool for its slot and registers, and its group
waits. What CTXSV saves of an open transaction, of a clause in its middle and of a rig is the model's choice (log entry 47): the
transaction is discarded, the header at which the group stands is saved, and the rig is stopped. -/
def Sys2Proof.Slice0.ContextAndTlbWordsAct : Prop :=
  ∀ (sc : Scope) (all : Bool) (a b : Reg) (s : State) (g : Machine.Group), g.pv = true → g.tx = none → g.dc[g.setc] ≠ 63 →
    (issues s g (if all then [] else sRegs a.val 2) →
      let o : Outst := { seq := 0, ctr := 0, kind := .tlbinv sc all (g.spair a.val), ready := false }
      exec (.tlbinv sc all a) s = .next (s.put ((g.issueLong o).nextWord 1))) ∧
    (issues s g (sRegs a.val 2 ++ [.s b.val]) →
      (s.targetBusy g (g.sget b.val) = true → exec (.ctxsv a b) s = .next (s.put { g with turn := false })) ∧
      (s.targetBusy g (g.sget b.val) = false → s.ctxTarget g (g.sget b.val) = none → exec (.ctxsv a b) s = .next (s.raise g (atWord g 0x01))) ∧
      (∀ (h g' : Machine.Group) (ps : List Piece) (t : State), s.ctxTarget g (g.sget b.val) = some h → s.targetBusy g (g.sget b.val) = false →
        s.areaAccess g (g.spair a.val) (1024 + 384 * h.v.length) 1024 .store = (.ok ps, t) →
        let j := (h.seeAbort 12 0).suspend
        let k := (t.dropRig h.id).vacate h.id
        let va := BitVec.ofNat 64 (g.seg[0].base.toNat + (g.spair a.val).toNat)
        k.group? g.id = some g' →
          exec (.ctxsv a b) s = .next (k.put ((g'.issueArea va.toNat ps (j.area j.standsAt j.sat)).nextWord 1))) ∧
      (∀ (hd bs : List Byte) (ps qs : List Piece) (t u : State),
        s.areaAccess g (g.spair a.val) 1024 1024 .load = (.ok ps, t) → t.readArea g ps = some hd → areaBad hd = false →
        t.areaAccess g (g.spair a.val) (areaSize (areaWord hd 8).toNat) 1024 .load = (.ok qs, u) → u.readArea g qs = some bs →
        let w : Wait := { kind := .grow (g.restored (u.freeIndex g) bs).v.length }
        exec (.ctxld b a) s = .next ((u.put { g with status := .held, turn := false, wait := some w }).modCore g.id.coreId fun c =>
          { c with pool := c.pool ++ [PoolReq.ctxld g.id b.val (g.restored (u.freeIndex g) bs)] })))

/-! ### Memory words and their performance (R24, R28 to R34, R133 to R138, R276, R283, R329 to R347) -/

namespace Sys2Proof.Slice0

open Sys2Proof Sys2Proof.Machine

/-- The parts of a load (R135, R329): guard, first register, address register, segment, offset in bytes, size in bytes,
registers written, sign extension, scope of an acquire. -/
structure LoadForm where
  gd : Guard
  d : Reg
  a : Reg
  seg : Seg
  off : Nat
  size : Nat
  regs : Nat
  signed : Bool
  acq : Option Scope

/-- The loads: the offset field counts accesses of the word's size (R134). -/
def loadForm : Instr → Option LoadForm
  | .ldS8 gd d a seg o => some ⟨gd, d, a, seg, o.val, 1, 1, true, none⟩
  | .ldN8 gd d a seg o => some ⟨gd, d, a, seg, o.val, 1, 1, false, none⟩
  | .ldS16 gd d a seg o => some ⟨gd, d, a, seg, 2 * o.val, 2, 1, true, none⟩
  | .ldN16 gd d a seg o => some ⟨gd, d, a, seg, 2 * o.val, 2, 1, false, none⟩
  | .ldB32 gd d a seg o => some ⟨gd, d, a, seg, 4 * o.val, 4, 1, false, none⟩
  | .ldB64 gd d a seg o => some ⟨gd, d, a, seg, 8 * o.val, 8, 2, false, none⟩
  | .ldB128 gd d a seg o => some ⟨gd, d, a, seg, 16 * o.val, 16, 4, false, none⟩
  | .ldaqB32 gd d a seg sc o => some ⟨gd, d, a, seg, 4 * o.val, 4, 1, false, some sc⟩
  | .ldaqB64 gd d a seg sc o => some ⟨gd, d, a, seg, 8 * o.val, 8, 2, false, some sc⟩
  | _ => none

/-- The parts of a store (R136, R330): as of a load, with the scope of a release. -/
structure StoreForm where
  gd : Guard
  d : Reg
  a : Reg
  seg : Seg
  off : Nat
  size : Nat
  regs : Nat
  rel : Option Scope

/-- The stores. -/
def storeForm : Instr → Option StoreForm
  | .stB8 gd d a seg o => some ⟨gd, d, a, seg, o.val, 1, 1, none⟩
  | .stB16 gd d a seg o => some ⟨gd, d, a, seg, 2 * o.val, 2, 1, none⟩
  | .stB32 gd d a seg o => some ⟨gd, d, a, seg, 4 * o.val, 4, 1, none⟩
  | .stB64 gd d a seg o => some ⟨gd, d, a, seg, 8 * o.val, 8, 2, none⟩
  | .stB128 gd d a seg o => some ⟨gd, d, a, seg, 16 * o.val, 16, 4, none⟩
  | .strlB32 gd d a seg sc o => some ⟨gd, d, a, seg, 4 * o.val, 4, 1, some sc⟩
  | .strlB64 gd d a seg sc o => some ⟨gd, d, a, seg, 8 * o.val, 8, 2, some sc⟩
  | _ => none

/-- The atomics that return the old value (R333): guard, first register, address register, segment, scope, order, operation,
size in bytes, and data registers read. -/
def atomForm : Instr → Option (Guard × Reg × Reg × Seg × Scope × Order × AtomOp × Nat × Nat)
  | .ataddI32 gd d a seg sc mo => some (gd, d, a, seg, sc, mo, .fetchAdd, 4, 1)
  | .ataddI64 gd d a seg sc mo => some (gd, d, a, seg, sc, mo, .fetchAdd, 8, 2)
  | .ataddF32 gd d a seg sc mo => some (gd, d, a, seg, sc, mo, .addF32, 4, 1)
  | .atminI32 gd d a seg sc mo => some (gd, d, a, seg, sc, mo, .minI32, 4, 1)
  | .atmaxI32 gd d a seg sc mo => some (gd, d, a, seg, sc, mo, .maxI32, 4, 1)
  | .atandB32 gd d a seg sc mo => some (gd, d, a, seg, sc, mo, .and, 4, 1)
  | .atorB32 gd d a seg sc mo => some (gd, d, a, seg, sc, mo, .or, 4, 1)
  | .atxorB32 gd d a seg sc mo => some (gd, d, a, seg, sc, mo, .xor, 4, 1)
  | .atxchB32 gd d a seg sc mo => some (gd, d, a, seg, sc, mo, .swap, 4, 1)
  | .atxchB64 gd d a seg sc mo => some (gd, d, a, seg, sc, mo, .swap, 8, 2)
  | .atcasB32 gd d a seg sc mo => some (gd, d, a, seg, sc, mo, .cas, 4, 2)
  | .atcasB64 gd d a seg sc mo => some (gd, d, a, seg, sc, mo, .cas, 8, 4)
  | _ => none

/-- The group `h` is `g` with a long-latency word `o` issued (R24): the counter of the clause up by one, its destination
registers pending with it, the word outstanding at the next place of the group's order. -/
def issued (g h : Group) (o : Outst) : Prop :=
  h = { g with
    dc := g.dc.set g.setc (g.dc[g.setc] + 1)
    pending := o.dst.map (fun r => ⟨r, g.setc, g.seq⟩) ++ g.pending
    out := g.out ++ [{ o with ctr := g.setc, seq := g.seq }]
    seq := g.seq + 1 }

/-- An access of the segment finds room in its core's queue of sh accesses (R275). -/
abbrev queueFree (s : State) (g : Group) (seg : Seg) : Prop := seg = .sh → s.shFull g.id.coreId = false

/-- Two states agree in every byte of memory: the home's bytes, the shared stores, the cores' own S bytes, poison. -/
def sameMemory (s t : State) : Prop :=
  (∀ a, t.readPa a = s.readPa a) ∧ (∀ c o, (t.coreD c).shared.read o = (s.coreD c).shared.read o) ∧
  (∀ c, (t.coreD c).l1s = (s.coreD c).l1s) ∧ t.poison = s.poison

/-- The bytes of memory are those of `s` with `bs` written at `pa`, or those of `s`. -/
def wroteBytes (s u : State) (pa : Nat) (bs : Option (List Byte)) : Prop :=
  ∀ x, u.readPa x = match bs with
    | some b => (s.writePaBytes pa b).readPa x
    | none => s.readPa x

/-- No invalidation in flight is lost: each stands for its line and holder as far as it has come. -/
def keepsInvals (s t : State) : Prop :=
  ∀ i ∈ s.invals, ∃ j ∈ t.invals, j.line = i.line ∧ j.die = i.die ∧ j.dropped = i.dropped ∧ j.yielded = i.yielded

/-- Two lists of stores agree in all but what other threads have read of them. -/
def sameStores (xs ys : List StoreReq) : Prop :=
  (xs.map fun x => { x with readers := [] }) = ys.map fun x => { x with readers := [] }

/-- The data words of thread t from v(d). -/
def dataWords (g : Group) (d n t : Nat) : List Word := (List.range n).map fun i => g.vget (d + i) t

end Sys2Proof.Slice0

/-- R31, R32, R77, R134, R155, R278: an access of the shared-store segment is SEGMENT past the limit, past the cluster or at
an offset of 2^24 and more, MISALIGNED at an offset that is no multiple of its size, and else reaches the byte at
BASE + offset of its core's shared store, or of that of the cluster's member that the offset names; it translates nothing and changes nothing. The address that a failing access reports,
BASE + the low 19 bits of the offset, is log entry 50's reading. -/
def Sys2Proof.Slice0.SharedAccessesAreChecked : Prop :=
  ∀ (s : State) (g : Machine.Group) (o size t : Nat) (need : Need), 0 < size →
    let base := g.seg[1].base.toNat
    let limit := g.seg[1].limit.toNat
    let x := base + o % 524288
    (2 ^ 24 ≤ o ∨ s.clusterSize g ≤ o / 524288 ∨ limit < o % 524288 + size →
      s.access g .sh o size t need = (.error (.fault 0x05 (x % 2 ^ 64)), s)) ∧
    (o < 2 ^ 24 → o / 524288 < s.clusterSize g → o % 524288 + size ≤ limit →
      (o % size ≠ 0 → s.access g .sh o size t need = (.error (.fault 0x04 x), s)) ∧
      (o % size = 0 → o / 524288 = g.lin % s.clusterSize g →
        s.access g .sh o size t need = (.ok (x, [⟨.sh g.id.die g.id.core x, size, .d, none⟩]), s)) ∧
      (o % size = 0 → o / 524288 ≠ g.lin % s.clusterSize g →
        s.access g .sh o size t need = (.ok (x, [⟨.member g.task (g.lin / s.clusterSize g * s.clusterSize g + o / 524288) x, size, .d, none⟩]), s)))

/-- R30, R31, R32, R134: an access of the global segment outside its limit or at an address that is not canonical is SEGMENT, a
misaligned one MISALIGNED, both before any translation; a constant-segment access that writes is SEGMENT. -/
def Sys2Proof.Slice0.GlobalAccessesAreChecked : Prop :=
  ∀ (s : State) (g : Machine.Group) (o size t : Nat) (need : Need),
    let va := g.seg[0].base.toNat + o
    (2 ^ 64 ≤ o ∨ g.seg[0].limit.toNat < o + size ∨ canonical va = false →
      s.access g .gl o size t need = (.error (.fault 0x05 (va % 2 ^ 64)), s)) ∧
    (o < 2 ^ 64 → o + size ≤ g.seg[0].limit.toNat → canonical va = true → va % size ≠ 0 →
      s.access g .gl o size t need = (.error (.fault 0x04 va), s)) ∧
    (need.writes = true →
      s.access g .cn o size t need = (.error (.fault 0x05 ((g.seg[2].base.toNat + o) % 2 ^ 64)), s))

namespace Sys2Proof.Slice0

open Sys2Proof Sys2Proof.Machine

/-- A leaf grants what an access needs (R390). -/
def permits (pte : DWord) : Need → Prop
  | .load => pte.getLsbD 53 = true
  | .store => pte.getLsbD 52 = true
  | .both => pte.getLsbD 53 = true ∧ pte.getLsbD 52 = true
  | .fetch => pte.getLsbD 51 = true

/-- The marks that a demand access leaves in its leaf: AC, and DT where it writes (R389, R391). -/
def leafMarks (need : Need) : DWord := if need.writes then 0x6000000000000#64 else 0x4000000000000#64

/-- The bytes that a dense page gives at a virtual address: FRAME and the place in the page, by the class of bits [61:60] (R389). -/
def pagePiece (p : Page) (va n : Nat) : Piece :=
  ⟨.pa (p.pte.toNat % 2 ^ 40 * 4096 + (va - p.base)), n,
    if p.pte.toNat / 2 ^ 60 % 4 = 0 then .d else if p.pte.toNat / 2 ^ 60 % 4 = 1 then .s else .u, none⟩

/-- A dense page whose link is up grants an access at an address. -/
def pageServes (s : State) (p : Page) (va : Nat) (need : Need) : Prop :=
  p.pte.getLsbD 57 = false ∧ permits p.pte need ∧ s.linkUp (p.pte.toNat % 2 ^ 40 * 4096 + (va - p.base)) = true

/-- The group's core has the page of an address in its translation caches, marked for the access. -/
def tlbReady (s : State) (g : Group) (p : Page) (va : Nat) (need : Need) : Prop :=
  s.cached g.id.coreId g.ctx va = some p ∧ pageServes s p va need ∧ p.pte ||| leafMarks need = p.pte

/-- The group's core walks to the page of an address. -/
def walkedTo (s : State) (g : Group) (p : Page) (va : Nat) : Prop :=
  s.cached g.id.coreId g.ctx va = Option.none ∧ s.walk g.ctx va = .page p

end Sys2Proof.Slice0

/-- R30, R31, R32, R134, R137, R389, R390, R391, R401: an access of gl or cn inside the segment and aligned reaches the bytes at BASE + offset that its page
maps, and a walk for it changes no byte of memory but the leaf, whose AC it sets, and DT where it writes; a page that does not grant the access is PAGE_PROTECTION, and one behind a
link that is down LINK_LOST. A local access reaches, for each of its 4-byte words or its part of one, BASE + (o div 4) × 384 + 4 × (t mod 96) + (o mod 4); past the limit, at an
offset of 2^32 and more or with an address that is not canonical it is SEGMENT, at an offset that is no multiple of its size MISALIGNED, and a word
whose page does not grant it is PAGE_PROTECTION at that word's address. -/
def Sys2Proof.Slice0.MappedAccessesReachTheirBytes : Prop :=
  ∀ (s : State) (g : Machine.Group) (o size t : Nat) (need : Need), 0 < size →
    (∀ seg : Seg, (seg = .gl ∧ o < 2 ^ 64) ∨ (seg = .cn ∧ o < 2 ^ 32 ∧ need.writes = false) →
      let r := if seg = .gl then g.seg[0] else g.seg[2]
      let va := r.base.toNat + o
      o + size ≤ r.limit.toNat → canonical va = true → va % size = 0 → ∀ p,
        (Slice0.tlbReady s g p va need → s.access g seg o size t need = (.ok (va, [Slice0.pagePiece p va size]), s)) ∧
        (Slice0.walkedTo s g p va → Slice0.pageServes s p va need → s.mem.wf = true → ∃ u, s.access g seg o size t need = (.ok (va, [Slice0.pagePiece p va size]), u) ∧
          wroteBytes s u p.entry (some (natToBytes 8 (p.pte ||| Slice0.leafMarks need).toNat))) ∧
        (s.cached g.id.coreId g.ctx va = some p → ¬ Slice0.permits p.pte need →
          s.access g seg o size t need = (.error (.fault 0x07 va), s)) ∧
        (s.cached g.id.coreId g.ctx va = some p → Slice0.permits p.pte need → p.pte.getLsbD 57 = false →
          s.linkUp (p.pte.toNat % 2 ^ 40 * 4096 + (va - p.base)) = false → s.access g seg o size t need = (.error (.fault 0x09 va), s))) ∧
    let base := g.seg[3].base.toNat
    let word := fun (i : Nat) => base + (o + 4 * i) / 4 * 384 + 4 * (t % 96) + (o + 4 * i) % 4
    let n := if size ≤ 4 then 1 else size / 4
    (2 ^ 32 ≤ o ∨ g.seg[3].limit.toNat < o + size ∨ (∃ i, i < n ∧ canonical (word i) = false) →
      s.access g .lo o size t need = (.error (.fault 0x05 (word 0 % 2 ^ 64)), s)) ∧
    (o < 2 ^ 32 → o + size ≤ g.seg[3].limit.toNat → (∀ i, i < n → canonical (word i) = true) →
      (o % size ≠ 0 → s.access g .lo o size t need = (.error (.fault 0x04 (word 0)), s)) ∧
      (o % size = 0 → ∀ ps : Nat → Page,
        ((∀ i, i < n → Slice0.tlbReady s g (ps i) (word i) need) →
          s.access g .lo o size t need = (.ok (word 0, (List.range n).map fun i => Slice0.pagePiece (ps i) (word i) (min size 4)), s)) ∧
        ∀ k, k < n → (∀ i, i < k → Slice0.tlbReady s g (ps i) (word i) need) → s.cached g.id.coreId g.ctx (word k) = some (ps k) →
          ¬ Slice0.permits (ps k).pte need → s.access g .lo o size t need = (.error (.fault 0x07 (word k)), s)))

/-- R24, R26, R31, R135, R275, R329: a load whose checks pass for every enabled thread issues: nothing is written, the destination
registers are pending, and each enabled thread has one access to perform. -/
def Sys2Proof.Slice0.LoadsIssue : Prop :=
  ∀ (i : Instr) (f : LoadForm) (s u : State) (g : Machine.Group) (ts : List Target), loadForm i = some f →
    issues s g (vecRegs f.gd ++ vRegs f.d.val f.regs ++ addrRegs f.seg f.a) → g.dc[g.setc] ≠ 63 → queueFree s g f.seg → g.fence = [] → g.tx = none →
    checkThreads (plainCheck g f.seg f.a f.off f.size .load fun _ => []) (g.enabled f.gd) s = (ts, [], u) →
    ∃ h : Machine.Group, exec i s = .next (u.put (h.nextWord 1)) ∧
      issued g h { seq := 0, ctr := 0, kind := .load f.size f.signed f.acq, d := f.d.val, dst := vRegs f.d.val f.regs, todo := ts }

/-- R28, R31, R136, R330: a store whose checks pass issues: the data of each enabled thread is taken now, lowest byte
first, cut over the pieces of its access, and waits to be performed. -/
def Sys2Proof.Slice0.StoresIssue : Prop :=
  ∀ (i : Instr) (f : StoreForm) (s u : State) (g : Machine.Group) (ts : List Target), storeForm i = some f →
    issues s g (vecRegs f.gd ++ vRegs f.d.val f.regs ++ addrRegs f.seg f.a) → queueFree s g f.seg → g.fence = [] → g.tx = none →
    checkThreads (plainCheck g f.seg f.a f.off f.size .store (Slice0.dataWords g f.d.val f.regs)) (g.enabled f.gd) s = (ts, [], u) →
    let one := fun (t : Target) => StoreReq.mk g.seq t.thread t.va
      (cutBytes t.pieces ((t.args.flatMap fun w => natToBytes 4 w.toNat).take f.size)) f.rel false []
    exec i s = .next (u.put ({ g with stores := g.stores ++ ts.map one, seq := g.seq + 1 }.nextWord 1))

/-- R331, R333, R338: an atomic whose checks pass issues with its data read, and its old value's registers pending; REDST is
counted as a store. On lo neither scope nor order has an effect (R337). -/
def Sys2Proof.Slice0.AtomicsIssue : Prop :=
  (∀ (i : Instr) (gd : Guard) (d a : Reg) (seg : Seg) (sc : Scope) (mo : Order) (op : AtomOp) (size n : Nat) (s u : State)
    (g : Machine.Group) (ts : List Target), atomForm i = some (gd, d, a, seg, sc, mo, op, size, n) →
    issues s g (vecRegs gd ++ vRegs d.val n ++ addrRegs seg a) → g.dc[g.setc] ≠ 63 → queueFree s g seg → g.fence = [] → g.tx = none →
    checkThreads (atomCheck g seg a op size (Slice0.dataWords g d.val n)) (g.enabled gd) s = (ts, [], u) →
    ∃ h : Machine.Group, exec i s = .next (u.put (h.nextWord 1)) ∧
      issued g h { seq := 0, ctr := 0, kind := .atomic op size sc (if seg = .lo then .rlx else mo), d := d.val, dst := vRegs d.val (size / 4), todo := ts }) ∧
  ∀ (gd : Guard) (d a : Reg) (seg : Seg) (sc : Scope) (mo : Order) (s u : State) (g : Machine.Group) (ts : List Target),
    mo = .rlx ∨ mo = .rel → issues s g (vecRegs gd ++ .v d.val :: addrRegs seg a) → queueFree s g seg → g.fence = [] → g.tx = none →
    checkThreads (atomCheck g seg a .addF32 4 (Slice0.dataWords g d.val 1)) (g.enabled gd) s = (ts, [], u) →
    let one := fun (t : Target) => StoreReq.mk g.seq t.thread t.va
      (cutBytes t.pieces ((t.args.flatMap fun w => natToBytes 4 w.toNat).take 4)) (if mo = .rel ∧ seg ≠ .lo then some sc else none) true []
    exec (.redstF32 gd d a seg sc mo) s = .next (u.put ({ g with stores := g.stores ++ ts.map one, seq := g.seq + 1 }.nextWord 1))

/-- R343, R344, R346, R347: FENCE is remembered for the group's next memory word; a PUBLISH of no bytes and one of bytes
inside the global segment issue as long-latency work over their lines; PREF moves on, whatever its threads' checks say, and
no byte of memory changes. -/
def Sys2Proof.Slice0.OrderingWordsIssue : Prop :=
  ∀ (gd : Guard) (d a : Reg) (sc : Scope) (mo : Order) (lv : PrefLevel) (seg : Seg) (off : Fin 8) (s : State) (g : Machine.Group),
    (issues s g [] → exec (.fence sc mo) s = .next (s.put ({ g with fence := g.fence ++ [(sc, mo)] }.nextWord 1))) ∧
    (issues s g (.s d.val :: sRegs a.val 2) → g.dc[g.setc] ≠ 63 → g.fence = [] → g.tx = none → (g.sget d.val).getLsbD 31 = false →
      let n := (g.sget d.val).toNat
      let va := g.seg[0].base.toNat + (g.spair a.val).toNat
      (g.spair a.val).toNat + n ≤ g.seg[0].limit.toNat → canonical va = true → canonical (va + n - 1) = true →
      ∃ h : Machine.Group, exec (.publish d a sc) s = .next (s.put (h.nextWord 1)) ∧ issued g h
        { seq := 0, ctr := 0, ready := false,
          kind := if n = 0 then .publish sc 0 0 else .publish sc (va / 128 * 128) ((va + n + 127) / 128 * 128) }) ∧
    (issues s g (vecRegs gd ++ addrRegs seg a) → g.fence = [] → ∃ t h, exec (.pref gd lv a seg off) s = .next t ∧
      t.group? g.id = some h ∧ (g.tx = none → h = g.nextWord 1) ∧
      h.pc = (g.nextWord 1).pc ∧ h.clause = (g.nextWord 1).clause ∧ h.v = g.v ∧ h.s = g.s ∧ h.p = g.p ∧ ∀ x, t.readPa x = s.readPa x)

/-- R28, R135, R276: BANK_READ performs one thread's load of its core's shared store: the thread's result holds the
registers' words, nothing else of the group changes, and no byte of memory. -/
def Sys2Proof.Slice0.BankReadReturnsTheBytes : Prop :=
  ∀ (s : State) (g : Machine.Group) (o : Outst) (t : Target) (size off : Nat) (signed : Bool) (c : CoreId),
    s.due = some (g, o, t) → o.kind = .load size signed none → t.pieces = [⟨.sh c.die c.core off, size, .d, none⟩] →
    g.stores = [] → g.tx = none → s.blocked g o.seq t.thread t.pieces true false = false → s.poison = [] →
    ∃ u h, exec .bankRead s = .next u ∧ u = s.put h ∧ sameMemory s u ∧
      h = g.putOut { o with
        todo := o.todo.filter fun x => x.thread ≠ t.thread
        res := o.res ++ [(t.thread, loadWords size signed ((List.range size).map fun i => (s.coreD c).shared.read (off + i)))] }

/-- R28, R66, R136, R276: BANK_WRITE and ADD_ON_STORE perform one thread's store to a shared store: exactly its bytes change, to
the stored ones, or to the FP32 sum of the old value and the stored one; the store leaves the group's list. -/
def Sys2Proof.Slice0.BankWriteChangesExactlyItsBytes : Prop :=
  ∀ (s : State) (g : Machine.Group) (x : StoreReq) (c : CoreId) (off : Nat) (bs : List Byte),
    s.group? s.args.group = some g → g.storeReq? s.args.k s.args.t = some x →
    x.parts = [(⟨.sh c.die c.core off, bs.length, .d, none⟩, bs)] → x.rel = none →
    s.blocked g x.seq x.thread x.pieces false false = false → (∀ k ∈ s.cores, k.shared.wf = true) →
    let new := if x.add then addBytes ((List.range bs.length).map fun i => (s.coreD c).shared.read (off + i)) bs else bs
    ∃ u h, exec (if x.add then .addOnStore else .bankWrite) s = .next u ∧ u.group? g.id = some h ∧
      sameStores h.stores (g.dropStore x).stores ∧ h.v = g.v ∧ h.s = g.s ∧ h.p = g.p ∧
      (∀ i, i < bs.length → (u.coreD c).shared.read (off + i) = new.getD i 0) ∧
      (∀ o, o < off ∨ off + bs.length ≤ o → (u.coreD c).shared.read o = (s.coreD c).shared.read o) ∧
      (∀ k o, k ≠ c → (u.coreD k).shared.read o = (s.coreD k).shared.read o) ∧ ∀ a, u.readPa a = s.readPa a

/-- R282, R283, R286, R287: STORE_PERFORM of a plain store to a D or U line of the device's memory that no other copy holds changes
exactly its bytes at the home, but that the reserved bytes of a launch window take no store (R241); one to an S line for which the core's L1 has
room leaves its bytes dirty in that L1, and the home's bytes as they were. -/
def Sys2Proof.Slice0.StorePerformChangesExactlyItsBytes : Prop :=
  ∀ (s : State) (g : Machine.Group) (x : StoreReq) (cls : Coh) (pa : Nat) (bs : List Byte),
    s.group? s.args.group = some g → g.storeReq? s.args.k s.args.t = some x →
    x.parts = [(⟨.pa pa, bs.length, cls, none⟩, bs)] → x.rel = none → x.add = false →
    s.blocked g x.seq x.thread x.pieces false false = false → isHbm pa = true → pa % 128 + bs.length ≤ 128 →
    (cls ≠ .s → s.writable g.id.coreId ⟨.pa pa, bs.length, cls, none⟩ = true → s.mem.wf = true →
      ∃ u h, exec .storePerform s = .next u ∧ u.group? g.id = some h ∧ sameStores h.stores (g.dropStore x).stores ∧
        (∀ i, i < bs.length → u.readPa (pa + i) = if s.windowHole (pa + i) then 0 else bs.getD i 0) ∧
        (∀ a, a < pa ∨ pa + bs.length ≤ a → u.readPa a = s.readPa a) ∧
        ∀ c o, (u.coreD c).shared.read o = (s.coreD c).shared.read o) ∧
    (cls = .s → (s.coreD g.id.coreId).l1Room (pa / 128 * 128) = true →
      ∃ u h, exec .storePerform s = .next u ∧ u.group? g.id = some h ∧ sameStores h.stores (g.dropStore x).stores ∧
        (∀ i, i < bs.length → l1Find (u.coreD g.id.coreId).l1s (pa + i) = some ⟨pa + i, bs.getD i 0, true⟩) ∧
        (∀ y, y.pa < pa ∨ pa + bs.length ≤ y.pa → (y ∈ (u.coreD g.id.coreId).l1s → y ∈ (s.coreD g.id.coreId).l1s) ∧
          (y ∈ (s.coreD g.id.coreId).l1s → y.dirty = true → y ∈ (u.coreD g.id.coreId).l1s)) ∧
        (∀ c y, c ≠ g.id.coreId → (y ∈ (u.coreD c).l1s → y ∈ (s.coreD c).l1s) ∧ (y ∈ (s.coreD c).l1s → y.dirty = true → y ∈ (u.coreD c).l1s)) ∧
        (∀ a, u.readPa a = s.readPa a) ∧ ∀ c o, (u.coreD c).shared.read o = (s.coreD c).shared.read o)

/-- R332, R333: BANK_ATOMIC on 4 bytes of a shared store returns the old value and writes the operation's result, exactly
there; a CAS that finds another value writes nothing. -/
def Sys2Proof.Slice0.BankAtomicReadsModifiesWrites : Prop :=
  ∀ (s : State) (g : Machine.Group) (o : Outst) (t : Target) (op : AtomOp) (c : CoreId) (off : Nat) (x y : Word),
    s.due = some (g, o, t) → o.kind = .atomic op 4 .core .rlx → t.pieces = [⟨.sh c.die c.core off, 4, .d, none⟩] →
    t.args = (if op = .cas then [y, x] else [x]) → op ≠ .addF32 → op ≠ .addF64 → op ≠ .addBf16 →
    s.blocked g o.seq t.thread t.pieces false false = false → s.poison = [] → (∀ k ∈ s.cores, k.shared.wf = true) → g.tx = none →
    g.out.find? (fun z => z.seq = o.seq) = some o →
    let old := BitVec.ofNat 32 (bytesToNat ((List.range 4).map fun i => (s.coreD c).shared.read (off + i)))
    let new : Word := match op with
      | .fetchAdd => old + x
      | .swap => x
      | .cas => if old = y then x else old
      | .minI32 => if old.toInt ≤ x.toInt then old else x
      | .maxI32 => if x.toInt ≤ old.toInt then old else x
      | .and => old &&& x
      | .or => old ||| x
      | .xor => old ^^^ x
      | .addF32 => old
      | .addF64 => old
      | .addBf16 => old
    ∃ u h q, exec .bankAtomic s = .next u ∧ u.group? g.id = some h ∧ h.out.find? (fun z => z.seq = o.seq) = some q ∧
      q.res = o.res ++ [(t.thread, [old])] ∧ q.todo = o.todo.filter (fun z => z.thread ≠ t.thread) ∧
      (∀ i, i < 4 → (u.coreD c).shared.read (off + i) = BitVec.ofNat 8 (new.toNat / 2 ^ (8 * i))) ∧
      (∀ p, p < off ∨ off + 4 ≤ p → (u.coreD c).shared.read p = (s.coreD c).shared.read p) ∧ ∀ a, u.readPa a = s.readPa a

/-! ### Steps, clauses and selection (R15 to R25, R132, R159 to R162, R375, R399, R402) -/

namespace Sys2Proof.Slice0

open Sys2Proof Sys2Proof.Machine

/-- The words of a clause of class `c` pass the decode checks of R17 to R19 and R70. -/
def goodWords (c : Cls) : List Word → Prop
  | [] => True
  | [w] => ∃ i, decodeWord w none = .ok i ∧ i.literals = 0 ∧ (i.isNop = true ∨ i.cls = some c)
  | w :: l :: ws => ∃ i, decodeWord w (some l) = .ok i ∧ (i.isNop = true ∨ i.cls = some c) ∧
      ((i.literals = 1 ∧ goodWords c ws) ∨ (i.literals = 0 ∧ i.endsClause = false ∧ goodWords c (l :: ws)))

/-- ILLEGAL at the decode of word `k` of a fetched clause (R17, R408). -/
def illegalAt (g : Group) (k : Nat) : FaultRec :=
  { code := 0x01, mask := g.mask, addr := g.clause.addr, widx := k, retpc := g.clause.addr, retw := k, rp := true }

/-- The lines that the host holds and that a step, executed in `n` and answering `t`, has written as the device (R447). -/
def hostLines (n t : State) : List Nat := t.called.drop n.called.length

/-- What a step from `s` answers whose next instruction is `i`, executed in `n`, which differs from `s` in the model's own fields
alone: the outcome of `exec`; but an instruction that is not the host's own and would write a line that the host holds is not
performed: the back-invalidation of each such line is under way instead, and what was scheduled stays scheduled (R447). -/
def stepsAs (s : State) (i : Instr) (n : State) : Prop :=
  (∀ t, exec i n = .next t → hostOwn i = true ∨ hostLines n t = [] → step s = .next t) ∧
  (∀ t, exec i n = .next t → hostOwn i = false → hostLines n t ≠ [] → ∃ u, step s = .next u ∧
    u = { n with schedule := u.schedule, invals := u.invals } ∧ (∀ d, d ∈ u.schedule ↔ d ∈ s.schedule) ∧ (∀ v ∈ s.invals, v ∈ u.invals) ∧
    ∀ l ∈ hostLines n t, ∃ v ∈ u.invals, v.line = l ∧ v.die = none) ∧
  (∀ f, exec i n = .fault f → step s = .fault f) ∧ ∀ f, exec i n = .refused f → step s = .refused f

/-- Where the instructions of some words begin, the first of which has index `i` (R17, R19). -/
def starts : List Word → Nat → List Nat
  | [], _ => []
  | w :: ws, i => i :: match decodeWord w ws.head? with
    | .ok x => if x.literals = 1 then (match ws with
      | [] => []
      | _ :: rest => starts rest (i + 2)) else starts ws (i + 1)
    | .error _ => starts ws (i + 1)

end Sys2Proof.Slice0

/-- R15, R67, R87, R399, R447: a step of a group that issues is `exec` of the instruction that its next word decodes to, and a step of a
lane is `exec` of the operator that its word decodes to, each in the state with the model's own focus and arguments in
place; a step that is scheduled is `exec` of that step, and no clause word comes from the schedule (log entry 1). A scheduled turn of
a group names the order in which a word's threads reach their places. A write of the device notes each line that the host holds, and a step that
has noted one waits (log entry 1). A word of a group that a restore left with late faults, or whose waiting SPAT is being saved with its team, is not next. -/
def Obligations.StepRunsDecodedWord : Prop :=
  (∀ (s : State) (g : Machine.Group) (i : Instr), s.group? g.id = some g → g.status = .running → g.stage = .issuing →
    g.turn = true → (∀ t, g.tx = some t → t.seen = none) → s.mayIssue g = true →
    (g.lateMask = 0 ∨ g.lateCtrs ≠ [] ∨ g.resume ≠ none ∨ g.replay ≠ none ∨ g.restore ≠ none) →
    (∀ u r, s.team? g.task g.lin = some u → s.rig? g.id = some r → r.phase = .wait → u.taken = false) → decodeWord (g.clause.words.getD g.clause.next 0) g.clause.words[g.clause.next + 1]? = .ok i →
    let a : StepArgs := { group := g.id, core := g.id.coreId, n := g.id.quad }
    (s.schedule = [] → s.focus = .group g.id → stepsAs s i { s with args := a }) ∧
    ∀ order rest, s.schedule = .serve (.group g.id) order :: rest →
      stepsAs s i { s with schedule := rest, focus := .group g.id, args := { a with data := order } }) ∧
  (∀ (s : State) (j : GroupId) (n : Nat) (r : Rig) (b : Block) (i : Instr) (rest : List Due), s.rig? j = some r → r.block = some b →
    decodeOperator (b.ops.getD n 0) = .ok i → s.schedule = .serve (.lane j n) none :: rest →
    let a : StepArgs := { group := j, core := j.coreId, n := j.quad, t := n }
    stepsAs s i { s with schedule := rest, focus := .lane j n, args := a }) ∧
  (∀ (s : State) (i : Instr) (a : StepArgs) (rest : List Due), s.schedule = .step i a :: rest →
    stepsAs s (if encodeNat i = none then i else .cycIncrement) { s with schedule := rest, args := a }) ∧
  ∀ (s : State) (w : Option GroupId) (pa : Nat) (bs : List Byte), Slice0.hostLines s (s.deviceWrite w (.pa pa) bs) =
    (linesOf pa bs.length).filter fun l => (s.dirOf l).host

/-- R15, R16, R17: CLAUSE_FETCH of a group at a header brings the header and the N words that it names, each fetched at its
address, into the clause buffer; the lowest word whose fetch fails gives the group that fault, its index in WIDX, to return
to the header, with nothing replayed. -/
def Sys2Proof.Slice0.ClausesAreFetchedWordByWord : Prop :=
  ∀ (s : State) (g : Machine.Group), s.group? s.args.group = some g → g.status = .running → g.stage = .header → g.tx = none →
    g.delayed = [] → s.mayStart g = true →
    let reads := fun (ws : List Word) => ∀ k w, ws[k]? = some w → s.fetchWord g (g.pc + BitVec.ofNat 64 (4 * k)) = (.ok w, s)
    (∀ (h : Word) (ws : List Word), ws.length = h.toNat / 2 ^ 28 → reads (h :: ws) → exec .clauseFetch s =
      .next (s.put { g with stage := .fetched, clause := { addr := g.pc, words := h :: ws, next := 1 } })) ∧
    ∀ (ws : List Word) (code addr : Nat), (ws = [] ∨ ws.length ≤ (ws.headD 0).toNat / 2 ^ 28) → reads ws →
      s.fetchWord g (g.pc + BitVec.ofNat 64 (4 * ws.length)) = (.error (.fault code addr), s) →
      exec .clauseFetch s = .next (s.raise g
        { code := code, mask := g.mask, addr := BitVec.ofNat 64 addr, widx := ws.length, retpc := g.pc, retw := 0, rp := false })

/-- R17, R18, R19, R68, R70: CLAUSE_DECODE lets a clause go on whose header and words pass their checks; a header that does
not, or a first word that does not after words without a literal, is ILLEGAL at its index, and no word issues. -/
def Sys2Proof.Slice0.ClausesAreCheckedAtDecode : Prop :=
  ∀ (s : State) (g : Machine.Group) (h : Word) (ws : List Word), s.group? s.args.group = some g → g.status = .running →
    g.stage = .fetched → g.resume = none → g.clause.words = h :: ws →
    (∀ x, decodeHeader h = .ok x → goodWords x.cls ws → exec .clauseDecode s = .next (s.put { g with stage := .decoded })) ∧
    (∀ e, decodeHeader h = .error e → exec .clauseDecode s = .next (s.raise g (illegalAt g 0))) ∧
    ∀ x k, decodeHeader h = .ok x → k < ws.length →
      (∀ j, j < k → ∃ i, decodeWord (ws.getD j 0) ws[j + 1]? = .ok i ∧ i.literals = 0 ∧ i.endsClause = false ∧
        (i.isNop = true ∨ i.cls = some x.cls)) →
      ((∃ e, decodeWord (ws.getD k 0) ws[k + 1]? = .error e) ∨ (∃ i, decodeWord (ws.getD k 0) ws[k + 1]? = .ok i ∧
        ((i.isNop = false ∧ i.cls ≠ some x.cls) ∨ (i.literals = 0 ∧ i.endsClause = true ∧ k + 1 < ws.length)))) →
      exec .clauseDecode s = .next (s.raise g (illegalAt g (k + 1)))

/-- R23, R25, R399, R406: the first word of a decoded clause issues once every counter of WAIT is 0 and a preceding serial
clause has every result written; the pending bits of those counters and of that clause are cleared as it does, and before
it does, late faults under a counter of WAIT trap with every late thread, at the header, as do those that a restored
context brings; a WAIT that covers the counter of an MMA or a SLOTWT acquires at .core (R312). A return point's clause goes on
at its word, with the mask of the handler until a replayed word ends; without RP it goes on after that word. -/
def Sys2Proof.Slice0.ClausesStartWhenTheirWaitIsMet : Prop :=
  ∀ (s : State) (g : Machine.Group), s.group? s.args.group = some g → g.status = .running → g.stage = .decoded → g.turn = true →
    s.mayStart g = true → ((∀ d ∈ g.delayed, g.inHandler = true ∧ d.handler = false) ∨ g.resume ≠ none) →
    let done := ∀ k, g.serial = some k → ∀ o ∈ g.out, o.seq < k.1
    let met := (∀ c : Fin 8, g.waitMask.getLsbD c.val = true → g.dc[c] = 0) ∧ done
    let cleared := fun (h : Machine.Group) => ∀ x, x ∈ h.pending ↔ x ∈ g.pending ∧ ∀ k, g.serial = some k → x.seq < k.1
    (g.resume = none → ¬ met → exec .clauseStart s = .next s) ∧
    (g.resume = none → met → g.lateMask = 0 → ∃ h : Machine.Group,
      exec .clauseStart s = .next (if ∃ c ∈ g.acqCtrs, g.waitMask.getLsbD c.val = true then (s.put h).acquireL1 g.id.coreId .core else s.put h) ∧
      h = { g with stage := .issuing, pending := h.pending, serial := none, clauseSeq := g.seq, acqCtrs := h.acqCtrs } ∧
      (∀ c, c ∈ h.acqCtrs ↔ c ∈ g.acqCtrs ∧ g.waitMask.getLsbD c.val = false) ∧
      ∀ x, x ∈ h.pending ↔ x ∈ g.pending ∧ g.waitMask.getLsbD x.ctr.val = false ∧ ∀ k, g.serial = some k → x.seq < k.1) ∧
    (∀ c a, g.resume = none → met → g.lateMask ≠ 0 → ((∃ k ∈ g.lateCtrs, g.waitMask.getLsbD k.val = true) ∨ g.lateCtrs = []) →
      g.lateRec = some (c, a) →
      let r : FaultRec :=
        { code := c % 256, write := c.testBit 15, mask := g.lateMask, addr := a, late := true, widx := 0, retpc := g.pc, retw := 0, rp := false }
      exec .clauseStart s = .next (s.raise g r)) ∧
    (g.resume = none → met → g.lateMask ≠ 0 → g.lateCtrs = [] → g.lateRec = none →
      let r : FaultRec :=
        { code := g.faultCode.toNat % 256, mask := g.lateMask, addr := g.faultAddr, late := true, widx := 0, retpc := g.pc, retw := 0, rp := false,
          raw := some g.faultCode }
      exec .clauseStart s = .next (s.raise g r)) ∧
    (∀ w m, g.resume = some ⟨w, true, m⟩ → done → ∃ h : Machine.Group, exec .clauseStart s = .next (s.put h) ∧ cleared h ∧
      h = { g with
        resume := none
        stage := .issuing
        clauseSeq := g.seq
        restore := some m
        pending := h.pending
        serial := none
        clause := { g.clause with next := w } }) ∧
    ∀ w m i, g.resume = some ⟨w, false, m⟩ → done → decodeWord (g.clause.words.getD w 0) g.clause.words[w + 1]? = .ok i →
      ∃ h : Machine.Group, exec .clauseStart s = .next (s.put ((h.setMask m).nextWord (i.literals + 1))) ∧ cleared h ∧
      h = { g with
        resume := none
        stage := .issuing
        clauseSeq := g.seq
        pending := h.pending
        serial := none
        clause := { g.clause with next := w } }

/-- R159, R161, R162: with no eligible group at turn, ISSUE_SELECT gives the turn to the eligible group that comes first in cyclic
slot order after the current slot, past those that yield; groups of other quadrants keep theirs. -/
def Sys2Proof.Slice0.SelectionTakesTheNextEligibleGroup : Prop :=
  ∀ (s : State) (g : Machine.Group), g ∈ s.groups → (s.groups.map (·.id)).Nodup → g.id.coreId = s.args.core → g.id.quad = s.args.n →
    s.args.n < 4 → s.eligible g = true → g.yielding = false →
    let here := fun (h : Machine.Group) => h.id.coreId = s.args.core ∧ h.id.quad = s.args.n
    let after := fun (h : Machine.Group) => (h.id.slot + (31 - (s.coreD s.args.core).cur[s.args.n]?.getD 0 % 16)) % 16
    (∀ h ∈ s.groups, here h → s.eligible h = true → h.turn = false) →
    (∀ h ∈ s.groups, here h → s.eligible h = true → h.yielding = false → h.id ≠ g.id → after g < after h) →
    ∃ t, exec .issueSelect s = .next t ∧ t.group? g.id = some { g with turn := true } ∧
      (t.coreD s.args.core).cur[s.args.n]?.getD 0 = g.id.slot % 64 ∧
      (∀ h ∈ s.groups, ¬ here h → t.group? h.id = some h) ∧
      ∀ h ∈ s.groups, here h → h.id ≠ g.id → ∃ k, t.group? h.id = some k ∧ k = { h with turn := false, yielding := k.yielding }

/-- R24, R121, R135, R148, R399: once a vector instruction's threads are all performed, RESULT_WRITEBACK writes each thread's words
from v(d), counts its counter down and, for a thread that was lost, sets its bit of the late mask; a CTXSV does so once its core holds none of the area's bytes; no other register, flag
or thread changes. -/
def Sys2Proof.Slice0.ResultsAreWrittenForTheirThreads : Prop :=
  ∀ (s : State) (g : Machine.Group) (o : Outst) (n : Nat), s.group? s.args.group = some g → g.status = .running →
    g.out.find? (fun x => x.seq = s.args.k ∧ x.ready = true ∧ x.todo = [] ∧ x.held = []) = some o → o.dst = vRegs o.d n →
    (o.kind = .ctxsv → (s.coreD g.id.coreId).l1s = []) → (o.res.map Prod.fst).Nodup → (∀ r ∈ o.res, r.2.length = n) → (∀ l ∈ o.late, l.2.1 ≠ 0x0E ∧ l.2.1 ≠ 0x14) →
    o.d + n ≤ g.v.length →
    ∃ h : Machine.Group, exec .resultWriteback s = .next (s.put h) ∧
      (∀ k t, t < 96 → h.vget k t = match o.res.find? fun r => r.1 = t with
        | some r => if o.d ≤ k ∧ k < o.d + n then r.2.getD (k - o.d) 0 else g.vget k t
        | none => g.vget k t) ∧
      h.dc = g.dc.set o.ctr (g.dc[o.ctr] - 1) ∧ h.out = g.out.filter (fun x => x.seq ≠ o.seq) ∧ h.pending = g.pending ∧
      (∀ t, t < 96 → maskBit h.lateMask t = (maskBit g.lateMask t || o.late.any fun l => l.1 = t)) ∧
      h.fpsr = g.fpsr ||| o.flags.zeroExtend 32 ∧
      (h.s, h.p, h.x, h.pc, h.stage, h.clause, h.seg, h.stores, h.status, h.turn) =
        (g.s, g.p, g.x, g.pc, g.stage, g.clause, g.seg, g.stores, g.status, g.turn)

/-- R206, R375, R402 to R404, R407: TRAP_ENTRY of a group that nothing parks and that has nothing outstanding enters its handler;
in the handler, or without one, its task is killed; a parked group's fault is held. A delayed fault is given to the group at a
clause boundary, outside a handler or where its word issued inside it, before a word of the clause there issues, to return to
that header. Late faults that a restored context brings to a group in the middle of a clause trap there with RP = 0, to go on after the last word
that has issued (R399, R406, R408). -/
def Sys2Proof.Slice0.TrapEntryAndDelayedFaults : Prop :=
  ∀ (s : State) (g : Machine.Group), s.group? s.args.group = some g →
    (∀ r : FaultRec, g.status = .trapping → g.fault = some r → r.port = none →
      (s.mayIssue g = false → exec .trapEntry s = .next s) ∧
      (s.mayIssue g = true → (g.inHandler = true ∨ s.traph g = 0) → exec .trapEntry s =
        .next (s.kill g.task r.word.toNat r.addr (locWord g.id.coreId) (s.depth g.id.coreId)))) ∧
    (∀ r : FaultRec, g.status = .trapping → g.fault = some r → s.mayIssue g = true → g.inHandler = false → s.traph g ≠ 0 →
      g.out = [] → g.stores = [] → g.posts = [] → g.sets = [] → r.port = none → r.raw = none → r.code < 256 → r.widx < 16 → r.retw < 16 → r.imm < 16384 → (s.coreD g.id.coreId).l1s = [] →
      ∃ h : Machine.Group, exec .trapEntry s = .next ((s.leaveSpat g.id).put h) ∧ entered g h r (s.traph g) ∧
        ((∀ x ∈ (s.coreD g.id.coreId).rigs, x.group = g.id → x.phase ≠ .wait) → s.leaveSpat g.id = s)) ∧
    (g.lateMask ≠ 0 → g.lateCtrs = [] → g.status = .running → g.stage = .issuing → g.resume = none → g.replay = none → g.restore = none →
      s.mayIssue g = true →
      let r : FaultRec :=
        { code := 0, mask := g.lateMask, addr := g.faultAddr, late := true, widx := 0, retpc := g.clause.addr, rp := false,
          retw := ((Slice0.starts g.clause.words.tail 1).filter fun k => decide (k < g.clause.next)).getLastD 0 }
      (∀ c a, g.lateRec = some (c, a) → exec .trapEntry s = .next (s.raise g { r with code := c % 256, write := c.testBit 15, addr := a })) ∧
      (g.lateRec = none → exec .trapEntry s = .next (s.raise g { r with code := g.faultCode.toNat % 256, raw := some g.faultCode }))) ∧
    (∀ (d : Delayed) (ds : List Delayed), g.delayed = d :: ds → g.status = .running → g.stage ≠ .issuing →
      (g.inHandler = false ∨ d.handler = true) → g.resume = none → s.mayIssue g = true → exec .delayedFaultDelivery s = .next (s.raise { g with delayed := ds }
        { code := d.code, mask := g.mask, addr := d.addr, widx := d.widx, retpc := g.pc, retw := 0, rp := false }))

/-- R132, R173: GROUP_END of a group whose threads are all retired and whose work is done gives its slot and registers back; its
bit leaves its team's live groups. -/
def Sys2Proof.Slice0.GroupEndGivesTheSlotBack : Prop :=
  ∀ (s : State) (g : Machine.Group) (u : Team), s.group? s.args.group = some g → g.status = .ending → g.out = [] → g.stores = [] →
    g.posts = [] → g.sets = [] → g.lateMask = 0 → (s.coreD g.id.coreId).l1s = [] → s.team? g.task g.lin = some u → g.gidx < 16 →
    (s.teams.map fun x => (x.task, x.lin)).Nodup →
    (∃ i, i < 16 ∧ i ≠ g.gidx ∧ u.live.getLsbD i = true) →
    ∃ t v, exec .groupEnd s = .next t ∧ t.group? g.id = none ∧ t.team? g.task g.lin = some v ∧ v.core = u.core ∧
      ∀ i, i < 16 → v.live.getLsbD i = (u.live.getLsbD i && !decide (i = g.gidx))

/-! ### Barriers, the pool and SPAT (R164 to R172, R217 to R221) -/

/-- R167, R168, R169, R217: at a team barrier BARA counts its group's arrival and goes on, BAR waits besides; the last arrival
completes the phase: its number goes up, the arrived set empties, every member's arrival is forgotten, and BAR goes on. -/
def Sys2Proof.Slice0.TeamBarrierArrivals : Prop :=
  ∀ (n : Fin 16) (s : State) (g : Machine.Group) (u : Team) (k : Task), issues s g [] → g.tx = none → g.out = [] → g.stores = [] →
    g.posts = [] → (s.coreD g.id.coreId).l1s = [] → g.status = .running → g.wait = none → s.teamOf g = some u →
    s.task? g.task = some k → (∀ a ∈ g.arrivals, ¬ (a.1 = .team ∧ a.2.1 = n.val)) →
    let b := u.bars[n]
    let counted := { g with arrivals := (.team, n.val, b.phase) :: g.arrivals }
    ((∃ i, i < 16 ∧ u.live.getLsbD i = true ∧ i ≠ g.gidx ∧ i ∉ b.arrived) → ∀ wait : Bool,
      ∃ t, exec (if wait then .bar .team n else .bara .team n) s = .next t ∧ (∀ j, j ≠ g.id → t.group? j = s.group? j) ∧
        t.team? g.task g.lin = some { u with bars := u.bars.set n { b with arrived := g.gidx :: b.arrived } } ∧
        t.group? g.id = some (if wait then
          { counted with status := .held, turn := false, wait := some { kind := .phase .team n.val b.phase } }
          else counted.nextWord 1)) ∧
    ((∀ i, i < 16 → u.live.getLsbD i = true → i = g.gidx ∨ i ∈ b.arrived) → ∀ wait : Bool,
      ∃ t, exec (if wait then .bar .team n else .bara .team n) s = .next t ∧
        t.team? g.task g.lin = some { u with bars := u.bars.set n { phase := (b.phase + 1) % 2 ^ 32, arrived := [] } } ∧
        t.group? g.id = some (g.nextWord 1) ∧
        ∀ j x, j ≠ g.id → s.group? j = some x → t.group? j = some (if x.task = g.task ∧ x.lin = g.lin then
          { x with arrivals := x.arrivals.filter fun a => ¬ (a.1 = .team ∧ a.2.1 = n.val) } else x))

/-- R167, R168, R169, R217: at a cluster or launch barrier an arrival that leaves some live group of every member team to come is
recorded, and nothing completes; BARA goes on, and BAR waits where every member has started. The arrival of the last live group
of the last member team completes the phase: its number goes up, the arrived set empties, every member's arrival is forgotten, and BAR goes on. -/
def Sys2Proof.Slice0.WideBarrierArrivals : Prop :=
  ∀ (lv : BarLevel) (n : Fin 16) (s : State) (g : Machine.Group) (u : Team) (k : Task), lv ≠ .team → issues s g [] → g.tx = none →
    g.out = [] → g.stores = [] → g.posts = [] → g.status = .running → g.wait = none → s.teamOf g = some u →
    s.task? g.task = some k → (s.coreD g.id.coreId).l1s = [] → s.ready = [] → (∀ a ∈ g.arrivals, ¬ (a.1 = lv ∧ a.2.1 = n.val)) →
    let w := s.wideOf g.task (if lv = .cluster then some (g.lin / k.k) else none) n.val
    let w' := { w with groups := (g.lin, g.gidx) :: w.groups }
    (((s.startedTeams g.task).filter fun v => w.covers k v.lin && !w.bar.arrived.contains v.lin) = [u] →
      (∀ i, i < 16 → u.live.getLsbD i = true → i = g.gidx ∨ (g.lin, i) ∈ w.groups) → w.bar.arrived.length + 1 = s.wideMembers k w →
      u.task = g.task → u.lin = g.lin → (∀ v ∈ s.teams, v.sleep = none) → ∀ wait : Bool, ∃ t, exec (if wait then .bar lv n else .bara lv n) s = .next t ∧ t.teams = s.teams ∧
        t.wideOf g.task w.cluster n.val = { w with bar := { phase := (w.bar.phase + 1) % 2 ^ 32, arrived := [] }, groups := [] } ∧
        t.group? g.id = some (g.nextWord 1) ∧
        ∀ j x, j ≠ g.id → s.group? j = some x → t.group? j = some (if x.task = g.task ∧ w.covers k x.lin = true then
          { x with arrivals := x.arrivals.filter fun a => ¬ (a.1 = lv ∧ a.2.1 = n.val) } else x)) ∧
    ((∀ v ∈ s.startedTeams g.task, w.covers k v.lin = true → v.lin ∉ w.bar.arrived →
      ∃ i, i < 16 ∧ v.live.getLsbD i = true ∧ (v.lin, i) ∉ w'.groups) →
    w.bar.arrived.length < s.wideMembers k w →
    let counted := { g with arrivals := (lv, n.val, w.bar.phase) :: g.arrivals }
    ∀ wait : Bool, ∃ t, exec (if wait then .bar lv n else .bara lv n) s = .next t ∧ t.teams = s.teams ∧
      t.wideOf g.task w.cluster n.val = w' ∧
      t.group? g.id = some (if wait then
        { counted with status := .held, turn := false, wait := some { kind := .phase lv n.val w.bar.phase } }
        else counted.nextWord 1))

/-- R167, R168, R169, R172, R217, R218, R286: at a cluster or launch barrier whose members have started, BARW waits for the phase in which the
group's arrival counts, and goes on at once without one, with an acquire at .die or .dev; BAR and BARA hold while an arrival of theirs counts already, and
BARA goes on while its arrival waits for the accesses before it. BARRIER_RELEASE acts there as at a team barrier. -/
def Sys2Proof.Slice0.WideBarrierWaitsAndReleases : Prop :=
  ∀ (lv : BarLevel) (n : Fin 16) (s : State) (g : Machine.Group) (u : Team) (k : Task), lv ≠ .team → s.teamOf g = some u → s.task? g.task = some k →
    (∀ r ∈ s.ready, r.task ≠ g.task) → g.tx = none →
    let scope : Scope := if lv = .cluster then .die else .dev
    let phase := (s.wideOf g.task (if lv = .cluster then some (g.lin / k.k) else none) n.val).bar.phase
    let noArrival := fun (l : List (BarLevel × Nat × Nat)) => ∀ a ∈ l, ¬ (a.1 = lv ∧ a.2.1 = n.val)
    (issues s g [] → (∃ a ∈ g.arrivals, a.1 = lv ∧ a.2.1 = n.val) →
      exec (.barw lv n) s = .next (s.put { g with status := .held, turn := false, wait := some { kind := .phase lv n.val phase } }) ∧
      ∀ thenWait : Bool, exec (if thenWait then .bar lv n else .bara lv n) s = .next (s.put { g with
        status := .held, turn := false, wait := some { kind := .arrive lv n.val thenWait } })) ∧
    (issues s g [] → g.status = .running → g.wait = none → noArrival g.arrivals → noArrival g.posts →
      exec (.barw lv n) s = .next ((s.acquireL1 g.id.coreId scope).put (g.nextWord 1)) ∧
      (g.settled = false → exec (.bara lv n) s = .next (s.put (({ g with posts := g.posts ++ [(lv, n.val, g.seq)] } : Machine.Group).nextWord 1)))) ∧
    (∀ p sat, s.group? s.args.group = some g → g.status = .held → g.wait = some ⟨.phase lv n.val p, sat⟩ → g.posts = [] →
      (noArrival g.arrivals → exec .barrierRelease s =
        .next ((s.acquireL1 g.id.coreId scope).put ({ g with status := .running, wait := none }.nextWord 1))) ∧
      ((∃ a ∈ g.arrivals, a.1 = lv ∧ a.2.1 = n.val) → exec .barrierRelease s = .next s)) ∧
    (∀ w sat, s.group? s.args.group = some g → g.status = .held → g.wait = some ⟨.arrive lv n.val w, sat⟩ → g.posts = [] →
      s.mayIssue g = false → exec .barrierRelease s = .next s) ∧
    ∀ seq rest, s.group? s.args.group = some g → g.posts = (lv, n.val, seq) :: rest →
      (g.settledBefore seq = false → exec .barrierRelease s = .next s) ∧
      (g.settledBefore seq = true → (s.coreD g.id.coreId).l1s = [] →
        exec .barrierRelease s = .next (s.arrive { g with posts := rest } lv n))

/-- R168, R169, R172, R217, R218, R286: BARW waits for the phase in which the group's arrival counts, and goes on at once
without one, with an acquire of the core's L1. BAR and BARA hold while an arrival of theirs counts already; BARA goes on while
its arrival waits for the accesses before it. BARRIER_RELEASE counts such an arrival once these are performed, lets a held
group go on once its phase is complete, and not before, and lets a parked group make no new arrival. -/
def Sys2Proof.Slice0.BarrierWaitsAndReleases : Prop :=
  ∀ (n : Fin 16) (s : State) (g : Machine.Group),
    let noArrival := fun (l : List (BarLevel × Nat × Nat)) => ∀ a ∈ l, ¬ (a.1 = .team ∧ a.2.1 = n.val)
    (∀ u, issues s g [] → g.tx = none → s.teamOf g = some u → (∃ a ∈ g.arrivals, a.1 = .team ∧ a.2.1 = n.val) →
      exec (.barw .team n) s = .next (s.put { g with
        status := .held, turn := false, wait := some { kind := .phase .team n.val u.bars[n].phase } })) ∧
    (issues s g [] → g.tx = none → g.status = .running → g.wait = none → noArrival g.arrivals → noArrival g.posts →
      exec (.barw .team n) s = .next ((s.acquireL1 g.id.coreId .core).put (g.nextWord 1))) ∧
    (issues s g [] → g.tx = none → g.status = .running → g.wait = none → noArrival g.arrivals → noArrival g.posts →
      g.settled = false →
      exec (.bara .team n) s = .next (s.put (({ g with posts := g.posts ++ [(BarLevel.team, n.val, g.seq)] } : Machine.Group).nextWord 1))) ∧
    (∀ (thenWait : Bool) a, a ∈ g.arrivals → a.1 = .team → a.2.1 = n.val → issues s g [] → g.tx = none →
      exec (if thenWait then .bar .team n else .bara .team n) s = .next (s.put { g with
        status := .held, turn := false, wait := some { kind := .arrive .team n.val thenWait } })) ∧
    (∀ p sat, s.group? s.args.group = some g → g.status = .held → g.wait = some ⟨.phase .team n.val p, sat⟩ → g.posts = [] →
      (noArrival g.arrivals → exec .barrierRelease s =
        .next ((s.acquireL1 g.id.coreId .core).put ({ g with status := .running, wait := none }.nextWord 1))) ∧
      ((∃ a ∈ g.arrivals, a.1 = .team ∧ a.2.1 = n.val) → exec .barrierRelease s = .next s)) ∧
    (∀ w sat, s.group? s.args.group = some g → g.status = .held → g.wait = some ⟨.arrive .team n.val w, sat⟩ → g.posts = [] →
      s.mayIssue g = false → exec .barrierRelease s = .next s) ∧
    ∀ seq rest, s.group? s.args.group = some g → g.posts = (.team, n.val, seq) :: rest →
      (g.settledBefore seq = false → exec .barrierRelease s = .next s) ∧
      (g.settledBefore seq = true → (s.coreD g.id.coreId).l1s = [] →
        exec .barrierRelease s = .next (s.arrive { g with posts := rest } .team n))

/-- R164, R165, R220, R221: GROW below the budget is ILLEGAL, at it moves on, above it asks the core's pool and waits. The
oldest request is granted where its granules are free, and nothing is granted before it; the granted registers read 0.
SHRNK above the budget is ILLEGAL, over a pending register HAZARD, and else takes the registers away. -/
def Obligations.BudgetWordsAndThePool : Prop :=
  ∀ (n : BitVec 14) (s : State) (g : Machine.Group), g.tx = none →
    (issues s g [] → n.toNat < g.v.length → exec (.grow n) s = .next (s.raise g (atWord g 0x01))) ∧
    (issues s g [] → n.toNat = g.v.length → exec (.grow n) s = .next (s.put (g.nextWord 1))) ∧
    (issues s g [] → g.v.length < n.toNat → ∃ t, exec (.grow n) s = .next t ∧
      t.group? g.id = some { g with status := .held, turn := false, wait := some { kind := .grow n.toNat } } ∧
      (t.coreD g.id.coreId).pool = (s.coreD g.id.coreId).pool ++ [.grow g.id n.toNat]) ∧
    (∀ b rest, (s.coreD g.id.coreId).pool = .grow g.id b :: rest → s.args.core = g.id.coreId → s.group? g.id = some g →
      g.v.length ≤ b →
      (s.freeGranules g.id.coreId g.id.quad < 3 * (b - g.v.length) / 8 → exec .poolGrant s = .next s) ∧
      (3 * (b - g.v.length) / 8 ≤ s.freeGranules g.id.coreId g.id.quad → ∃ (t : State) (h : Machine.Group), exec .poolGrant s = .next t ∧
        (t.coreD g.id.coreId).pool = rest ∧
        t.group? g.id = some (h.nextWord 1) ∧ h = { g with v := h.v, status := .running, wait := none } ∧ h.v.length = b ∧
        ∀ m t, t < 96 → h.vget m t = g.vget m t)) ∧
    (issues s g [] → g.v.length < n.toNat → exec (.shrnk n) s = .next (s.raise g (atWord g 0x01))) ∧
    (issues s g [] → n.toNat ≤ g.v.length → (∃ m, n.toNat ≤ m ∧ m < g.v.length ∧ g.isPending (.v m) = true) →
      exec (.shrnk n) s = .next (s.raise g (atWord g 0x03))) ∧
    (issues s g [] → n.toNat ≤ g.v.length → (∀ m, n.toNat ≤ m → m < g.v.length → g.isPending (.v m) = false) →
      ∃ h : Machine.Group, exec (.shrnk n) s = .next (s.put (h.nextWord 1)) ∧ h = { g with v := h.v } ∧ h.v.length = n.toNat ∧
        ∀ m t, h.vget m t = if m < n.toNat then g.vget m t else 0)

/-- R175, R219: SPAT with every result of the group written parks the group at its word and gives its core a rig whose
descriptor is at the pair's offset; with results outstanding it has issued, takes its place after the SPATs of its core that have (R206), and waits. -/
def Sys2Proof.Slice0.SpatParksItsGroup : Prop :=
  ∀ (a : Reg) (s : State) (g : Machine.Group), g.tx = none →
    let mine := fun (x : Rig) => decide (x.group = g.id ∧ x.phase = .wait)
    let joins := fun (t : State) (r : Rig) =>
      ((∀ x ∈ (s.coreD g.id.coreId).rigs, mine x = false) → (t.coreD g.id.coreId).rigs = (s.coreD g.id.coreId).rigs ++ [r]) ∧
      ((∃ x ∈ (s.coreD g.id.coreId).rigs, mine x = true) → (t.coreD g.id.coreId).rigs = (s.coreD g.id.coreId).rigs.map fun x => if mine x then r else x)
    (s.cur = some g → g.out ≠ [] → ∃ t r, exec (.spat a) s = .next t ∧ t.group? g.id = some { g with turn := false } ∧ r.group = g.id ∧
      r.desc = g.spair a.val ∧ r.phase = .wait ∧ joins t r ∧ ∀ x, t.readPa x = s.readPa x) ∧
    (issues s g (sRegs a.val 2) → g.fence = [] → g.out = [] → ∃ t r, exec (.spat a) s = .next t ∧
      t.group? g.id = some { g with status := .spat, turn := false, pending := [] } ∧
      joins t r ∧ r.group = g.id ∧ r.desc = g.spair a.val ∧
      r.phase = .descriptor ∧ r.pages = [] ∧ r.lanes = [] ∧ r.rm = g.fpmode.extractLsb' 0 2 ∧ ∀ x, t.readPa x = s.readPa x)

/-! ### Cells, locks and queue entries (R246 to R254, R263 to R269) -/

namespace Sys2Proof.Slice0

open Sys2Proof Sys2Proof.Machine

/-- The words 0xB2 to 0xBB (R263): guard, first register, address register, segment, what is asked of the home, data
registers read, registers written, and the record's bytes. -/
def recordForm : Instr → Option (Guard × Reg × Reg × Seg × LLKind × Nat × Nat × Nat)
  | .propose gd d a seg sc mo => some (gd, d, a, seg, .cell .propose sc mo, 3, 3, 32)
  | .cellrd gd d a seg sc mo => some (gd, d, a, seg, .cell .read sc mo, 3, 3, 32)
  | .cellwt gd d a seg sc mo => some (gd, d, a, seg, .cell .wait sc mo, 3, 3, 32)
  | .cellinit gd d a seg sc mo => some (gd, d, a, seg, .cell .init sc mo, 3, 3, 32)
  | .cellrst gd d a seg sc mo => some (gd, d, a, seg, .cell .rst sc mo, 3, 3, 32)
  | .lkacq gd d a seg sc mo => some (gd, d, a, seg, .lock true sc mo, 1, 1, 8)
  | .lkrel gd d a seg sc mo => some (gd, d, a, seg, .lock false sc mo, 1, 1, 8)
  | .qrsv gd d a seg => some (gd, d, a, seg, .qrsv, 1, 1, 16)
  | .qput gd d a seg sc mo => some (gd, d, a, seg, .qput sc mo, 2, 0, 16)
  | .qget gd d a seg sc mo => some (gd, d, a, seg, .qget sc mo, 3, 3, 16)
  | _ => none

/-- One thread's operation of a group stands at its record's home, in the device's memory, with no link, order, poison,
decided copy or other copy of the line in its way; it is the group's one outstanding instruction. -/
structure AtHome (s : State) (g : Group) (o : Outst) (t : Target) (kind : LLKind) (pa size : Nat) : Prop where
  due : s.due = some (g, o, t)
  kind : o.kind = kind
  place : ∃ cls, t.pieces = [⟨.pa pa, size, cls, none⟩]
  device : isHbm pa = true
  first : ∀ x ∈ o.todo, t.thread ≤ x.thread
  none : o.held = []
  only : g.out = [o]
  stores : g.stores = []
  plain : g.tx = Option.none
  clean : s.poison = []
  supplied : s.args.data = Option.none
  l1 : (s.coreD g.id.coreId).l1s = []
  copies : (s.coreD g.id.coreId).decided = []
  dieCopies : s.decidedL2[g.id.die]?.getD [] = []
  line : s.ownable Option.none pa = true

/-- The group's operation of thread t is replaced: it has its words, waits, or has failed with CELL. -/
inductive Reply where
  | words (ws : List (Option Word))
  | waits
  | cell

/-- Words agree with those that a rule states; `none` is a value that no rule states. -/
def agrees (ws : List Word) (rs : List (Option Word)) : Prop :=
  ws.length = rs.length ∧ ∀ (i : Nat) (w : Word), rs[i]? = some (some w) → ws[i]? = some w

/-- What a reply does to the group: its outstanding instruction and nothing else changes. -/
def replied (u : State) (g : Group) (o : Outst) (t : Target) (r : Reply) : Prop :=
  let rest := o.todo.filter fun x => x.thread ≠ t.thread
  match r with
  | .words rs => ∃ ws, agrees ws rs ∧ u.group? g.id = some { g with out := [{ o with todo := rest, res := o.res ++ [(t.thread, ws)] }] }
  | .waits => u.group? g.id = some { g with out := [{ o with todo := rest, held := [t] }] }
  | .cell => u.group? g.id = some { g with out := [{ o with todo := rest, late := o.late ++ [(t.thread, 0x0E, t.va)] }] }

/-- The rows of R251 and the values of R264 for a cell with VALUE, GEN, OWNER and STATE: the reply and the new fields. The
value pair of WON and the second word of a LATE CELLRST are stated by no rule. -/
def cellRow (op : CellOp) (killed : Bool) (value : DWord) (gen owner : Word) (st : Nat) (g : Word) (v : DWord) (self : Word) :
    Reply × Option (DWord × Word × Word × Nat) :=
  let pair := fun (x : DWord) (code : Word) => Reply.words [some (x.extractLsb' 0 32), some (x.extractLsb' 32 32), some code]
  let poisoned := st = 2 ∨ (st = 0 ∧ killed = true)
  let mark := if st = 0 ∧ killed = true then some (value, gen, owner, 2) else none
  if g = 0 ∨ g ≠ gen then (.words [some gen, some (BitVec.ofNat 32 st), some 2], none)
  else match op with
    | .propose => if poisoned then (pair 0 3, mark) else if st = 1 then (pair value 1, none)
        else (.words [none, none, some 0], some (v, gen, owner, 1))
    | .read => if poisoned then (pair 0 3, mark) else if st = 1 then (pair value 0, none) else (pair 0 1, none)
    | .wait => if poisoned then (pair 0 3, mark) else if st = 1 then (pair value 0, none) else (.waits, none)
    | .init => if poisoned then (.words [some owner, some 0, some 3], mark)
        else if st = 1 ∨ owner ≠ 0 then (.words [some owner, some 0, some 1], none)
        else
          let o := if v.extractLsb' 0 32 = 0#32 then self else v.extractLsb' 0 32
          (.words [some o, some 0, some 0], some (value, gen, o, st))
    | .rst =>
        let next : Word := if gen.toNat = 2 ^ 32 - 1 then 1 else gen + 1
        if poisoned ∨ st = 1 then (.words [some next, some 0, some 0], some (0, next, 0, 0))
        else (.words [some g, none, some 1], none)

/-- The bytes of a cell (R250), of a lock word (R247) and of a queue entry (R248). -/
def cellBytes (value : DWord) (gen owner : Word) (st : Nat) : List Byte :=
  natToBytes 32 (value.toNat + gen.toNat * 2 ^ 64 + owner.toNat * 2 ^ 96 + st * 2 ^ 128)
def lockBytes (poison : Bool) (count : Nat) (owner : Word) : List Byte :=
  natToBytes 8 (poison.toNat * 2 ^ 63 + count * 2 ^ 32 + owner.toNat)
def entryBytes (payload : DWord) (producer : Word) (st : Nat) : List Byte :=
  natToBytes 16 (payload.toNat + producer.toNat * 2 ^ 64 + st * 2 ^ 96)

/-- LKACQ and LKREL (R268): the reply and the new word. -/
def lockRow (acquire killed poison : Bool) (count : Nat) (owner self : Word) : Reply × Option (Bool × Nat × Word) :=
  let p := poison || killed
  let mark := if killed = true ∧ poison = false then some (true, count, owner) else none
  if acquire then
    if p then (.words [some 3], mark)
    else if owner = 0 ∨ owner = self then
      if count = 2 ^ 31 - 1 then (.cell, none) else (.words [some 0], some (false, count + 1, self))
    else (.waits, none)
  else if owner ≠ self ∨ count = 0 ∨ p = true then (.cell, mark)
  else (.words [some 0], some (false, count - 1, if count = 1 then 0 else owner))

/-- QRSV, QPUT and QGET (R269): the reply and the new entry. -/
def queueRow (op : QueueOp) (killed : Bool) (payload : DWord) (producer : Word) (st : Nat) (v : DWord) (self : Word) :
    Reply × Option (DWord × Word × Nat) :=
  let mark := if st = 1 ∧ killed = true then some (payload, producer, 3) else none
  match op with
  | .reserve =>
    if st = 0 then (.words [some 0], some (payload, if v.extractLsb' 0 32 = 0#32 then self else v.extractLsb' 0 32, 1))
    else (.words [some 1], mark)
  | .put => if st = 1 ∧ killed = false ∧ producer = self then (.words [], some (v, producer, 2)) else (.cell, mark)
  | .get =>
    if st = 2 then (.words [some (payload.extractLsb' 0 32), some (payload.extractLsb' 32 32), some 0], some (0, 0, 0))
    else if st = 3 ∨ (st = 1 ∧ killed = true) then (.words [some 0, some 0, some 3], some (0, 0, 0))
    else (.waits, none)

end Sys2Proof.Slice0

/-- R24, R149, R255, R263: a word on cells, locks or queue entries whose checks pass for every enabled thread issues with the
words it reads, its destination registers pending, and holds its group at the word (log entry 46). Threads of a satisfied set that a
restore brought are not performed again: the first waiting word takes the set, one in a handler the handler's own (log entry 47). -/
def Sys2Proof.Slice0.RecordWordsIssueAndHold : Prop :=
  ∀ (i : Instr) (gd : Guard) (d a : Reg) (seg : Seg) (kind : LLKind) (n m size : Nat) (s u : State) (g : Machine.Group)
    (ts : List Target), recordForm i = some (gd, d, a, seg, kind, n, m, size) →
    issues s g (vecRegs gd ++ vRegs d.val n ++ addrRegs seg a) → g.dc[g.setc] ≠ 63 → g.fence = [] → g.tx = none →
    let sat := if kind.waits then (if g.inHandler then g.hsat else g.sat) else 0
    let taken := if kind.waits then (if g.inHandler then { g with hsat := 0 } else { g with sat := 0 }) else g
    checkThreads (homeCheck g seg a size true (Slice0.dataWords g d.val n)) ((g.enabled gd).filter fun t => !maskBit sat t) s = (ts, [], u) →
    ∃ h : Machine.Group,
      exec i s = .next (u.put { h with status := .held, turn := false, wait := some { kind := .object g.seq, satisfied := sat } }) ∧
      issued taken h { seq := 0, ctr := 0, kind := kind, d := d.val, dst := vRegs d.val m, todo := ts }

/-- R78, R249: a record outside gl, or in host or capacity memory, is SEGMENT; one that is not aligned to its size is
MISALIGNED; one on a page without the cell attribute is PAGE_PROTECTION, but for a TCB. -/
def Sys2Proof.Slice0.RecordAddressesAreChecked : Prop :=
  ∀ (s u : State) (g : Machine.Group) (seg : Seg) (a : Reg) (size t : Nat) (cells : Bool) (args : Nat → List Word),
    let o := g.offset seg a t 0
    let va := g.seg[0].base.toNat + o
    (seg ≠ .gl → homeCheck g seg a size cells args s t =
      (.error (.fault 0x05 (((g.segment seg).base.toNat + o) % 2 ^ 64)), s)) ∧
    (seg = .gl → o < 2 ^ 64 → o + size ≤ g.seg[0].limit.toNat → canonical va = true →
      (va % size ≠ 0 → homeCheck g seg a size cells args s t = (.error (.fault 0x04 va), s)) ∧
      ∀ p, va % size = 0 → s.xlatPiece g va size .both = (.ok p, u) →
        (∀ x, p.spot = .pa x → (isHost x = true ∨ isCap x = true) → homeCheck g seg a size cells args s t = (.error (.fault 0x05 va), u)) ∧
        (∀ x y z, p.spot = .pa x → isHost x = false → isCap x = false → u.translate g.id.coreId g.ctx va .both false = (.ok y, z) →
          homeCheck g seg a size cells args s t =
            (if cells = true ∧ y.cells = false then (.error (.fault 0x07 va), u) else (.ok ⟨t, va, [p], args t⟩, u))))

/-- R246, R249, R250, R251, R264, R267: CELL_REQUEST answers one thread at the cell's home by the rows of R251: the cell's
bytes, the words and the wait are as the row says; no other byte and nothing else of the group changes. A STATE above its table or a
reserved byte that is not zero fails the thread with CELL and changes no byte. -/
def Obligations.CellRequestsFollowTheTable : Prop :=
  (∀ (s : State) (g : Machine.Group) (o : Outst) (t : Target) (op : CellOp) (sc : Scope) (mo : Order) (pa : Nat),
    AtHome s g o t (.cell op sc mo) pa 32 → (2 < (s.readPa (pa + 16)).toNat ∨ ∃ i, 17 ≤ i ∧ i < 32 ∧ s.readPa (pa + i) ≠ 0) →
    ∃ u, exec .cellRequest s = .next u ∧ replied u g o t .cell ∧ wroteBytes s u pa none) ∧
  ∀ (s : State) (g : Machine.Group) (o : Outst) (t : Target) (op : CellOp) (sc : Scope) (mo : Order) (pa st : Nat) (value : DWord)
    (gen owner a b e : Word), AtHome s g o t (.cell op sc mo) pa 32 → st ≤ 2 → s.paBytes pa 32 = cellBytes value gen owner st →
    t.args = [a, b, e] →
    let r := cellRow op (s.killedTask g.ctx owner) value gen owner st e (b ++ a) (BitVec.ofNat 32 g.task)
    ∃ u, exec .cellRequest s = .next u ∧ replied u g o t r.1 ∧
      wroteBytes s u pa (r.2.map fun f => cellBytes f.1 f.2.1 f.2.2.1 f.2.2.2)

/-- R246, R247, R249, R268: LOCK_REQUEST answers one thread's LKACQ or LKREL at the lock word's home. -/
def Sys2Proof.Slice0.LockRequestsFollowTheirRule : Prop :=
  ∀ (s : State) (g : Machine.Group) (o : Outst) (t : Target) (acquire poison : Bool) (sc : Scope) (mo : Order) (pa count : Nat)
    (owner a : Word), AtHome s g o t (.lock acquire sc mo) pa 8 → count < 2 ^ 31 → s.paBytes pa 8 = lockBytes poison count owner →
    t.args = [a] →
    let r := lockRow acquire (s.killedTask g.ctx owner) poison count owner (BitVec.ofNat 32 g.task)
    ∃ u, exec .lockRequest s = .next u ∧ replied u g o t r.1 ∧ wroteBytes s u pa (r.2.map fun f => lockBytes f.1 f.2.1 f.2.2)

/-- R246, R248, R249, R269: QUEUE_REQUEST answers one thread's QRSV, QPUT or QGET at the entry's home. A STATE above its
table or a reserved byte that is not zero fails the thread with CELL and changes no byte. -/
def Sys2Proof.Slice0.QueueRequestsFollowTheirRule : Prop :=
  let kindOf := fun (op : QueueOp) (sc : Scope) (mo : Order) => match op with
    | .reserve => LLKind.qrsv
    | .put => .qput sc mo
    | .get => .qget sc mo
  (∀ (s : State) (g : Machine.Group) (o : Outst) (t : Target) (op : QueueOp) (sc : Scope) (mo : Order) (pa : Nat),
    AtHome s g o t (kindOf op sc mo) pa 16 → (3 < (s.readPa (pa + 12)).toNat ∨ ∃ i, 13 ≤ i ∧ i < 16 ∧ s.readPa (pa + i) ≠ 0) →
    ∃ u, exec .queueRequest s = .next u ∧ replied u g o t .cell ∧ wroteBytes s u pa none) ∧
  ∀ (s : State) (g : Machine.Group) (o : Outst) (t : Target) (op : QueueOp) (sc : Scope) (mo : Order) (pa st : Nat) (payload : DWord)
    (producer a b : Word) (rest : List Word), AtHome s g o t (kindOf op sc mo) pa 16 →
    st ≤ 3 → s.paBytes pa 16 = entryBytes payload producer st → (op = .put → t.args = [a, b]) → (op = .reserve → t.args = a :: rest) →
    let r := queueRow op (s.killedTask g.ctx producer) payload producer st (if op = .put then b ++ a else a.zeroExtend 64)
      (BitVec.ofNat 32 g.task)
    ∃ u, exec .queueRequest s = .next u ∧ replied u g o t r.1 ∧ wroteBytes s u pa (r.2.map fun f => entryBytes f.1 f.2.1 f.2.2)

/-! ### Tasks, teams and waits (R39, R236 to R266) -/

namespace Sys2Proof.Slice0

open Sys2Proof Sys2Proof.Machine

/-- A TLAUNCH or TSUCC of one enabled thread with its results: the word has issued, holds its group, and has `res` for the
thread, or has its fault (R263, R265, R266). -/
def tcbDone (u : State) (g : Group) (d : Reg) (kind : LLKind) (res : List (Nat × List Word)) (late : List (Nat × Nat × Nat)) : Prop :=
  ∃ h : Group, u.group? g.id = some { h with status := .held, turn := false, wait := some { kind := .launch g.seq } } ∧
    issued g h { seq := 0, ctr := 0, kind := kind, d := d.val, dst := [.v d.val], res := res, late := late }

/-- A task as the TCB at physical address `pa` describes it when it is launched (R237, R238, R242, R265). -/
def describes (s : State) (k : Task) (pa die : Nat) (parent : Word) : Prop :=
  let w := fun o => s.paNat (pa + o) 4
  k.pa = pa ∧ k.die = die ∧ k.parent = parent ∧ k.roles.toNat = w 0x18 ∧ k.shape.toNat = w 0x1C ∧ k.teams = w 0x20 ∧
  k.pred.toNat = w 0x24 ∧ k.succ.length = w 0x28 ∧ (∀ i, i < w 0x28 → (k.succ.getD i 0).toNat = w (0x50 + 4 * i)) ∧
  (∀ r : Fin 3, k.entry[r].toNat = s.paNat (pa + 8 * r.val) 8) ∧ k.traph.toNat = s.paNat (pa + 0x30) 8 ∧
  k.tensp.toNat = s.paNat (pa + 0x38) 8 ∧ k.done = 0 ∧ k.started = 0 ∧ k.waiton = 0 ∧ k.paddock = true ∧
  k.state = (if w 0x24 = 0 then .ready else .pending) ∧ k.eprio = w 0x1C / 2 ^ 25 % 8 ∧
  ∀ i : Fin 4, k.seg[i].base.toNat = s.paNat (pa + 0x80 + 16 * i.val) 8 ∧ k.seg[i].limit.toNat = s.paNat (pa + 0x88 + 16 * i.val) 8

/-- A group as it enters (R33, R39). -/
def entry (g : Group) (k : Task) (lin i base : Nat) : Prop :=
  let ng := fun (r : Nat) => k.roles.toNat / 2 ^ (5 * r) % 32
  let role := if i < ng 0 then 0 else if i < ng 0 + ng 1 then 1 else 2
  let n := ng 0 + ng 1 + ng 2
  let lw := (k.seg[3].limit.toNat + 3) / 4 * 4
  g.task = k.key ∧ g.lin = lin ∧ g.gidx = i ∧ g.pc = k.entry.toArray.getD role 0 ∧ g.stage = .header ∧ g.status = .running ∧
  g.v.length = 8 * (k.roles.toNat / 2 ^ (15 + 5 * role) % 32 + 1) ∧ (∀ t, t < 96 → (g.vget 0 t).toNat = t) ∧
  (∀ r t, 0 < r → g.vget r t = 0) ∧ (g.sget 0).toNat = i ∧ g.sget 1 = BitVec.ofNat 32 lin ∧ g.sget 2 = BitVec.ofNat 32 k.teams ∧
  (g.sget 63).toNat = n ∧ (g.sget 3).toNat = (if ng 0 = n ∨ ng 1 = n ∨ ng 2 = n then 0 else role) ∧ g.sget 56 = 0 ∧ g.sget 57 = 0 ∧
  (∀ t, t < 96 → g.isActive t = true) ∧ (∀ p t, g.pget p t = false) ∧ g.x = 0 ∧ g.out = [] ∧ g.pending = [] ∧
  g.pv = k.shape.getLsbD 28 ∧ g.seg[0] = k.seg[0] ∧ g.seg[2] = k.seg[2] ∧
  g.seg[1] = ⟨BitVec.ofNat 64 base, BitVec.ofNat 64 (k.shape.toNat % 2 ^ 20)⟩ ∧ g.seg[3].limit = k.seg[3].limit ∧
  g.seg[3].base = k.seg[3].base + BitVec.ofNat 64 ((lin * n + i) * 96 * lw)

end Sys2Proof.Slice0

/-- R236, R239, R242, R265: TLAUNCH of one thread. The word holds its group until the result is there (log entry 46). A TCB that is no slot of the context's arena, or that R239 refuses by its contents, is LAUNCH for the thread; with a free entry in the
die's paddock the task enters it as its TCB describes it, READY in the die's queues where its PRED is 0, with status 0; on a full
paddock with nothing to adopt the status is 1 and the TCB stays. -/
def Sys2Proof.Slice0.TlaunchEntersThePaddock : Prop :=
  ∀ (gd : Guard) (d a : Reg) (seg : Seg) (s : State) (g : Machine.Group) (t n pa va : Nat) (cls : Coh) (c : Ctx),
    issues s g (vecRegs gd ++ .v d.val :: addrRegs seg a) → g.dc[g.setc] ≠ 63 → g.fence = [] → g.tx = none → g.sat = 0 → g.hsat = 0 →
    g.out = [] → g.stores = [] → (s.coreD g.id.coreId).l1s = [] → s.held = false → (∀ v ∈ s.teams, v.sleep = none ∧ v.taken = false) →
    s.poison = [] → g.enabled gd = [t] →
    homeCheck g seg a 256 false (Slice0.dataWords g d.val 1) s t = (.ok ⟨t, va, [⟨.pa pa, 256, cls, none⟩], Slice0.dataWords g d.val 1 t⟩, s) →
    s.ctx? g.ctx = some c →
    ((∀ i, 0 < i → i < c.nslot → i < 0xFFFFFF → va ≠ c.arena.toNat + 256 * i) →
      ∃ u, exec (.tlaunch gd d a seg) s = .next u ∧ tcbDone u g d .tlaunch [] [(t, 0x14, va)]) ∧
    (va = c.arena.toNat + 256 * n → 0 < n → n < c.nslot → n < 0xFFFFFF →
    let key := keyOf g.ctx (BitVec.ofNat 32 (s.devidx * 2 ^ 24 + n))
    (s.tcbBad key pa = true → ∃ u, exec (.tlaunch gd d a seg) s = .next u ∧ tcbDone u g d .tlaunch [] [(t, 0x14, va)]) ∧
    (s.tcbBad key pa = false → 0 < s.paddockFree g.id.die → ∃ u k, exec (.tlaunch gd d a seg) s = .next u ∧
      tcbDone u g d .tlaunch [(t, [0])] [] ∧ u.task? key = some k ∧ describes s k pa g.id.die (BitVec.ofNat 32 g.task) ∧
      u.ready = s.ready ++ (if s.paNat (pa + 0x24) 4 = 0 then [⟨g.id.die, key, 0, k.teams, false⟩] else [])) ∧
    (s.tcbBad key pa = false → s.paddockFree g.id.die = 0 → s.ready = [] → ∃ u, exec (.tlaunch gd d a seg) s = .next u ∧
      tcbDone u g d .tlaunch [(t, [1])] [] ∧ ∀ x, u.readPa x = s.readPa x))

/-- R237, R238, R239, R393: a TCB whose task the device does not hold is refused by its contents exactly for one of R239's reasons: its state, its counts of
groups and teams, its entries, its shared store, its successors, its reserved bits, or PV in a context without PRIV; and one of a task that the
device holds and that has not finished is refused. -/
def Sys2Proof.Slice0.TcbsAreRefusedByTheirContents : Prop :=
  ∀ (s : State) (key : TaskKey) (pa : Nat),
    let w := fun (o n : Nat) => s.paNat (pa + o) n
    let ng := fun (r : Nat) => w 0x18 4 / 2 ^ (5 * r) % 32
    let shape := w 0x1C 4
    let clause := fun (va : Nat) => canonical va = true ∧ va % 4 = 0
    (∀ x, s.task? key = some x → x.state ≠ .finished → x.state ≠ .template → s.tcbBad key pa = true) ∧
    (s.task? key = none → (s.tcbBad key pa = true ↔
      w 0x48 4 % 16 ≠ 0 ∨ ng 0 + ng 1 + ng 2 = 0 ∨ 16 < ng 0 + ng 1 + ng 2 ∨ (∃ r, r < 3 ∧ ng r ≠ 0 ∧ ¬ clause (w (8 * r) 8)) ∨ ¬ clause (w 0x30 8) ∨
      524288 < shape % 2 ^ 20 ∨ shape % 16 ≠ 0 ∨ w 0x20 4 = 0 ∨ 2 ^ 24 < w 0x20 4 ∨ w 0x20 4 % (shape / 2 ^ 20 % 32 + 1) ≠ 0 ∨ 12 < w 0x28 4 ∨
      w 0x2C 4 ≠ 0 ∨ w 0x4C 4 ≠ 0 ∨ w 0x18 4 / 2 ^ 30 ≠ 0 ∨ shape / 2 ^ 29 ≠ 0 ∨ w 0x48 4 / 2 ^ 7 ≠ 0 ∨ w 0xC0 64 ≠ 0 ∨
      (shape / 2 ^ 28 % 2 = 1 ∧ ∀ c, s.ctx? (key / 2 ^ 32) = some c → c.priv = false)))

/-- R266, R438: TSUCC of one thread, which holds its group until the result is there (log entry 46): a successor of this device that is no TEMPLATE of the context's arena is LAUNCH; a killed
predecessor gives status 1, one with 12 successors status 2, and any other takes the successor at the end of its list, with
status 0. A link with a task of another device has issued, and holds its group while it goes over UALink. -/
def Sys2Proof.Slice0.TsuccLinksASuccessor : Prop :=
  ∀ (gd : Guard) (d a : Reg) (seg : Seg) (s : State) (g : Machine.Group) (t pa va q : Nat) (cls : Coh) (c : Ctx) (k : Task),
    issues s g (vecRegs gd ++ .v d.val :: addrRegs seg a) → g.dc[g.setc] ≠ 63 → g.fence = [] → g.tx = none →
    g.out = [] → g.stores = [] → (s.coreD g.id.coreId).l1s = [] → s.poison = [] → (∀ v ∈ s.teams, v.sleep = none) → g.enabled gd = [t] →
    homeCheck g seg a 256 false (Slice0.dataWords g d.val 1) s t = (.ok ⟨t, va, [⟨.pa pa, 256, cls, none⟩], Slice0.dataWords g d.val 1 t⟩, s) →
    s.ctx? g.ctx = some c →
    let x := g.vget d.val t
    let n := x.toNat % 2 ^ 24
    (isPeer pa = true ∨ x.toNat / 2 ^ 24 ≠ s.devidx → ∃ u h, exec (.tsucc gd d a seg) s = .next u ∧
      u.group? g.id = some { h with status := .held, turn := false, wait := some { kind := .launch g.seq } } ∧
      issued g h
        { seq := 0, ctr := 0, kind := .tsucc, d := d.val, dst := [.v d.val],
          todo := [⟨t, va, [⟨.pa pa, 256, cls, none⟩], Slice0.dataWords g d.val 1 t⟩] }) ∧
    (isPeer pa = false → x.toNat / 2 ^ 24 = s.devidx →
      (n = 0 ∨ n = 0xFFFFFF ∨ c.nslot ≤ n ∨ ∀ y, s.tcbPa g.ctx x = some y → s.tcbState (keyOf g.ctx x) y ≠ 0) →
      ∃ u, exec (.tsucc gd d a seg) s = .next u ∧ tcbDone u g d .tsucc [] [(t, 0x14, va)]) ∧
    (isPeer pa = false → x.toNat / 2 ^ 24 = s.devidx → 0 < n → n < 0xFFFFFF → n < c.nslot → s.tcbPa g.ctx x = some q → s.tcbState (keyOf g.ctx x) q = 0 →
      s.tasks.find? (fun y => y.pa = pa ∧ y.state ≠ .finished) = some k → s.task? k.key = some k →
      (k.state = .killed → ∃ u, exec (.tsucc gd d a seg) s = .next u ∧ tcbDone u g d .tsucc [(t, [1])] []) ∧
      (k.state ≠ .killed → k.succ.length = 12 → ∃ u, exec (.tsucc gd d a seg) s = .next u ∧ tcbDone u g d .tsucc [(t, [2])] []) ∧
      (k.state ≠ .killed → k.succ.length ≠ 12 → ∃ u, exec (.tsucc gd d a seg) s = .next u ∧ tcbDone u g d .tsucc [(t, [0])] [] ∧
        u.task? k.key = some { k with succ := k.succ ++ [x] }))

/-- R33, R39, R153, R243, R244: TEAM_START on a core with room starts the first unstarted team of the highest priority of its
die: STARTED goes up, a READY task runs, its shared-store range reads zero, and every group stands at its entry. -/
def Sys2Proof.Slice0.TeamStartEntersItsGroups : Prop :=
  ∀ (s : State) (r : Ready) (k : Task) (slots : List Nat) (base : Nat), r ∈ s.ready → r.die = s.args.core.die → r.saved = false →
    s.task? r.task = some k → k.eprio ≤ 7 → k.key = r.task →
    (∀ x ∈ s.ready, x.die = s.args.core.die → x ≠ r → s.entryPrio x < k.eprio) →
    s.roomFor s.args.core none k r.first k.budgets false = some (slots, base) → slots.Nodup → slots.length = k.groups →
    (∀ n ∈ slots, s.group? ⟨s.args.core.die, s.args.core.core, n⟩ = none) → s.team? k.key r.first = none → k.groups ≤ 16 →
    (∀ v ∈ s.teams, v.sleep = none) →
    ∃ u v, exec .teamStart s = .next u ∧ u.team? k.key r.first = some v ∧ v.core = s.args.core ∧ v.shBase = base ∧
      v.shLen = k.shape.toNat % 2 ^ 20 ∧ (∀ i, i < 16 → v.live.getLsbD i = decide (i < k.groups)) ∧
      (∃ k', u.task? k.key = some k' ∧ k'.started = k.started + 1 ∧ k'.state = if k.state = .ready then .running else k.state) ∧
      (∀ o, base ≤ o → o < base + k.shape.toNat % 2 ^ 20 → (u.coreD s.args.core).shared.read o = 0) ∧
      ∀ i n, slots[i]? = some n → ∃ g, u.group? ⟨s.args.core.die, s.args.core.core, n⟩ = some g ∧ entry g k r.first i base

/-- R155, R243: TEAM_BALANCE moves whole clusters of unstarted teams of a queue entry to another die, where no started member
binds them elsewhere; every team of the entry stands in one entry after it, the moved ones on the new die. -/
def Sys2Proof.Slice0.TeamBalanceMovesWholeClusters : Prop :=
  ∀ (s : State) (r : Ready) (k : Task), s.ready[s.args.k]? = some r → s.task? r.task = some k → r.saved = false →
    let a := s.args.x.toNat
    let n := s.args.n
    let kk := k.shape.toNat / 2 ^ 20 % 32 + 1
    a % kk = 0 → n % kk = 0 → (∀ d, s.clusterDie k a false = some d → d = s.args.t) → r.first ≤ a → a + n ≤ r.first + r.count → s.args.t < 8 →
    ∃ parts, exec .teamBalance s = .next { s with ready := s.ready.take s.args.k ++ parts ++ s.ready.drop (s.args.k + 1) } ∧
      (∀ p ∈ parts, p.task = r.task ∧ p.saved = false) ∧
      ∀ l die, (∃ p ∈ parts, p.first ≤ l ∧ l < p.first + p.count ∧ p.die = die) ↔
        r.first ≤ l ∧ l < r.first + r.count ∧ die = if a ≤ l ∧ l < a + n then s.args.t else r.die

/-- R242, R245, R438, R439, R453: SUCCESSOR_DECREMENT takes one from a PENDING task's PRED, and at zero the task becomes READY and enters
its die's queues; a decrement for another device is sent where a link is up. The decrements of one task are made in list order,
and the sleepers on it wake behind the last. None is made while a checkpoint holds starts and no team is resident (R453). -/
def Sys2Proof.Slice0.SuccessorsBecomeReady : Prop :=
  ∀ (s : State) (x : Decr), s.decrs[s.args.k]? = some x →
    (s.held = true → (∀ v ∈ s.teams, v.live = 0) → exec .successorDecrement s = .next s) ∧
    ((s.held = false ∨ ∃ v ∈ s.teams, v.live ≠ 0) →
    ((∃ y ∈ s.decrs.take s.args.k, y.task = x.task) → exec .successorDecrement s = .next s) ∧
    ((∀ y ∈ s.decrs.take s.args.k, y.task ≠ x.task) → x.succ = none →
      exec .successorDecrement s = .next (({ s with decrs := s.decrs.eraseIdx s.args.k } : State).wakeChain x.task)) ∧
    ∀ w, (∀ y ∈ s.decrs.take s.args.k, y.task ≠ x.task) → x.succ = some w → (∀ v ∈ s.teams, v.sleep = none) →
    (∀ k : Task, w.toNat / 2 ^ 24 = s.devidx → k.key = keyOf (x.task / 2 ^ 32) w → s.task? k.key = some k → k.state = .pending →
      ∃ u, exec .successorDecrement s = .next u ∧ u.decrs = s.decrs.eraseIdx s.args.k ∧
        (k.pred = 1 → u.task? k.key = some { k with pred := 0, state := .ready } ∧
          u.ready = s.ready ++ [⟨k.die, k.key, 0, k.teams, false⟩]) ∧
        (k.pred ≠ 1 → u.task? k.key = some { k with pred := k.pred - 1 } ∧ u.ready = s.ready)) ∧
    (w.toNat / 2 ^ 24 ≠ s.devidx → (∃ i : Fin 16, s.ua[i].state = .up) → s.args.ok = true →
      exec .successorDecrement s = .next { s with decrs := s.decrs.eraseIdx s.args.k, outbox := s.outbox ++ [.decrement w] }))

/-- R241, R242: a scan of a launch window at an empty head slot ends; at a full paddock it stays; else the TCB of the head slot is
launched on the launch die with no parent, the slot gets the TCB's address with status 0, and the head advances; a slot that
names no TCB of the context gets its value with the status bit set. A slot whose line has copies waits for it (R447). -/
def Sys2Proof.Slice0.LaunchWindowScanTakesSlots : Prop :=
  ∀ (s : State) (c : Ctx), s.ctx? s.args.n = some c → c.scan = true → s.held = false → s.hostLink.state = .up →
    (∀ v ∈ s.teams, v.sleep = none) →
    let slot := c.window + 8 * c.head
    let va := s.paNat slot 8 - 1
    (s.paNat slot 8 % 2 = 0 → exec .launchWindowScan s = .next (s.putCtx { c with scan := false })) ∧
    (s.paNat slot 8 % 2 = 1 → s.paddockFree c.ldie = 0 → exec .launchWindowScan s = .next s) ∧
    (s.paNat slot 8 % 2 = 1 → 0 < s.paddockFree c.ldie → s.ownable none slot = false →
      exec .launchWindowScan s = .next (s.claimLine none slot)) ∧
    (∀ u : State, s.paNat slot 8 % 2 = 1 → 0 < s.paddockFree c.ldie → s.ownable none slot = true → s.slotId c.n va = none →
      u = s.deviceWrite none (.pa slot) (natToBytes 8 (va ||| 2)) → u.paNat (c.window + 8 * ((c.head + 1) % 256)) 8 % 2 = 0 →
      ∃ t, exec .launchWindowScan s = .next t ∧ t.tasks = s.tasks ∧
        (∃ c', t.ctx? c.n = some c' ∧ c'.head = (c.head + 1) % 256 ∧ c'.scan = false) ∧ ∀ x, t.readPa x = u.readPa x) ∧
    ∀ (n pa : Nat) (u : State), s.paNat slot 8 % 2 = 1 → 0 < s.paddockFree c.ldie → va = c.arena.toNat + 256 * n → 0 < n → n < c.nslot →
      n < 0xFFFFFF → s.tcbPa c.n (BitVec.ofNat 32 (s.devidx * 2 ^ 24 + n)) = some pa → isHost pa = false → isCap pa = false →
      s.ownable none slot = true → s.poison = [] →
      let key := keyOf c.n (BitVec.ofNat 32 (s.devidx * 2 ^ 24 + n))
      s.tcbBad key pa = false → u = (s.launch key pa c.ldie 0).deviceWrite none (.pa slot) (natToBytes 8 va) →
      u.paNat (c.window + 8 * ((c.head + 1) % 256)) 8 % 2 = 0 →
      ∃ t k, exec .launchWindowScan s = .next t ∧ t.task? key = some k ∧ describes s k pa c.ldie 0 ∧
        (∃ c', t.ctx? c.n = some c' ∧ c'.head = (c.head + 1) % 256 ∧ c'.scan = false) ∧ ∀ x, t.readPa x = u.readPa x

/-- R255 to R259: WAITING_WORD_RETRY of a word whose one thread waits on an object with an owner: no task, or one of another device,
puts the team to sleep with WAITON the owner; a task with a startable team has that team adopted over a frame; an owner that
waits on the team's own task is ADOPTION_CYCLE, with the owner's EPRIO raised before it (R260), for the waiting thread and those
that failed at the home (R397). -/
def Sys2Proof.Slice0.WaitingWordsInspectTheirOwner : Prop :=
  ∀ (s : State) (g : Machine.Group) (o : Outst) (t : Target) (w : Team) (own : Task) (owner : Word) (pa : Nat) (sc : Scope) (mo : Order),
    s.group? s.args.group = some g → g.out = [o] → o.kind = .lock true sc mo → o.todo = [] → o.held = [t] → o.res = [] → o.flags = 0 →
    (∃ n cls, t.pieces = [⟨.pa pa, n, cls, none⟩]) → s.teamOf g = some w → w.sleep = none → w.taken = false → w.core = g.id.coreId →
    (s.coreD w.core).frames = [] → s.task? w.task = some own → s.paNat pa 4 = owner.toNat → g.inHandler = false →
    (∀ v ∈ s.teams, v.sleep = none) → s.saved = [] →
    (owner = 0 ∨ owner.toNat / 2 ^ 24 ≠ s.devidx → ∃ u v sl, exec .waitingWordRetry s = .next u ∧ u.team? w.task w.lin = some v ∧
      v = { w with sleep := some sl } ∧ sl.group = g.id ∧ sl.obj = some pa ∧ sl.raised = [] ∧
      (u.task? w.task).map (·.waiton) = some owner ∧ ∀ x, u.readPa x = s.readPa x) ∧
    (∀ (k : Task) (lin : Nat) (p : List Nat × Nat), owner.toNat / 2 ^ 24 = s.devidx → owner ≠ 0 → k.key = keyOf g.ctx owner →
      k.key ≠ w.task → s.task? k.key = some k → (k.state = .ready ∨ k.state = .running) → s.unstarted? k.key = some lin →
      s.roomFor w.core (some (w.task, w.lin)) k lin k.budgets false = some p → s.team? k.key lin = none →
      ∃ u v, exec .waitingWordRetry s = .next u ∧ (u.coreD w.core).frames = [⟨(w.task, w.lin), g.id, (k.key, lin)⟩] ∧
        u.team? k.key lin = some v ∧ v.core = w.core ∧ v.depth = 1 ∧ (u.task? w.task).map (·.waiton) = some owner) ∧
    (∀ k : Task, g.status = .held → owner.toNat / 2 ^ 24 = s.devidx → owner ≠ 0 → k.key = keyOf g.ctx owner → k.key ≠ w.task →
      s.task? k.key = some k → k.state = .running → own.state = .running → s.ready = [] → k.waiton = BitVec.ofNat 32 w.task → k.waiton ≠ 0 →
      k.waiton.toNat / 2 ^ 24 = s.devidx →
      let failed := fun (n : Nat) => ∃ l ∈ o.late, l.1 = n ∧ (l.2.1 = 0x0E ∨ l.2.1 = 0x14)
      ∃ (u : State) (h : Machine.Group) (r : FaultRec), exec .waitingWordRetry s = .next (u.raise h r) ∧
        u.task? k.key = some { k with eprio := max k.eprio own.eprio } ∧ u.groups = s.groups ∧ u.cores = s.cores ∧
        ((∀ n, failed n → t.thread < n) → r.code = 0x0F ∧ r.addr = BitVec.ofNat 64 t.va) ∧ r.rp = true ∧
        (∀ n, n < 96 → (maskBit r.mask n = true ↔ n = t.thread ∨ failed n)) ∧ h.out = [] ∧ h.v = g.v ∧ h.s = g.s ∧ h.wait = none)

/-- R246, R255, R259, R437: a wake from a peer's object, and a retry of a remote sleeper, wake the teams that sleep on it: their waiting
operations are due again, and WAITON is 0. A thread's waiting operation on the object is due again whether or not its team sleeps
yet. A wake that follows the kill of a task of another device wakes the teams whose owner chain names it (R246; log entry 47). -/
def Sys2Proof.Slice0.RemoteSleepersWake : Prop :=
  (∀ (s : State) (g : Machine.Group) (v : Team) (sl : Sleep) (obj : Nat), s.team? g.task g.lin = some v → v.sleep = some sl →
    sl.obj = some obj → sl.raised = [] → s.teams = [v] → s.group? g.id = some g →
    let woken := fun (u : State) => u.team? g.task g.lin = some { v with sleep := none } ∧
      (∃ h, u.group? g.id = some h ∧ h = { g with out := h.out } ∧ h.out.length = g.out.length ∧ ∀ (i : Nat) (o : Outst),
        g.out[i]? = some o → ∃ p, h.out[i]? = some p ∧ p = { o with todo := p.todo, held := [] } ∧ ∀ x, x ∈ p.todo ↔ x ∈ o.todo ∨ x ∈ o.held) ∧
      ∀ k, u.task? g.task = some k → k.waiton = 0
    (isPeer obj = true → (s.args.pa = obj → ∃ u, exec .remoteWake s = .next u ∧ woken u) ∧
      (s.args.group = g.id → ∃ u, exec .remoteSleeperRetry s = .next u ∧ woken u)) ∧
    (isPeer s.args.pa = false → s.args.task.toNat / 2 ^ 24 ≠ s.devidx → 0 < s.args.task.toNat % 2 ^ 24 → s.args.task.toNat % 2 ^ 24 < 0xFFFFFF →
      keyOf s.args.n s.args.task ∈ sl.chain → ∃ u, exec .remoteWake s = .next u ∧ woken u)) ∧
  ∀ (s : State) (g : Machine.Group) (o : Outst) (t : Target) (pa n : Nat) (cls : Coh), s.group? g.id = some g → o ∈ g.out →
    t ∈ o.held → t.pieces = [⟨.pa pa, n, cls, none⟩] → 0 < n → isPeer pa = true → (∀ v ∈ s.teams, v.sleep = none) →
    let due := fun (u : State) => ∃ h p, u.group? g.id = some h ∧ p ∈ h.out ∧ p.seq = o.seq ∧ t ∈ p.todo ∧ t ∉ p.held
    (s.args.pa = pa → ∃ u, exec .remoteWake s = .next u ∧ due u) ∧
    (s.args.group = g.id → ∃ u, exec .remoteSleeperRetry s = .next u ∧ due u)

/-! ### Engine words (R362 to R366, R374 to R386) -/

namespace Sys2Proof.Slice0

open Sys2Proof Sys2Proof.Machine

/-- A byte-counting barrier after an event that leaves it COUNT `count`, EXP `exp` and OVF `ovf` (the last two rows of R363). -/
def xbAfter (b : XBar) (count : Int) (exp ovf : Bool) : XBar :=
  { b with
    ovf := ovf || decide (count < -(2 ^ 23 : Int))
    exp := exp && decide (count ≠ 0)
    phase := if count = 0 ∧ exp = true then (b.phase + 1) % 2 ^ 24 else b.phase
    count := count }

/-- Whether BUFDEF's operands pass R378 for a team: offset, slot size ÷ 128, slot count and format code. -/
abbrev bufdefOk (u : Team) (buf off ctl : Nat) : Prop :=
  let size := ctl / 2 ^ 10 % 2 ^ 12 * 128
  let n := ctl / 2 ^ 6 % 16 + 1
  ctl < 2 ^ 22 ∧ ctl / 32 % 2 = 0 ∧ size ≠ 0 ∧ ctl % 32 ≤ 0x0E ∧ off % 128 = 0 ∧ off + n * size ≤ u.shLen ∧
    ∀ x ∈ u.bufs, x.1 ≠ buf → off + n * size ≤ x.2.base ∨ x.2.base + x.2.full.length * x.2.size ≤ off

/-- The group stands after an engine word, which changed its own team to `v` and nothing of any other group. -/
def onward (s t : State) (g h : Group) (v : Team) : Prop :=
  t.group? g.id = some h ∧ t.team? g.task g.lin = some v ∧ (∀ x, t.readPa x = s.readPa x)

end Sys2Proof.Slice0

/-- R355, R375, R377: TDEF issues as long-latency work with the read of its descriptor to come, stalls while a TDEF of the
identifier is out, and where the access fails takes the fault at its next clause boundary. TINV removes the entry at once. The
read that R354 accepts replaces the entry, and one that it refuses is TENSOR at the next clause boundary. -/
def Sys2Proof.Slice0.TensorIdentifierWords : Prop :=
  ∀ (t : Fin 256) (s : State) (g : Machine.Group), g.tx = none → g.fence = [] →
    (s.cur = some g → s.tdefOut t.val g = true → exec (.tdef t) s = .next (s.put { g with turn := false })) ∧
    (issues s g [] → s.tdefOut t.val g = false → g.dc[g.setc] ≠ 63 → ∀ (u : State) (va : Nat) (ps : List Piece),
      s.access g .gl (s.descAt g t.val) 64 0 .load = (.ok (va, ps), u) →
      ∃ (h : Machine.Group) (args : List Word), exec (.tdef t) s = .next (u.put (h.nextWord 1)) ∧
        issued g h { seq := 0, ctr := 0, kind := .tdef, d := t.val, todo := [⟨0, va, ps, args⟩] }) ∧
    (issues s g [] → s.tdefOut t.val g = false → g.dc[g.setc] ≠ 63 → ∀ (u : State) (code a : Nat),
      s.access g .gl (s.descAt g t.val) 64 0 .load = (.error (.fault code a), u) →
      ∃ h : Machine.Group, exec (.tdef t) s = .next (u.put (h.nextWord 1)) ∧
        issued { g with delayed := g.delayed ++ [⟨code, g.clause.addr, g.clause.next, g.inHandler⟩] } h
          { seq := 0, ctr := 0, kind := .tdef, d := t.val }) ∧
    (∀ u : Team, issues s g [] → s.tdefOut t.val g = false → s.teamOf g = some u → ∃ v, exec (.tinv t) s = .next v ∧
      onward s v g (g.nextWord 1) { u with tensors := u.tensors.filter fun y => y.1 ≠ t.val }) ∧
    ∀ (u : Team) (o : Outst) (x : Target) (bs : List Byte) (b0 b1 l0 l1 c0 c1 w : Word), s.due = some (g, o, x) → o.kind = .tdef →
      g.stores = [] → s.teamOf g = some u → s.blocked g o.seq x.thread x.pieces true false = false → s.linkLost x.pieces = false →
      s.readTarget g o.seq x = some bs → x.args = [b0, b1, l0, l1, c0, c1, w] →
      let sg : Segment := ⟨b1 ++ b0, l1 ++ l0⟩
      let done := g.putOut { o with todo := [] }
      ((tensorOf bs).1.valid (tensorOf bs).2 sg = true → ∃ v, exec .loadPerform s = .next v ∧
        onward s v g done { u with tensors := (o.d, (tensorOf bs).1) :: u.tensors.filter fun y => y.1 ≠ o.d }) ∧
      ((tensorOf bs).1.valid (tensorOf bs).2 sg = false → exec .loadPerform s =
        .next (s.put { done with delayed := g.delayed ++ [⟨0x10, c1 ++ c0, w.toNat, g.inHandler⟩] }))

/-- R279, R378, R386: BUFDEF that R378 refuses is TENSOR; else it replaces the declaration with every slot EMPTY, for which a
SLOTWT may have waited, and issues. BUFDEF_FREE removes the declaration. Both stall while work that names the buffer is out, and
a SLOTSET of the buffer that is under way is dropped (the model's choice, log entry 45). -/
def Sys2Proof.Slice0.BufferDeclarationWords : Prop :=
  ∀ (buf : Fin 8) (a b : Reg) (s : State) (g : Machine.Group) (u : Team), g.tx = none → g.dc[g.setc] ≠ 63 → s.teamOf g = some u →
    let off := (g.sget a.val).toNat
    let ctl := (g.sget b.val).toNat
    let n := ctl / 2 ^ 6 % 16 + 1
    let dropped := fun (h : Machine.Group) => ({ h with sets := h.sets.filter fun x => decide (x.1 ≠ buf.val) } : Machine.Group)
    let empties := fun (o : Outst) => (List.range n).any fun i => o.kind == .slotwt buf.val i false
    let emptied := fun (h : Machine.Group) => ({ h with out := h.out.map fun o => if empties o then { o with ready := true } else o } : Machine.Group)
    (s.cur = some g → s.bufBusy buf.val g = true →
      exec (.bufdef buf a b) s = .next (s.put { g with turn := false })) ∧
    (s.cur = some g → s.bufBusy buf.val g = true → exec (.bufdefFree buf) s = .next (s.put { g with turn := false })) ∧
    (issues s g [.s a.val, .s b.val] → s.bufBusy buf.val g = false → ¬ bufdefOk u buf.val off ctl →
      exec (.bufdef buf a b) s = .next (s.raise g (atWord g 0x10))) ∧
    (issues s g [.s a.val, .s b.val] → s.bufBusy buf.val g = false → bufdefOk u buf.val off ctl →
      let new : SlotBuf := ⟨off, ctl / 2 ^ 10 % 2 ^ 12 * 128, ctl % 32, List.replicate n false, List.replicate n false⟩
      ∃ (t : State) (h : Machine.Group), exec (.bufdef buf a b) s = .next t ∧ issued g h { seq := 0, ctr := 0, kind := .bufdef } ∧
        onward s t g (emptied (dropped (h.nextWord 1))) { u with bufs := (buf.val, new) :: u.bufs.filter fun y => y.1 ≠ buf.val }) ∧
    (issues s g [] → s.bufBusy buf.val g = false →
      ∃ (t : State) (h : Machine.Group), exec (.bufdefFree buf) s = .next t ∧ issued g h { seq := 0, ctr := 0, kind := .bufdef } ∧
        onward s t g (dropped (h.nextWord 1)) { u with bufs := u.bufs.filter fun y => y.1 ≠ buf.val })

/-- R281, R386: a slot word that names no declared slot is TENSOR. SLOTSET sets the slot's state; while an access of the group
to the slot, an earlier SLOTSET or its release is out, the change is under way and the group goes on. SLOTWT issues and completes
once the slot holds the state. -/
def Sys2Proof.Slice0.SlotWords : Prop :=
  ∀ (buf : Fin 8) (slot : Fin 16) (full : Bool) (s : State) (g : Machine.Group) (u : Team), g.tx = none → s.teamOf g = some u →
    issues s g [] → g.dc[g.setc] ≠ 63 →
    ((∀ x ∈ u.bufs, x.1 = buf.val → x.2.full.length ≤ slot.val) →
      exec (.slotset buf slot full) s = .next (s.raise g (atWord g 0x10)) ∧
      exec (.slotwt buf slot full) s = .next (s.raise g (atWord g 0x10))) ∧
    ∀ b, u.bufs.find? (fun x => x.1 = buf.val) = some (buf.val, b) → slot.val < b.full.length →
      (g.sets ≠ [] ∨ s.slotInUse buf.val slot.val g.seq g = true ∨ s.releasable g.id.coreId .core = false →
        exec (.slotset buf slot full) s =
          .next (s.put ({ g with sets := g.sets ++ [(buf.val, slot.val, full, g.seq)] }.nextWord 1))) ∧
      (g.sets = [] → s.slotInUse buf.val slot.val g.seq g = false → (s.coreD g.id.coreId).l1s = [] → (∀ o ∈ g.out, o.kind ≠ .slotwt buf.val slot.val full) → ∃ t v w,
        exec (.slotset buf slot full) s = .next t ∧ onward s t g (g.nextWord 1) v ∧ v = { u with bufs := v.bufs } ∧
        v.bufs.find? (fun x => x.1 = buf.val) = some (buf.val, w) ∧ w = { b with full := b.full.set slot.val full }) ∧
      ∃ h : Machine.Group, exec (.slotwt buf slot full) s = .next (s.put (h.nextWord 1)) ∧
        issued g h { seq := 0, ctr := 0, kind := .slotwt buf.val slot.val full, ready := b.full.getD slot.val false == full }

/-- R362, R363, R384, R385: XBEXP of a bad count is COPY_SIZE; else the barrier expects the bytes, and the group remembers the
phase; COUNT is a 32-bit signed field. XBWAIT takes a copy fault, then an overflow, as its trap and clears it; goes on with an acquire where the phase it waits for
is past, and without a register forgets the remembered phase; and holds its group where it is not. That COUNT wraps in its 32 bits, and the WRT and RP = 1 that a
copy fault's trap reports, are log entry 45's. -/
def Sys2Proof.Slice0.ByteBarrierWords : Prop :=
  ∀ (n : Fin 16) (b : Reg) (k : Option Reg) (s : State) (g : Machine.Group) (u : Team), g.tx = none → s.teamOf g = some u →
    let x := u.xb[n]
    let c := (g.sget b.val).toNat
    let p := match k with
      | some r => (g.sget r.val).toNat % 2 ^ 24
      | none => ((g.xbPhase.find? fun y => y.1 = n.val).map Prod.snd).getD x.phase
    let d := (x.phase + 2 ^ 24 - p % 2 ^ 24) % 2 ^ 24
    let read := (k.map fun r => PReg.s r.val).toList
    (issues s g [.s b.val] → (c % 16 ≠ 0 ∨ 2 ^ 30 < c) → exec (.xbexp n b) s = .next (s.raise g (atWord g 0x11))) ∧
    (issues s g [.s b.val] → c % 16 = 0 → c ≤ 2 ^ 30 → ∃ t, exec (.xbexp n b) s = .next t ∧
      onward s t g ({ g with xbPhase := (n.val, x.phase) :: g.xbPhase.filter fun y => y.1 ≠ n.val }.nextWord 1)
        { u with xb := u.xb.set n (xbAfter x (BitVec.ofInt 32 (x.count + c)).toInt true x.ovf) }) ∧
    (issues s g read → g.status = .running → g.wait = none →
      (x.fcode ≠ 0 → ∃ (t : State) (r : FaultRec), exec (.xbwait n k) s = .next (t.raise g r) ∧ t.groups = s.groups ∧
        t.team? g.task g.lin = some { u with xb := u.xb.set n { x with fcode := 0 } } ∧
        r = { atWord g x.fcode with addr := x.faddr, imm := n.val, write := x.fwrite }) ∧
      (x.fcode = 0 → x.ovf = true → ∃ t : State, exec (.xbwait n k) s = .next (t.raise g (atWord g 0x0D)) ∧ t.groups = s.groups ∧
        t.team? g.task g.lin = some { u with xb := u.xb.set n { x with ovf := false } }) ∧
      (x.fcode = 0 → x.ovf = false → 1 ≤ d → d < 2 ^ 23 → exec (.xbwait n k) s = .next
        ((s.acquireL1 g.id.coreId .core).put ((if k = none then
          { g with xbPhase := g.xbPhase.filter fun y => y.1 ≠ n.val } else g).nextWord 1))) ∧
      (x.fcode = 0 → x.ovf = false → ¬ (1 ≤ d ∧ d < 2 ^ 23) → exec (.xbwait n k) s = .next (s.put { g with
        status := .held, turn := false, wait := some { kind := .xb n.val p k.isNone } })))

/-- R356, R357, R379, R380: TCOPY and TSTORE with an entry, a declared slot and checks that pass enter the copy engine's queue with
the origin, the rows and the barrier's phase at issue; a failing check is its fault; a copy of no bytes is complete at once;
a full queue, or a TDEF of the identifier that is out, stalls. -/
def Sys2Proof.Slice0.CopyWordsEnterTheQueue : Prop :=
  ∀ (store : Bool) (t : Fin 256) (a b : Reg) (s : State) (g : Machine.Group) (u : Team), a.val ≤ 59 → g.tx = none → g.fence = [] →
    s.teamOf g = some u → s.cur = some g →
    let i : Instr := if store then .tstore t a b else .tcopy t a b
    let ctl := (g.sget b.val).toNat
    let org := (List.range 5).map fun k => (g.sget (a.val + k)).toInt
    (s.tdefOut t.val g = true ∨ 32 ≤ (s.coreD g.id.coreId).copies.length → exec i s = .next (s.put { g with turn := false })) ∧
    (issues s g (sRegs a.val 5 ++ [.s b.val]) → g.dc[g.setc] ≠ 63 → s.tdefOut t.val g = false →
      (s.coreD g.id.coreId).copies.length < 32 →
      ((ctl % 32 ≠ 0 ∨ u.tensors.find? (fun y => y.1 = t.val) = none ∨ u.buf? (ctl / 2 ^ 5 % 8) = none) →
        exec i s = .next (s.raise g (atWord g 0x10))) ∧
      ∀ x k, ctl % 32 = 0 → u.tensors.find? (fun y => y.1 = t.val) = some (t.val, x) → u.buf? (ctl / 2 ^ 5 % 8) = some k →
        let rows := min (ctl / 2 ^ 16) (x.box.getD 1 1 * x.box.getD 2 1 * x.box.getD 3 1 * x.box.getD 4 1)
        let slot := ctl / 2 ^ 8 % 16
        let xb := ctl / 2 ^ 12 % 16
        let size := imageBytes x (k.format x) rows
        (∀ c, copyBad x k store org slot rows = some c → exec i s = .next (s.raise g (atWord g c))) ∧
        (copyBad x k store org slot rows = none → ∃ (v : State) (h : Machine.Group) (id : Nat), exec i s = .next v ∧
          v.group? g.id = some (h.nextWord 1) ∧ issued g h { seq := 0, ctr := 0, kind := .copy id, ready := decide (size = 0) } ∧
          (size = 0 → (v.coreD g.id.coreId).copies = (s.coreD g.id.coreId).copies) ∧
          (size ≠ 0 → ∃ y : Copy, (v.coreD g.id.coreId).copies = (s.coreD g.id.coreId).copies ++ [y] ∧
            y = { id := id, group := g.id, task := g.task, lin := g.lin, store := store, tensor := x, org := org, rows := rows,
                  xb := xb, phase := (u.xb.toArray.getD xb {}).phase, buf := ctl / 2 ^ 5 % 8, slot := slot, size := size, seq := g.seq,
                  seg := g.seg[0] })))

/-- R380: the checks of a copy, in order. -/
def Sys2Proof.Slice0.CopyChecksInOrder : Prop :=
  ∀ (x : Tensor) (k : SlotBuf) (store : Bool) (org : List Int) (slot rows : Nat),
    let f := if k.fmt = 0 then x.fmt else k.fmt
    let pairs := fun (c : Nat) => c = 2 ∨ c = 3 ∨ c = 4 ∨ c = 5 ∨ c = 6 ∨ c = 9 ∨ c = 10 ∨ c = 11
    let block := fun (c : Nat) => c = 9 ∨ c = 10 ∨ c = 11
    let passes := slot < k.full.length ∧ (x.fmt = f ∨ (pairs x.fmt ∧ pairs f)) ∧
      ((block f ∨ block x.fmt) → org.headD 0 % 64 = 0) ∧ ¬ (store = true ∧ x.sparse = true) ∧ imageBytes x f rows ≤ k.size
    (copyBad x k store org slot rows = some 0x10 ↔ ¬ passes) ∧
    (copyBad x k store org slot rows = some 0x11 ↔ passes ∧ imageBytes x f rows % 16 ≠ 0) ∧
    (copyBad x k store org slot rows = none ↔ passes ∧ imageBytes x f rows % 16 = 0)

/-- R364, R366, R367, R381, R383: MMA sends one token with the control word of its fields, MDRAIN one drain, to the core's node, and
both issue; they stall while the node's queue is full (of MDRAIN the rules do not say so: log entry 45), MMA also while a rig
claims the node, MDRAIN also while a TDEF of its identifier is out; a word that R366 refuses, or a
drain that R383 refuses, is TENSOR. -/
def Sys2Proof.Slice0.MatrixWordsEnterTheNode : Prop :=
  ∀ (fmt : Fin 32) (ac ra rb : Bool) (t : Fin 256) (a b : Reg) (s : State) (g : Machine.Group) (u : Team), g.tx = none → g.fence = [] →
    s.teamOf g = some u → s.cur = some g →
    let node := (s.coreD g.id.coreId).node
    let ctl := (g.sget a.val).toNat
    let w := fmt.val * 2 ^ 27 + (if ac then 2 ^ 26 else 0) + (if ra then 2 ^ 25 else 0) + (if rb then 2 ^ 24 else 0) + ctl % 2 ^ 24
    let dctl := (g.sget b.val).toNat
    let af := dctl / 2 ^ 16 % 4
    let enters := fun (i : Instr) (item : Nat → NodeItem) => ∃ (v : State) (h : Machine.Group) (id : Nat), exec i s = .next v ∧
      v.group? g.id = some (h.nextWord 1) ∧ issued g h { seq := 0, ctr := 0, kind := .token id, ready := false } ∧
      (v.coreD g.id.coreId).node = node ++ [item id]
    ((8 ≤ node.length ∨ (s.coreD g.id.coreId).claim ≠ none → exec (.mma fmt ac ra rb a) s = .next (s.put { g with turn := false })) ∧
      (issues s g [.s a.val] → g.dc[g.setc] ≠ 63 → node.length < 8 → (s.coreD g.id.coreId).claim = none →
        (2 ^ 24 ≤ ctl ∨ mtokBad u w = true → exec (.mma fmt ac ra rb a) s = .next (s.raise g (atWord g 0x10))) ∧
        (ctl < 2 ^ 24 → mtokBad u w = false → enters (.mma fmt ac ra rb a) fun id =>
          .token id g.id g.task g.lin (BitVec.ofNat 32 w) none g.clause.addr g.clause.next))) ∧
    ((s.tdefOut t.val g = true ∨ 8 ≤ node.length → exec (.mdrain t a b) s = .next (s.put { g with turn := false })) ∧
      (issues s g (sRegs a.val 5 ++ [.s b.val]) → g.dc[g.setc] ≠ 63 → s.tdefOut t.val g = false → node.length < 8 →
        (u.tensors.find? (fun y => y.1 = t.val) = none → exec (.mdrain t a b) s = .next (s.raise g (atWord g 0x10))) ∧
        ∀ x, u.tensors.find? (fun y => y.1 = t.val) = some (t.val, x) →
          let ok := x.box = [64, 64, 1, 1, 1] ∧ dctl < 2 ^ 18 ∧ dctl / 2 ^ 8 % 16 = 0 ∧
            dctl % 2 ^ 8 * 2048 + 4096 * (if af = 1 then 8 else 4) ≤ u.shLen ∧
            ((af = 0 ∧ (x.fmt = 2 ∨ x.fmt = 4)) ∨ (af = 1 ∧ x.fmt = 1) ∨ (af = 2 ∧ x.fmt = 13))
          (¬ ok → exec (.mdrain t a b) s = .next (s.raise g (atWord g 0x10))) ∧
          (ok → enters (.mdrain t a b) fun id => .drain id g.id g.task g.lin x ((List.range 5).map fun k => (g.sget (a.val + k)).toInt) af
            (dctl / 2 ^ 12 % 16) (u.xb.toArray.getD (dctl / 2 ^ 12 % 16) {}).phase (dctl % 2 ^ 8 * 2048) g.seq g.seg[0])))

/-! ### What the engines do (R277, R356 to R369, R385) -/

namespace Sys2Proof.Slice0

open Sys2Proof Sys2Proof.Machine

/-- A byte-counting barrier after an arrival of `n` bytes with a phase tag (R363). -/
def xbArrived (b : XBar) (n phase : Nat) : XBar :=
  if phase ≠ b.phase then xbAfter b b.count b.exp true
  else if b.exp = true ∧ 0 < b.count ∧ b.count < n then xbAfter b 0 b.exp true
  else xbAfter b (BitVec.ofInt 32 (b.count - n)).toInt b.exp b.ovf

/-- The identifier of an entry of a matrix node. -/
def nodeId : NodeItem → Nat
  | .token id _ _ _ _ _ _ _ => id
  | .drain id _ _ _ _ _ _ _ _ _ _ _ => id

/-- The bytes of a core's shared store are those of `s` with `bs` written at `o`. -/
def wroteShared (s u : State) (c : CoreId) (o : Nat) (bs : List Byte) : Prop :=
  ∀ x, (u.coreD c).shared.read x = if o ≤ x ∧ x < o + bs.length then bs.getD (x - o) 0 else (s.coreD c).shared.read x

end Sys2Proof.Slice0

/-- R321, R363, R374: ARRIVAL_POST posts whole granules of a copy's or a drain's bytes on its barrier; with the last one a moved copy's
slot changes state, the copy leaves the engine, and its instruction is complete. -/
def Sys2Proof.Slice0.ArrivalsCountOnTheirBarrier : Prop :=
  ∀ (s : State) (u : Team), (s.args.ok = true → ∀ (x : Copy) (rest : List Copy),
      (s.coreD s.args.core).copies = x :: rest → x.id = s.args.k → (∀ y ∈ rest, y.id ≠ x.id) → s.team? x.task x.lin = some u → x.xb < 16 →
      let n := min x.left s.args.n / 16 * 16
      n ≠ 0 → ∃ t v, exec .arrivalPost s = .next t ∧ t.team? x.task x.lin = some v ∧
        v = { u with xb := u.xb.setIfInBounds x.xb (xbArrived (u.xb.toArray.getD x.xb {}) n x.phase), bufs := v.bufs } ∧
        (x.moved = true → x.left = n → (t.coreD s.args.core).copies = rest ∧ (∀ b ∈ v.bufs, b.1 = x.buf → x.slot < b.2.full.length →
          b.2.full.getD x.slot x.store = !x.store) ∧ ∀ g o h, s.group? g = some h → g.coreId = s.args.core →
          o ∈ h.out → o.kind = .copy x.id → ∃ k, t.group? g = some k ∧ { o with ready := true } ∈ k.out) ∧
        ((x.moved = false ∨ x.left ≠ n) → v.bufs = u.bufs ∧ (t.coreD s.args.core).copies = { x with left := x.left - n } :: rest ∧ t.groups = s.groups)) ∧
    (s.args.ok = false → ∀ a : Arrival, (s.coreD s.args.core).arrivals[s.args.k]? = some a → s.team? a.task a.lin = some u → a.xb < 16 →
      let n := min a.left s.args.n / 16 * 16
      n ≠ 0 → ∃ t, exec .arrivalPost s = .next t ∧
        t.team? a.task a.lin = some { u with xb := u.xb.setIfInBounds a.xb (xbArrived (u.xb.toArray.getD a.xb {}) n a.phase) } ∧
        (t.coreD s.args.core).arrivals = if a.left = n then (s.coreD s.args.core).arrivals.eraseIdx s.args.k
          else (s.coreD s.args.core).arrivals.set s.args.k { a with left := a.left - n })

/-- R281, R385, R386: XBWAIT_RESUME looks at a held group's barrier again: a copy fault is its trap, a past phase lets it go on
with the next word, and any other phase keeps it held. RP = 1 and WRT of
the trap are log entry 45's. A SLOTSET that is under way takes effect once no earlier access to its
slot is out. -/
def Sys2Proof.Slice0.XbwaitResumesOnItsPhase : Prop :=
  (∀ (s : State) (g : Machine.Group) (buf slot seq : Nat) (full : Bool) (rest : List (Nat × Nat × Bool × Nat)),
    s.group? s.args.group = some g → g.sets = (buf, slot, full, seq) :: rest →
    (s.slotInUse buf slot seq g = true → exec .xbwaitResume s = .next s) ∧
    (s.slotInUse buf slot seq g = false → (s.coreD g.id.coreId).l1s = [] →
      exec .xbwaitResume s = .next ((s.put { g with sets := rest }).setSlot g.task g.lin buf slot full none))) ∧
  ∀ (n : Fin 16) (p : Nat) (own : Bool) (s : State) (g : Machine.Group) (u : Team), s.group? s.args.group = some g → g.status = .held →
    g.turn = false → g.sets = [] → g.wait = some { kind := .xb n.val p own } → s.teamOf g = some u →
    let x := u.xb[n]
    let d := (x.phase + 2 ^ 24 - p % 2 ^ 24) % 2 ^ 24
    let k : Machine.Group := { g with status := .running, wait := none }
    (x.fcode = 0 → x.ovf = false → 1 ≤ d → d < 2 ^ 23 → exec .xbwaitResume s = .next ((s.acquireL1 g.id.coreId .core).put
      ((if own then { k with xbPhase := g.xbPhase.filter fun y => y.1 ≠ n.val } else k).nextWord 1))) ∧
    (x.fcode = 0 → x.ovf = false → ¬ (1 ≤ d ∧ d < 2 ^ 23) → exec .xbwaitResume s = .next (s.put g)) ∧
    (x.fcode ≠ 0 → ∃ (t : State) (r : FaultRec), exec .xbwaitResume s = .next (t.raise k r) ∧
      t.team? g.task g.lin = some { u with xb := u.xb.set n { x with fcode := 0 } } ∧
      r = { atWord g x.fcode with addr := x.faddr, imm := n.val, write := x.fwrite })

/-- R280, R312, R356, R357, R359, R455: a copy waits for the slot's state and the group's earlier writes, and then starts; a row of a
TCOPY with equal dense formats lands in the slot at its place in the packed image, and its bytes are left to post; a TSTORE's row
goes to the tensor, or waits for its lines; an access that faults, and a row read from poison in the shared store, records the copy fault on the barrier and ends the copy.
That a copy moves one row a step is log entry 45's choice. -/
def Sys2Proof.Slice0.CopyRowsAreMoved : Prop :=
  ∀ (s : State) (x : Copy) (rest : List Copy) (u : Team) (b : SlotBuf), (s.coreD s.args.core).copies = x :: rest → x.id = s.args.k →
    s.team? x.task x.lin = some u → u.bufs.find? (fun y => y.1 = x.buf) = some (x.buf, b) → x.slot < b.full.length →
    b.sparse.getD x.slot false = false → x.moved = false → b.sparse.length = b.full.length → x.tensor.sparse = false → isBlock x.tensor.fmt = false →
    b.format x.tensor = x.tensor.fmt → x.xb < 16 → (s.coreD s.args.core).shared.wf = true →
    let c := s.args.core
    let p := rowSpan x.tensor x.org x.row
    let n := (x.tensor.box.headD 1 * fmtHalves x.tensor.fmt + 1) / 2
    let place := u.shBase + b.base + x.slot * b.size + x.row * n
    (x.started = false → (b.full.getD x.slot false ≠ x.store ∨ s.storesBefore x.group x.seq = false) →
      exec .copyStart s = .next s) ∧
    (x.started = false → b.full.getD x.slot false = x.store → s.storesBefore x.group x.seq = true → (s.coreD c).l1s = [] →
      (∀ y ∈ rest, y.id ≠ x.id) → ∃ t, exec .copyStart s = .next t ∧ (t.coreD c).copies = { x with started := true } :: rest ∧
        t.teams = s.teams ∧ t.groups = s.groups ∧ ∀ a, t.readPa a = s.readPa a) ∧
    (x.started = true →
      (∀ (ds : List Piece) (v : State) (bs : List Byte), x.store = false →
        s.spanAccess c (ctxOf x.task) x.seg x.tensor x.org p .load = (.ok (ds, []), v) → v.coreD c = s.coreD c → v.teams = s.teams →
        v.engineBytes c.die (x.seg.base.toNat + p.off) ds = .ok bs → bs.length = elemBytes x.tensor.fmt p.count →
        elemBytes x.tensor.fmt p.first + elemBytes x.tensor.fmt p.count ≤ n →
        ∃ t y, exec .copyStart s = .next t ∧ wroteShared s t c place (padded (elemBytes x.tensor.fmt p.first) n bs) ∧
          (∀ a, t.readPa a = v.readPa a) ∧ (t.coreD c).copies.head? = some y ∧
          y = { x with row := x.row + 1, moved := decide (x.row + 1 = x.rows), left := x.left + n }) ∧
      (∀ (ds : List Piece) (v : State) (a : Nat), x.store = true → p.count ≠ 0 →
        let out := (((s.coreD c).shared.readBytes place n).drop (elemBytes x.tensor.fmt p.first)).take (elemBytes x.tensor.fmt p.count)
        (∀ i, i < n → s.poisoned (.sh c.die c.core (place + i)) 1 = false) → s.aperture c.die (ctxOf x.task) p.off out.length = none →
        s.spanAccess c (ctxOf x.task) x.seg x.tensor x.org p .store = (.ok (ds, []), v) → v.teams = s.teams →
        ds = [⟨.pa a, elemBytes x.tensor.fmt p.count, .d, none⟩] → isHbm a = true → v.coreD c = s.coreD c →
        (v.piecesOwnable c.die ds = false → exec .copyStart s = .next (v.claimPieces c.die ds)) ∧
        (v.piecesOwnable c.die ds = true → ∃ t, exec .copyStart s = .next t ∧
          ((t.coreD c).copies.head?).map Copy.row = some (x.row + 1) ∧ wroteBytes v t a (some out))) ∧
      (x.store = true → (∃ i, i < n ∧ s.poisoned (.sh c.die c.core (place + i)) 1 = true) → x.left = 0 →
        (∀ y ∈ rest, y.id ≠ x.id) → (u.xb.toArray.getD x.xb {}).fcode = 0 →
        ∃ t w a, exec .copyStart s = .next t ∧ (t.coreD c).copies = rest ∧ (∀ y, t.readPa y = s.readPa y) ∧ t.team? x.task x.lin = some w ∧
          w.xb = u.xb.setIfInBounds x.xb { u.xb.toArray.getD x.xb {} with fcode := 0x08, faddr := a, fwrite := true }) ∧
      (∀ (code a : Nat) (v : State), x.store = false → x.left = 0 → (∀ y ∈ rest, y.id ≠ x.id) →
        s.spanAccess c (ctxOf x.task) x.seg x.tensor x.org p .load = (.error (.fault code a), v) → v.teams = s.teams →
        v.coreD c = s.coreD c → (u.xb.toArray.getD x.xb {}).fcode = 0 →
        ∃ t w, exec .copyStart s = .next t ∧ (t.coreD c).copies = rest ∧ t.team? x.task x.lin = some w ∧
          w.xb = u.xb.setIfInBounds x.xb { u.xb.toArray.getD x.xb {} with fcode := code, faddr := BitVec.ofNat 64 a, fwrite := false }))

/-- R358, R400: WALK_AHEAD puts the translation of an address in a page that the copy reaches within 16 pages in the walk-ahead
TLB, where every page before it is mapped; it sets no bit of the entry and changes no byte of memory. An address in another page
is not walked. -/
def Sys2Proof.Slice0.WalkAheadIsNoDemand : Prop :=
  ∀ (s : State) (x : Copy) (rest : List Copy) (p : Page), (s.coreD s.args.core).copies = x :: rest → x.id = s.args.k →
    let page := s.args.x.toNat / 65536
    (page ∉ x.pagesAhead → exec .walkAhead s = .next s) ∧
    ∀ before after, x.pagesAhead = before ++ page :: after → page ∉ before →
    (∀ q ∈ before, ∃ y, s.walk (ctxOf x.task) (q * 65536) = .page y) → s.walk (ctxOf x.task) s.args.x.toNat = .page p →
    ∃ t, exec .walkAhead s = .next t ∧ (t.coreD s.args.core).walkTlb.head? = some ⟨ctxOf x.task, p.base, p.size, p.pte, p.entry⟩ ∧
      (t.coreD s.args.core).tlb = (s.coreD s.args.core).tlb ∧ (∀ d, d ≠ s.args.core.die → t.dieTlb[d]? = s.dieTlb[d]?) ∧
      t.groups = s.groups ∧ t.mem = s.mem

/-- R277, R367: a token whose slots are both FULL fires once at most one earlier token's updates are under way: it leaves the queue
and sends one chained update to each 8-byte bank word of the 4,096 accumulator elements; with RA and RB clear no slot changes. A token with
a slot that is not FULL waits. -/
def Sys2Proof.Slice0.MatrixTokensFire : Prop :=
  ∀ (s : State) (id lin widx : Nat) (g : GroupId) (k : TaskKey) (word : Word) (hdr : DWord) (rest : List NodeItem) (u : Team) (a b : SlotBuf),
    (s.coreD s.args.core).node = .token id g k lin word none hdr widx :: rest → s.team? k lin = some u →
    let w := word.toNat
    let c := s.args.core
    let per := 8 / accBytes (wordFmt w)
    u.buf? (wordA w).1 = some a → u.buf? (wordB w).1 = some b →
    ((a.full.getD (wordA w).2 false = false ∨ b.full.getD (wordB w).2 false = false) → exec .matrixTokenFire s = .next s) ∧
    (a.full.getD (wordA w).2 false = true → b.full.getD (wordB w).2 false = true → (s.coreD c).updates = [] →
      a.sparse.getD (wordA w).2 false = false → b.sparse.getD (wordB w).2 false = false → w / 2 ^ 24 % 4 = 0 →
      ∃ t us, exec .matrixTokenFire s = .next t ∧ (t.coreD c).node = rest ∧ (t.coreD c).updates = us ∧ us.length = 4096 / per ∧
        t.teams = s.teams ∧ t.groups = s.groups ∧ (∀ x, (t.coreD c).shared.read x = (s.coreD c).shared.read x) ∧
        ∀ n, n < 4096 / per → ∃ x, us[n]? = some x ∧ x.token = id ∧ x.off = u.shBase + w % 256 * 2048 + 8 * n ∧
          x.fresh = !w.testBit 26 ∧ x.parts.length = per ∧ ∀ i, i < per →
            x.parts[i]? = some (tokenAddends (wordFmt w) (s.operand c u (wordFmt w) (wordA w)) (s.operand c u (wordFmt w) (wordB w))
              (w.testBit 9) (w.testBit 8) ((per * n + i) / 64) ((per * n + i) % 64)))

/-- R63, R66, R276, R277, R382: CHAINED_ADD_ON_STORE adds the addends of a bank word's elements to them in one step, FP32 and FP64
with one rounding each, INT32 modulo 2^32, on the old values or on zero; exactly those bytes change, and the last update of a
token and of every earlier one completes its instruction. -/
def Sys2Proof.Slice0.ChainedUpdatesAddInOrder : Prop :=
  ∀ (s : State) (x : ChainUpd) (rest : List ChainUpd) (ms : List (List Int)), (s.coreD s.args.core).updates = x :: rest →
    s.args.k = 0 → (∀ k ∈ s.cores, k.shared.wf = true) →
    let c := s.args.core
    let old := fun (e i : Nat) => if x.fresh then 0 else bytesToNat ((s.coreD c).shared.readBytes (x.off + e * i) e)
    let lands := fun (e : Nat) (new : List Nat) => ∃ t, exec .chainedAddOnStore s = .next t ∧
      wroteShared s t c x.off (new.flatMap (natToBytes e)) ∧
      (t.coreD c).updates = rest ∧ ((∀ y ∈ rest, x.token < y.token) → (∀ y ∈ (s.coreD c).node, nodeId y ≠ x.token) → ∀ i o h, s.group? i = some h → i.coreId = c → o ∈ h.out → h.tx = none →
        o.kind = .token x.token → ∃ k, t.group? i = some k ∧ { o with ready := true } ∈ k.out)
    let sum := fun (F : Fmt) (y : Nat) (as : List XReal) =>
      as.foldl (fun y a => (roundF (xadd .rne (decodeF F y) a).1 F .rne).1) y
    (x.kind = 2 → x.parts = ms.map (fun m => m.map fun z => .fin z 0) →
      lands 4 (ms.zipIdx.map fun m => (((old 4 m.2 : Nat) + m.1.sum : Int) % 2 ^ 32).toNat)) ∧
    (x.kind = 0 → lands 4 (x.parts.zipIdx.map fun m => sum .f32 (old 4 m.2) m.1)) ∧
    (x.kind = 1 → lands 8 (x.parts.zipIdx.map fun m => sum .f64 (old 8 m.2) m.1))

/-- R369, R374, R383: MDRAIN_READ reads the drain's 4,096 elements once every chained update of its core is applied and the
group's earlier writes are performed, and its instruction is complete; until then it waits. Poison of the words that it reads is
log entry 45's. -/
def Sys2Proof.Slice0.DrainsReadTheirTile : Prop :=
  ∀ (s : State) (id lin af xb phase cbase seq : Nat) (g : GroupId) (k : TaskKey) (x : Tensor) (org : List Int) (sg : Segment)
    (rest : List NodeItem) (u : Team), (s.coreD s.args.core).node = .drain id g k lin x org af xb phase cbase seq sg :: rest →
    s.team? k lin = some u →
    let c := s.args.core
    let n := if af = 1 then 8 else 4
    ((s.coreD c).updates ≠ [] → exec .mdrainRead s = .next s) ∧
    (s.storesBefore g seq = false → exec .mdrainRead s = .next s) ∧
    ((s.coreD c).updates = [] → s.storesBefore g seq = true → (s.coreD c).l1s = [] → x.fmt ≠ 4 →
      ∃ t d, exec .mdrainRead s = .next t ∧ (t.coreD c).node = rest ∧ (t.coreD c).drains = (s.coreD c).drains ++ [d] ∧
        d = { id := id, group := g, task := k, lin := lin, tensor := x, org := org, xb := xb, phase := phase, seg := sg, elems := d.elems } ∧
        d.elems.length = 4096 ∧ (∀ i, i < 4096 → d.elems.getD i 0 =
          BitVec.ofNat 64 (bytesToNat ((s.coreD c).shared.readBytes (u.shBase + cbase + i * n) n))) ∧
        (∀ i o h, s.group? i = some h → i.coreId = c → o ∈ h.out → o.kind = .token id →
          ∃ j, t.group? i = some j ∧ { o with ready := true } ∈ j.out) ∧ ∀ a, t.readPa a = s.readPa a)

/-- R66, R369: TILE_DRAIN_UPDATE of a tile whose rows all pass their checks adds its rows to the tensor in one step, and the tile's
bytes are left to post; it waits while copies of its lines stand elsewhere; a check that fails is the barrier's copy fault, and nothing is added. A row in one run of the device's
memory has each FP32 element replaced by its rounded sum. -/
def Sys2Proof.Slice0.TileDrainsAddOnce : Prop :=
  (∀ (s : State) (d : Drain) (rest : List Drain), (s.coreD s.args.core).drains = d :: rest → s.args.k = 0 → (∀ y ∈ rest, y.id ≠ d.id) →
    let c := s.args.core
    (∀ (rows : List (RowSpan × List Piece)) (u : State), s.drainPieces c d (List.range 64) = (.ok rows, u) → u.coreD c = s.coreD c →
      (∀ r ∈ rows, ∀ p ∈ r.2, ∃ a, p.spot = .pa a) →
      let runs := rows.flatMap fun r => r.2.flatMap Piece.runs
      let added := rows.zipIdx.foldl (fun v r => v.drainRow d r.2 r.1.1 r.1.2) u
      (u.ownableAll none runs = false → exec .tileDrainUpdate s = .next (u.claimAll none runs)) ∧
      (u.ownableAll none runs = true → ∃ t, exec .tileDrainUpdate s = .next t ∧ (∀ a, t.readPa a = added.readPa a) ∧ (t.coreD c).drains = rest ∧
        (t.coreD c).arrivals = (s.coreD c).arrivals ++ [⟨d.task, d.lin, d.xb, d.phase, 4096 * fmtHalves d.tensor.fmt / 2⟩])) ∧
    (∀ (code a : Nat) (u : State) (w : Team), s.drainPieces c d (List.range 64) = (.error (.fault code a), u) → u.coreD c = s.coreD c →
      u.team? d.task d.lin = some w → d.xb < 16 → (w.xb.toArray.getD d.xb {}).fcode = 0 →
      let b : XBar := { w.xb.toArray.getD d.xb {} with fcode := code, faddr := BitVec.ofNat 64 a, fwrite := true }
      ∃ t, exec .tileDrainUpdate s = .next t ∧ (∀ x, t.readPa x = u.readPa x) ∧ (t.coreD c).drains = rest ∧
        t.team? d.task d.lin = some { w with xb := w.xb.setIfInBounds d.xb b })) ∧
  ∀ (s : State) (d : Drain) (r a : Nat) (p : RowSpan) (cls : Coh), d.tensor.fmt = 2 →
    wroteBytes s (s.drainRow d r p [⟨.pa a, 4 * p.count, cls, none⟩]) a (some ((List.range p.count).flatMap fun i => natToBytes 4
      (addOn .f32 (s.paNat (a + 4 * i) 4) ((d.elems.getD (64 * r + p.first + i) 0).toNat))))

/-! ### Transactions (R411 to R416) -/

namespace Sys2Proof.Slice0

open Sys2Proof Sys2Proof.Machine

/-- The group `h` is `g` after the abort of its transaction `t`, with nothing outstanding (R414, R415). -/
def aborted (g h : Group) (t : Tx) (cause code : Nat) : Prop :=
  h.tx = none ∧ h.txStatus = BitVec.ofNat 32 (code * 256 + cause) ∧ h.pc = t.abortHdr ∧ h.stage = .header ∧ h.status = .running ∧
  h.turn = false ∧ h.pending = [] ∧ (∀ i, i < 96 → h.isActive i = (maskBit t.mask i && !maskBit g.x i)) ∧
  (∀ n, n < 60 ∨ n = 63 → h.sget n = g.sget n) ∧
  (h.v, h.p, h.x, h.dc, h.fpmode, h.fpsr, h.seg, h.out, h.stores, h.pv) =
    (g.v, g.p, g.x, g.dc, g.fpmode, g.fpsr, g.seg, g.out, g.stores, g.pv)

/-- A transaction whose buffer lies in the device's memory, in granules that it has marked as written (R411). -/
abbrev buffersMemory (t : Tx) : Prop :=
  (∀ x ∈ t.writes, ∃ a, x = .pa a ∧ a % 64 = 0 ∧ isHbm a = true) ∧ t.writes.Nodup ∧
  ∀ b ∈ t.buf, ∃ a, b.2.1 = .pa a ∧ .pa (a / 64 * 64) ∈ t.writes

/-- A group that goes on with no transaction open, the last one committed (R416). -/
abbrev closed (g : Group) : Group := { g with tx := none, txStatus := 0, status := .running, wait := none }

/-- The group's transaction aborts at once; the step changes the group alone, beside what the model keeps of lines that the host gave up
for it (log entry 8). -/
def abortsAt (s : State) (g : Group) (t : Tx) (i : Instr) (cause code : Nat) : Prop :=
  ∃ (u : State) (h : Group), exec i s = .next u ∧ u = { s.put h with owed := u.owed } ∧ aborted g h t cause code

/-- The commit of a group's transaction (R416): every buffered byte stands in memory and no other byte differs; the group goes on
at the next header with status 0. -/
def committed (s u : State) (g : Group) (t : Tx) : Prop :=
  (∃ h, u.group? g.id = some h ∧ ended (closed g) h (Slice0.afterClause g)) ∧
  ∀ a, u.readPa a = match t.buf.find? fun b => b.2.1 = .pa a with
    | some b => if s.windowHole a then 0 else b.2.2
    | none => s.readPa a

end Sys2Proof.Slice0

/-- R411, R413, R414, R416: TXBEG waits for the group's results and opens a transaction with the abort header and the mask; in one
it aborts with NEST. TXABT aborts with its code, and without a transaction only ends its clause. TXEND without one is ILLEGAL.
TXST reads the status, with bit 31 for an open transaction. -/
def Sys2Proof.Slice0.TransactionWordsAct : Prop :=
  ∀ (disp : BitVec 20) (code : BitVec 8) (d : Reg) (s : State) (g : Machine.Group),
    (s.cur = some g → g.tx = none → g.out ≠ [] → exec (.txbeg disp) s = .next (s.put { g with turn := false })) ∧
    (issues s g maskRegs → g.tx = none → g.out = [] → ∃ t, exec (.txbeg disp) s = .next t ∧ (∀ a, t.readPa a = s.readPa a) ∧
      t.group? g.id = some ({ g with tx := some { abortHdr := branchTarget g disp, mask := g.mask } }.nextWord 1)) ∧
    (∀ t, issues s g maskRegs → g.tx = some t → t.seen = none → g.out = [] → abortsAt s g t (.txbeg disp) 11 0) ∧
    (∀ t, issues s g [] → g.tx = some t → t.seen = none → g.out = [] → abortsAt s g t (.txabt code) 10 code.toNat) ∧
    (issues s g [] → g.tx = none → ∃ h, exec (.txabt code) s = .next (s.put h) ∧ ended g h (Slice0.afterClause g)) ∧
    (issues s g [] → g.tx = none → exec .txend s = .next (s.raise g (atWord g 0x01))) ∧
    (issues s g [.s d.val] → ∃ h : Machine.Group, exec (.txst d) s = .next (s.put (h.nextWord 1)) ∧
      wroteS g h d.val (if g.tx = none then g.txStatus else g.txStatus ||| 0x80000000#32))

/-- R283, R325, R416, R447: TXEND holds its group at the word, and there the transaction commits, for every one that has seen no cause,
once every read of the group is done, its earlier stores are performed, every place it writes can be reached, and no other copy
of its lines or of those that its core releases stands: the group goes on at the next header with status 0. Until then it stays
at its TXEND, and where copies stand their invalidations are under way. -/
def Sys2Proof.Slice0.CommitsComplete : Prop :=
  ∀ (s : State) (g : Machine.Group) (t : Tx), g.tx = some t →
    let atEnd := s.group? s.args.group = some g ∧ g.wait.map Wait.kind = some .commit
    let held := s.put { g with status := .held, turn := false, wait := some { kind := .commit } }
    let done := (∀ o ∈ g.out, o.todo = [] ∧ o.held = []) ∧ g.stores = [] ∧ ∀ x ∈ t.writes, s.resolve x ≠ none
    let alone := s.releasable g.id.coreId .dev = true ∧
      ∀ a, .pa a ∈ t.writes → ∀ l ∈ linesOf a 64, s.ownable (some g.id.die) l = true
    let commits := fun (i : Instr) => ∃ u h, exec i s = .next u ∧ u.group? g.id = some h ∧
      ended (closed g) h (Slice0.afterClause g) ∧ u.tasks.length = s.tasks.length
    let claims := fun (i : Instr) (v : State) => ∃ u, exec i s = .next u ∧ u = { v with invals := u.invals } ∧ keepsInvals s u
    (issues s g [] → t.seen = none → done → (alone → commits .txend) ∧ (¬ alone → claims .txend held)) ∧
    (atEnd → t.seen = none → done → (alone → commits .txCommit) ∧ (¬ alone → claims .txCommit s)) ∧
    (issues s g [] → (t.seen ≠ none ∨ ¬ done) → exec .txend s = .next held) ∧
    (atEnd → (t.seen ≠ none ∨ ¬ done) → exec .txCommit s = .next s)

/-- R241, R324, R325, R416: TXEND and TX_COMMIT of a transaction that has seen no cause, with the group's reads done, its earlier
stores performed and no other copy of its lines left, perform every buffered byte in one step, but for reserved bytes of a launch window. -/
def Sys2Proof.Slice0.CommitPerformsTheBytes : Prop :=
  ∀ (s : State) (g : Machine.Group) (t : Tx), g.tx = some t → t.seen = none → g.out = [] → g.stores = [] → buffersMemory t →
    (s.coreD g.id.coreId).l1s = [] → s.ownableAll (some g.id.die) t.runs = true → s.mem.wf = true →
    (issues s g [] → ∃ u, exec .txend s = .next u ∧ committed s u g t) ∧
    (s.group? s.args.group = some g → g.wait.map Wait.kind = some .commit → ∃ u, exec .txCommit s = .next u ∧ committed s u g t)

/-- R414, R415: TX_ABORT of a transaction that has seen a cause, with every result written, drops the buffer and continues at the
abort header with the cause in the status; while results are outstanding the group stays. -/
def Sys2Proof.Slice0.AbortReturnsToTheAbortHeader : Prop :=
  ∀ (s : State) (g : Machine.Group) (t : Tx) (cause code : Nat), s.group? s.args.group = some g →
    (g.status = .running ∨ g.wait.map Wait.kind = some .commit) → g.tx = some t → t.seen = some (cause, code) →
    (g.out = [] → ∃ h, exec .txAbort s = .next (s.put h) ∧ aborted g h t cause code) ∧
    (g.out ≠ [] → exec .txAbort s = .next (s.put g))

/-! ### How every word comes to its checks (R13, R26, R27, R31, R138, R397, R414, R471) -/

namespace Sys2Proof.Slice0

open Sys2Proof Sys2Proof.Machine

/-- How a word comes to its checks at issue: the registers that it names or implies (R13, R27), whether it is privileged (R140), and
what it stalls for before the checks (R471): a full delayed counter (R26), a FENCE (R344), a full queue of shared-store beats
(R275), or a condition of its own, which holds now. -/
structure IssueForm where
  regs : List PReg
  priv : Bool := false
  long : Bool := false
  mem : Bool := false
  sh : Bool := false
  own : Bool := false

/-- The engine words (R374): the scalar registers that each names, whether it is long-latency and whether it accesses memory, and
what it stalls for outside a transaction. -/
def engineForm (s : State) (g : Group) : Instr → Option (List PReg × Bool × Bool × Bool)
  | .tdef t => some ([], true, true, s.tdefOut t.val g)
  | .tinv t => some ([], false, false, s.tdefOut t.val g)
  | .bufdef buf a b => some ([.s a.val, .s b.val], true, false, s.bufBusy buf.val g)
  | .bufdefFree buf => some ([], true, false, s.bufBusy buf.val g)
  | .slotset _ _ _ => some ([], false, false, false)
  | .slotwt _ _ _ => some ([], true, false, false)
  | .xbexp _ b => some ([.s b.val], false, false, false)
  | .xbwait _ k => some (k.elim [] fun r => [.s r.val], false, false, false)
  | .tcopy t a b => some (sRegs a.val 5 ++ [.s b.val], true, true, s.tdefOut t.val g || decide (32 ≤ (s.coreD g.id.coreId).copies.length))
  | .tstore t a b => some (sRegs a.val 5 ++ [.s b.val], true, true, s.tdefOut t.val g || decide (32 ≤ (s.coreD g.id.coreId).copies.length))
  | .mma _ _ _ _ a => some ([.s a.val], true, false,
      decide (8 ≤ (s.coreD g.id.coreId).node.length) || (s.coreD g.id.coreId).claim.isSome)
  | .mdrain t a b => some (sRegs a.val 5 ++ [.s b.val], true, true, s.tdefOut t.val g || decide (8 ≤ (s.coreD g.id.coreId).node.length))
  | _ => none

/-- The words outside the value words, memory words and engine words. -/
def otherForm (s : State) (g : Group) : Instr → Option IssueForm
  | .movl gd d _ => some { regs := vecRegs gd ++ [.v d.val] }
  | .movx gd d b k => some { regs := vecRegs gd ++ [.v d.val, .s b.val, .v ((g.sget b.val).toNat + k.val)] }
  | .movy gd d b k => some { regs := vecRegs gd ++ [.v d.val, .s b.val, .v ((g.sget b.val).toNat + k.val)] }
  | .writel d a _ => some { regs := [.v d.val, .s a.val] }
  | .braAny gd _ => some { regs := vecRegs gd }
  | .braAll gd _ => some { regs := vecRegs gd }
  | .braNone gd _ => some { regs := vecRegs gd }
  | .callr a => some { regs := sRegs a.val 2 ++ sRegs 56 2 }
  | .mskand d p _ => some { regs := maskRegs ++ .p p.val :: sRegs d.val 3 }
  | .mskset a q => some { regs := maskRegs ++ (q.elim [] fun x => [.p x.val]) ++ sRegs a.val 3 }
  | .exit gd => some { regs := vecRegs gd }
  | .trap gd _ => some { regs := vecRegs gd }
  | .eret => some { regs := maskRegs }
  | .srr d n => some { regs := sRegs d.val (if n = 0x04 ∨ n = 0x34 ∨ n = 0x38 then 2 else 1), priv := decide (0x100 ≤ n.toNat ∧ n.toNat ≤ 0x1FF) }
  | .swr d n => some { regs := sRegs d.val (if n = 0x38 then 2 else 1), priv := decide (0x100 ≤ n.toNat ∧ n.toNat ≤ 0x1FF) }
  | .segset _ a => some { regs := sRegs a.val 4, priv := true }
  | .tlbinv _ all a => some { regs := if all then [] else sRegs a.val 2, priv := true, long := true }
  | .ctxsv a b => some { regs := sRegs a.val 2 ++ [.s b.val], priv := true, long := true, own := g.tx.isNone && s.targetBusy g (g.sget b.val) }
  | .ctxld d a => some { regs := sRegs a.val 2 ++ [.s d.val], priv := true, long := true }
  | .ptos d p b cnt => some { regs := maskRegs ++ .p p.val :: sRegs b.val 3 ++ sRegs d.val (if cnt then 1 else 3) }
  | .stop gd p a _ => some { regs := vecRegs gd ++ .p p.val :: sRegs a.val 3 }
  | .plop gd p pa pb _ => some { regs := vecRegs gd ++ [.p p.val, .p pa.val, .p pb.val] }
  | .rsumk gd d a b false => some { regs := vecRegs gd ++ [.v d.val, .v a.val, bReg b] }
  | .redi gd _ d b toS => some { regs := vecRegs gd ++ [if toS then .s d.val else .v d.val, bReg b] }
  | .redf gd false d b toS => some { regs := vecRegs gd ++ [if toS then .s d.val else .v d.val, bReg b] }
  | .redf gd true d b toS => some { regs := vecRegs gd ++ (if toS then sRegs d.val 2 else vRegs d.val 2) ++ bRegs 2 b }
  | .bar _ _ => some { regs := [] }
  | .bara _ _ => some { regs := [] }
  | .barw _ _ => some { regs := [] }
  | .grow _ => some { regs := [] }
  | .spat a => some { regs := sRegs a.val 2, mem := true, own := g.tx.isNone && !g.out.isEmpty }
  | .tlaunch gd d a seg => some { regs := vecRegs gd ++ .v d.val :: addrRegs seg a, long := true, mem := true }
  | .tsucc gd d a seg => some { regs := vecRegs gd ++ .v d.val :: addrRegs seg a, long := true, mem := true }
  | .redstF32 gd d a seg _ _ => some { regs := vecRegs gd ++ .v d.val :: addrRegs seg a, mem := true, sh := decide (seg = .sh) }
  | .publish d a _ => some { regs := .s d.val :: sRegs a.val 2, long := true, mem := true }
  | .pref gd _ a seg _ => some { regs := vecRegs gd ++ addrRegs seg a, mem := true }
  | .txbeg _ => some { regs := maskRegs, own := g.tx.isNone && !g.out.isEmpty }
  | .txst d => some { regs := [.s d.val] }
  | _ => none

/-- How a word of the table comes to its checks; a word that names no register and is not in a table has none. -/
def issueForm (s : State) (g : Group) (i : Instr) : Option IssueForm :=
  ((namedRegs i).map fun rs => { regs := rs }) <|>
  ((specialCall i).map fun x => { regs := vecRegs x.2.1 ++ [.v x.2.2.1.val, bReg x.2.2.2], long := true }) <|>
  ((loadForm i).map fun f => { regs := vecRegs f.gd ++ vRegs f.d.val f.regs ++ addrRegs f.seg f.a, long := true, mem := true, sh := decide (f.seg = .sh) }) <|>
  ((storeForm i).map fun f => { regs := vecRegs f.gd ++ vRegs f.d.val f.regs ++ addrRegs f.seg f.a, mem := true, sh := decide (f.seg = .sh) }) <|>
  ((atomForm i).map fun (gd, d, a, seg, _, _, _, _, n) =>
    { regs := vecRegs gd ++ vRegs d.val n ++ addrRegs seg a, long := true, mem := true, sh := decide (seg = .sh) }) <|>
  ((recordForm i).map fun (gd, d, a, seg, _, n, _, _) =>
    { regs := vecRegs gd ++ vRegs d.val n ++ addrRegs seg a, long := true, mem := true }) <|>
  ((engineForm s g i).map fun (rs, long, mem, own) => { regs := rs, long := long, mem := mem, own := g.tx.isNone && own }) <|>
  otherForm s g i

/-- Nothing stalls a word of the form before its checks. -/
def unstalled (s : State) (g : Group) (f : IssueForm) : Prop :=
  (f.long = true → g.dc[g.setc] ≠ 63) ∧ (f.mem = true → g.fence = []) ∧ (f.sh = true → s.shFull g.id.coreId = false) ∧ f.own = false

/-- A memory word outside a transaction whose threads are checked one by one (R31): its registers, segment and whether it is
long-latency, its check and the threads checked, whether its accesses write, and what its group is once the word has issued for
the threads that pass. -/
structure AccessForm where
  regs : List PReg
  seg : Seg
  long : Bool
  check : Check
  write : Bool
  after : List Target → Group → Prop

/-- One store of a word for each thread that passes (R28, R136). -/
def storesOf (g : Group) (size : Nat) (rel : Option Scope) (add : Bool) (ts : List Target) (h : Group) : Prop :=
  h = { g with
    stores := g.stores ++ ts.map fun t =>
      StoreReq.mk g.seq t.thread t.va (cutBytes t.pieces ((t.args.flatMap fun w => natToBytes 4 w.toNat).take size)) rel add []
    seq := g.seq + 1 }

/-- The loads, stores, atomics, REDST and record words. -/
def accessForm (g : Group) (i : Instr) : Option (Guard × AccessForm) :=
  ((loadForm i).map fun f => (f.gd,
    { regs := vecRegs f.gd ++ vRegs f.d.val f.regs ++ addrRegs f.seg f.a, seg := f.seg, long := true, write := false,
      check := plainCheck g f.seg f.a f.off f.size .load fun _ => [],
      after := fun ts h => issued g h { seq := 0, ctr := 0, kind := .load f.size f.signed f.acq, d := f.d.val, dst := vRegs f.d.val f.regs, todo := ts } })) <|>
  ((storeForm i).map fun f => (f.gd,
    { regs := vecRegs f.gd ++ vRegs f.d.val f.regs ++ addrRegs f.seg f.a, seg := f.seg, long := false, write := true,
      check := plainCheck g f.seg f.a f.off f.size .store (Slice0.dataWords g f.d.val f.regs),
      after := storesOf g f.size f.rel false })) <|>
  ((atomForm i).map fun (gd, d, a, seg, sc, mo, op, size, n) => (gd,
    { regs := vecRegs gd ++ vRegs d.val n ++ addrRegs seg a, seg := seg, long := true, write := true,
      check := atomCheck g seg a op size (Slice0.dataWords g d.val n),
      after := fun ts h => issued g h { seq := 0, ctr := 0, kind := .atomic op size sc (if seg = .lo then .rlx else mo), d := d.val, dst := vRegs d.val (size / 4), todo := ts } })) <|>
  ((recordForm i).map fun (gd, d, a, seg, kind, n, m, size) => (gd,
    { regs := vecRegs gd ++ vRegs d.val n ++ addrRegs seg a, seg := seg, long := true, write := true,
      check := homeCheck g seg a size true (Slice0.dataWords g d.val n),
      after := fun ts h => issued g h { seq := 0, ctr := 0, kind := kind, d := d.val, dst := vRegs d.val m, todo := ts } })) <|>
  match i with
  | .redstF32 gd d a seg sc mo => some (gd,
    { regs := vecRegs gd ++ .v d.val :: addrRegs seg a, seg := seg, long := false, write := true,
      check := atomCheck g seg a .addF32 4 (Slice0.dataWords g d.val 1),
      after := storesOf g 4 (if mo.releases = true ∧ seg ≠ .lo then some sc else none) true })
  | _ => none

/-- The cause with which a word aborts the transaction that it stands in (R414). -/
def abortCause (s : State) (g : Group) (i : Instr) : Option Nat :=
  match i with
  | .bar _ _ => some 4
  | .bara _ _ => some 4
  | .barw _ _ => some 4
  | .grow _ => some 4
  | .tlaunch _ _ _ _ => some 5
  | .tsucc _ _ _ _ => some 5
  | .spat _ => some 6
  | .publish _ _ _ => some 8
  | .segset _ _ => some 9
  | .tlbinv _ _ _ => some 9
  | .ctxsv _ _ => some 9
  | .ctxld _ _ => some 9
  | .txbeg _ => some 11
  | .exit _ => some 14
  | i => ((recordForm i).map fun _ => 5) <|> ((engineForm s g i).map fun _ => 7)

end Sys2Proof.Slice0

/-- R140, R471: a privileged word of a group with PV = 0 that nothing stalls is PRIVILEGE at issue, before any other check, and has no
effect. -/
def Sys2Proof.Slice0.PrivilegedWordsTrapInUserMode : Prop :=
  ∀ (i : Instr) (f : IssueForm) (s : State) (g : Machine.Group), issueForm s g i = some f → f.priv = true → s.cur = some g →
    unstalled s g f → g.pv = false → exec i s = .next (s.raise g (atWord g 0x02))

/-- R13, R27, R99, R471: at issue, once nothing stalls the word, a named vector register at or above the budget is BUDGET, the
computed index of MOVX and MOVY included; else a named pending register is HAZARD: the word has no effect, and its group is given
that fault for its active threads at its clause's header, to be replayed. -/
def Sys2Proof.Slice0.BudgetAndHazardTrapAtIssue : Prop :=
  ∀ (i : Instr) (f : IssueForm) (s : State) (g : Machine.Group), issueForm s g i = some f → s.cur = some g → unstalled s g f →
    (f.priv = true → g.pv = true) →
    ((∃ r ∈ f.regs, g.beyond r = true) → exec i s = .next (s.raise g (atWord g 0x12))) ∧
    ((∀ r ∈ f.regs, g.beyond r = false) → (∃ r ∈ f.regs, g.isPending r = true) → exec i s = .next (s.raise g (atWord g 0x03)))

/-- R31, R138, R397, R470: where threads of a load, store, atomic, REDST or record word fail and no migration can take them, the word
has issued for the threads that pass and the group is given the fault of the first failing thread, with FAULTMASK every failing
thread. -/
def Sys2Proof.Slice0.FailingThreadsTrapTogether : Prop :=
  ∀ (i : Instr) (gd : Guard) (f : AccessForm) (s u : State) (g : Machine.Group) (ts : List Target) (x : Failed) (xs : List Failed)
    (code addr : Nat), accessForm g i = some (gd, f) →
    issues s g f.regs → (f.long = true → g.dc[g.setc] ≠ 63) → queueFree s g f.seg → g.fence = [] → g.tx = none → g.sat = 0 → g.hsat = 0 →
    checkThreads f.check (g.enabled gd) s = (ts, x :: xs, u) →
    x.why = .fault code addr → (∀ y ∈ xs, ∃ c a, y.why = .fault c a) → u.migrations = [] →
    ∃ (h : Machine.Group) (r : FaultRec), exec i s = .next (u.raise h r) ∧ f.after ts h ∧
      r = { atWord h code with mask := r.mask, addr := BitVec.ofNat 64 addr, write := f.write, who := x.thread } ∧
      ∀ t, t < 96 → (maskBit r.mask t = true ↔ t ∈ (x :: xs).map Failed.thread)

/-- R414, R415: inside a transaction that has seen no cause, with nothing outstanding, a waiting or barrier word, a record or launch
word, SPAT, an engine word, PUBLISH, SEGSET, TLBINV, CTXSV, CTXLD, TXBEG and EXIT abort it with their cause and have no effect. -/
def Sys2Proof.Slice0.WordsAbortTheirTransaction : Prop :=
  ∀ (i : Instr) (cause : Nat) (f : IssueForm) (s : State) (g : Machine.Group) (t : Tx), abortCause s g i = some cause →
    issueForm s g i = some f → issues s g f.regs → unstalled s g f → (f.priv = true → g.pv = true) →
    g.tx = some t → t.seen = none → g.out = [] → abortsAt s g t i cause 0

/-! ### Spatial operators (R187 to R195, R222 to R235) -/

namespace Sys2Proof.Slice0

open Sys2Proof Sys2Proof.Machine

/-- Lane `n` of the rig `r` is in focus, and the rig runs without an open record. -/
abbrev onLane (s : State) (r : Rig) (n : Nat) : Prop :=
  s.focus = .lane r.group n ∧ s.rig? r.group = some r ∧ r.phase = .running ∧ r.open_ = false ∧ n < r.lanes.length

/-- THR and SEQ of two tags are equal (R191). -/
abbrev sameTS (x y : Word) : Prop := x.toNat % 2 ^ 18 = y.toNat % 2 ^ 18

/-- The tag of a firing (R190): operand a's, else operand b's. -/
def firingTag (r : Rig) (a b : Operand1) : Word := (a.2.orElse fun _ => b.2).getD (tagOf 0 r.context.toNat 0 0)

/-- The operands and the predicate token that an operator's firing takes (R188): each present, with tags that agree (R191). -/
abbrev lined (r : Rig) (n : Nat) (o : SFields) (a b : Operand1) (p : Option Token) : Prop :=
  r.operand n o.qa.val = some a ∧ r.operand n o.qb.val = some b ∧
  (if o.g then p.isSome = true ∧ (r.lane n).pq.head? = p else p = none) ∧
  (∀ x y, a.2 = some x → b.2 = some y → o.c = false → sameTS x y) ∧ ∀ t, p = some t → sameTS t.tag (firingTag r a b)

/-- The queues of which a firing consumes one token each. -/
def usedQueues (o : SFields) : List Nat := (codeQueue o.qa.val ++ codeQueue o.qb.val ++ if o.g then [12] else []).dedup

/-- The rig `q` is `r` after a firing of lane `n`: one token consumed of each queue of `qs`, whose slots are on their way back,
`fs` on their way, the lane's own state as `up` says, and flags raised; nothing else differs (R187, R188). -/
def firing (r q : Rig) (n : Nat) (qs : List Nat) (fs : List Flight) (up : Lane → Lane) (fl : Flags) : Prop :=
  q = { r with lanes := q.lanes, flight := r.flight ++ fs, returns := r.returns ++ qs.map (fun c => (⟨n, c, 0⟩ : SlotBack)),
               flags := r.flags ||| fl } ∧ q.lanes.length = r.lanes.length ∧ (∀ m, m ≠ n → q.lane m = r.lane m) ∧
  (let l := q.lane n
   l = { up (r.lane n) with q := l.q, pq := l.pq, iq := l.iq, portq := l.portq }) ∧
  ∀ c, c < 15 → (q.lane n).queue c 0 = if c ∈ qs then ((r.lane n).queue c 0).tail else (r.lane n).queue c 0

/-- A token sent to a dl and a dq (R87, R192): nothing with dq 14, bit 0 with dq 12. -/
def sentTo (n dl dq : Nat) (t : Token) : List Flight :=
  if dq = 14 then [] else [⟨n, dl, if dq = 13 then 14 else dq, 0, ⟨if dq = 12 then t.val &&& 1 else t.val, t.tag⟩⟩]

/-- A result with F (R195): sent where F is 0 or the tag carries the marker of the lane's level. -/
def emitted (r : Rig) (n : Nat) (o : SFields) (tag : Word) (v : DWord) : List Flight :=
  if o.f = true ∧ tag.getLsbD (28 + (r.cfg n).lvl) = false then [] else sentTo n o.dl.val o.dq.val ⟨v, tag⟩

/-- The word with operand a in v0 or v[0:1], b in v2 or v[2:3] and d in v4 or v[4:5] that an operator's opcode stands for
(R222), for MODE.f and MODE.cond. -/
def threadWord (op : Nat) (f : Bool) (c : Cond) : Option Instr :=
  let d : Reg := 4
  let a : Reg := 0
  let b : BOp := .v 2
  let g : Guard := .always
  match op with
  | 0x04 => some (.mov g d b)
  | 0x07 => some (.iadd g d a b f)
  | 0x08 => some (.isub g d a b f)
  | 0x0A => some (.imul g d a b)
  | 0x0B => some (.imulh g d a b f)
  | 0x0C => some (.imad g d a b)
  | 0x0F => some (.imin g d a b f)
  | 0x10 => some (.imax g d a b f)
  | 0x11 => some (.iabs g d b f)
  | 0x12 => some (.and g d a b)
  | 0x13 => some (.or g d a b)
  | 0x14 => some (.xor g d a b)
  | 0x15 => some (.andn g d a b)
  | 0x16 => some (.shl g d a b)
  | 0x17 => some (.shr g d a b f)
  | 0x18 => some (.rot g d a b f)
  | 0x1A => some (.bfe g d a b f)
  | 0x1B => some (.bfi g d a b)
  | 0x1C => some (.popc g d b)
  | 0x1D => some (.clz g d b)
  | 0x1E => some (.brev g d b)
  | 0x1F => some (.icmp g 0 c a b f)
  | 0x20 => some (.icmpn g 0 c a b f)
  | 0x30 => some (.faddF32 g d a b)
  | 0x31 => some (.faddF64 g d a b)
  | 0x32 => some (.faddH2 g d a b)
  | 0x33 => some (.faddBH2 g d a b)
  | 0x34 => some (.fsubF32 g d a b)
  | 0x35 => some (.fsubF64 g d a b)
  | 0x36 => some (.fsubH2 g d a b)
  | 0x37 => some (.fsubBH2 g d a b)
  | 0x38 => some (.fmulF32 g d a b)
  | 0x39 => some (.fmulF64 g d a b)
  | 0x3A => some (.fmulH2 g d a b)
  | 0x3B => some (.fmulBH2 g d a b)
  | 0x3C => some (.ffmaF32 g d a b f)
  | 0x3D => some (.ffmaF64 g d a b f)
  | 0x3E => some (.ffmaH2 g d a b f)
  | 0x3F => some (.ffmaBH2 g d a b f)
  | 0x40 => some (.fminF32 g d a b f)
  | 0x41 => some (.fminF64 g d a b f)
  | 0x42 => some (.fminH2 g d a b f)
  | 0x43 => some (.fminBH2 g d a b f)
  | 0x44 => some (.fmaxF32 g d a b f)
  | 0x45 => some (.fmaxF64 g d a b f)
  | 0x46 => some (.fmaxH2 g d a b f)
  | 0x47 => some (.fmaxBH2 g d a b f)
  | 0x48 => some (.fcmpF32 g 0 c a b f)
  | 0x49 => some (.fcmpF64 g 0 c a b f)
  | 0x4A => some (.fcmpH2 g 0 c a b f)
  | 0x4B => some (.fcmpBH2 g 0 c a b f)
  | 0x54 => some (.cvtF32F64 g d b)
  | 0x55 => some (.cvtF64F32 g d b)
  | 0x56 => some (.cvtF32H2 g d b f)
  | 0x57 => some (.cvtH2F32 g d a b)
  | 0x58 => some (.cvtF32Bh2 g d b f)
  | 0x59 => some (.cvtBh2F32 g d a b)
  | 0x5A => some (.cvtF32I32 g d b)
  | 0x5B => some (.cvtF32N32 g d b)
  | 0x5C => some (.cvtI32F32 g d b f)
  | 0x5D => some (.cvtN32F32 g d b f)
  | 0x5E => some (.cvtF64I32 g d b)
  | 0x5F => some (.cvtI32F64 g d b f)
  | 0x60 => some (.cvtpE4m3 g d a b f)
  | 0x61 => some (.cvtpE5m2 g d a b f)
  | _ => none

/-- What ACC's state becomes (R231). -/
def accNext (cond : Nat) (nan : Bool) (rm : Rm) (x y : DWord) : DWord × Flags :=
  let a := x.extractLsb' 0 32
  let b := y.extractLsb' 0 32
  let w := fun (r : Nat × Flags) => (BitVec.ofNat 64 r.1, r.2)
  match cond with
  | 0 => (BitVec.ofNat 64 ((a.toNat + b.toNat) % 2 ^ 32), 0)
  | 1 => w (addElem .f32 rm a.toNat b.toNat)
  | 2 => w (addElem .f64 rm x.toNat y.toNat)
  | 3 => ((if b.toInt < a.toInt then b else a).zeroExtend 64, 0)
  | 4 => ((if a.toInt < b.toInt then b else a).zeroExtend 64, 0)
  | 5 => w (minMaxElem .f32 false nan a.toNat b.toNat)
  | _ => w (minMaxElem .f32 true nan a.toNat b.toNat)

/-- The value of a chain's position: the innermost level counts fastest (R193). -/
def chainIndex : List Nat → List Nat → Nat
  | k :: ks, c :: cs => k + c * chainIndex ks cs
  | _, _ => 0

end Sys2Proof.Slice0

/-- R111, R118, R126, R222: an ALU opcode as an operator gives the value and the flags of one thread of its instruction, the third
operand taken from the lane constant and the mode from the lane; a compare gives its condition, CVTU its one element. -/
def Obligations.OperatorsComputeTheirThreadValue : Prop :=
  ∀ (op : Nat) (c : LaneCfg) (g : Machine.Group) (t : Nat), c.constant = g.vpair 4 t →
    let v := aluValue op c g.rm (g.vpair 0 t) (g.vpair 2 t)
    (∀ i gd d rs x, threadWord op c.f (condOf c.cond) = some i → intValue i = some (gd, d, rs, x) → v = ((x g t).zeroExtend 64, 0)) ∧
    (∀ i gd d rs x, threadWord op c.f (condOf c.cond) = some i → (floatValue i = some (gd, d, rs, x) ∨ convertValue i = some (gd, d, rs, x)) →
      v = ((x g t).1.zeroExtend 64, (x g t).2)) ∧
    (∀ i gd d rs x, threadWord op c.f (condOf c.cond) = some i → (floatPair i = some (gd, d, rs, x) ∨ convertPair i = some (gd, d, rs, x)) →
      v = x g t) ∧
    (∀ i n k rs on x, threadWord op c.f (condOf c.cond) = some i → intCompare i = some (n, k, rs, on, x) →
      v.2 = 0 ∧ (v.1 = 0 ∨ v.1 = 1) ∧ (v.1 = 1 ↔ holds k (x g t).1 (x g t).2)) ∧
    (∀ i F sig gd n k rs x, threadWord op c.f (condOf c.cond) = some i → floatCompare i = some (F, sig, gd, n, k, rs, x) →
      (v.1 = 0 ∨ v.1 = 1) ∧ (v.1 = 1 ↔ floatHolds F k (x g t).1 (x g t).2) ∧
      v.2 = if F.isSnan (x g t).1 || F.isSnan (x g t).2 || (sig && (F.isNan (x g t).1 || F.isNan (x g t).2)) then 16#5 else 0#5) ∧
    (op = 0x62 ∨ op = 0x63 →
      let y := cvtElem (if op = 0x62 then .e4m3 else .e5m2) .f32 .rne ((g.vget 2 t).toNat / 2 ^ (8 * (2 * c.f.toNat + c.cond % 2)) % 256)
      v = (BitVec.ofNat 64 y.1, y.2))

/-- R188, R190, R191, R192, R195, R222: an ALU operator fires with its operands, its predicate and a free slot: it consumes one token of each
queue and sends its value with the firing's tag; predicate 0 drops the firing, SEL chooses by its predicate, and tokens whose
THR or SEQ differ are FABRIC_TOKEN. Without a free slot nothing happens. That FABREC names operand b's queue and tag, and that the
predicate is compared with operand b's tag where operand a is a constant, are log entry 44's. -/
def Sys2Proof.Slice0.AluOperatorsFire : Prop :=
  ∀ (s : State) (r : Rig) (n : Nat) (op : BitVec 8) (o : SFields) (a b : Operand1) (p : Option Token), onLane s r n →
    (r.destRoom o.dl.val o.dq.val = false → exec (.aluOperatorFire op o) s = .next s) ∧
    (r.destRoom o.dl.val o.dq.val = true → lined r n o a b p →
      let tag := firingTag r a b
      let qs := usedQueues o
      let fires := fun (fs : List Flight) (fl : Flags) =>
        ∃ q, exec (.aluOperatorFire op o) s = .next (s.putRig q) ∧ firing r q n qs fs id fl
      (∀ t, op = 0x21 → p = some t → fires (emitted r n o tag (if t.val.getLsbD 0 then a.1 else b.1)) 0) ∧
      (∀ t, op ≠ 0x21 → p = some t → t.val.getLsbD 0 = false → fires [] 0) ∧
      (op ≠ 0x21 → (∀ t, p = some t → t.val.getLsbD 0 = true) →
        openHigh op.toNat o (r.cfg n) o.qa.val = false → openHigh op.toNat o (r.cfg n) o.qb.val = false →
        let v := aluValue op.toNat (r.cfg n) (r.mode n) a.1 b.1
        fires (emitted r n o tag v.1) v.2)) ∧
    (∀ x y t, r.destRoom o.dl.val o.dq.val = true → r.operand n o.qa.val = some (a.1, some x) → r.operand n o.qb.val = some (b.1, some y) →
      ((r.lane n).pq.head? = some t ∨ o.g = false) → o.c = false → ¬ sameTS x y →
      exec (.aluOperatorFire op o) s = .next (s.failRig r 0x0C r.hdr (fabWords r.hdr 2 o.qb.val 0 n (n + 1) y)))

/-- R191, R192, R195, R230: STEER sends its token to its own destination with predicate 1 and to the CONST destination with predicate 0;
MERGE takes its token from qa or from qb. Tags that differ in THR or SEQ are FABRIC_TOKEN, whose record names the predicate's
queue and tag (log entry 44). -/
def Sys2Proof.Slice0.SteerAndMergeRouteTokens : Prop :=
  ∀ (s : State) (r : Rig) (n : Nat) (o : SFields) (p t : Token), onLane s r n → (r.lane n).pq.head? = some p → o.qa.val < 12 → o.qb.val < 13 →
    let one := p.val.getLsbD 0
    let route := fun (i : Instr) (c dl dq : Nat) => ((r.lane n).queue c 0).head? = some t → r.destRoom dl dq = true →
      (sameTS p.tag t.tag → ∃ q, exec i s = .next (s.putRig q) ∧ firing r q n [c, 12]
        (if o.f = true ∧ t.tag.getLsbD (28 + (r.cfg n).lvl) = false then [] else sentTo n dl dq t) id 0) ∧
      (¬ sameTS p.tag t.tag → exec i s = .next (s.failRig r 0x0C r.hdr (fabWords r.hdr 2 12 0 n (n + 1) p.tag)))
    (one = true → route (.steer o) o.qa.val o.dl.val o.dq.val) ∧
    (one = false → route (.steer o) o.qa.val ((r.cfg n).constant.toNat % 128) ((r.cfg n).constant.toNat / 128 % 16)) ∧
    (o.qb.val < 12 → route (.merge o) (if one then o.qa.val else o.qb.val) o.dl.val o.dq.val)

/-- R231: ACC applies its operation to its state and the token, sends the new state where F allows, and with L and the marker resets
its state to the lane constant; predicate 0 changes nothing but the queues, which is log entry 44's. -/
def Sys2Proof.Slice0.AccumulatorsFire : Prop :=
  ∀ (s : State) (r : Rig) (n : Nat) (o : SFields) (a : Operand1) (p : Option Token), onLane s r n → r.destRoom o.dl.val o.dq.val = true →
    o.qb.val = 14 → o.qa.val < 12 → lined r n o a (0, none) p →
    let tag := firingTag r a (0, none)
    let v := accNext (r.cfg n).cond (r.cfg n).f (r.mode n) (r.lane n).acc a.1
    ((∀ t, p = some t → t.val.getLsbD 0 = true) → ∃ q, exec (.acc o) s = .next (s.putRig q) ∧ firing r q n (usedQueues o)
      (emitted r n o tag v.1) (fun l => { l with acc := if o.l = true ∧ tag.getLsbD (28 + (r.cfg n).lvl) = true then (r.cfg n).constant else v.1 }) v.2) ∧
    (∀ t, p = some t → t.val.getLsbD 0 = false → ∃ q, exec (.acc o) s = .next (s.putRig q) ∧ firing r q n (usedQueues o) [] id 0)

/-- R235: DUP takes a token once both copies of the last are sent, and sends the two copies, changed in width with MODE.f, each when
its destination has a slot. -/
def Sys2Proof.Slice0.DupSendsBothCopies : Prop :=
  ∀ (s : State) (r : Rig) (n : Nat) (o : SFields) (a : Operand1) (p : Option Token), onLane s r n → o.qb.val = 12 → o.qa.val < 12 →
    let l := r.lane n
    let c := r.cfg n
    (l.outq = [] → l.group = [] → lined r n o a (c.constant, none) p →
      let x := a.1.toNat % 2 ^ 32
      let v : DWord := if c.f = false then a.1 else if o.w = false ∧ c.cond.testBit 0 = true then (BitVec.ofNat 32 x).signExtend 64 else BitVec.ofNat 64 x
      let t : Token := ⟨v, firingTag r a (c.constant, none)⟩
      ((∀ k, p = some k → k.val.getLsbD 0 = true) → ∃ q, exec (.dup o) s = .next (s.putRig q) ∧
        firing r q n (usedQueues o) [] (fun l => { l with outq := [t], group := [t] }) 0) ∧
      (∀ k, p = some k → k.val.getLsbD 0 = false → ∃ q, exec (.dup o) s = .next (s.putRig q) ∧ firing r q n (usedQueues o) [] id 0)) ∧
    (∀ t, l.outq = [t] → r.destRoom o.dl.val o.dq.val = true → ∃ q, exec (.dup o) s = .next (s.putRig q) ∧
      firing r q n [] (sentTo n o.dl.val o.dq.val t) (fun l => { l with outq := [] }) 0) ∧
    (∀ t, l.group = [t] → (l.outq = [] ∨ r.destRoom o.dl.val o.dq.val = false) → r.destRoom c.other.1 c.other.2 = true →
      ∃ q, exec (.dup o) s = .next (s.putRig q) ∧ firing r q n [] (sentTo n c.other.1 c.other.2 t) (fun l => { l with group := [] }) 0)

/-- R193, R194, R195, R229: one iteration of the chain sends every index lane the index token of its level, with the chain's tag and
the markers of every level, and steps the position; after the last value of the outermost level the chain is off. -/
def Sys2Proof.Slice0.CountersIterate : Prop :=
  ∀ (s : State) (r : Rig) (n : Nat) (o : SFields), onLane s r n → (r.lane n).outq = [] →
    let cs := r.counters
    let counts := cs.map fun c => c.2.2.2
    (r.chainReady = false → exec (.ctr o) s = .next s) ∧
    (r.chainReady = true → r.chain.length = cs.length → cs ≠ [] → (∀ x ∈ r.chain.zip counts, x.1 < x.2) →
      ∃ q tag, exec (.ctr o) s = .next (s.putRig q) ∧
        (∀ m c, m ∈ r.indexLanes → cs[(r.cfg m).lvl]? = some c → (⟨m, m, 13, 0, ⟨BitVec.ofNat 64
          ((c.2.1.toNat + r.chain.getD (r.cfg m).lvl 0 * c.2.2.1.toNat) % 2 ^ 32), tag⟩⟩ : Flight) ∈ q.flight) ∧
        tagCtx tag = r.context.toNat ∧ tag.toNat % 4096 = r.chain.headD 0 % 4096 ∧
        tag.toNat / 4096 % 64 = (if cs.length = 1 then 0 else r.chain.getLastD 0 % 64) ∧
        (∀ i, i < cs.length → i < 4 → (tag.getLsbD (28 + i) = true ↔ r.chain.getD i 0 + 1 = counts.getD i 0)) ∧
        (if ∀ x ∈ r.chain.zip counts, x.1 + 1 = x.2 then q.chainOn = false else q.chainOn = true ∧ q.chain.length = r.chain.length ∧
          (∀ x ∈ q.chain.zip counts, x.1 < x.2) ∧ chainIndex q.chain counts = chainIndex r.chain counts + 1) ∧
        (∀ m, (r.lanes.getD m {}).acc = (q.lanes.getD m {}).acc) ∧ q.returns = r.returns ∧ q.accs = r.accs)

/-- R228: ORD fires when every arc holds a done token: it consumes one of each and sends a token of value 0 with their tag; done tokens
whose THR or SEQ differ are FABRIC_TOKEN. -/
def Sys2Proof.Slice0.OrdJoinsItsArcs : Prop :=
  ∀ (s : State) (r : Rig) (n : Nat) (o : SFields) (t : Token) (ts : List Token), onLane s r n → r.destRoom o.dl.val o.dq.val = true →
    (r.lane n).doneq.map List.head? = (t :: ts).map some → (r.cfg n).arcs.length = (r.lane n).doneq.length →
    ((∀ x ∈ ts, sameTS x.tag t.tag) → ∃ q, exec (.ord o) s = .next (s.putRig q) ∧
      q = { r with lanes := q.lanes, flight := r.flight ++ sentTo n o.dl.val o.dq.val ⟨0, t.tag⟩, returns := r.returns ++
              (List.range (ts.length + 1)).map (fun i => (⟨n, 15, i⟩ : SlotBack)) } ∧ q.lanes.length = r.lanes.length ∧
      (∀ m, m ≠ n → q.lane m = r.lane m) ∧ q.lane n = { r.lane n with doneq := (r.lane n).doneq.map List.tail }) ∧
    ((∃ x ∈ ts, ¬ sameTS x.tag t.tag) → ∃ ws, exec (.ord o) s = .next (s.failRig r 0x0C r.hdr ws))

/-- R59, R190, R232: CONV gathers the inputs of its group; a full group, or one that a marker ends, gives its outputs in order with the tag
of the group's first input. Two FP32 tokens give one packed token of two elements rounded to nearest even. -/
def Sys2Proof.Slice0.ConvConvertsItsGroups : Prop :=
  ∀ (s : State) (r : Rig) (n f g : Nat) (o : SFields) (t : Token), onLane s r n → (r.lane n).outq = [] → r.destRoom o.dl.val o.dq.val = true →
    o.qa.val < 12 → o.qb.val = 14 → o.g = false → ((r.lane n).queue o.qa.val 0).head? = some t → (r.cfg n).conv = some (f, g) →
    let l := r.lane n
    let got := l.group ++ [t]
    let marked := t.tag.getLsbD (28 + (r.cfg n).lvl)
    let tag := ((got.head?).map Token.tag).getD 0
    (got.length < convInputs f g → marked = false → ∃ q, exec (.conv o) s = .next (s.putRig q) ∧
      firing r q n [o.qa.val] [] (fun l => { l with group := got }) 0) ∧
    ((convInputs f g ≤ got.length ∨ marked = true) → got.length ≤ convInputs f g →
      let xs := got.map (fun x => x.val.toNat % 2 ^ 32) ++ List.replicate (convInputs f g - got.length) 0
      let out := (convOutputs f g xs).map fun x => (⟨x, tag⟩ : Token)
      (out ≠ [] → ∃ q k, exec (.conv o) s = .next (s.putRig q) ∧ 0 < k ∧ firing r q n [o.qa.val]
        ((out.take k).flatMap (sentTo n o.dl.val o.dq.val)) (fun l => { l with group := [], outq := out.drop k }) 0) ∧
      (f = 2 → (g = 3 ∨ g = 4) → ∀ x y, xs = [x, y] →
        let F : Fmt := if g = 3 then .f16 else .bf16
        convOutputs f g xs = [BitVec.ofNat 64 ((cvtElem .f32 F .rne x).1 + 2 ^ 16 * (cvtElem .f32 F .rne y).1)]))

/-- R233, R234: RDREG sends its register's value once, or once per index token; WRREG keeps the last token; MTOK puts its matrix token
at the end of the node's queue, and stalls while that is full. -/
def Sys2Proof.Slice0.RegisterAndMatrixOperatorsFire : Prop :=
  ∀ (s : State) (r : Rig) (n : Nat) (o : SFields), onLane s r n → o.qb.val = 14 →
    let c := r.group.coreId
    (o.qa.val = 14 → r.destRoom o.dl.val o.dq.val = true → (r.lane n).fired = false → ∃ q, exec (.rdreg o) s = .next (s.putRig q) ∧
      firing r q n [] (sentTo n o.dl.val o.dq.val ⟨(r.lane n).rd, BitVec.ofNat 32 (0xF0000000 + r.context.toNat * 2 ^ 18)⟩)
        (fun l => { l with fired := true }) 0) ∧
    (o.qa.val = 14 → (r.lane n).fired = true → exec (.rdreg o) s = .next s) ∧
    (∀ t, o.qa.val = 13 → o.g = false → r.destRoom o.dl.val o.dq.val = true → (r.lane n).iq.head? = some t →
      ∃ q, exec (.rdreg o) s = .next (s.putRig q) ∧ firing r q n [13] (sentTo n o.dl.val o.dq.val ⟨(r.lane n).rd, t.tag⟩) id 0) ∧
    (∀ t, o.qa.val < 12 → o.g = false → ((r.lane n).queue o.qa.val 0).head? = some t →
      ∃ q, exec (.wrreg o) s = .next (s.putRig q) ∧ firing r q n [o.qa.val] [] (fun l => { l with wr := some t.val }) 0) ∧
    (∀ (t : Token) (g : Machine.Group), o.qa.val < 12 → o.g = false → ((r.lane n).queue o.qa.val 0).head? = some t → s.group? r.group = some g →
      ((s.coreD c).node.length < 8 → ∃ (u : State) (q : Rig), exec (.mtok o) s = .next u ∧ firing r q n [o.qa.val] [] id 0 ∧
        u.rig? r.group = some q ∧ u.groups = s.groups ∧ (u.coreD c).node = (s.coreD c).node ++
          [.token (s.coreD c).nextId g.id g.task g.lin (((r.cfg n).mtok).getD 0) (some (n, t.tag)) r.hdr r.widx]) ∧
      (8 ≤ (s.coreD c).node.length → exec (.mtok o) s = .next s))

/-- R192, R226, R228: SRC and SNK start one access with the next iteration number, their index token, and SRC's operand or SNK's
data; with predicate 0 nothing is accessed. They wait for their destination, their own records and a full done queue. -/
def Sys2Proof.Slice0.PortsStartTheirAccess : Prop :=
  ∀ (s : State) (r : Rig) (n : Nat) (o : SFields) (a b : Operand1) (p : Option Token) (tag : Word), onLane s r n → o.w = false → a.2 = some tag →
    let l := r.lane n
    let acc := fun (data : Option DWord) => ({ lane := n, iter := l.iters, idx := ⟨a.1, tag⟩, data := data } : PortAcc)
    let starts := fun (i : Instr) (qs : List Nat) (data : Option DWord) => ∃ q, exec i s = .next (s.putRig q) ∧
      firing { r with accs := q.accs } q n qs [] (fun l => { l with iters := l.iters + 1 }) 0 ∧
      q.accs = if ∃ t, p = some t ∧ t.val.getLsbD 0 = false then r.accs else r.accs ++ [acc data]
    (s.portReady r n = true → l.outq = [] → r.destRoom o.dl.val o.dq.val = true → lined r n o a b p →
      starts (.src o) (usedQueues o) (if o.qb.val = 14 then none else some b.1)) ∧
    (s.portReady r n = true → o.qb.val ≠ 14 → lined r n o a b p → starts (.snk o) (usedQueues o) (some b.1)) ∧
    (∀ t, s.portReady r n = true → o.qb.val = 14 → o.g = false → o.qa.val < 12 → o.c = false → ((r.lane n).queue o.qa.val 0).head? = some ⟨a.1, tag⟩ →
      l.portq.head? = some t → sameTS tag t.tag → p = none → starts (.snk o) [o.qa.val, 14] (some t.val)) ∧
    (s.portReady r n = false → exec (.snk o) s = .next s ∧ (l.outq = [] → exec (.src o) s = .next s))

/-! ### The rejections of a block (R85 to R88, R180 to R199, R472) -/

namespace Sys2Proof.Slice0

open Sys2Proof Sys2Proof.Machine

/-- The opcodes that an operator word accepts besides the spatial-only operators (R88). -/
abbrev valueOperator (op : Nat) : Prop :=
  op = 0x04 ∨ op = 0x07 ∨ op = 0x08 ∨ (0x0A ≤ op ∧ op ≤ 0x0C) ∨ (0x0F ≤ op ∧ op ≤ 0x18) ∨ (0x1A ≤ op ∧ op ≤ 0x21) ∨ (0x30 ≤ op ∧ op ≤ 0x63)

/-- The opcodes that an operator word accepts (R88). -/
abbrev operator (op : Nat) : Prop := valueOperator op ∨ (0xF0 ≤ op ∧ op ≤ 0xFB)

/-- The operators of which an operand or a result is FP64 (R88). -/
abbrev doubles : List Nat := [0x31, 0x35, 0x39, 0x3D, 0x41, 0x45, 0x49, 0x54, 0x55, 0x5E, 0x5F]

/-- The operators whose result is narrow whatever their W says: compares, CLASSIFY and conversions out of FP64 (R185, R224). -/
abbrev narrowResult : List Nat := [0x1F, 0x20, 0x48, 0x49, 0x4A, 0x4B, 0x54, 0x5F]

end Sys2Proof.Slice0

/-- R85, R86, R87, R88, R180, R185, R186, R188, R193, R194, R199: a block is rejected at a header, or at or before an operator
word, that breaks a rule. -/
def Sys2Proof.Slice0.BlockWordsAreChecked : Prop :=
  ∀ (s : State) (g : Machine.Group) (k maxb : Nat) (h : Word) (ops items : List Word), ops.length = h.toNat / 2 ^ 25 + 1 →
    items.length = h.toNat / 2 ^ 14 % 256 →
    let ws := h :: (ops ++ items)
    let l := loadOf ws
    let op := fun (w : Word) => w.toNat / 2 ^ 24
    let qa := fun (w : Word) => w.toNat / 2 ^ 20 % 16
    let qb := fun (w : Word) => w.toNat / 2 ^ 16 % 16
    let dl := fun (w : Word) => w.toNat / 2 ^ 9 % 128
    let dq := fun (w : Word) => w.toNat / 2 ^ 5 % 16
    let lanes := 8 * 2 ^ (h.toNat / 2 ^ 22 % 8)
    let depths := fun (i : Nat) => l.items.filter fun x => decide (x.lane = i ∧ x.kind = 0)
    let given := fun (i kind : Nat) => ∃ x ∈ l.items, x.lane = i ∧ x.kind = kind
    let level := fun (i : Nat) => (l.cfgAt i).ctr.map Prod.fst
    let rejectedAt := fun (i : Nat) => ∃ x, s.blockBad g k maxb ws = some x ∧ x.1 ≤ i
    ((5 ≤ h.toNat / 2 ^ 22 % 8 ∨ h.toNat / 2 ^ 4 % 1024 ≠ 0 ∨ lanes < ops.length ∨
        ¬ (h.getLsbD 2 = true ↔ ∃ w ∈ ops, op w = 0xF0 ∨ op w = 0xF1 ∨ dq w = 13) ∨ ¬ (h.getLsbD 1 = true ↔ ∃ w ∈ ops, op w = 0xFA) ∨
        ¬ (h.getLsbD 0 = true ↔ ∃ w ∈ ops, op w = 0xF7)) → s.blockBad g k maxb ws = some (0, 0x7F)) ∧
    (∀ i w, ops[i]? = some w →
      ((¬ operator (op w) ∨ qa w = 15 ∨ qb w = 15 ∨ dq w = 15 ∨ lanes ≤ dl w) → rejectedAt (i + 1)) ∧
      ((valueOperator (op w) ∧ (w.getLsbD 0 = true ↔ op w ∉ doubles)) → rejectedAt (i + 1)) ∧
      (((op w = 0xF0 ∨ op w = 0xF1) ∧ i % 8 ≠ 0) ∨ (op w = 0xF7 ∧ i % 8 ≠ 7) ∨ (op w = 0xFA ∧ i ≠ 1) → rejectedAt (i + 1)) ∧
      ((dq w = 13 ∧ ∀ v, ops[dl w]? = some v → op v ≠ 0xF1) → rejectedAt (i + 1)) ∧
      (∀ q, q < 12 → (qa w = q ∨ qb w = q) → (∀ x ∈ depths i, x.val / 2 ^ 17 % 16 ≠ q) → rejectedAt (i + 1)) ∧
      ((qa w = 12 ∨ qb w = 12) → ¬ given i 1 → rejectedAt (i + 1)) ∧
      (dq w < 12 → (∀ x ∈ depths (dl w), x.val / 2 ^ 17 % 16 ≠ dq w) → rejectedAt (i + 1)) ∧
      (∀ v, dq w < 12 → ops[dl w]? = some v → operator (op v) → op w ∉ narrowResult → op w ≠ 0xFB → v.getLsbD 0 ≠ w.getLsbD 0 → rejectedAt (i + 1)) ∧
      (256 < (((depths i).map fun x => x.val % 128).sum + (if (l.items.any fun x => x.lane == i && x.kind == 1) && op w != 0xF3 && op w != 0xFB then 1 else 0)) * (if w.getLsbD 0 = true then 2 else 1) →
        rejectedAt (i + 1)) ∧
      (∀ lv, op w = 0xF2 → level i = some lv → (l.levels.length ≤ lv ∨ ∃ j, j < i ∧ level j = some lv) → rejectedAt (i + 1)) ∧
      ((qa w = 13 ∨ qb w = 13) → (∀ j, level j ≠ some (l.cfgAt i).lvl) → rejectedAt (i + 1)) ∧
      ((op w ≠ 0xF0 ∧ op w ≠ 0xF2 ∧ op w ≠ 0xF6 ∧ op w ≠ 0xF8 ∧ (qa w = 12 ∨ qa w = 14) ∧ (qb w = 12 ∨ qb w = 14)) → rejectedAt (i + 1)) ∧
      (w.getLsbD 1 = true → qa w = qb w → rejectedAt (i + 1)))

/-- R196, R197, R198, R199, R232, R340, R472: a block is rejected at or before an item out of its range, given twice, or
not used by its operator, and an operator that lacks one; and for a register beyond the budget, an operation that a portal does not
carry, and a MODE that its operator does not use. -/
def Sys2Proof.Slice0.BlockItemsAreChecked : Prop :=
  ∀ (s : State) (g : Machine.Group) (k maxb : Nat) (h : Word) (ops items : List Word), ops.length = h.toNat / 2 ^ 25 + 1 →
    items.length = h.toNat / 2 ^ 14 % 256 →
    let ws := h :: (ops ++ items)
    let l := loadOf ws
    let op := fun (w : Word) => w.toNat / 2 ^ 24
    let qa := fun (w : Word) => w.toNat / 2 ^ 20 % 16
    let qb := fun (w : Word) => w.toNat / 2 ^ 16 % 16
    let given := fun (i kind : Nat) => ∃ x ∈ l.items, x.lane = i ∧ x.kind = kind
    let rejected := ∃ x, s.blockBad g k maxb ws = some x
    let rejectedAt := fun (i : Nat) => ∃ x, s.blockBad g k maxb ws = some x ∧ x.1 ≤ i
    (∀ w rest, items = w :: rest → (9 ≤ w.toNat / 2 ^ 21 % 16 ∨ ((w.toNat / 2 ^ 21 % 16 = 3 ∨ w.toNat / 2 ^ 21 % 16 = 4) ∧ rest.length < 3) ∨
      ((w.toNat / 2 ^ 21 % 16 = 1 ∨ w.toNat / 2 ^ 21 % 16 = 8) ∧ rest = [])) → rejectedAt (ops.length + 1)) ∧
    (∀ x ∈ l.items, let v := x.val
      ((x.kind = 0 ∧ (12 ≤ v / 2 ^ 17 % 16 ∨ v % 128 = 0 ∨ 64 < v % 128 ∨ v / 2 ^ 7 % 1024 ≠ 0)) ∨ ((x.kind = 1 ∨ x.kind = 8) ∧ v ≠ 0) ∨ (x.kind = 2 ∧ 512 ≤ v) ∨
        (x.kind = 3 ∧ 4 ≤ v) ∨ (x.kind = 4 ∧ (3 < v % 8 ∨ 1 < v / 2 ^ 3 % 4 ∨ 4 < v / 2 ^ 5 % 8 ∨ 4 < v / 2 ^ 8 % 8 ∨ 8 < v / 2 ^ 11 % 16 ∨ 2 ^ 15 ≤ v)) ∨
        (x.kind = 5 ∧ (2 ^ 10 ≤ v ∨ (v % 32 ≠ 2 ∧ v / 2 ^ 5 % 32 ≠ 2) ∨ v % 32 = v / 2 ^ 5 % 32)) ∨
        (x.kind = 6 ∧ (2 ^ 14 ≤ v ∨ 95 < v / 2 ^ 7 % 128 ∨ (v / 2 ^ 6 % 2 = 1 ∧ v / 2 ^ 7 % 128 ≠ 0))) ∨ (x.kind = 7 ∧ 128 ≤ v)) → rejectedAt x.idx) ∧
    (∀ x ∈ l.items, x.kind = 3 → ((x.word 2).toNat = 0 ∨ 2 ^ 24 < (x.word 2).toNat) → rejectedAt (x.idx + 3)) ∧
    (∀ x ∈ l.items, ops.length ≤ x.lane → rejectedAt x.idx) ∧
    (∀ (i j : Nat) x y, l.items[i]? = some x → l.items[j]? = some y → i < j → x.lane = y.lane → x.kind = y.kind →
      (x.kind = 0 → x.val / 2 ^ 17 % 16 = y.val / 2 ^ 17 % 16) → (x.kind = 7 → x.val = y.val) → rejectedAt y.idx) ∧
    (∀ x ∈ l.items, ∀ w, ops[x.lane]? = some w → operator (op w) →
      ((x.kind = 0 ∧ (op w = 0xF2 ∨ op w = 0xF6 ∨ op w = 0xF8 ∨ (12 ≤ qa w ∧ 12 ≤ qb w))) ∨
        (x.kind = 1 ∧ 0xF0 ≤ op w ∧ op w ≠ 0xF3 ∧ op w ≠ 0xF5 ∧ op w ≠ 0xFB) ∨
        (x.kind = 1 ∧ op w < 0xF0 ∧ qa w ≠ 12 ∧ qb w ≠ 12 ∧ w.getLsbD 1 = false ∧ op w ∉ [0x0C, 0x1B, 0x3C, 0x3D, 0x3E, 0x3F, 0x60, 0x61]) ∨
        (x.kind = 3 ∧ op w ≠ 0xF2) ∨ (x.kind = 4 ∧ op w ≠ 0xF0 ∧ op w ≠ 0xF1) ∨ (x.kind = 5 ∧ op w ≠ 0xF7) ∨
        (x.kind = 6 ∧ op w ≠ 0xF8 ∧ op w ≠ 0xF9) ∨ (x.kind = 7 ∧ op w ≠ 0xF6) ∨ (x.kind = 8 ∧ op w ≠ 0xFA)) → rejectedAt x.idx) ∧
    (∀ i w, ops[i]? = some w →
      (((op w = 0xF0 ∨ op w = 0xF1) ∧ ¬ given i 4) ∨ (op w = 0xF2 ∧ ¬ given i 3) ∨ (op w = 0xF7 ∧ ¬ given i 5) ∨ ((op w = 0xF8 ∨ op w = 0xF9) ∧ ¬ given i 6) ∨
        (op w = 0xF6 ∧ (¬ given i 7 ∨ 8 < (l.items.filter fun x => decide (x.lane = i ∧ x.kind = 7)).length)) ∨ (op w = 0xFA ∧ ¬ given i 8) ∨
        ((op w = 0xF3 ∨ op w = 0xFB) ∧ ¬ given i 1) → rejectedAt (i + 1)) ∧
      (∀ r t, operator (op w) → (l.cfgAt i).reg = some (false, r, t) → g.v.length ≤ r + (w.getLsbD 0).toNat → rejected) ∧
      (∀ p q, operator (op w) → (l.cfgAt i).port = some p → p.value.toNat / 2 ^ 3 % 4 = 0 →
        s.walk g.ctx ((g.seg[0].base + p.base).toNat) = .page q → isHost (q.at (g.seg[0].base + p.base).toNat).pa = true →
        p.value.toNat / 2 ^ 11 % 16 ∉ [0, 1, 2, 8] → rejected) ∧
      (∀ m, operator (op w) → (l.cfgAt i).mode = some m → (op w = 0xF2 ∨ op w = 0xF6 ∨ op w = 0xF9 ∨
        (op w ≤ 0x21 ∧ (m.toNat / 2 ^ 4 % 8 ≠ 0 ∨ (m.toNat / 2 ^ 7 % 4 ≠ 0 ∧ qa w ≠ 13 ∧ qb w ≠ 13 ∧ w.getLsbD 2 = false)))) → rejected))

/-! ### What happens to rigs (R176 to R206, R226 to R228, R405, R409, R421) -/

namespace Sys2Proof.Slice0

open Sys2Proof Sys2Proof.Machine

/-- The step's rig and its group, in a phase. -/
abbrev rigIn (s : State) (r : Rig) (g : Group) (p : RigPhase) : Prop :=
  s.rig? s.args.group = some r ∧ s.group? s.args.group = some g ∧ r.group = s.args.group ∧ g.id = s.args.group ∧ r.phase = p

/-- A rig that runs, with no open record (R410). -/
abbrev rigMoves (s : State) (r : Rig) (g : Group) : Prop := rigIn s r g .running ∧ r.open_ = false

/-- The value that an SRC's bytes give (R226). -/
def loaded (size : Nat) (signed : Bool) (bs : List Byte) : DWord :=
  let x := bytesToNat bs
  if signed = true ∧ size < 4 ∧ 2 ^ (8 * size - 1) ≤ x then BitVec.ofNat 64 (x + 2 ^ 32 - 2 ^ (8 * size)) else BitVec.ofNat 64 x

/-- The done token of a port's access (R228). -/
def doneToken (r : Rig) (n : Nat) (tag : Word) : List Flight :=
  match r.arcOf n with
  | some (l, i) => [⟨n, l, 15, i, ⟨0, tag⟩⟩]
  | none => []

/-- The index of the first token that a lane's queue holds is free of earlier ones on its path (R187). -/
abbrev firstOnPath (r : Rig) (k : Nat) (f : Flight) : Prop :=
  ∀ x ∈ r.flight.take k, x.src ≠ f.src ∨ x.lane ≠ f.lane ∨ x.qc ≠ f.qc ∨ x.arc ≠ f.arc

end Sys2Proof.Slice0

/-- R176, R177, R178, R219: the graph descriptor's 64 bytes give block 0's address and MAXB; reserved bytes that are not zero, or an address
that is no canonical multiple of 4, are FABRIC_CONFIG. Block 0 is fetched and checked, and asks for a placement; a block that a
rule rejects is FABRIC_CONFIG at its first failing word; the next block is read ahead with no effect but on the rig. -/
def Sys2Proof.Slice0.GraphsAreReadAndChecked : Prop :=
  ∀ (s u : State) (r : Rig) (g : Machine.Group),
    (rigIn s r g .descriptor → ∀ va ps bs, s.access g .gl r.desc.toNat 64 0 .load = (.ok (va, ps), u) → ps.any Piece.atPeer = false →
      (u.supplied ps).readArea g ps = some bs →
      let first := BitVec.ofNat 64 (bytesToNat (bs.take 8))
      let at_ := g.seg[0].base + r.desc
      let ok := bytesToNat (bs.drop 12) = 0 ∧ first.toNat % 4 = 0 ∧ canonical first.toNat = true
      (ok → exec .graphDescriptorRead s = .next (u.putRig { r with
        next := first, maxb := bytesToNat ((bs.drop 8).take 4), phase := .fetch })) ∧
      (¬ ok → exec .graphDescriptorRead s = .next (u.failRig r 0x0B at_ (fabWords at_ 1 15 0 0x7F 0 0)))) ∧
    (rigIn s r g .fetch → r.block = none → ∀ ws, s.fetchBlock g r.next = (.ok ws, u) →
      (u.blockBad g r.k r.maxb ws = none → ∃ t xs ys, exec .blockFetch s = .next t ∧
        t.rig? r.group = some { r with block := some (blockOf r.next ws (u.blockLines g r.next ws.length)), phase := .place, pages := [], grans := [] } ∧
        (t.coreD r.group.coreId).pool = xs ++ .rig r.group :: ys ∧ (u.coreD r.group.coreId).pool = xs ++ ys ∧
        (r.k = 0 → r.gated = false → (∀ x ∈ xs, (t.coreD r.group.coreId).issuedAfter r.group x = false) ∧
          ∀ y, ys.head? = some y → (t.coreD r.group.coreId).issuedAfter r.group y = true) ∧
        (r.k ≠ 0 ∨ r.gated = true → ys = [])) ∧
      (∀ x, u.blockBad g r.k r.maxb ws = some x →
        exec .blockFetch s = .next ((u.keepFlags r).failRig r 0x0B r.next (fabWords r.next 1 15 0 x.2 x.1 0)))) ∧
    (s.rig? s.args.group = some r → s.group? s.args.group = some g → ∀ b h (v : State) ws, r.block = some b → b.last = false → r.ahead = .none →
      (r.phase = .running ∨ r.phase = .config) → s.peekWord g b.nextAddr = (some h, v) → v.peekWords g (b.nextAddr + 4) (headerTail h) = (some ws, u) →
      exec .blockReadAhead s = .next (u.putRig { r with ahead := .block (blockOf b.nextAddr (h :: ws) (u.blockLines g b.nextAddr (ws.length + 1))) }))

/-- R161, R164, R181, R182, R183, R190, R198, R199, R206: the oldest request of the pool, a rig's, takes its pages in ascending order on free octets, the first of them
on the quadrant that ranks first, and its load starts under the next context with every lane to be configured, the quadrants' groups parked; a request that does
not fit, or waits for its claim or for an earlier SPAT, leaves everything as it is, and a block that a rule rejects is FABRIC_CONFIG. The matrix node is claimed by the pool's oldest request when no
other load holds it and no token that a group issued is outstanding. -/
def Sys2Proof.Slice0.RigsArePlaced : Prop :=
  (∀ (s : State) (i : GroupId) (rest : List PoolReq) (r : Rig) (b : Block) (g : Machine.Group), (s.coreD s.args.core).pool = .rig i :: rest →
    i.coreId = s.args.core → s.rig? i = some r → r.group = i → r.block = some b → s.group? i = some g → r.gated = false →
    let c := s.args.core
    let waits := (b.mx = true ∧ (s.coreD c).claim ≠ some i) ∨ (s.coreD c).earlierSpat r = true
    let bad := s.blockBad g r.k r.maxb b.words
    (∀ x, bad = some x → exec .rigPlacement s = .next ((s.keepFlags r).failRig r 0x0B b.addr (fabWords b.addr 1 15 0 x.2 x.1 0))) ∧
    (bad = none → waits → exec .rigPlacement s = .next s) ∧
    (bad = none → s.choosePages c b = none → exec .rigPlacement s = .next s) ∧
    (bad = none → ¬ waits → ∀ ps gs, s.choosePages c b = some (ps, gs) → ∃ u q, exec .rigPlacement s = .next u ∧
      (∀ h ∈ u.groups, h.id.coreId = c → (∃ o ∈ ps, o / 4 = h.id.quad) → h.turn = false) ∧
      (u.coreD c).pool = rest ∧ u.rig? i = some q ∧ (u.coreD c).context = (s.coreD c).context + 1 ∧
      q = { r with pages := ps, grans := gs, context := (s.coreD c).context + 1, phase := .config, ahead := .none, compact := false,
                   lanes := List.replicate (8 * 2 ^ b.rigLog) {} } ∧
      ps.length = 2 ^ b.rigLog ∧ ps.Pairwise (· < ·) ∧ (∀ p ∈ ps, p < 16 ∧ ∀ x ∈ (s.coreD c).rigs, p ∉ x.pages) ∧
      (∀ x y, x ∈ s.quads c → y ∈ s.quads c → x.octets ≠ [] → ps = [x.octets.headD 0] → y.octets ≠ [] → b.granules ≤ y.free → y.before x = false))) ∧
  ∀ (s : State) (r : Rig) (g : Machine.Group) (b : Block), rigIn s r g .place → r.block = some b → b.mx = true →
    let c := r.group.coreId
    let free := (s.coreD c).pool.head? = some (.rig r.group) ∧ (s.coreD c).earlierSpat r = false ∧ (s.coreD c).claim = none ∧
      (∀ u ∈ (s.coreD c).updates, ∀ h ∈ s.groups, h.id.coreId = c → ∀ o ∈ h.out, o.kind ≠ .token u.token) ∧
      ∀ x ∈ (s.coreD c).node, ∀ id i k l w hdr wi, x ≠ .token id i k l w none hdr wi
    (free → exec .matrixNodeClaim s = .next (s.modCore c fun k => { k with claim := some r.group })) ∧
    (¬ free → exec .matrixNodeClaim s = .next s)

/-- R175, R198, R202, R223, R231, R233: a lane's last item arrives; once every lane is configured the sources may start: ACC's states are the lane
constants, loop-carried queues hold their first token, RDREG holds its register's value as the group has it now, and the chain
stands at its first position. A lane that is not yet configured keeps the rig waiting. -/
def Sys2Proof.Slice0.RigsStartConfigured : Prop :=
  ∀ (s : State) (r : Rig) (g : Machine.Group), rigIn s r g .config →
    (s.args.t < r.lanes.length → ∃ q, exec .configItemArrival s = .next (s.putRig q) ∧ q = { r with lanes := q.lanes } ∧
      q.lanes = r.lanes.set s.args.t { r.lane s.args.t with loaded := true }) ∧
    ((∃ l ∈ r.lanes, l.loaded = false) → exec .sourceStart s = .next s) ∧
    ((∀ l ∈ r.lanes, l.loaded = true) → r.gated = false → ∃ q, exec .sourceStart s = .next (s.putRig q) ∧
      q = { r with phase := .running, lanes := q.lanes, chain := q.chain, chainOn := !r.counters.isEmpty } ∧
      q.lanes.length = r.lanes.length ∧ q.chain = List.replicate r.counters.length 0 ∧
      ∀ n, n < r.lanes.length → (q.lane n).acc = (r.cfg n).constant ∧
        (∀ w, r.ops[n]? = some w → (opFields w).c = true → (opFields w).qb.val < 12 →
          (q.lane n).queue (opFields w).qb.val 0 = [⟨(r.cfg n).constant, tagOf 0 r.context.toNat 0 0⟩]) ∧
        (∀ w k t, r.ops[n]? = some w → w.toNat / 2 ^ 24 = 0xF8 → (opFields w).w = false → (r.cfg n).reg = some (true, k, t) →
          (q.lane n).rd = (g.sget k).zeroExtend 64) ∧
        (∀ w k t, r.ops[n]? = some w → w.toNat / 2 ^ 24 = 0xF8 → (opFields w).w = true → (r.cfg n).reg = some (false, k, t) →
          (q.lane n).rd = g.vpair k t))

/-- R187, R191: a token that is the first of its path enters its queue's end; one of another context is FABRIC_TOKEN; one behind another of its
path waits. A freed slot comes back to its producers. -/
def Sys2Proof.Slice0.TokensAndSlotsArrive : Prop :=
  ∀ (s : State) (r : Rig) (g : Machine.Group), rigMoves s r g →
    (∀ f, r.flight[s.args.k]? = some f → f.lane < r.lanes.length → f.qc < 15 →
      (¬ firstOnPath r s.args.k f → exec .tokenArrival s = .next s) ∧
      (firstOnPath r s.args.k f → f.tok.tag.toNat / 2 ^ 18 % 1024 ≠ r.context.toNat →
        exec .tokenArrival s = .next (s.failRig r 0x0C r.hdr (fabWords r.hdr 2 f.qc f.arc f.lane (f.lane + 1) f.tok.tag))) ∧
      (firstOnPath r s.args.k f → f.tok.tag.toNat / 2 ^ 18 % 1024 = r.context.toNat → ∃ q, exec .tokenArrival s = .next (s.putRig q) ∧
        q = { r with lanes := q.lanes, flight := r.flight.eraseIdx s.args.k } ∧ q.lanes.length = r.lanes.length ∧
        (∀ m c, c < 15 → (q.lane m).queue c 0 =
          if m = f.lane ∧ c = f.qc then (r.lane m).queue c 0 ++ [f.tok] else (r.lane m).queue c 0) ∧
        ∀ m, (q.lane m).acc = (r.lane m).acc ∧ (q.lane m).doneq = (r.lane m).doneq)) ∧
    exec .slotReturn s = .next (s.putRig { r with returns := r.returns.eraseIdx s.args.k })

/-- R226, R228, R276, R409, R410: PORT_REPLY performs the oldest access of a lane: a load of the core's shared store sends the bytes read, a
store changes exactly its bytes, and each sends its done token; an offset outside the segment's range and a failed check leave a
record. Once nothing else of the rig can go on, the record of the lowest lane is delivered and the rig stands open. -/
def Sys2Proof.Slice0.PortsReply : Prop :=
  ∀ (s u : State) (r : Rig) (g : Machine.Group) (a : PortAcc) (p : PortCfg) (w : Word), rigMoves s r g →
    r.accs.find? (fun x => x.lane = s.args.t) = some a → (r.cfg a.lane).port = some p → r.ops[a.lane]? = some w → r.recs = [] →
    let o := opFields w
    let size := p.size
    let off : Int := (p.base.toNat : Int) + (a.idx.val.truncate 32 : Word).toInt * p.stride.toInt
    let src := w.toNat / 2 ^ 24 = 0xF0
    let snk := w.toNat / 2 ^ 24 = 0xF1
    let note := fun (c : Nat) (va : DWord) => PortRec.mk r.hdr a.lane c a.iter p.base p.stride p.value va
    let plain := p.op = 0 ∧ p.order = 0 ∧ p.sh = true ∧ o.w = false ∧ 0 ≤ off ∧ off < 2 ^ 32 ∧ g.out = [] ∧ g.stores = [] ∧ g.tx = none ∧ s.poison = []
    (p.sh = true → o.w = false → (off < 0 ∨ 2 ^ 32 ≤ off) → exec .portReply s = .next (s.putRig { r with
      recs := [note 0x05 (BitVec.ofInt 64 ((g.seg[1].base.toNat : Int) + off))] })) ∧
    (∀ c va, plain → (src ∨ snk) → s.access g .sh off.toNat size 0 (if snk then .store else .load) = (.error (.fault c va), u) →
      exec .portReply s = .next (u.putRig { r with recs := [note c (BitVec.ofNat 64 va)] })) ∧
    (∀ va x, plain → src → o.f = false → (r.lane a.lane).outq = [] → r.destRoom o.dl.val o.dq.val = true →
      s.access g .sh off.toNat size 0 .load = (.ok (va, [⟨.sh g.id.die g.id.core x, size, .d, none⟩]), s) →
      let bs := (List.range size).map fun i => (s.coreD g.id.coreId).shared.read (x + i)
      ∃ q, exec .portReply s = .next (s.putRig q) ∧ q.accs = r.accs.filter (fun y => ¬ (y.lane = a.lane ∧ y.iter = a.iter)) ∧
        q.flight = r.flight ++ sentTo a.lane o.dl.val o.dq.val ⟨loaded size (r.cfg a.lane).f bs, a.idx.tag⟩ ++ doneToken r a.lane a.idx.tag ∧
        (q.returns, q.recs, q.pages, q.chain) = (r.returns, r.recs, r.pages, r.chain)) ∧
    (∀ va x data, plain → snk → a.data = some data → size ≤ 4 → (∀ k ∈ s.cores, k.shared.wf = true) →
      s.access g .sh off.toNat size 0 .store = (.ok (va, [⟨.sh g.id.die g.id.core x, size, .d, none⟩]), s) →
      ∃ t q, exec .portReply s = .next t ∧ wroteShared s t g.id.coreId x ((natToBytes 4 (data.toNat % 2 ^ 32)).take size) ∧
        (∀ y, t.readPa y = s.readPa y) ∧ t.rig? r.group = some q ∧
        q.accs = r.accs.filter (fun y => ¬ (y.lane = a.lane ∧ y.iter = a.iter)) ∧ q.flight = r.flight ++ doneToken r a.lane a.idx.tag)

/-- R409, R410: with records noted and nothing else of the rig able to go on, the record of the lowest lane is delivered to the group at its
SPAT: FAULTADDR is the address that failed, PORT is set, and the rig stands open. -/
def Sys2Proof.Slice0.PortRecordsAreDelivered : Prop :=
  ∀ (s : State) (r : Rig) (g : Machine.Group) (x : PortRec), rigMoves s r g → x ∈ r.recs → (∀ y ∈ r.recs, y ≠ x → x.lane < y.lane) → r.recs.Nodup →
    r.flight = [] → r.returns = [] → (∀ n, n < r.ops.length → s.fireLane r n = none) → (∀ a ∈ r.accs, ∃ y ∈ r.recs, y.lane = a.lane) →
    ∃ rest, rest.Perm (r.recs.erase x) ∧ exec .portReply s = .next ((s.putRig { r with recs := x :: rest, open_ := true }).raise g
      { code := x.code, mask := g.mask, addr := x.va, write := r.portWrites x.lane, widx := r.widx, retpc := r.retpc, retw := r.widx,
        rp := true, port := some x })

/-- R201, R202, R203, R126: at quiescence of the last load its WRREG results are written, its flags join FPSR, pages and claim are given up, and the
group runs on at the header after its SPAT clause; before the last block the next load takes over the pages that it can keep,
under the next context, and a block that a rule rejects is FABRIC_CONFIG; a rig that is not quiescent stays. -/
def Sys2Proof.Slice0.QuiescenceEndsALoad : Prop :=
  ∀ (s : State) (r : Rig) (g : Machine.Group) (b : Block), rigMoves s r g → r.block = some b →
    let c := r.group.coreId
    (r.quiescent = false → exec .quiescence s = .next s) ∧
    (r.quiescent = true → b.last = true → g.restore = none → ∃ t h, exec .quiescence s = .next t ∧ t.group? g.id = some h ∧ t.mem = s.mem ∧
      h.status = .running ∧ h.stage = .header ∧ h.pc = r.retpc + BitVec.ofNat 64 (4 * (r.widx + 1)) ∧
      (∀ k, h.fpsr.getLsbD k = (g.fpsr.getLsbD k || r.flags.getLsbD k)) ∧ (∀ x ∈ (t.coreD c).rigs, x.group ≠ r.group) ∧
      (t.coreD c).claim ≠ some r.group ∧ h.p = g.p ∧
      ((∀ l ∈ r.lanes, l.wr = none) → h.v = g.v ∧ h.s = g.s) ∧
      (∀ n v k x, n < r.lanes.length → (r.lane n).wr = some v → (∀ m, m ≠ n → (r.lane m).wr = none) → (r.cfg n).reg = some (true, k, x) → k < 64 →
        (∀ w, r.ops[n]? = some w → (opFields w).w = false) → ∀ m, h.sget m = if m = k then v.truncate 32 else g.sget m)) ∧
    (∀ n x, r.quiescent = true → b.last = false → r.ahead = .block n → (∀ l ∈ r.lanes, l.wr = none) →
      (s.put g).blockBad g (r.k + 1) r.maxb n.words = some x →
      exec .quiescence s = .next (((s.put g).keepFlags r).failRig r 0x0B n.addr (fabWords n.addr 1 15 0 x.2 x.1 0))) ∧
    (∀ n, r.quiescent = true → b.last = false → r.ahead = .block n → (∀ l ∈ r.lanes, l.wr = none) →
      (s.put g).blockBad g (r.k + 1) r.maxb n.words = none → r.gated = false → r.compact = false → b.mx = false → n.mx = false →
      (s.coreD c).claim = none → n.rigLog = b.rigLog → r.pages.length = 2 ^ b.rigLog → n.granules ≤ b.granules →
      ∃ (t : State) (q : Rig), exec .quiescence s = .next t ∧ t.rig? r.group = some q ∧ q.phase = .config ∧ q.block = some n ∧ q.k = r.k + 1 ∧ q.pages = r.pages ∧
        q.context = (s.coreD c).context + 1 ∧ q.ahead = .none ∧ q.lanes = List.replicate (8 * 2 ^ n.rigLog) {}) ∧
    (r.quiescent = true → b.last = false → r.ahead = .none → (∀ l ∈ r.lanes, l.wr = none) →
      exec .quiescence s = .next ((s.put g).putRig { r with phase := .fetch, next := b.addr + BitVec.ofNat 64 (4 * b.words.length) }))

/-- R204, R205, R405: a rig that is not gated or quiescent, with nothing on its way, no access, no record and no operator that can fire,
is stopped with FABRIC_TOKEN: the record names the first token without a partner, or none. -/
def Sys2Proof.Slice0.StuckRigsStop : Prop :=
  ∀ (s : State) (r : Rig) (g : Machine.Group), rigMoves s r g →
    let stuck := r.gated = false ∧ r.quiescent = false ∧ r.flight = [] ∧ r.returns = [] ∧ r.accs = [] ∧ r.recs = [] ∧
      ∀ n, n < r.ops.length → s.fireLane r n = none
    (¬ stuck → exec .rigStuck s = .next s) ∧
    (stuck → (∀ n k, n < r.lanes.length → k ∈ r.queueKeys n → ((r.lane n).queue k.1 k.2).length ≤ r.matched n k) →
      exec .rigStuck s = .next (s.failRig r 0x0C r.hdr (fabWords r.hdr 3 15 0 0x7F 0 0))) ∧
    (∀ n q t, stuck → n < r.lanes.length → (∀ m k, m < n → k ∈ r.queueKeys m → ((r.lane m).queue k.1 k.2).length ≤ r.matched m k) →
      q < 15 → (∀ p, p < q → ((r.lane n).queue p 0).length ≤ r.matched n (p, 0)) → ((r.lane n).queue q 0)[r.matched n (q, 0)]? = some t →
      exec .rigStuck s = .next (s.failRig r 0x0C r.hdr (fabWords r.hdr 3 q 0 n (n + 1) t.tag)))

/-- R203, R421: of a pre-empted team's rig the chain is gated, unless its drain back to SIMT has begun with no port fault record; once drained, or with nothing
able to move, it stands still as it is. -/
def Sys2Proof.Slice0.RigsAreGatedAndSaved : Prop :=
  ∀ (s : State) (r : Rig) (g : Machine.Group) (u : Team), rigIn s r g .running → s.teamOf g = some u →
    let ends := (∃ b, r.block = some b ∧ b.last = true) ∧ r.sourcesDone = true ∧ r.open_ = false ∧ r.recs = []
    (u.taken = false → exec .rigSave s = .next s) ∧
    (u.taken = true → r.gated = false → ¬ ends → exec .rigSave s = .next (s.putRig { r with gated := true })) ∧
    (r.gated = false → ends → exec .rigSave s = .next s) ∧
    (u.taken = true → r.gated = true → exec .rigSave s = .next (if r.drained then s.putRig { r with phase := .quiet } else s)) ∧
    (r.gated = true → r.flight = [] → r.returns = [] → (∀ n, n < r.ops.length → s.fireLane r n = none) →
      exec .rigSaveTimeout s = .next (s.putRig { r with phase := .quiet })) ∧
    (r.gated = false → exec .rigSaveTimeout s = .next s)

/-! ### Performed accesses, lines, translations and portals (R135, R146, R282 to R298, R333 to R350, R390, R391, R401) -/

/-- R28, R135, R282, R286, R293, R305: LOAD_PERFORM of one thread's load of the device's memory: on a D or U line its result holds the
bytes that stand there; on an S line the bytes of the core's L1 where that holds the whole access, else its dirty bytes in the L1 and for
the rest those that stand in memory, which the L1 then holds clean where it has room. Nothing else of the group and no byte of memory
changes. A load behind a link that is down, or denied by the peer, is that thread's late fault LINK_LOST or POISON. -/
def Sys2Proof.Slice0.LoadPerformReturnsTheBytes : Prop :=
  ∀ (s : State) (g : Machine.Group) (o : Outst) (t : Target) (size pa : Nat) (signed : Bool) (cls : Coh), s.due = some (g, o, t) →
    o.kind = .load size signed none → t.pieces = [⟨.pa pa, size, cls, none⟩] → s.blocked g o.seq t.thread t.pieces true false = false →
    (isHbm pa = true → cls ≠ .s → g.stores = [] → g.tx = none → s.poison = [] → s.awaitsAck g.id.die ⟨.pa pa, size, cls, none⟩ = false →
      ∃ u, exec .loadPerform s = .next u ∧ (∀ a, u.readPa a = s.readPa a) ∧ u.group? g.id = some (g.putOut { o with
        todo := o.todo.filter fun x => x.thread ≠ t.thread
        res := o.res ++ [(t.thread, loadWords size signed ((List.range size).map fun i => s.readPa (pa + i)))] })) ∧
    (isHbm pa = true → cls = .s → g.stores = [] → g.tx = none → s.poison = [] → s.awaitsAck g.id.die ⟨.pa pa, size, cls, none⟩ = false →
      let l1 := fun (v : State) (i : Nat) => (v.coreD g.id.coreId).l1s.find? fun b => b.pa = pa + i
      let whole := ∀ i, i < size → l1 s i ≠ none
      ∃ (u : State) (bs : List Byte), exec .loadPerform s = .next u ∧ bs.length = size ∧ (∀ a, u.readPa a = s.readPa a) ∧
        u.group? g.id = some (g.putOut { o with
          todo := o.todo.filter fun x => x.thread ≠ t.thread
          res := o.res ++ [(t.thread, loadWords size signed bs)] }) ∧
        ∀ i, i < size →
          (∀ b, l1 s i = some b → (whole ∨ b.dirty = true) → bs[i]? = some b.val ∧ l1 u i = some b) ∧
          (¬ whole → (∀ b, l1 s i = some b → b.dirty = false) → bs[i]? = some (s.readPa (pa + i)) ∧
            ((s.coreD g.id.coreId).l1Room (lineOf (pa + i)) = true → l1 u i = some ⟨pa + i, s.readPa (pa + i), false⟩))) ∧
    (∀ code, ((s.linkUp pa = false ∧ code = 0x09) ∨ (s.linkUp pa = true ∧ isPeer pa = true ∧ s.args.ok = false ∧ code = 0x08)) →
      exec .loadPerform s = .next (s.put (g.putOut { o with
        todo := o.todo.filter fun x => x.thread ≠ t.thread
        late := o.late ++ [(t.thread, code, t.va)] })))

namespace Sys2Proof.Slice0

open Sys2Proof Sys2Proof.Machine

/-- Memory after FP32 addends have been added to words of it, one after another (R338). -/
def addWords (s : State) : List (Nat × List Byte) → State
  | [] => s
  | (pa, bs) :: ws => addWords (s.writePaBytes pa (natToBytes 4 (addOn .f32 (s.paNat pa 4) (bytesToNat bs)))) ws

/-- The word and the addend of an add-on-store of one word. -/
def wordOf (x : StoreReq) : Option (Nat × List Byte) :=
  match x.parts with
  | [(p, bs)] => match p.spot with
    | .pa a => if p.len = 4 ∧ bs.length = 4 ∧ a % 4 = 0 ∧ isHbm a = true then some (a, bs) else none
    | _ => none
  | _ => none

end Sys2Proof.Slice0

/-- R66, R67, R332, R333, R338, R341: ATOMIC_PERFORM on the device's memory, with no other copy of the line left, returns the old value and writes
the operation's result, exactly there; LINE_ADD_ON_STORE adds the words of a beat's threads in one line as one step, in some order, each as an
FP32 sum; a portal's completion performs the operation beyond it, on the bytes that the state holds of that memory unless the step says others (log
entry 12), or is the thread's late fault REMOTE_ATOMIC or LINK_LOST. -/
def Sys2Proof.Slice0.AtomicsPerformAtTheHome : Prop :=
  (∀ (s : State) (g : Machine.Group) (o : Outst) (t : Target) (op : AtomOp) (size pa : Nat) (sc : Scope), s.due = some (g, o, t) →
    o.kind = .atomic op size sc .rlx → t.pieces = [⟨.pa pa, size, .d, none⟩] → s.blocked g o.seq t.thread t.pieces false false = false →
    s.poison = [] → g.out = [o] → o.held = [] → g.tx = none →
    let old := s.paNat pa size
    let operands := atomArgs op size t.args
    let done := fun (e : Instr) => ∃ u, exec e s = .next u ∧ wroteBytes s u pa ((atomValue op size old operands.1 operands.2).map (natToBytes size)) ∧
      u.group? g.id = some { g with out := [{ o with
        todo := o.todo.filter fun x => x.thread ≠ t.thread
        res := o.res ++ [(t.thread, natWords size old)] }] }
    (isHbm pa = true → (∀ c ∈ s.cores, c.l1s = []) → s.exclusive none (lineOf pa) = true → done .atomicPerform) ∧
    ((isHost pa = true ∨ isPeer pa = true) →
      (s.args.reply = .done → s.args.data = none → s.linkUp pa = true → (∀ c ∈ s.cores, c.l1s = []) → s.ownable none pa = true → done .portalCompletion) ∧
      (s.args.reply = .refused → exec .portalCompletion s = .next (s.put (g.putOut { o with
        todo := o.todo.filter fun x => x.thread ≠ t.thread
        late := o.late ++ [(t.thread, 0x0A, t.va)] }))) ∧
      (s.args.reply = .lost → s.args.ok = false → exec .portalCompletion s = .next (s.put (g.putOut { o with
        todo := o.todo.filter fun x => x.thread ≠ t.thread
        late := o.late ++ [(t.thread, 0x09, t.va)] }))))) ∧
  ∀ (s : State) (g : Machine.Group) (x : StoreReq) (pa : Nat) (b : List Byte), s.group? s.args.group = some g →
    g.storeReq? s.args.k s.args.t = some x → x.add = true → Slice0.wordOf x = some (pa, b) →
    g.stores.Pairwise (fun y z => y.seq ≠ z.seq ∨ y.thread ≠ z.thread) → (∀ c ∈ s.cores, c.l1s = []) → s.exclusive none (lineOf pa) = true →
    let mates := g.stores.filter fun y => decide (y.add = true ∧ y.seq = x.seq ∧ y.thread / 32 = x.thread / 32 ∧
      ∃ w ∈ Slice0.wordOf y, lineOf w.1 = lineOf pa)
    (∀ y ∈ g.stores, y.add = true → y.seq = x.seq → y.rel = none ∧ (Slice0.wordOf y).isSome = true) →
    (∀ y ∈ mates, s.blocked g y.seq y.thread y.pieces false false = false) →
    ∃ u h ws, exec .lineAddOnStore s = .next u ∧ u.group? g.id = some h ∧ h.stores = (g.stores.filter fun y => !mates.contains y) ∧
      ws.Perm (mates.filterMap Slice0.wordOf) ∧ ∀ a, u.readPa a = (Slice0.addWords s ws).readPa a

/-- R283, R284, R285: an invalidation in flight drops its die's copies of the line; its acknowledgement, once they are dropped, takes the die
out of the directory and the invalidation away; the eviction of a directory entry sends one to every listed copy; a dirty L2 line goes
back to its home, a clean one is dropped. No byte of memory changes. -/
def Sys2Proof.Slice0.InvalidationsRunTheirCourse : Prop :=
  ∀ (s : State),
    (∀ i d, s.invals[s.args.k]? = some i → i.die = some d → ∃ t, exec .coherenceInvalidation s = .next t ∧ t.mem = s.mem ∧ t.dir = s.dir ∧
      t.invals = s.invals.set s.args.k { i with dropped := true } ∧ (∀ x, x ∈ t.l2 ↔ x ∈ s.l2 ∧ ¬ (x.die = d ∧ x.line = i.line)) ∧
      ∀ c, c.id.die = d → c ∈ t.cores → i.line ∉ c.l1d) ∧
    (∀ i d, s.args.x ≠ 1 → s.invals[s.args.k]? = some i → i.die = some d →
      (i.dropped = false → exec .invalidationAck s = .next s) ∧
      (i.dropped = true → ∃ t, exec .invalidationAck s = .next t ∧ t.mem = s.mem ∧ t.invals = s.invals.eraseIdx s.args.k ∧
        (∀ x, x ∈ (t.dirOf i.line).dies ↔ x ∈ (s.dirOf i.line).dies ∧ x ≠ d) ∧ (∀ l, l ≠ i.line → t.dirOf l = s.dirOf l) ∧ t.l2 = s.l2)) ∧
    (let line := s.args.pa / 128 * 128
     ∃ t, exec .directoryEviction s = .next t ∧ t = { s with invals := t.invals } ∧ keepsInvals s t ∧
      (∀ d ∈ (s.dirOf line).dies, ∃ i ∈ t.invals, i.line = line ∧ i.die = some d) ∧
      ((s.dirOf line).host = true → ∃ i ∈ t.invals, i.line = line ∧ i.die = none)) ∧
    (let line := s.args.pa / 128 * 128
     s.args.ok = true →
      (⟨s.args.n, line, .dirty⟩ ∈ s.l2 → ∃ t, exec .lineWriteback s = .next t ∧ t.mem = s.mem ∧
        (∀ x ∈ t.l2, ¬ (x.die = s.args.n ∧ x.line = line)) ∧ s.args.n ∉ (t.dirOf line).dies) ∧
      (∀ st, ⟨s.args.n, line, st⟩ ∈ s.l2 → st ≠ .dirty → ∃ t, exec .cleanLineDrop s = .next t ∧ t.mem = s.mem ∧ t.dir = s.dir ∧
        ∀ x ∈ t.l2, ¬ (x.die = s.args.n ∧ x.line = line)))

/-- R282, R286, R417: the write-back of a line waits for the invalidations of other copies, then puts a core's dirty S bytes at their places and leaves them clean; the drop of a line takes its
clean copies out of the core's L1, and a transaction that marks it sees CAPACITY, unless it is one of those whose marks stay. A PUBLISH whose earlier
accesses are performed completes. -/
def Sys2Proof.Slice0.CoresGiveUpTheirCopies : Prop :=
  ∀ (s : State), s.args.ok = false →
    let line := s.args.pa / 128 * 128
    let c := s.args.core
    (∀ b, (s.coreD c).l1s = [b] → b.dirty = true → b.pa / 128 * 128 = line → s.ownable (some c.die) b.pa = false →
      ∃ t, exec .lineWriteback s = .next t ∧ t = { s with invals := t.invals } ∧ keepsInvals s t) ∧
    (∀ b, (s.coreD c).l1s = [b] → b.dirty = true → b.pa / 128 * 128 = line → s.ownable (some c.die) b.pa = true → ∃ t, exec .lineWriteback s = .next t ∧
      wroteBytes s t b.pa (some [b.val]) ∧ (t.coreD c).l1s = [{ b with dirty := false }]) ∧
    ((∀ g ∈ s.groups, g.id.coreId = c → ∀ t, g.tx = some t → line ∈ t.lines → t.small = false) → ∃ t, exec .cleanLineDrop s = .next t ∧
      t.mem = s.mem ∧ line ∉ (t.coreD c).l1d ∧
      (∀ x ∈ (t.coreD c).l1s, x ∈ (s.coreD c).l1s ∧ (x.dirty = true ∨ x.pa / 128 * 128 ≠ line)) ∧
      (∀ x ∈ (s.coreD c).l1s, (x.dirty = true ∨ (x.pa / 128 * 128 ≠ line ∧ ∀ g ∈ s.groups, g.tx = none)) → x ∈ (t.coreD c).l1s) ∧
      (∀ x ∈ (t.coreD c).icache, x.1 / 128 * 128 ≠ line) ∧
      ∀ i g y, s.group? i = some g → g.id.coreId = c → g.tx = some y → line ∈ y.lines → y.seen = none →
        ∃ h z, t.group? i = some h ∧ h.tx = some z ∧ z.seen = some (2, 0)) ∧
    ((∃ g ∈ s.groups, g.id.coreId = c ∧ ∃ t, g.tx = some t ∧ line ∈ t.lines ∧ t.small = true) → exec .cleanLineDrop s = .next s) ∧
    ∀ g o sc lo hi, s.args.x = 1 → s.group? s.args.group = some g → g.out.find? (fun o => o.seq = s.args.k) = some o → o.kind = .publish sc lo hi →
      o.ready = false → g.tx = none →
      (g.settledBefore o.seq = false → exec .invalidationAck s = .next s) ∧
      (g.settledBefore o.seq = true → sc ≠ .grp → (∀ k ∈ s.cores, k.l1s = []) → ∃ t, exec .invalidationAck s = .next t ∧
        t.group? g.id = some (g.putOut { o with ready := true }) ∧ t.mem = s.mem)

/-- R146, R298, R350, R390, R391, R392: a walk of a mapped address fills the core's and its die's caches; TLBINV completes with no cached
translation of its page, or of its context, left in its scope; an HMASK value is applied, and the group whose SWR wrote it goes on. That one walk fills both caches is log entry 9's. That a TLBINV
at .core empties its die's second-level TLB too is read from R146's last sentence (no access by any core within the scope can use an
older translation), since that core's accesses are served by the die's (log entry 9, DEDUCED). -/
def Sys2Proof.Slice0.TranslationsAreCachedAndDropped : Prop :=
  ∀ (s : State),
    (∀ p, s.walk s.args.n s.args.x.toNat = .page p → s.args.core.die < 8 → ∃ t, exec .pageWalk s = .next t ∧
      (t.coreD s.args.core).tlb.head? = some ⟨s.args.n, p.base, p.size, p.pte, p.entry⟩ ∧
      (t.dieTlb[s.args.core.die]?.getD []).head? = some ⟨s.args.n, p.base, p.size, p.pte, p.entry⟩ ∧ t.mem = s.mem ∧ t.groups = s.groups) ∧
    ((∀ p, s.walk s.args.n s.args.x.toNat ≠ .page p) → exec .pageWalk s = .next s) ∧
    (∀ g o sc all va, s.group? s.args.group = some g → g.out.find? (fun o => o.seq = s.args.k ∧ o.ready = false) = some o → o.kind = .tlbinv sc all va →
      (∃ k ∈ s.cores, k.id = g.id.coreId) →
      let hit := fun (e : TlbEntry) => e.ctx = g.ctx ∧ (all = true ∨ (e.base ≤ va.toNat ∧ va.toNat < e.base + e.size))
      ∃ t, exec .tlbinvComplete s = .next t ∧ t.group? g.id = some (g.putOut { o with ready := true }) ∧ t.mem = s.mem ∧
        (∀ e ∈ (t.coreD g.id.coreId).tlb ++ (t.coreD g.id.coreId).walkTlb, ¬ hit e) ∧
        (sc = .dev ∨ sc = .sys → (∀ k ∈ t.cores, ∀ e ∈ k.tlb, ¬ hit e) ∧ ∀ d : Fin 8, ∀ e ∈ t.dieTlb[d], ¬ hit e) ∧
        (∀ d : Fin 8, d.val = g.id.die → ∀ e ∈ t.dieTlb[d], ¬ hit e) ∧
        (sc = .core ∨ sc = .die → ∀ d : Fin 8, d.val ≠ g.id.die → t.dieTlb[d] = s.dieTlb[d])) ∧
    (∀ r, s.hmaskQ[s.args.k]? = some r → r.stack < 12 → r.i < 6 → ∃ t, exec .hmaskApply s = .next t ∧ t.hmaskQ = s.hmaskQ.eraseIdx s.args.k ∧
      (∀ (a : Fin 12) (b : Fin 6), t.hmask[a][b] = if a.val = r.stack ∧ b.val = r.i then r.val else s.hmask[a][b]) ∧
      ∀ i g w, r.group = some i → s.group? i = some g → g.wait = some w → w.kind = .hmask → t.group? i = some g.unhold)

/-- R401: when the time of a port's completions runs out, each access outstanding through it is its thread's late fault LINK_LOST, and each
store through it is discarded; accesses through no port stay. -/
def Sys2Proof.Slice0.TimeoutsLoseTheirAccesses : Prop :=
  ∀ (s : State) (i : GroupId) (g : Machine.Group) (o : Outst), s.group? i = some g → (∀ u ∈ s.teams, u.sleep = none) → g.out = [o] → o.held = [] →
    (∀ h ∈ s.groups, h.stores = []) → o.kind.accesses = true →
    let through := fun (t : Target) => t.pieces.any fun p => match p.spot with
      | .pa a => s.through s.args.port a
      | _ => false
    ∃ u h q, exec .completionTimeout s = .next u ∧ u.group? i = some h ∧ h.out = [q] ∧
      (o.todo.Pairwise (fun x y => x.thread ≠ y.thread) → q.todo = o.todo.filter (fun t => !through t) ∧
        q.late = o.late ++ (o.todo.filter through).map fun t => (t.thread, 0x09, t.va)) ∧
      { h with out := g.out } = g

/-- R288, R303, R326, R327, R342, R445 to R448: the host reads and writes device memory through the HDM decoder at the line's home, once no
compute die holds the line, and not while an operation of the device for which a back-invalidation has yielded is not performed; outside
the decoder, or with its port down, the access completes with an error. An AtomicOp that the device accepts is one read-modify-write, ahead of a back-invalidation in flight on the line; it first has the copies of compute dies
invalidated; any other, and any through a port that is down, is aborted. A snoop gives up the device's copies of the line; a back-invalidation's response
applies the data that the host held and ends it. Bytes are held once, at the home (log entry 8), and of host memory the state holds an
image (log entry 12). -/
def Sys2Proof.Slice0.TheHostReachesTheDevice : Prop :=
  ∀ (s : State),
    let done := fun (ok : Bool) (bs : List Byte) => s.outbox ++ [OutMsg.completion ok bs]
    (∀ a bs, s.hostLink.state = .up → s.args.data = some bs → s.hdmAddr s.args.pa bs.length = some a → 0 < bs.length → a % 128 + bs.length ≤ 128 →
      lineOf a ∉ s.owed → s.backInval (lineOf a) = none → (s.dirOf (lineOf a)).dies = [] → (∀ i ∈ s.invals, i.line ≠ lineOf a) → s.watchers = [] →
      (∀ u ∈ s.teams, u.sleep = none) → ∃ t, exec .hostMemAccess s = .next t ∧ t.outbox = done true [] ∧ wroteBytes s t a (some bs)) ∧
    (∀ a, s.hostLink.state = .up → s.args.data = none → s.hdmAddr s.args.pa s.args.n = some a → 0 < s.args.n → a % 128 + s.args.n ≤ 128 →
      lineOf a ∉ s.owed → s.backInval (lineOf a) = none → s.poison = [] → ∃ t, exec .hostMemAccess s = .next t ∧ t.outbox = done true (s.paBytes a s.args.n) ∧
        t.mem = s.mem ∧ (s.args.ok = true → (t.dirOf (lineOf a)).host = true)) ∧
    (∀ a k i, s.hostLink.state = .up → s.args.data = none → s.hdmAddr s.args.pa s.args.n = some a → 0 < s.args.n → a % 128 + s.args.n ≤ 128 →
      lineOf a ∉ s.owed → s.backInval (lineOf a) = some k → s.invals[k]? = some i → s.poison = [] →
      (i.yielded = true → exec .hostMemAccess s = .next s) ∧
      (i.yielded = false → ∃ t, exec .hostMemAccess s = .next t ∧ t.outbox = done true (s.paBytes a s.args.n) ∧ t.mem = s.mem ∧
        t.invals[k]? = some { i with yielded := true })) ∧
    (∀ a, let n := (s.args.data.map List.length).getD s.args.n
      s.hostLink.state = .up → s.hdmAddr s.args.pa n = some a → 0 < n → a % 128 + n ≤ 128 → lineOf a ∈ s.owed → exec .hostMemAccess s = .next s) ∧
    ((s.hostLink.state ≠ .up ∨ s.hdmAddr s.args.pa ((s.args.data.map List.length).getD s.args.n) = none) →
      exec .hostMemAccess s = .next { s with outbox := done false [] }) ∧
    (let n := s.args.n
     let a := s.args.pa
     let ok := (((s.args.atom = .fetchAdd ∨ s.args.atom = .swap) ∧ (n = 4 ∨ n = 8)) ∨ (s.args.atom = .cas ∧ (n = 4 ∨ n = 8 ∨ n = 16)))
     (s.hostLink.state = .up → ok → isHbm a = true → s.backed a = true → a % n = 0 → s.poison = [] → lineOf a ∉ s.owed → (s.dirOf (lineOf a)).dies = [] →
      (∀ i ∈ s.invals, i.line = lineOf a → i.die = none ∧ i.yielded = false) → s.watchers = [] → (∀ u ∈ s.teams, u.sleep = none) →
      let old := s.paNat a n
      let x := (atomOperands s.args).1 % 2 ^ (8 * n)
      ∃ t, exec .hostAtomicOp s = .next t ∧ t.outbox = done true (natToBytes n old) ∧ wroteBytes s t a (match s.args.atom with
        | .fetchAdd => some (natToBytes n ((old + x) % 2 ^ (8 * n)))
        | .swap => some (natToBytes n x)
        | _ => if old = (atomOperands s.args).2 % 2 ^ (8 * n) then some (natToBytes n x) else none)) ∧
     (s.hostLink.state = .up → ok → isHbm a = true → s.backed a = true → a % n = 0 → s.poison = [] → lineOf a ∉ s.owed → (s.dirOf (lineOf a)).dies ≠ [] →
      ∃ t, exec .hostAtomicOp s = .next t ∧ t = { s with invals := t.invals } ∧ keepsInvals s t ∧
        ∀ d ∈ (s.dirOf (lineOf a)).dies, ∃ i ∈ t.invals, i.line = lineOf a ∧ i.die = some d) ∧
     (s.hostLink.state ≠ .up ∨ ¬ ok ∨ (isHbm a = false ∧ isCap a = false) ∨ s.backed a = false ∨ a % n ≠ 0 ∨ s.poisoned (.pa a) n = true → exec .hostAtomicOp s = .next { s with outbox := done false [] })) ∧
    (isHost s.args.pa = true → let line := s.args.pa / 128 * 128
      ∃ t, exec .hostSnoop s = .next t ∧ t.mem = s.mem ∧ t.outbox = done true (s.paBytes line 128) ∧ ∀ x ∈ t.l2, x.die < 8 → x.line ≠ line) ∧
    (∀ i, s.invals[s.args.k]? = some i → i.die = none → s.watchers = [] → (∀ u ∈ s.teams, u.sleep = none) → ∃ t, exec .biResponse s = .next t ∧
      t.invals = s.invals.eraseIdx s.args.k ∧ (t.dirOf i.line).host = false ∧ (i.yielded = true → i.evict = false → i.line ∈ t.owed) ∧
      wroteBytes s t i.line (s.args.data.map (List.take 128)))

/-! ### Links, chains, contexts, the register space and the checkpoint (R370, R371, R428 to R456) -/

namespace Sys2Proof.Slice0

open Sys2Proof Sys2Proof.Machine

/-- Only the link of a port differs, in nothing but what `f` says. -/
def linkBecomes (s t : State) (p : Port) (f : Link → Link) : Prop :=
  t.link p = f (s.link p) ∧ ∀ q, q ≠ p → t.link q = s.link q

/-- The sum of two elements of a chain's kind (R66, R370). -/
def stageSum (kind x y : Nat) : Nat :=
  match kind with
  | 0 => (addElem .f32 .rne x y).1
  | 1 => (addElem .f64 .rne x y).1
  | 2 => ((List.range 4).map fun i => (addElem .bf16 .rne (x / 2 ^ (16 * i) % 65536) (y / 2 ^ (16 * i) % 65536)).1 * 2 ^ (16 * i)).sum
  | 3 => (x + y) % 2 ^ 32
  | _ => (x + y) % 2 ^ 64

/-- Nothing in the state waits for a write: no sleeper, no watcher, no open transaction. -/
abbrev calm (s : State) : Prop :=
  (∀ u ∈ s.teams, u.sleep = none) ∧ s.watchers = [] ∧ (∀ g ∈ s.groups, g.tx = none ∧ g.out = [] ∧ g.stores = [])

end Sys2Proof.Slice0

/-- R371, R401, R434, R454: RETRAIN takes a link to TRAINING once the device is READY; training ends with UP or FAILED; DOWNEN and a failure take it
DOWN or to FAILED; a lane remap uses up the spare lane, and without one the link fails. No other link changes, and the running chains whose next
or previous stage lies behind a link that leaves UP are stopped. -/
def Sys2Proof.Slice0.LinksChangeState : Prop :=
  ∀ (s : State), s.migrations = [] → calm s →
    let p := s.args.port
    let drops := fun (e : Instr) (st : LinkState) => ∃ t, exec e s = .next t ∧ linkBecomes s t p (fun l => { l with state := st }) ∧ t.psc = s.psc ∧
      (∀ k : Fin 16, s.chains[k].state = .running → s.chains[k].isLast = false → s.chains[k].ndev ≠ s.devidx →
        s.through p (2 ^ 48 + s.chains[k].ndev * 2 ^ 40) = true → t.chains[k].state = .stopped) ∧
      (∀ (k : Fin 16) (d : Nat), s.chains[k].state = .running → s.chains[k].feeder = some d → d ≠ s.devidx →
        s.through p (2 ^ 48 + d * 2 ^ 40) = true → t.chains[k].state = .stopped)
    (s.psc.boot = .ready → ∃ t, exec .linkRetrain s = .next t ∧ linkBecomes s t p (fun l => { l with state := .training }) ∧ t.mem = s.mem) ∧
    (s.psc.boot ≠ .ready → exec .linkRetrain s = .next s) ∧
    ((s.link p).state = .training → s.args.ok = true → ∃ t, exec .linkTrained s = .next t ∧ linkBecomes s t p (fun l => { l with state := .up }) ∧
      t.mem = s.mem) ∧
    ((s.link p).state = .training → s.args.ok = false → drops .linkTrained .failed) ∧
    ((s.link p).state ≠ .training → exec .linkTrained s = .next s) ∧
    ((s.link p).state ≠ .down → drops .linkDownEnable .down) ∧
    drops .linkFailure (if s.args.ok then .failed else .down) ∧
    ((s.link p).spare = 0 → drops .laneRemap .failed) ∧
    ((s.link p).spare ≠ 0 → ∃ t, exec .laneRemap s = .next t ∧ linkBecomes s t p (fun l => { l with spare := l.spare - 1 }) ∧ t.mem = s.mem)

/-- R441, R443: EN := 1 of a slot that is off takes it to RUNNING, or to REFUSED where R441 refuses its words; RST takes a stopped slot to IDLE with
round 0 and no other; a stopped slot stays stopped until RST. Its other words stay, and so does every other slot. -/
def Sys2Proof.Slice0.ChainSlotsAreSet : Prop :=
  ∀ (s : State) (k : Fin 16), s.args.k = k.val →
    let h := s.chains[k]
    let words := fun (c : Chain) => (c.ctl, c.len, c.apbase, c.ctx, c.nextDev, c.dest, c.done)
    let only := fun (t : State) (c : Chain) => t = { s with chains := s.chains.set k c } ∧ words c = words h
    (s.psc.boot = .ready → h.en = false → ∃ t c, exec .chainSlotEnable s = .next t ∧ only t c ∧ c.en = true ∧ c.round = h.round ∧
      (c.localElems, c.incoming, c.sent, c.feeder) = ([], [], [], none) ∧ (h.state = .stopped → c.state = .stopped) ∧
      (h.state ≠ .stopped → (c.state = .refused ↔ h.bad ((s.ctx? (h.ctx.toNat % 256)).isSome) = true) ∧
        (c.state = .refused ∨ c.state = .running))) ∧
    ((s.psc.boot ≠ .ready ∨ h.en = true) → exec .chainSlotEnable s = .next s) ∧
    (h.state = .stopped → ∃ t c, exec .chainSlotReset s = .next t ∧ only t c ∧ c.en = h.en ∧ c.state = .idle ∧ c.round = 0) ∧
    (h.state ≠ .stopped → exec .chainSlotReset s = .next s)

/-- R66, R370, R371, R441, R443: a running stage of a chain of which every stage runs, at an offset sends its local element, at the first stage as it is and at later ones added to the element that
came; to the next stage on this device, or at the last stage to DEST in memory, with the round counted after the last offset. An element
that is not there yet waits, and so does a chain of which a stage on this device is not enabled or does not run (of the stages of
other devices the step says it: log entry 46), and the last stage while a checkpoint's images are made; a failed link stops every stage of
the chain on this device, and a TSTORE with bytes for it that are not accepted takes the copy fault LINK_LOST. -/
def Sys2Proof.Slice0.ChainStagesAdd : Prop :=
  ∀ (s : State) (k : Fin 16), s.args.k = k.val → s.chains[k].state = .running → s.args.n % s.chains[k].elem = 0 → s.args.n < s.chains[k].len.toNat →
    let h := s.chains[k]
    let o := s.args.n
    (s.args.ok = false → ∃ t, exec .chainStageAdd s = .next t ∧ t.mem = s.mem ∧ ∀ i : Fin 16, s.chains[i].state = .running → s.chains[i].cid = h.cid →
      t.chains[i].state = .stopped) ∧
    (∀ (c : Core) (x : Copy) (u : Team) (i : Fin 16), s.args.ok = false → s.cores = [c] → c.copies = [x] → x.store = true → x.moved = false → x.left < 16 →
      x.row < x.rows → s.team? x.task x.lin = some u → (u.xb[x.xb]?.getD {}).fcode = 0 →
      let y := rowSpan x.tensor x.org x.row
      y.count ≠ 0 → s.aperture c.id.die (ctxOf x.task) y.off (elemBytes x.tensor.fmt y.count) = some i → s.chains[i].state = .running →
      s.chains[i].cid = h.cid → ∃ t v, exec .chainStageAdd s = .next t ∧ (t.coreD c.id).copies = [] ∧ t.team? x.task x.lin = some v ∧
        v.xb = u.xb.setIfInBounds x.xb { (u.xb[x.xb]?.getD {}) with
          fcode := 0x09
          faddr := BitVec.ofNat 64 (x.seg.base.toNat + y.off)
          fwrite := true }) ∧
    (s.args.ok = true → s.args.data = none → o ∉ h.sent → (∀ x ∈ h.localElems, x.1 ≠ o) → exec .chainStageAdd s = .next s) ∧
    (s.args.ok = true → s.args.data = none → s.chainStarted h = false → exec .chainStageAdd s = .next s) ∧
    (∀ (i : Fin 16), s.chains[i].en = true → s.chains[i].cid = h.cid → s.chains[i].stage ≤ h.nstg → s.chains[i].state ≠ .running → s.chainStarted h = false) ∧
    (∀ (i : Fin 16), s.chains[i].en = true → s.chains[i].cid = h.cid → s.chains[i].stage < s.chains[i].nstg → s.chains[i].ndev = s.devidx →
      (∀ j : Fin 16, s.chains[j].en = true → s.chains[j].cid = h.cid → s.chains[j].stage = s.chains[i].stage + 1 → s.chains[j].die ≠ s.chains[i].ndie) →
      s.chainStarted h = false) ∧
    (∀ i : Fin 16, s.chains[i].en = false → s.chains[i].cid = h.cid → s.chains[i].nstg = h.nstg →
      (∀ j : Fin 16, s.chains[j].en = true → s.chains[j].cid = h.cid → s.chains[j].stage ≠ s.chains[i].stage) → s.chainStarted h = false) ∧
    (h.stage = h.nstg → s.args.ok = true → s.args.data = none → s.held = true → (∀ u ∈ s.teams, u.live = 0) → exec .chainStageAdd s = .next s) ∧
    (∀ (y : DWord) (rest : List (Nat × DWord)) (x : DWord) (back : List (Nat × DWord)), s.args.ok = true → s.args.data = none → s.chainStarted h = true → o ∉ h.sent →
      h.localElems = (o, y) :: rest → (if h.stage = 0 then h.incoming = back else h.incoming = (o, x) :: back) →
      let v := if h.stage = 0 then y.toNat else stageSum h.kind x.toNat y.toNat
      let last := (h.sent.length + 1) * h.elem = h.len.toNat
      let after := { h with localElems := rest, incoming := back, sent := if last then [] else o :: h.sent, round := if last then h.round + 1 else h.round }
      (∀ i : Fin 16, h.stage < h.nstg → h.ndev = s.devidx → i ≠ k → s.nextStage h = some i →
        (h.stage = 0 → ∀ z ∈ h.incoming, z.1 ≠ o) →
        exec .chainStageAdd s = .next { s with chains := (s.chains.set k after).set i { s.chains[i] with
          incoming := s.chains[i].incoming ++ [(o, BitVec.ofNat 64 v)] } }) ∧
      (h.stage = h.nstg → s.held = false → (h.stage = 0 → ∀ z ∈ h.incoming, z.1 ≠ o) → s.ownableAll none [(h.dest.toNat + o, h.elem)] = true → ¬ last →
        ∃ t, exec .chainStageAdd s = .next t ∧ t.chains = s.chains.set k after ∧ wroteBytes s t (h.dest.toNat + o) (some (natToBytes h.elem v))) ∧
      (h.stage = h.nstg → s.held = false → (h.stage = 0 → ∀ z ∈ h.incoming, z.1 ≠ o) → s.ownableAll none [(h.dest.toNat + o, h.elem), (h.done.toNat, 8)] = true → last →
        ∃ t, exec .chainStageAdd s = .next t ∧ t.chains = s.chains.set k after ∧
          let u := s.writePaBytes (h.dest.toNat + o) (natToBytes h.elem v)
          wroteBytes u t h.done.toNat (some (natToBytes 8 (u.paNat h.done.toNat 8 + 1)))))

/-- R393, R431: EN := 1 of a context entry that is off, once the device is READY, makes the context's descriptor the running one, as it stands in memory
now; EN := 0 leaves no task, team queue entry or saved team of the context. That EN := 1 has no effect before READY is log entry
46's choice. -/
def Sys2Proof.Slice0.ContextsAreEnabledAndDisabled : Prop :=
  ∀ (s : State) (n : Fin 256) (d : DWord), s.args.n = n.val →
    (s.ctxReg[n] = (false, d) → s.psc.boot = .ready → ∃ c, exec .contextEnable s = .next { s with ctxReg := s.ctxReg.set n (true, d), ctxs := s.ctxs ++ [c] } ∧
      c.n = n.val ∧ c.desc = d.toNat % 2 ^ 52 ∧ c.root = s.paNat c.desc 8 ∧ c.fe = (s.paNat (c.desc + 8) 4).testBit 0 ∧
      c.priv = (s.paNat (c.desc + 8) 4).testBit 1 ∧ c.ldie = s.paNat (c.desc + 12) 4 ∧ c.arena.toNat = s.paNat (c.desc + 16) 8 ∧
      c.nslot = s.paNat (c.desc + 24) 4 ∧ c.window = s.paNat (c.desc + 32) 8 ∧ c.save = s.paNat (c.desc + 40) 8 ∧ c.savesz = s.paNat (c.desc + 48) 8 ∧
      c.head = 0) ∧
    (s.ctxReg[n] = (false, d) → s.psc.boot ≠ .ready → exec .contextEnable s = .next s) ∧
    (s.ctxReg[n] = (true, d) → ∃ t, exec .contextDisable s = .next t ∧ t.ctxReg[n] = (false, d) ∧ (∀ c ∈ t.ctxs, c.n ≠ n.val) ∧
      (∀ x ∈ t.tasks, x.key / 2 ^ 32 ≠ n.val) ∧ ∀ v ∈ t.saved, v.team.task / 2 ^ 32 ≠ n.val) ∧
    (s.ctxReg[n] = (false, d) → exec .contextDisable s = .next s)

/-- R428, R431, R434, R436, R446: the host's read of listed words gives them; an access that is not of 4 or 8 aligned bytes inside the space completes
with an error; a write sets an inbound word, a context's descriptor word, IDX while no UALink port is UP, an HDM word while HDM is off,
and has no effect on the capability words. -/
def Sys2Proof.Slice0.TheRegisterSpaceIsWritten : Prop :=
  ∀ (s : State), s.args.k = 0 →
    let o := s.args.pa
    let run := exec .registerSpaceWrite s
    ((o % 4 ≠ 0 ∨ s.args.n ≠ 4) → s.args.data = none → s.args.n ≠ 8 → run = .next { s with outbox := s.outbox ++ [.completion false []] }) ∧
    (o % 4 = 0 → o < 0x2000000 → s.args.n = 4 → s.args.data = none →
      run = .next { s with outbox := s.outbox ++ [.completion true (natToBytes 4 (s.regWord o).toNat)] }) ∧
    (∀ w : Word, s.args.data = some (natToBytes 4 w.toNat) →
      (∀ n : Fin 256, o = 0x30000 + 4 * n.val → run = .next { s with inbound := s.inbound.set n (w.truncate 3) }) ∧
      (∀ n : Fin 256, o = 0x10000 + 16 * n.val →
        let e := (s.ctxReg[n].1, w.zeroExtend 64 ||| (s.ctxReg[n].2 &&& 0xFFFFFFFF00000000#64))
        run = .next { s with ctxReg := s.ctxReg.set n e }) ∧
      (o = 0x20000 → (∀ i : Fin 16, s.ua[i].state ≠ .up) → run = .next { s with devidx := w.toNat % 256 }) ∧
      (o = 0x20000 → (∃ i : Fin 16, s.ua[i].state = .up) → run = .next s) ∧
      (o = 0x50000 → s.hdm.enabled = false →
        let h : Hdm := { s.hdm with hbase := w.zeroExtend 64 ||| (s.hdm.hbase &&& 0xFFFFFFFF00000000#64) }
        run = .next { s with hdm := h }) ∧
      (o = 0x50000 → s.hdm.enabled = true → run = .next s) ∧
      (o < 0x30 → o % 4 = 0 → run = .next s))

/-- R3, R5, R36, R429, R450, R454, R455, R465: EN := 1 of a capacity decoder whose setting does not overlap one that is enabled on its port takes effect
and counts in CAPTIER, with PM as its targets report; CYC of one core counts one and no other core's does; a slice leaves its count; a corrected error is logged with no other effect, an uncorrectable one poisons
its ECC word, in the memory or in the cache that holds it; scrubs change nothing; a groom loads, and then trains, repairs rows, uses up spare pseudo-channels and reports, or
does not answer and its stack leaves service. -/
def Sys2Proof.Slice0.TheDeviceIsServiced : Prop :=
  ∀ (s : State),
    (s.stale = [] → ∃ t, exec .cycIncrement s = .next t ∧ t.mem = s.mem ∧ t.groups = s.groups ∧ (∀ c, c ≠ s.args.core → t.coreD c = s.coreD c) ∧
      t.coreD s.args.core = { s.coreD s.args.core with cyc := (s.coreD s.args.core).cyc + 1 }) ∧
    (∀ k : Fin 16, s.args.k = k.val → s.psc.boot = .ready → s.decoderOk k.val (s.decoders[k] ||| 0x8000000000000000#64) = true →
      ∃ t d, exec .capacityDecoderEnable s = .next t ∧ t.decoders = s.decoders.set k d ∧ d.getLsbD 63 = true ∧
        (let v := s.decoders[k].toNat
         d.getLsbD 62 = true ↔ ∀ i, i < 2 ^ (v / 2 ^ 60 % 4) → v / 2 ^ 56 % 16 + i < 16 ∧
           let x := s.expanders.toArray.getD (16 * (k.val / 8) + (v / 2 ^ 56 % 16 + i)) 0
           x.getLsbD 14 = true ∧ x.getLsbD 13 = true) ∧
        d.toNat % 2 ^ 62 = decoderBits s.decoders[k].toNat ∧ t.caps.gib = gibSum (s.decoders.set k d).toList ∧ t.mem = s.mem) ∧
    (∀ d : Fin 8, s.args.n = d.val → s.args.ok = true → exec .sliceRetire s = .next { s with caps := { s.caps with l2s := s.caps.l2s.set d (s.caps.l2s[d] - 1) } }) ∧
    (s.args.ok = false → exec .sliceRetire s = .next { s with caps := { s.caps with l3s := s.caps.l3s - 1 } }) ∧
    (exec .eccCorrectableError s = .next { s with psc := { s.psc with log := s.psc.log ++ [(if s.args.ok then 0 else 4, s.args.pa)] } }) ∧
    (let pa := s.args.pa
     let c := s.args.core
     let e := Poison.cell (Spot.pa (s.cellOf pa)).ecc
     let word := pa / Config.eccBytes * Config.eccBytes
     (s.args.n = 0 → s.args.ok = true → isHbm pa = true → e ∉ s.poison → ∃ t, exec .eccUncorrectableError s = .next t ∧
       t.poison = e :: s.poison ∧ t.mem = s.mem ∧ ((∀ x ∈ s.l2, x.line = lineOf pa → x.state ≠ .dirty) → t.poisoned (.pa pa) 1 = true)) ∧
     (s.args.n = 0 → s.args.ok = false → pa < 524288 → Poison.cell (Spot.sh c.die c.core pa).ecc ∉ s.poison →
       ∃ t, exec .eccUncorrectableError s = .next t ∧ t.poisoned (.sh c.die c.core pa) 1 = true ∧ t.cores = s.cores) ∧
     (s.args.n = 1 → ∃ t, exec .eccUncorrectableError s = .next t ∧ t.mem = s.mem ∧ t.cores = s.cores ∧
       ∀ i, i < Config.eccBytes → (lineOf (word + i) ∈ (s.coreD c).l1d ∨ ∃ b ∈ (s.coreD c).l1s, b.pa = word + i) → Poison.l1 c (word + i) ∈ t.poison) ∧
     (s.args.n = 2 → (∃ x ∈ s.l2, x.die = c.die ∧ x.line = lineOf pa) → ∃ t, exec .eccUncorrectableError s = .next t ∧ t.mem = s.mem ∧
       t.l2 = s.l2 ∧ Poison.l2 c.die word ∈ t.poison) ∧
     (s.args.n = 3 → ∃ t, exec .eccUncorrectableError s = .next t ∧ t.mem = s.mem ∧ t.cores = s.cores ∧
       ∀ x ∈ (s.coreD c).icache, word ≤ x.1 → x.1 < word + Config.eccBytes → Poison.ic c x.1 ∈ t.poison)) ∧
    exec .scrubInterval s = .next s ∧
    ((s.psc.boot = .init ∨ s.psc.boot = .ready) → ∀ k : Fin 12, s.args.k = k.val →
      let g := s.grooms[k]
      let becomes := fun (e : Instr) (x : Groom) => exec e s = .next { s with grooms := s.grooms.set k x }
      let leaves := fun (e : Instr) => ∃ t, exec e s = .next t ∧ t = { s with caps := { s.caps with inService := t.caps.inService } } ∧
        ∀ i, i < 12 → t.caps.inService.getLsbD i = (s.caps.inService.getLsbD i && decide (i ≠ k.val))
      (s.args.ok = true → becomes .groomLoad { g with loaded := true }) ∧ (s.args.ok = false → leaves .groomLoad) ∧
      (∀ e, e ∈ [Instr.groomTrain, .groomRowRepair, .groomPcSpare, .groomScrub, .groomTelemetry] →
        (g.loaded = false → exec e s = .next s) ∧ (g.loaded = true → s.args.reply = .lost → leaves e)) ∧
      (g.loaded = true → s.args.reply ≠ .lost →
        (s.args.ok = true → becomes .groomTrain { g with trained := true }) ∧ (s.args.ok = false → leaves .groomTrain) ∧
        becomes .groomRowRepair { g with rows := g.rows ++ [s.args.n] } ∧
        (0 < g.pcSpares → becomes .groomPcSpare { g with pcSpares := g.pcSpares - 1, pcs := g.pcs ++ [s.args.n] }) ∧
        (g.pcSpares = 0 → s.args.ok = true → exec .groomPcSpare s = .next { s with psc := { s.psc with log := s.psc.log ++ [(3, k.val)] } }) ∧
        (g.pcSpares = 0 → s.args.ok = false → leaves .groomPcSpare) ∧ exec .groomScrub s = .next s ∧
        exec .groomTelemetry s = .next { s with psc := { s.psc with readings := s.psc.readings + 1 } }))

/-- R451, R452, R453: SAVE without its memory fails at once; with it, it runs, holds launches and starts and takes every resident team; LOAD
with a context enabled or a link down fails; a running save ends with failure where a capacity link is down, waits for teams that are not saved,
takes the copy of one granule now, and ends done with both images and records made and everything held going on. That a SAVE without
its memory fails at once, and that a granule is copied with the rest unless the step copies it before, are log entry 53's choices. -/
def Sys2Proof.Slice0.CheckpointsRunTheirCourse : Prop :=
  ∀ (s : State), s.psc.boot = .ready →
    let covered := s.imageCovered 0 = true ∧ s.imageCovered 1 = true
    let up := ∀ i : Fin 2, s.capLink[i].state = .up
    let resumed := fun (t : State) (st : CkptState) => t.held = false ∧ t.ckpt.state = st ∧ ∀ u ∈ t.teams, u.taken = false
    (s.ckpt.state ≠ .running → ¬ covered → exec .checkpointSave s = .next { s with ckpt := { s.ckpt with state := .failed, loading := false } }) ∧
    (s.ckpt.state ≠ .running → covered → (∀ k ∈ s.cores, k.retired = false) → ∃ t, exec .checkpointSave s = .next t ∧ t.held = true ∧
      t.ckpt = { s.ckpt with state := .running, loading := false, early := [] } ∧ (∀ u ∈ t.teams, u.live ≠ 0 → u.taken = true) ∧ t.mem = s.mem) ∧
    (s.ckpt.state ≠ .running → (s.ctxs ≠ [] ∨ ¬ up ∨ ¬ covered) →
      exec .checkpointLoad s = .next { s with ckpt := { s.ckpt with state := .failed, loading := true } }) ∧
    (s.ckpt.state ≠ .running → s.ctxs = [] → up → covered → s.recordFits 0 = true → s.recordFits 1 = true → ∃ t, exec .checkpointLoad s = .next t ∧
      t.ckpt = { s.ckpt with state := .done, loading := true } ∧ t.mem = ((s.copyImage 0 true).copyImage 1 true).mem) ∧
    (s.ckpt.state = .running → (s.args.ok = false ∨ ¬ up) → ∃ t, exec .checkpointCopyDone s = .next t ∧ resumed t .failed ∧ t.mem = s.mem) ∧
    (s.ckpt.state = .running → s.args.ok = true → up → s.held = true → (∃ u ∈ s.teams, u.live ≠ 0) → exec .checkpointCopyDone s = .next s) ∧
    (s.ckpt.state = .running → s.args.ok = true → up → s.held = true → (∀ u ∈ s.teams, u.live = 0) →
      (∃ k ∈ s.cores, s.backable k.id (fun _ => true) = false) → ∃ t, exec .checkpointCopyDone s = .next t ∧ t = { s with invals := t.invals }) ∧
    (s.ckpt.state = .running → s.args.ok = true → up → s.held = true → (∀ u ∈ s.teams, u.live = 0) →
      (∀ k ∈ s.cores, s.backable k.id (fun _ => true) = true) → ∃ t, exec .checkpointCopyDone s = .next t ∧ (∀ x ∈ t.l2, x.state ≠ .dirty) ∧
      (s.args.t = 0 → resumed t .done ∧ t.ckpt.elapsed = s.args.x ∧ t.ckpt.early = [] ∧ ((∀ k ∈ s.cores, k.l1s = []) →
        let v := s.copyImages
        ∀ x, t.readPa x = ((v.writePaBytes (v.ckptTarget 0 + v.imageSize 0) v.ckptRecord).writePaBytes
          (v.ckptTarget 1 + v.imageSize 1) v.ckptRecord).readPa x)) ∧
      (s.args.t ≠ 0 → t.ckpt.state = .running ∧ t.held = true ∧ ((∀ k ∈ s.cores, k.l1s = []) → t.mem = s.mem) ∧
        let a := s.args.pa / 128 * 128
        t.ckpt.early = (a, t.paBytes a 128) :: s.ckpt.early.filter fun x => x.1 ≠ a))

/-- R435 to R438: a request of a peer that its inbound word does not allow is logged and denied; one that it allows is performed at this device's
home: a load returns the bytes, a store writes them once no other copy is left, an access outside the device's memory fails, and a
TSUCC of the peer counts one more predecessor of a TEMPLATE here. With every port down nothing arrives. That a peer's read takes no
back-invalidation is log entry 46's choice. -/
def Sys2Proof.Slice0.PeersReachTheDevice : Prop :=
  ∀ (s : State) (dev : Fin 256), s.args.n = dev.val →
    let done := fun (ok : Bool) (bs : List Byte) => s.outbox ++ [OutMsg.completion ok bs]
    ((∀ i : Fin 16, s.ua[i].state ≠ .up) → exec .peerRequest s = .next s) ∧
    ((∃ i : Fin 16, s.ua[i].state = .up) →
      (∀ pa n, s.args.peer = .load pa n →
        (s.inbound[dev].getLsbD 0 = false → ∃ t, exec .peerRequest s = .next t ∧ t.mem = s.mem ∧ t.outbox = s.outbox ++ [.denied dev.val] ∧
          t.psc.log = s.psc.log ++ [(2, dev.val)]) ∧
        (s.inbound[dev].getLsbD 0 = true → 0 < n → s.poison = [] → pa + n ≤ 768 * 2 ^ 30 →
          exec .peerRequest s = .next { s with outbox := done true (s.paBytes pa n) }) ∧
        (s.inbound[dev].getLsbD 0 = true → 0 < n → 768 * 2 ^ 30 < pa + n → pa + n < 2 ^ 42 → exec .peerRequest s = .next { s with outbox := done false [] })) ∧
      (∀ pa bs, s.args.peer = .store pa bs → s.inbound[dev].getLsbD 1 = true → 0 < bs.length → pa + bs.length ≤ 768 * 2 ^ 30 →
        s.exclusive none (lineOf pa) = true → s.watchers = [] → (∀ u ∈ s.teams, u.sleep = none) →
        ∃ t, exec .peerRequest s = .next t ∧ t.outbox = done true [] ∧ wroteBytes s t pa (some bs)) ∧
      (∀ x, s.args.peer = .predIncrement x →
        (s.inbound[dev].getLsbD 2 = false → ∃ t, exec .peerRequest s = .next t ∧ t.mem = s.mem ∧ t.outbox = s.outbox ++ [.denied dev.val]) ∧
        ∀ q, s.inbound[dev].getLsbD 2 = true → s.tcbPa s.args.k x = some q → s.ownTask x = true →
          (s.linkable s.args.k x = false → exec .peerRequest s = .next { s with outbox := done false [] }) ∧
          (s.linkable s.args.k x = true → s.exclusive none (lineOf (q + 0x24)) = true → s.watchers = [] → (∀ u ∈ s.teams, u.sleep = none) →
            ∃ t, exec .peerRequest s = .next t ∧ t.outbox = done true [] ∧
              wroteBytes s t (q + 0x24) (some (natToBytes 4 (s.paNat (q + 0x24) 4 + 1))))))

/-! ### The PSC: boot, commands, telemetry (R457 to R469) -/

namespace Sys2Proof.Slice0

open Sys2Proof Sys2Proof.Machine

/-- A command completes with a status, and nothing but the mailbox's registers and `f`'s change (R460). -/
def completes (s : State) (code : BitVec 16) (status : Nat) (f : State → State) : Out :=
  let t := f s
  .next { t with psc := { t.psc with code := code, busy := false, status := status } }

/-- The mailbox's first argument words replaced. -/
def answers (s : State) (ws : List DWord) : State :=
  { s with psc := { s.psc with args := Vector.ofFn fun i : Fin 8 => (ws[i.val]?).getD s.psc.args[i] } }

/-- The number of an argument word. -/
def arg (s : State) (i : Fin 8) : Nat := (s.psc.args[i]).toNat

/-- A counter burned toward a value: whole, or by the fuses that were blown before one did not read back (R458). -/
def counted (old want n : Nat) (ok : Bool) : Nat := if ok = true then max old want else max old (min want (old + n))

end Sys2Proof.Slice0

/-- R428, R460, R463, R464: bytes stored in the staging window stand there in WAITING; in REJECTED the window is cleared first and the state is WAITING
again; in any other state they are ignored. FWLOAD starts the verification, whose end is INIT with the image's FWSVN, or REJECTED with
its status and the window cleared; an image that breaks R464 is FORMAT, one for a later revision REVISION. INIT ends READY, with the masks, links,
counts, expanders and grooms that the firmware found and the stacks that no groom has lost, or FAILED with a reason of R463. That an
FWLOAD of more than 8 MiB is BADARG is log entry 54's choice. -/
def Sys2Proof.Slice0.FirmwareBoots : Prop :=
  ∀ (s : State),
    (∀ bs, s.args.data = some bs → (bs.length = 4 ∨ bs.length = 8) → s.args.k % bs.length = 0 → s.args.k + bs.length ≤ 8388608 →
      let stored := fun (m : Memory) (b : BootState) => ∃ t, exec .stagingWindowWrite s = .next t ∧ t = { s with psc := { s.psc with boot := b, staging := t.psc.staging } } ∧
        ∀ x, t.psc.staging.read x = if s.args.k ≤ x ∧ x < s.args.k + bs.length then bs.getD (x - s.args.k) 0 else m.read x
      (s.psc.boot = .waiting → s.psc.staging.wf = true → stored s.psc.staging .waiting) ∧
      (s.psc.boot = .rejected → stored [] .waiting) ∧
      (s.psc.boot ≠ .waiting → s.psc.boot ≠ .rejected → exec .stagingWindowWrite s = .next s)) ∧
    (s.psc.busy = false → s.psc.boot = .waiting → arg s 0 ≤ 8388608 →
      exec .fwload s = .next { s with psc := { s.psc with code := 1, busy := true, boot := .verifying, imageLen := arg s 0 } }) ∧
    (s.psc.busy = false → s.psc.boot = .waiting → 8388608 < arg s 0 → exec .fwload s = completes s 1 2 id) ∧
    (s.psc.busy = false → s.psc.boot ≠ .waiting → exec .fwload s = completes s 1 1 id) ∧
    (s.psc.boot = .verifying →
      let b := s.psc.staging.readBytes 0 s.psc.imageLen
      let st := s.fwStatus b s.psc.imageLen
      (st = 0 → exec .firmwareVerified s = completes s 1 0 fun s => { s with psc := { s.psc with boot := .init, fwsvn := bytesToNat ((b.drop 12).take 4) } }) ∧
      (st ≠ 0 → exec .firmwareVerified s = completes s 1 st fun s => { s with psc := { s.psc with boot := .rejected, reason := st, staging := [] } }) ∧
      (b.take 8 ≠ [0x44, 0x58, 0x46, 0x57, 0, 0, 1, 0] → st = 3) ∧
      (st = 0 → bytesToNat ((b.drop 16).take 4) ≤ Config.rev.toNat ∧ s.fuses.fwsvn.val ≤ bytesToNat ((b.drop 12).take 4))) ∧
    (s.psc.boot = .init →
      (∀ x, s.args.boot = .failed x → exec .firmwareInitDone s = .next (if x = 0x0A ∨ 0x80 ≤ x.toNat then
        { s with psc := { s.psc with boot := .failed, reason := x.toNat } } else s)) ∧
      (∀ live caps masks found, s.args.boot = .ready live caps masks found → ∃ t, exec .firmwareInitDone s = .next t ∧ t.psc = { s.psc with boot := .ready } ∧
        t.caps.inService = live &&& s.caps.inService ∧ t.caps.l3s = min 128 found.l3s ∧ (∀ i : Fin 8, t.caps.cores[i] = min 320 (found.cores.getD i.val 320) ∧
          t.caps.spare[i] = min 16 (found.spare.getD i.val 16) ∧ t.caps.l2s[i] = min 48 (found.l2s.getD i.val 48)) ∧
        (∀ i : Fin 32, let x := found.expanders.getD i.val 0
          t.expanders[i] = if x.getLsbD 14 = true then x &&& 0x7FFF else 0) ∧ t.hostLink.state = .up ∧ t.mem = s.mem ∧ t.fuses = s.fuses ∧
        (∀ i : Fin 2, t.capLink[i].state = if caps.getLsbD i.val then .up else .down) ∧
        (∀ (i : Fin 12) (j : Fin 6), t.hmask[i][j] = masks.getD (6 * i.val + j.val) 0) ∧
        ∀ i : Fin 12, t.caps.inService.getLsbD i.val = true → t.grooms[i].trained = true))

/-- R457, R458, R461, R462, R466: CODEVERIFY of a container answers its status, and where that is OK its slot, CODESVN and digest, and keeps the highest
CODESVN accepted; SVNCOMMIT burns a counter up to what was accepted, never down; KEYPROG fills an empty slot, KEYREVOKE revokes a programmed
one; a fuse that does not read back is FUSE. Each answers BADARG for arguments outside its range, BADCMD before READY, and does nothing while
the mailbox is busy. BADARG of a container outside HBM4E, and FUSE of a KEYPROG whose burn fails with the slot left empty, are log
entry 54's choices. -/
def Sys2Proof.Slice0.KeysAndVersionsAreKept : Prop :=
  ∀ (s : State),
    (∀ e ∈ [Instr.fwload, .codeverify, .svncommit, .keyprog, .keyrevoke, .health, .pscRetire, .pscKill], s.psc.busy = true → exec e s = .next s) ∧
    (s.psc.busy = false → s.psc.boot ≠ .ready →
      exec .codeverify s = completes s 2 1 id ∧ exec .svncommit s = completes s 3 1 id ∧ exec .keyprog s = completes s 4 1 id ∧
      exec .keyrevoke s = completes s 5 1 id ∧ exec .pscRetire s = completes s 0x11 1 id ∧ exec .pscKill s = completes s 0x12 1 id) ∧
    (s.psc.busy = false → s.psc.boot = .ready →
      let a := arg s 0
      let n := arg s 1
      ((768 * 2 ^ 30 < a + n ∨ 768 * 2 ^ 30 ≤ a) → exec .codeverify s = completes s 2 2 id) ∧
      (n = 0 → a < 768 * 2 ^ 30 → exec .codeverify s = completes s 2 3 id) ∧
      (0 < n → a + n ≤ 768 * 2 ^ 30 →
        let b := s.paBytes a n
        let st := s.codeStatus b n
        let k := bytesToNat ((b.drop 16).take 4)
        let v := bytesToNat ((b.drop 12).take 4)
        (b.take 8 ≠ [0x41, 0x4D, 0x43, 0x49, 0x41, 0, 1, 0] → st = 3) ∧ (32 < v → st = 3) ∧
        (st ≠ 0 → exec .codeverify s = completes s 2 st id) ∧
        (st = 0 → ∃ (acc : Vector Nat 4) (digest : List DWord), digest.length = 6 ∧
          (∀ i : Fin 4, acc[i] = if i.val = k then max v s.psc.accepted[i] else s.psc.accepted[i]) ∧
          exec .codeverify s = completes s 2 0 fun s =>
            answers { s with psc := { s.psc with accepted := acc } } (BitVec.ofNat 64 k :: BitVec.ofNat 64 v :: digest))) ∧
      (let st := if s.args.ok then 0 else 0x0A
       (a = 0 → s.psc.fwsvn ≤ 128 → ∃ v : Fin 129, v.val = counted s.fuses.fwsvn.val s.psc.fwsvn s.args.n s.args.ok ∧
        exec .svncommit s = completes s 3 st fun s => answers { s with fuses := { s.fuses with fwsvn := v } } [BitVec.ofNat 64 v.val]) ∧
       (∀ k : Fin 4, a = k.val + 1 → s.psc.accepted[k] ≤ 32 → ∃ v : Fin 33, v.val = counted s.fuses.csvn[k].val s.psc.accepted[k] s.args.n s.args.ok ∧
        exec .svncommit s = completes s 3 st fun s =>
          answers { s with fuses := { s.fuses with csvn := s.fuses.csvn.set k v } } [BitVec.ofNat 64 v.val]) ∧
       (4 < a → exec .svncommit s = completes s 3 2 id) ∧
       (3 < a → exec .keyprog s = completes s 4 2 id ∧ exec .keyrevoke s = completes s 5 2 id) ∧
       ∀ k : Fin 4, a = k.val →
        (s.fuses.okh[k] = 0 →
          let h := BitVec.ofNat 384 (bytesToNat ((List.range 6).flatMap fun i => natToBytes 8 (((s.psc.args[i + 1]?).getD 0).toNat)))
          (s.args.ok = true → exec .keyprog s = completes s 4 0 fun s => { s with fuses := { s.fuses with okh := s.fuses.okh.set k h } }) ∧
          (s.args.ok = false → exec .keyprog s = completes s 4 0x0A id) ∧ exec .keyrevoke s = completes s 5 2 id) ∧
        (s.fuses.okh[k] ≠ 0 →
          (s.args.ok = true → exec .keyrevoke s = completes s 5 0 fun s => { s with fuses := { s.fuses with okrev := s.fuses.okrev.set k true } }) ∧
          (s.args.ok = false → exec .keyrevoke s = completes s 5 0x0A id) ∧ exec .keyprog s = completes s 4 2 id)))

/-- R461, R469: HEALTH answers a telemetry page of eight words, or BADARG past page 15; RETIRE and KILL act as the register's and answer OK; PLDM sends a
page; a command code that is not listed is BADCMD. Pages 2 and 3 count the logged errors of each stack, 5 and 6 are the expanders'
words; the order of the words of pages 2 to 4 is log entry 13's choice. -/
def Sys2Proof.Slice0.ThePscReports : Prop :=
  ∀ (s : State), s.psc.busy = false →
    ((s.psc.boot = .init ∨ s.psc.boot = .ready) →
      (arg s 0 ≤ 15 → (s.page (arg s 0)).length = 8 ∧ exec .health s = completes s 0x10 0 fun s => answers s (s.page (arg s 0))) ∧
      (15 < arg s 0 → exec .health s = completes s 0x10 2 id) ∧
      (∀ n, 7 ≤ n → s.page n = List.replicate 8 0) ∧
      (s.page 4).take 5 = BitVec.ofNat 64 s.fuses.fwsvn.val :: s.fuses.csvn.toList.map (fun x => BitVec.ofNat 64 x.val) ∧
      (∀ n i : Nat, (n = 2 ∨ n = 3) → i < 12 → ((s.page n).getD (i / 2) 0).extractLsb' (32 * (i % 2)) 32 =
        BitVec.ofNat 32 (s.psc.log.filter fun x => decide (x.1 = n - 2 ∧ x.2 / 2 ^ 36 = i)).length) ∧
      (∀ i : Fin 32, ((s.page (5 + i.val / 16)).getD (i.val % 16 / 2) 0).extractLsb' (32 * (i.val % 2)) 32 = s.expanders[i]) ∧
      exec .pldmRequest s = .next { s with outbox := s.outbox ++ [.telemetry (s.page s.args.n)] }) ∧
    (s.psc.boot = .ready →
      exec .pscRetire s = (completes s 0x11 0 fun s => s.retireCore ⟨arg s 0 / 2 ^ 16 % 8, arg s 0 % 512⟩) ∧
      exec .pscKill s = completes s 0x12 0 fun s => s.killTask (arg s 1) (BitVec.ofNat 32 (arg s 0)) 0 0) ∧
    (s.args.k < 65536 → s.args.k ∉ [1, 2, 3, 4, 5, 16, 17, 18] → exec .unlistedCommand s = completes s (BitVec.ofNat 16 s.args.k) 1 id)

/-! ### Pre-emption, migration, kills, retirement, resets (R40, R170, R171, R246, R300, R301, R395 to R398, R418 to R425, R458, R463) -/

/-- R171, R418: a pre-emption that has waited long enough takes exactly the teams chosen to make room, where their saves fit the pool; where a
core of the die has room for the waiting team, or no choice makes room, nothing is taken. The teams chosen are the fewest of the candidates in
their order: those of lower priority first, among them the lowest priority first and the most recently started first. -/
def Sys2Proof.Slice0.PreemptionTakesTheChosenTeams : Prop :=
  ∀ (s : State) (r : Ready), s.ready[s.args.k]? = some r →
    let c := s.args.core
    let fits := ∃ i, i < s.coresOf c.die ∧ (s.tryEntry ⟨c.die, i⟩ r).isSome = true
    let going := ((s.teams.filter fun u => u.core = c ∧ u.taken = true).flatMap s.withAbove).dedup
    let chosen := s.victims c r going (s.candidates c r)
    ((r.die ≠ c.die ∨ fits ∨ chosen = none) → exec .preemptionTimeout s = .next s) ∧
    (r.die = c.die → ¬ fits → ∀ vs, chosen = some vs →
      let new := s.teams.filter fun u => u.taken = false ∧ vs.contains (u.task, u.lin) = true
      (s.poolHas new = false → exec .preemptionTimeout s = .next s) ∧
      (s.poolHas new = true → ∃ t, exec .preemptionTimeout s = .next t ∧ t = { s with teams := t.teams } ∧ t.teams.length = s.teams.length ∧
        (∀ (i : Nat) (u : Team), s.teams[i]? = some u → t.teams[i]? = some { u with taken := u.taken || vs.contains (u.task, u.lin) }) ∧
        ((s.without vs).tryEntry c r).isSome = true)) ∧
    (∀ u ∈ s.candidates c r, u.core = c ∧ u.taken = false ∧ (((s.task? u.task).map Task.eprio).getD 0 < s.entryPrio r ∨ s.waitsOnMember u r = true)) ∧
    (let e := fun (u : Team) => ((s.task? u.task).map Task.eprio).getD 0
     (s.candidates c r).Pairwise fun x y => e y < s.entryPrio r → e x < e y ∨ (e x = e y ∧ y.started ≤ x.started)) ∧
    (∀ u ∈ s.teams, u.core = c → u.live ≠ 0 → u.taken = false → ((s.task? u.task).map Task.eprio).getD 0 < s.entryPrio r → u ∈ s.candidates c r) ∧
    ∀ vs, chosen = some vs →
      let first := fun (n : Nat) => going ++ ((s.candidates c r).take n).flatMap s.withAbove
      ∃ n, n ≤ (s.candidates c r).length ∧ vs = first n ∧ ∀ m, m < n → ((s.without (first m)).tryEntry c r).isSome = false

/-- R419, R420, R423: a taken team whose groups are all taken, with no team above it and no engine at work for it, is saved where the pool has room:
it leaves its core with its groups, and its shared-store bytes, its groups and its place in the queues are kept; without room it runs on,
and so do its rigs (log entry 47).
While a group is not yet taken the save waits. -/
def Sys2Proof.Slice0.TeamsAreSaved : Prop :=
  ∀ (s : State) (u : Team), s.team? (keyOf s.args.n s.args.task) s.args.t = some u →
    let mine := fun (g : Machine.Group) => g.task = u.task ∧ g.lin = u.lin
    let ready := u.taken = true ∧ (∀ f ∈ (s.coreD u.core).frames, f.waiter ≠ (u.task, u.lin)) ∧ s.engineBusy u = false ∧ ∀ g ∈ s.groups, mine g → s.takeable g = true
    (¬ ready → exec .teamSave s = .next s) ∧
    (ready → s.poolHas [u] = false → s.ckpt.state ≠ .running → ∃ t, exec .teamSave s = .next t ∧ t.groups = s.groups ∧ t.mem = s.mem ∧
      t.teams = s.teams.map (fun x => if x.task = u.task ∧ x.lin = u.lin then { x with taken := false } else x) ∧
      ∀ g r, s.group? r.group = some g → s.teamOf g = some u → r ∈ (s.coreD u.core).rigs → (r.phase = .quiet ∨ r.phase = .running) →
        { r with phase := .running, gated := false } ∈ (t.coreD u.core).rigs) ∧
    (ready → s.poolHas [u] = true → u.sleep = none → (∀ k ∈ s.cores, k.l1s = [] ∧ k.frames = [] ∧ k.rigs = []) →
      ∃ t v, exec .teamSave s = .next t ∧ t.saved = s.saved ++ [v] ∧ t.ready = s.ready ++ [⟨u.core.die, u.task, u.lin, 1, true⟩] ∧ t.mem = s.mem ∧
        (∀ x, x ∈ t.teams ↔ x ∈ s.teams ∧ ¬ (x.task = u.task ∧ x.lin = u.lin)) ∧ (∀ g, mine g → g ∉ t.groups) ∧ v.die = u.core.die ∧
        v.team = { u with sleep := none, taken := false, depth := 0 } ∧ v.groups.length = (s.groups.filter fun g => decide (mine g)).length ∧
        (∀ g ∈ s.groups, mine g → g.status = .running → g.tx = none → { g with turn := false } ∈ v.groups) ∧
        v.bytes = (List.range u.shLen).map fun i => (s.coreD u.core).shared.read (u.shBase + i))

/-- R399, R420: a core that the queues give a saved team takes it back: its shared-store bytes stand in its new allocation, its groups hold their registers
in their new slots, and a late mask, which is due at once wherever the group goes on (TRAP_ENTRY and CLAUSE_START deliver it), and the team
leaves the save pool and the queues. -/
def Sys2Proof.Slice0.TeamsAreRestored : Prop :=
  ∀ (s : State) (v : Saved) (slot base : Nat) (g : Machine.Group),
    let c := s.args.core
    s.nextStart c (s.ready.filter fun r => r.die = s.args.n ∧ (r.saved = true ∨ s.args.n = c.die)) = some (.back v ([slot], base)) →
    v.groups = [g] → v.rigs = [] → v.team.live ≠ 0 → v.bytes.length = v.team.shLen → (∀ k ∈ s.cores, k.l1s = [] ∧ k.shared.wf = true) →
    ∃ t h, exec .teamRestore s = .next t ∧ t.mem = s.mem ∧ h ∈ t.groups ∧ h.id = ⟨c.die, c.core, slot⟩ ∧
      (h.v, h.s, h.p, h.x, h.pc, h.fpsr, h.fpmode, h.retpc) = (g.v, g.s, g.p, g.x, g.pc, g.fpsr, g.fpmode, g.retpc) ∧
      (h.status, h.stage, h.clause, h.lateMask, h.lateCtrs, h.lateRec, h.fault, h.replay, h.restore, h.resume) =
        (g.status, g.stage, g.clause, g.lateMask, [], g.lateRec, g.fault, g.replay, g.restore, g.resume) ∧
      (∃ u ∈ t.teams, u.task = v.team.task ∧ u.lin = v.team.lin ∧ u.core = c ∧ u.shBase = base ∧ u.live = v.team.live) ∧
      (∀ i, i < v.team.shLen → (t.coreD c).shared.read (base + i) = v.bytes.getD i 0) ∧
      (∀ w ∈ t.saved, ¬ (w.team.task = v.team.task ∧ w.team.lin = v.team.lin)) ∧
      ∀ r ∈ t.ready, ¬ (r.saved = true ∧ r.task = v.team.task ∧ r.first = v.team.lin)

/-- R300, R301, R391, R397, R398, R447: a migration that completes leaves the list, its leaf entry names the new frame with V and AC set, and DT for a write, and a
group that waited for it alone replays its word for the threads that missed; it waits while a copy of a line of the frame or of the entry, or the
host's copy of a line of the source, is listed. A
migration whose copy fails is abandoned: the entry stays as it was, unmarked. While a checkpoint's images are made none ends. -/
def Sys2Proof.Slice0.MigrationsEnd : Prop :=
  ∀ (s : State) (m : Migration) (c : Ctx), s.migrations = [m] → s.args.k = 0 → s.ctx? m.ctx = some c →
    let held := fun (e : DirEntry) => (m.frame ≤ e.line ∧ e.line < m.frame + m.bytes) ∨
      (e.host = true ∧ m.backing ≤ e.line ∧ e.line < m.backing + m.bytes) ∨ e.line = lineOf m.entry
    (s.held = true → (∀ u ∈ s.teams, u.live = 0) → exec .migrationComplete s = .next s) ∧ (s.held = false →
    (s.args.ok = true → s.migrationLinks m = true → (∃ e ∈ s.dir, held e) →
      ∃ t, exec .migrationComplete s = .next t ∧ t.migrations = s.migrations ∧ t.mem = s.mem ∧ t.groups = s.groups) ∧
    (s.args.ok = true → s.migrationLinks m = true → (∀ e ∈ s.dir, ¬ held e) → calm s → m.waiters = [] →
      let u := (s.copyFrame m.backing m.frame m.bytes).deviceWrite none (.pa m.entry) (natToBytes 8 m.newEntry.toNat)
      (∀ v, u.ringPush (c.desc + 0xA0) (natToBytes 8 (m.backing + sizeIndex m.size)) = some v →
        exec .migrationComplete s = .next { v with migrations := [] }) ∧
      (u.ringPush (c.desc + 0xA0) (natToBytes 8 (m.backing + sizeIndex m.size)) = none → exec .migrationComplete s = .next s)) ∧
    (m.newEntry.toNat % 2 ^ 40 = m.frame / 4096 % 2 ^ 40 ∨ 2 ^ 52 ≤ m.frame) ∧ m.newEntry.getLsbD 63 = true ∧ m.newEntry.getLsbD 50 = true ∧
    (m.wr = true → m.newEntry.getLsbD 49 = true) ∧
    (∀ g k, s.args.ok = true → s.migrationLinks m = true → s.dir = [] → m.waiters = [g.id] → s.group? g.id = some g → g.status = .migrating → g.replay = some k →
      g.tx = none → g.out = [] → (∀ u ∈ s.teams, u.sleep = none) →
      ∀ v, ((s.copyFrame m.backing m.frame m.bytes).deviceWrite none (.pa m.entry) (natToBytes 8 m.newEntry.toNat)).ringPush (c.desc + 0xA0)
        (natToBytes 8 (m.backing + sizeIndex m.size)) = some v →
      ∃ t h, exec .migrationComplete s = .next t ∧ t.migrations = [] ∧ t.group? g.id = some h ∧ h.status = .running ∧ h.replay = none ∧ h.missed = [] ∧
        h.restore = some (g.restore.getD g.mask) ∧ h.mask = k ∧ h.stage = g.stage ∧ h.clause = g.clause ∧ h.v = g.v) ∧
    ((s.args.ok = false ∨ s.migrationLinks m = false) → m.waiters = [] → m.copies = [] → m.lanes = [] → calm s → ∃ t, exec .migrationComplete s = .next t ∧
      t.migrations = [] ∧ wroteBytes s t m.entry (some (natToBytes 8 m.pte.toNat))))

/-- R246, R395, R424: a kill ends every team of the task at once with its groups, queue entries and saved teams, leaves the task KILLED, and sends each of its
successors a decrement; a finished or killed task is not killed again. RECLAIM returns a KILLED task's TCB to TEMPLATE, and no other. -/
def Sys2Proof.Slice0.TasksAreKilledAndReclaimed : Prop :=
  ∀ (s : State) (k : Task), s.task? (keyOf s.args.n s.args.task) = some k →
    let done := k.state = .finished ∨ k.state = .killed
    (done → exec .kill s = .next s) ∧
    (¬ done → ∃ t x, exec .kill s = .next t ∧ (∀ g ∈ t.groups, g.task ≠ k.key) ∧ (∀ u ∈ t.teams, u.task ≠ k.key) ∧ (∀ r ∈ t.ready, r.task ≠ k.key) ∧
      (∀ v ∈ t.saved, v.team.task ≠ k.key) ∧ t.task? k.key = some x ∧ x.state = .killed ∧ x.paddock = false ∧ x.succ = k.succ ∧
      t.decrs = s.decrs ++ k.succ.map fun w => ⟨k.key, some w⟩) ∧
    (k.state ≠ .killed → exec .reclaim s = .next s) ∧
    (k.state = .killed → isHbm (k.pa + 255) = true → (∀ a, k.pa ≤ a → a < k.pa + 256 → s.windowHole a = false) → s.mem.wf = true →
      ∃ t, exec .reclaim s = .next t ∧ t.task? k.key = none ∧ t.paNat (k.pa + 0x48) 4 = 0 ∧ t.paNat (k.pa + 0x2C) 4 = 0 ∧
        t.paNat (k.pa + 0x4C) 4 = 0 ∧ ∀ a, (a < k.pa ∨ k.pa + 256 ≤ a) → t.readPa a = s.readPa a)

/-- R425, R456: RETIRE of a core that holds teams begins its retirement: it takes no new team, and its teams are to be pre-empted. Once it holds none, a spare core
takes its index as a core that holds nothing, and the spares are one fewer; with no spare left, the core of the highest index is emptied
as well and takes it, or gives up its own. A core that does not exist is not retired. That a later RETIRE completes a retirement is log entry 48's choice, and a spare
core's CYC of 0 log entry 47's. -/
def Sys2Proof.Slice0.CoresRetire : Prop :=
  ∀ (s : State), let c := s.args.core
    (8 ≤ c.die ∨ s.coresOf c.die ≤ c.core → exec .retire s = .next s) ∧
    (c.die < 8 → c.core < s.coresOf c.die → (s.coreD c).retired = false → ∃ t, exec .retire s = .next t ∧ (t.coreD c).retired = true ∧ t.mem = s.mem ∧
      t.groups = s.groups ∧ t.teams.length = s.teams.length ∧ ∀ (i : Nat) (u : Team), s.teams[i]? = some u →
        t.teams[i]? = some (if u.core = c then { u with taken := true } else u)) ∧
    (∀ d : Fin 8, c.die = d.val → c.core < s.coresOf c.die → (s.coreD c).retired = true → (∀ u ∈ s.teams, u.core ≠ c) → 0 < s.caps.spare[d] →
      ∃ t, exec .retire s = .next t ∧ t.coreD c = Core.fresh c ∧ t.caps = { s.caps with spare := s.caps.spare.set d (s.caps.spare[d] - 1) } ∧
        t.groups = s.groups ∧ ∀ k, k ≠ c → t.coreD k = s.coreD k) ∧
    (∀ d : Fin 8, c.die = d.val → c.core + 1 = s.coresOf c.die → (s.coreD c).retired = true → (∀ u ∈ s.teams, u.core ≠ c) → s.caps.spare[d] = 0 →
      ∃ t, exec .retire s = .next t ∧ t.coreD c = Core.fresh c ∧ t.caps = { s.caps with cores := s.caps.cores.set d (s.caps.cores[d] - 1) }) ∧
    (∀ d : Fin 8, c.die = d.val → c.core + 1 < s.coresOf c.die → (s.coreD c).retired = true → (∀ u ∈ s.teams, u.core ≠ c) → s.caps.spare[d] = 0 →
      let top : CoreId := ⟨c.die, s.coresOf c.die - 1⟩
      ((s.coreD top).retired = true → (∀ u ∈ s.teams, u.core ≠ top) → ∃ t, exec .retire s = .next t ∧ t.teams = s.teams ∧
        t.coreD c = { Core.fresh c with cyc := (s.coreD top).cyc } ∧ t.coreD top = Core.fresh top ∧ (∀ k, k ≠ c → k ≠ top → t.coreD k = s.coreD k) ∧
        t.caps = { s.caps with cores := s.caps.cores.set d (s.coresOf c.die - 1) }) ∧
      ((s.coreD top).retired = false → ∃ t, exec .retire s = .next t ∧ (t.coreD top).retired = true ∧ t.caps = s.caps ∧
        ∀ (i : Nat) (u : Team), s.teams[i]? = some u → t.teams[i]? = some (if u.core = top then { u with taken := true } else u)))

/-- R36, R40, R455, R458, R463: a core reset leaves no group and no team on the core, its shared store and caches empty, without poison, and its CYC at 0, and no other core or byte of memory
changed; that it drops the teams there is log entry 47's choice. A device reset leaves the state after reset: the PSC waits for firmware, no
group is resident; the fuses stay, but for the counter in whose burn the reset falls, which lies between its old value and the one it was
burned toward; and, by the model's choice (log entry 42), so do the bytes of the main memories. -/
def Sys2Proof.Slice0.ResetsClear : Prop :=
  ∀ (s : State),
    (let c := s.args.core
     ∃ t, exec .coreReset s = .next t ∧ (∀ g ∈ t.groups, g.id.coreId ≠ c) ∧ (∀ u ∈ t.teams, u.core ≠ c) ∧ t.mem = s.mem ∧
      t.coreD c = { Core.fresh c with retired := (s.coreD c).retired } ∧ (∀ o, Poison.cell (.sh c.die c.core o) ∉ t.poison) ∧ (∀ a, Poison.l1 c a ∉ t.poison ∧ Poison.ic c a ∉ t.poison) ∧ (∀ k, k ≠ c → t.coreD k = s.coreD k) ∧
      ∀ g ∈ s.groups, g.id.coreId ≠ c → g ∈ t.groups) ∧
    ∃ t, exec .deviceReset s = .next t ∧ t.mem = s.mem ∧ ((s.args.ok = true ∨ s.psc.boot ≠ .ready) → t.fuses = s.fuses) ∧
      (t.fuses.vkh, t.fuses.okh, t.fuses.okrev) = (s.fuses.vkh, s.fuses.okh, s.fuses.okrev) ∧
      (s.fuses.fwsvn.val ≤ t.fuses.fwsvn.val ∧ t.fuses.fwsvn.val ≤ max s.fuses.fwsvn.val s.psc.fwsvn) ∧
      (∀ i : Fin 4, s.fuses.csvn[i].val ≤ t.fuses.csvn[i].val ∧ t.fuses.csvn[i].val ≤ max s.fuses.csvn[i].val s.psc.accepted[i]) ∧ t.groups = [] ∧ t.cores = [] ∧ t.teams = [] ∧ t.tasks = [] ∧ t.ctxs = [] ∧
      t.psc = {} ∧ (∀ c, (t.coreD c).cyc = 0) ∧ t.hmask = State.reset.hmask ∧ t.ctxReg = State.reset.ctxReg ∧ t.chains = State.reset.chains ∧
      t.hostLink.state = .down ∧ t.tasks = [] ∧ t.l2 = [] ∧ t.dir = []

/-- R40, R463: the state after reset: no group, team, task or context, memory with nothing listed, the PSC in WAITING, and every port DOWN. -/
def Sys2Proof.Slice0.ResetState : Prop :=
  let s := State.reset
  s.groups = [] ∧ s.teams = [] ∧ s.tasks = [] ∧ s.ctxs = [] ∧ s.mem = [] ∧ s.psc.boot = .waiting ∧ s.psc.busy = false ∧ s.hostLink.state = .down ∧
    (∀ i : Fin 16, s.ua[i].state = .down) ∧ (∀ i : Fin 2, s.capLink[i].state = .down) ∧ (∀ c : CoreId, (s.coreD c).shared = [] ∧ (s.coreD c).context = 0) ∧
    (∀ a, s.readPa a = 0) ∧ s.ckpt.state = .idle ∧ s.hdm.enabled = false ∧ ∀ k : Fin 16, s.chains[k].state = .idle ∧ s.chains[k].en = false

/-! ### Encodings, frames and invariants (R2, R68 to R88) -/

/-- R68 to R80, R87, R88: every well-formed instruction with an encoding is read back from the words that the encoder gives it, with every field; an ALU opcode as
an operator is read back from its operator word; from bytes the instruction comes back with the bytes after it. -/
def Sys2Proof.Slice0.InstructionsDecodeBack : Prop :=
  (∀ (i : Instr) (w : Nat) (lit next : Option Word), i.wf = true → (∀ op o, i ≠ .aluOperatorFire op o) → encodeNat i = some (w, lit) →
    w < 2 ^ 32 ∧ (i.literals = 1 ↔ lit ≠ none) ∧ decodeWord (BitVec.ofNat 32 w) (if i.literals = 1 then lit else next) = .ok i) ∧
  (∀ (i : Instr) (w : Nat), i.wf = true → (∃ op o, i = .aluOperatorFire op o) → encodeNat i = some (w, none) →
    w < 2 ^ 32 ∧ decodeOperator (BitVec.ofNat 32 w) = .ok i) ∧
  ∀ (i : Instr) (rest : List Byte), i.wf = true → (∀ op o, i ≠ .aluOperatorFire op o) → encodeNat i ≠ none →
    decodeBytes ((encode i).flatMap bytesOfWord ++ rest) = .ok (i, rest)

/-- R68: every header word with N from 1 to 15 is read back; a word with N = 0, with a class of 6 or 7, or with a reserved bit set, is no header. -/
def Sys2Proof.Slice0.HeadersDecodeBack : Prop :=
  (∀ h : Header, 1 ≤ h.n → h.n ≤ 15 → decodeHeader (encodeHeader h) = .ok h) ∧
  ∀ w : Word, (w.toNat / 2 ^ 28 = 0 ∨ 6 ≤ w.toNat / 2 ^ 25 % 8 ∨ w.toNat % 4096 ≠ 0) → decodeHeader w = .error .badHeader

/-- R68, R76, R77, R79, R83, R97, R133, R413: sample words of the manual's examples, read. -/
def Obligations.SampleWordsDecode : Prop :=
  decodeWord 0x09F10401#32 none = .ok (.iaddi .always 4 4 1) ∧ decodeWord 0x09F145FF#32 none = .ok (.iaddi .always 5 5 (-1)) ∧
  decodeWord 0x03F08000#32 (some 0x00070000#32) = .ok (.movl .always 2 0x00070000#32) ∧ decodeWord 0x02F0C000#32 none = .ok (.movi .always 3 0) ∧
  decodeWord 0x7CF10200#32 none = .ok (.ldB32 .always 4 2 .gl 0) ∧ decodeWord 0x81F14201#32 none = .ok (.stB32 .always 5 2 .gl 1) ∧
  decodeWord 0xE0F0000F#32 none = .ok (.txbeg 15) ∧ decodeWord 0xE1F00000#32 none = .ok .txend ∧ decodeWord 0x71F00000#32 none = .ok (.exit .always) ∧
  decodeWord 0xE3F20000#32 none = .ok (.txst 8) ∧ decodeWord 0x6BFFFFEF#32 none = .ok (.jmp (-17)) ∧ decodeWord 0#32 none = .error .unassignedOpcode ∧
  decodeHeader 0x22004000#32 = .ok ⟨2, .mem, 0, 1, false, false⟩ ∧ decodeHeader 0x20040000#32 = .ok ⟨2, .alu, 2, 0, false, false⟩

/-- R9, R14, R15: a value word, compare or jump that passes its issue checks changes no part of the state but its own group, and of that group no segment, trap,
exception or transaction register, no outstanding result and no store. -/
def Obligations.ValueWordsLeaveTheRest : Prop :=
  ∀ (i : Instr) (rs : List PReg) (s t : State) (g : Machine.Group), namedRegs i = some rs → issues s g rs → exec i s = .next t →
    t = { s with groups := t.groups } ∧ (∀ j, j ≠ g.id → t.group? j = s.group? j) ∧ ∃ h : Machine.Group, t.group? g.id = some h ∧
      (h.x, h.dc, h.pending, h.fpmode, h.seg, h.faultMask, h.faultCode, h.faultAddr, h.retpc, h.retw) =
        (g.x, g.dc, g.pending, g.fpmode, g.seg, g.faultMask, g.faultCode, g.faultAddr, g.retpc, g.retw) ∧
      (h.retmask, h.scr, h.fabrec, h.portrec, h.inHandler, h.lateMask, h.status, h.tx, h.txStatus, h.out, h.stores, h.seq, h.pv, h.gidx) =
        (g.retmask, g.scr, g.fabrec, g.portrec, g.inHandler, g.lateMask, g.status, g.tx, g.txStatus, g.out, g.stores, g.seq, g.pv, g.gidx) ∧
      h.v.length = g.v.length

/-- Every memory of the state after reset is in its canonical form. -/
def Sys2Proof.Slice0.MemoryIsCanonicalAtReset : Prop := State.reset.memWf = true

/-- Every step keeps the main memory, every core's shared store and the staging window in their canonical form. -/
def Obligations.EveryStepKeepsMemoryCanonical : Prop :=
  ∀ s t : State, s.memWf = true → step s = .next t → t.memWf = true

/-! ### The obligations that join several statements -/

/-- Integer, move and scalar words write the value their rule gives, for the enabled threads, and nothing else. -/
def Obligations.IntegerWordsWriteTheirValue : Prop :=
  Slice0.IntegerValueWords ∧ Slice0.PairWordsWriteTheirValue ∧ Slice0.MovesWriteTheirRegister ∧ Slice0.ScalarWordsWriteTheirValue

/-- ICMP, ICMPN, SCMP and FCMP write their predicate pair, zero inactive threads and leave guarded-out ones. -/
def Obligations.ComparesWritePredicatePairs : Prop :=
  Slice0.IntegerComparesWritePredicatePair ∧ Slice0.FloatComparesWritePredicatePair

/-- FADD, FSUB, FMUL, FFMA, FMIN and FMAX of every type write each element rounded once and raise its flags. -/
def Obligations.FloatWordsRoundEachElementOnce : Prop :=
  Slice0.FloatSingleWordsRoundOnce ∧ Slice0.FloatPairWordsRoundOnce

/-- The special functions issue as long-latency words; sampled special cases of R120 have their listed result. A result that
no rule lists is a free value (log entry 6). -/
def Obligations.SpecialFunctionsIssueAndGiveListedResults : Prop :=
  Slice0.SpecialFunctionsIssue ∧ Slice0.SpecialFunctionListedResults

/-- NaN operands give the canonical NaN; every other code rounds to itself with no flag. -/
def Obligations.FormatsKeepTheirCodes : Prop :=
  Slice0.NanOperandsGiveTheCanonicalNan ∧ Slice0.DecodedValueRoundsToItself

/-- SHFL, SHFLI, PTOS, STOP and PLOP write what their rules give over the active and enabled threads. -/
def Obligations.CrossThreadWordsReadTheMask : Prop :=
  Slice0.ShufflesReadActiveThreads ∧ Slice0.PredicateWordsWriteTheirValue

/-- VCONF, VRANK, RSUMK, REDI and REDF write what their rules give over the active threads. -/
def Obligations.KeyedWordsAndReductionsWriteTheirValue : Prop :=
  Slice0.KeyedWordsWriteTheirValue ∧ Slice0.KeyedSumsAddInThreadOrder ∧ Slice0.ReductionsWriteTheirValue

/-- A word moves its group on to the next word or header; a register beyond the budget or pending traps at issue. -/
def Obligations.WordsMoveOnOrTrapAtIssue : Prop :=
  Slice0.WordsMoveOnToNextWordOrHeader ∧ Slice0.BudgetAndHazardTrapAtIssue

/-- A fault enters the handler, waits for outstanding work, or kills the task; delayed faults are given at a clause
boundary. The RETMASK of a fault in a replayed word is log entry 50. The arguments of a scheduled step are the model's
(log entry 1). -/
def Obligations.RaisedFaultsEnterWaitOrKill : Prop :=
  Slice0.RaisedFaultEntersTheHandler ∧ Slice0.RaisedFaultWaitsOrKills ∧ Slice0.TrapEntryAndDelayedFaults

/-- BRA, JMP, CALL, CALLR and RET continue at their target; a branch not taken continues after its clause. -/
def Obligations.ControlWordsContinueAtTheirTarget : Prop :=
  Slice0.BranchesContinueByTheirCondition ∧ Slice0.JumpsAndCallsContinueAtTheirTarget

/-- MSKAND, MSKSET and EXIT rewrite the activity mask; EXIT retires its threads and ends an empty group. The mask that a
replayed EXIT gives back is log entry 50. -/
def Obligations.MaskWordsAndExitRewriteTheMask : Prop :=
  Slice0.MaskWordsRewriteTheMask ∧ Slice0.ExitRetiresThreads

/-- Privileged words trap with PV = 0 before any other check; TRAP raises USER_TRAP for the threads that pass. -/
def Obligations.PrivilegedAndTrapWordsTrap : Prop :=
  Slice0.PrivilegedWordsTrapInUserMode ∧ Slice0.TrapRaisesUserTrap

/-- SRR reads and SWR writes every special register as its rule says. -/
def Obligations.SpecialRegistersAreReadAndWritten : Prop :=
  Slice0.SrrReadsSpecialRegisters ∧ Slice0.SwrWritesGroupRegisters ∧ Slice0.SwrPrivilegedRegistersAct

/-- SEGSET, TLBINV, CTXSV and CTXLD have the effect their rules give. What CTXSV makes of a transaction, a clause in
progress or a rig of its target is log entry 47. -/
def Obligations.SegmentContextAndTlbWordsAct : Prop :=
  Slice0.SegsetWritesASegment ∧ Slice0.ContextAndTlbWordsAct

/-- Shared, global, constant and record accesses are checked, and fail with the fault their rule names. The address that a
failing sh access reports is log entry 50. -/
def Obligations.AccessesAreChecked : Prop :=
  Slice0.SharedAccessesAreChecked ∧ Slice0.GlobalAccessesAreChecked ∧ Slice0.MappedAccessesReachTheirBytes ∧ Slice0.RecordAddressesAreChecked

/-- Loads and stores issue for the threads whose checks pass; failing threads trap together. -/
def Obligations.LoadsAndStoresIssue : Prop :=
  Slice0.LoadsIssue ∧ Slice0.FailingThreadsTrapTogether ∧ Slice0.StoresIssue

/-- Atomics, REDST, record words, FENCE, PUBLISH and PREF issue as their rules say. That the record words hold their group
until the results come is log entry 46; which word takes a restored satisfied set is log entry 47. -/
def Obligations.AtomicsRecordsAndOrderingWordsIssue : Prop :=
  Slice0.AtomicsIssue ∧ Slice0.RecordWordsIssueAndHold ∧ Slice0.OrderingWordsIssue

/-- Bank reads, writes and atomics, and a store performed at its home, touch exactly the bytes of their access. The
arguments of a scheduled step are the model's (log entry 1). -/
def Obligations.PerformedAccessesTouchTheirBytesOnly : Prop :=
  Slice0.BankReadReturnsTheBytes ∧ Slice0.BankWriteChangesExactlyItsBytes ∧ Slice0.BankAtomicReadsModifiesWrites ∧ Slice0.StorePerformChangesExactlyItsBytes

/-- CLAUSE_FETCH brings a clause word by word, and CLAUSE_DECODE lets only a well-formed one go on. -/
def Obligations.ClausesAreFetchedAndChecked : Prop :=
  Slice0.ClausesAreFetchedWordByWord ∧ Slice0.ClausesAreCheckedAtDecode

/-- A clause starts once its WAIT counters are zero; ISSUE_SELECT takes the next eligible group in slot order. -/
def Obligations.ClausesStartAndGroupsAreSelected : Prop :=
  Slice0.ClausesStartWhenTheirWaitIsMet ∧ Slice0.SelectionTakesTheNextEligibleGroup

/-- RESULT_WRITEBACK writes each thread's words and counts down; GROUP_END gives the slot back. -/
def Obligations.ResultsAreWrittenAndEndedGroupsLeave : Prop :=
  Slice0.ResultsAreWrittenForTheirThreads ∧ Slice0.GroupEndGivesTheSlotBack

/-- BAR, BARA, BARW and BARRIER_RELEASE count arrivals, complete phases and hold groups. -/
def Obligations.BarriersCountReleaseAndWait : Prop :=
  Slice0.TeamBarrierArrivals ∧ Slice0.WideBarrierArrivals ∧ Slice0.BarrierWaitsAndReleases ∧ Slice0.WideBarrierWaitsAndReleases

/-- SPAT parks its group; its graph is read, checked, placed, configured and started. Where several words of a block fail,
the first failing one is the model's choice (log entry 44). -/
def Obligations.RigsAreReadPlacedAndStarted : Prop :=
  Slice0.SpatParksItsGroup ∧ Slice0.BlockWordsAreChecked ∧ Slice0.BlockItemsAreChecked ∧ Slice0.GraphsAreReadAndChecked ∧ Slice0.RigsArePlaced ∧ Slice0.RigsStartConfigured

/-- Lock and queue-entry operations at their home follow R268 and R269. -/
def Obligations.LockAndQueueRequestsFollowTheirRules : Prop :=
  Slice0.LockRequestsFollowTheirRule ∧ Slice0.QueueRequestsFollowTheirRule

/-- TLAUNCH enters a task in the paddock, and TSUCC links a successor, as R265 and R266 say. That both hold their group at
the word is log entry 46. -/
def Obligations.TasksAreLaunchedAndLinked : Prop :=
  Slice0.TlaunchEntersThePaddock ∧ Slice0.TcbsAreRefusedByTheirContents ∧ Slice0.TsuccLinksASuccessor

/-- TEAM_START enters a team's groups at their entry state; TEAM_BALANCE moves whole clusters. The arguments of a scheduled
step are the model's (log entry 1). -/
def Obligations.TeamsStartAndMove : Prop :=
  Slice0.TeamStartEntersItsGroups ∧ Slice0.TeamBalanceMovesWholeClusters

/-- A successor decrement makes a task READY at zero; a launch-window scan takes the head slot's TCB. The arguments of a
scheduled step are the model's (log entry 1). -/
def Obligations.SuccessorsAndWindowsMakeTasksReady : Prop :=
  Slice0.SuccessorsBecomeReady ∧ Slice0.LaunchWindowScanTakesSlots

/-- A waiting word puts its team to sleep, adopts its owner or finds a cycle; remote sleepers wake. The arguments of a
scheduled step are the model's (log entry 1). -/
def Obligations.WaitingWordsSleepAndWake : Prop :=
  Slice0.WaitingWordsInspectTheirOwner ∧ Slice0.RemoteSleepersWake

/-- TDEF, TINV, BUFDEF, BUFDEF_FREE, SLOTSET and SLOTWT have the effect their rules give. -/
def Obligations.TensorAndBufferWordsAct : Prop :=
  Slice0.TensorIdentifierWords ∧ Slice0.BufferDeclarationWords ∧ Slice0.SlotWords

/-- XBEXP, XBWAIT, XBWAIT_RESUME and ARRIVAL_POST act on byte-counting barriers. The RP and WRT of a copy fault that XBWAIT
takes, and the 32-bit wrap of COUNT, are log entry 45. The arguments of a scheduled step are the model's (log entry 1). -/
def Obligations.ByteBarriersCountAndRelease : Prop :=
  Slice0.ByteBarrierWords ∧ Slice0.ArrivalsCountOnTheirBarrier ∧ Slice0.XbwaitResumesOnItsPhase

/-- TCOPY and TSTORE are checked in order and enter the copy engine's queue. -/
def Obligations.CopiesAreCheckedAndQueued : Prop :=
  Slice0.CopyWordsEnterTheQueue ∧ Slice0.CopyChecksInOrder

/-- COPY_START moves one row at a time; WALK_AHEAD is no demand. That a copy moves row by row is the model's order (log
entry 45). The arguments of a scheduled step are the model's (log entry 1). -/
def Obligations.CopiesMoveRowByRow : Prop :=
  Slice0.CopyRowsAreMoved ∧ Slice0.WalkAheadIsNoDemand

/-- MMA and MDRAIN enter the matrix node; tokens fire, and chained updates add in order. That MDRAIN stalls on a full queue
is log entry 45. The arguments of a scheduled step are the model's (log entry 1). -/
def Obligations.MatrixWordsAndTokensAct : Prop :=
  Slice0.MatrixWordsEnterTheNode ∧ Slice0.MatrixTokensFire ∧ Slice0.ChainedUpdatesAddInOrder

/-- MDRAIN_READ reads the tile once updates are applied; TILE_DRAIN_UPDATE adds its rows once. One step for the whole drain,
with all checks first, is the model's order (log entry 45). -/
def Obligations.DrainsReadAndAddOnce : Prop :=
  Slice0.DrainsReadTheirTile ∧ Slice0.TileDrainsAddOnce

/-- TXBEG, TXABT, TXEND, TXST and TX_ABORT open, end and abort a transaction. -/
def Obligations.TransactionWordsActAndAbort : Prop :=
  Slice0.TransactionWordsAct ∧ Slice0.WordsAbortTheirTransaction ∧ Slice0.AbortReturnsToTheAbortHeader

/-- TXEND and TX_COMMIT complete, and perform every buffered byte in one step and no other. -/
def Obligations.CommitPerformsTheBuffer : Prop :=
  Slice0.CommitsComplete ∧ Slice0.CommitPerformsTheBytes

/-- ALU operators, STEER, MERGE, ACC and DUP fire on their tokens and send their results. Operand b as the offending one,
the tag that a predicate is compared with, and ACC with predicate 0 are log entry 44. -/
def Obligations.OperatorsFireOnTheirTokens : Prop :=
  Slice0.AluOperatorsFire ∧ Slice0.SteerAndMergeRouteTokens ∧ Slice0.AccumulatorsFire ∧ Slice0.DupSendsBothCopies

/-- CTR, ORD, CONV, RDREG, WRREG, MTOK, SRC and SNK fire as their rules say. -/
def Obligations.CountersJoinsAndPortsFire : Prop :=
  Slice0.CountersIterate ∧ Slice0.OrdJoinsItsArcs ∧ Slice0.ConvConvertsItsGroups ∧ Slice0.RegisterAndMatrixOperatorsFire ∧ Slice0.PortsStartTheirAccess

/-- Tokens and slots arrive, port accesses are performed, and port records are delivered. When a record is delivered is the
model's reading (log entry 44). The arguments of a scheduled step are the model's (log entry 1). -/
def Obligations.RigsMoveTokensAndAccesses : Prop :=
  Slice0.TokensAndSlotsArrive ∧ Slice0.PortsReply ∧ Slice0.PortRecordsAreDelivered

/-- Quiescence ends a load, stuck rigs stop, and rigs of pre-empted teams are gated and stand still. The arguments of a
scheduled step are the model's (log entry 1). -/
def Obligations.RigsEndStopAndAreSaved : Prop :=
  Slice0.QuiescenceEndsALoad ∧ Slice0.StuckRigsStop ∧ Slice0.RigsAreGatedAndSaved

/-- Loads and atomics performed at the home or beyond a portal return and modify exactly their bytes. The bytes of host and
peer memory are the state's image (log entry 12). The arguments of a scheduled step are the model's (log entry 1). -/
def Obligations.HomeAccessesReturnAndModifyTheirBytes : Prop :=
  Slice0.LoadPerformReturnsTheBytes ∧ Slice0.AtomicsPerformAtTheHome

/-- Invalidations, write-backs, drops, page walks, TLBINV, HMASK and completion timeouts act as their rules say. The bytes
of D and U lines are held once, at the home (log entry 8); a walk fills both caches and a TLBINV at .core empties the
die's too (log entry 9). The arguments of a scheduled step are the model's (log entry 1). -/
def Obligations.CopiesTranslationsAndTimeoutsAct : Prop :=
  Slice0.InvalidationsRunTheirCourse ∧ Slice0.CoresGiveUpTheirCopies ∧ Slice0.TranslationsAreCachedAndDropped ∧ Slice0.TimeoutsLoseTheirAccesses

/-- The host and peers read and write device memory only through what is open to them. Peers' reads take no
back-invalidation (log entry 46); bytes are held once (log entry 8), host memory as an image (log entry 12). The
arguments of a scheduled step are the model's (log entry 1). -/
def Obligations.HostAndPeersReachTheDevice : Prop :=
  Slice0.TheHostReachesTheDevice ∧ Slice0.PeersReachTheDevice

/-- Links change state as their rules say; chain slots are set, and stages add and pass on. That RETRAIN and EN act only at
READY is the model's reading (log entry 46). The arguments of a scheduled step are the model's (log entry 1). -/
def Obligations.LinksAndReductionChainsAct : Prop :=
  Slice0.LinksChangeState ∧ Slice0.ChainSlotsAreSet ∧ Slice0.ChainStagesAdd

/-- Contexts are enabled and disabled, and the register space is read and written. That EN := 1 of a context acts only at
READY is log entry 46. Offsets inside the HDM block are the model's (log entry 41). The arguments of a scheduled step
are the model's (log entry 1). -/
def Obligations.ContextsAndTheRegisterSpace : Prop :=
  Slice0.ContextsAreEnabledAndDisabled ∧ Slice0.TheRegisterSpaceIsWritten

/-- Decoders, slices, ECC, scrubs, grooms and checkpoints act as their rules say. Which errors and readings come is the
schedule's (log entries 1, 13 and 15); the record layout is the model's (log entry 40); a SAVE without its memory, and
the moments of an image's granules, are log entry 53. -/
def Obligations.TheDeviceIsServicedAndCheckpointed : Prop :=
  Slice0.TheDeviceIsServiced ∧ Slice0.CheckpointsRunTheirCourse

/-- The PSC boots firmware, keeps keys and versions, and answers its commands. What firmware finds at INIT, and when a fuse
fails, is the schedule's (log entries 1 and 14); a hash is a free value (log entry 7); BADARG and FUSE of some commands
are log entry 54, the order of words on pages 2 to 4 log entry 13. -/
def Obligations.ThePscBootsCommandsAndReports : Prop :=
  Slice0.FirmwareBoots ∧ Slice0.KeysAndVersionsAreKept ∧ Slice0.ThePscReports

/-- Pre-emption, save, restore and migration take, keep and give back teams and frames. The pool's use by one team is the
model's (log entry 11); further choices are in log entries 47 and 48. -/
def Obligations.TeamsArePreemptedSavedAndMigrated : Prop :=
  Slice0.PreemptionTakesTheChosenTeams ∧ Slice0.TeamsAreSaved ∧ Slice0.TeamsAreRestored ∧ Slice0.MigrationsEnd

/-- KILL, RECLAIM, RETIRE, CORE_RESET and DEVICE_RESET end and clear what their rules say. That a device reset keeps the
main memories is log entry 42; a retirement completed by a later RETIRE is log entry 48; teams dropped by a core reset,
and a spare core's CYC, are log entry 47. -/
def Obligations.TasksAndCoresEndAndReset : Prop :=
  Slice0.TasksAreKilledAndReclaimed ∧ Slice0.CoresRetire ∧ Slice0.ResetsClear

/-- Every well-formed instruction and every header is read back from the words the encoder gives it. -/
def Obligations.EncodedWordsDecodeBack : Prop :=
  Slice0.InstructionsDecodeBack ∧ Slice0.HeadersDecodeBack

/-- The state after reset holds nothing resident, and its memories are canonical. That unlisted memory reads 0 is the
model's choice (log entry 2). -/
def Obligations.ResetHoldsTheStatedState : Prop :=
  Slice0.ResetState ∧ Slice0.MemoryIsCanonicalAtReset
end

