-- ==== Sys2Proof/Laws/State.lean ====
section
/-! SUPPORT. What the updates of a state and of a group leave in each field: one lemma for each field of each update. -/

namespace Sys2Proof.Machine


/-! ### A group stored back -/

@[simp] theorem State.put_mem (x : State) (g : Group) : (x.put g).mem = x.mem := rfl
@[simp] theorem State.put_poison (x : State) (g : Group) : (x.put g).poison = x.poison := rfl
@[simp] theorem State.put_hmask (x : State) (g : Group) : (x.put g).hmask = x.hmask := rfl
@[simp] theorem State.put_hmaskQ (x : State) (g : Group) : (x.put g).hmaskQ = x.hmaskQ := rfl
@[simp] theorem State.put_cores (x : State) (g : Group) : (x.put g).cores = x.cores := rfl
@[simp] theorem State.put_teams (x : State) (g : Group) : (x.put g).teams = x.teams := rfl
@[simp] theorem State.put_tasks (x : State) (g : Group) : (x.put g).tasks = x.tasks := rfl
@[simp] theorem State.put_ready (x : State) (g : Group) : (x.put g).ready = x.ready := rfl
@[simp] theorem State.put_saved (x : State) (g : Group) : (x.put g).saved = x.saved := rfl
@[simp] theorem State.put_wide (x : State) (g : Group) : (x.put g).wide = x.wide := rfl
@[simp] theorem State.put_ctxReg (x : State) (g : Group) : (x.put g).ctxReg = x.ctxReg := rfl
@[simp] theorem State.put_ctxs (x : State) (g : Group) : (x.put g).ctxs = x.ctxs := rfl
@[simp] theorem State.put_migrations (x : State) (g : Group) : (x.put g).migrations = x.migrations := rfl
@[simp] theorem State.put_decrs (x : State) (g : Group) : (x.put g).decrs = x.decrs := rfl
@[simp] theorem State.put_stale (x : State) (g : Group) : (x.put g).stale = x.stale := rfl
@[simp] theorem State.put_watchers (x : State) (g : Group) : (x.put g).watchers = x.watchers := rfl
@[simp] theorem State.put_l2 (x : State) (g : Group) : (x.put g).l2 = x.l2 := rfl
@[simp] theorem State.put_dir (x : State) (g : Group) : (x.put g).dir = x.dir := rfl
@[simp] theorem State.put_homes (x : State) (g : Group) : (x.put g).homes = x.homes := rfl
@[simp] theorem State.put_invals (x : State) (g : Group) : (x.put g).invals = x.invals := rfl
@[simp] theorem State.put_owed (x : State) (g : Group) : (x.put g).owed = x.owed := rfl
@[simp] theorem State.put_called (x : State) (g : Group) : (x.put g).called = x.called := rfl
@[simp] theorem State.put_dieTlb (x : State) (g : Group) : (x.put g).dieTlb = x.dieTlb := rfl
@[simp] theorem State.put_decidedL2 (x : State) (g : Group) : (x.put g).decidedL2 = x.decidedL2 := rfl
@[simp] theorem State.put_devidx (x : State) (g : Group) : (x.put g).devidx = x.devidx := rfl
@[simp] theorem State.put_ua (x : State) (g : Group) : (x.put g).ua = x.ua := rfl
@[simp] theorem State.put_hostLink (x : State) (g : Group) : (x.put g).hostLink = x.hostLink := rfl
@[simp] theorem State.put_capLink (x : State) (g : Group) : (x.put g).capLink = x.capLink := rfl
@[simp] theorem State.put_inbound (x : State) (g : Group) : (x.put g).inbound = x.inbound := rfl
@[simp] theorem State.put_chains (x : State) (g : Group) : (x.put g).chains = x.chains := rfl
@[simp] theorem State.put_hdm (x : State) (g : Group) : (x.put g).hdm = x.hdm := rfl
@[simp] theorem State.put_decoders (x : State) (g : Group) : (x.put g).decoders = x.decoders := rfl
@[simp] theorem State.put_ckpt (x : State) (g : Group) : (x.put g).ckpt = x.ckpt := rfl
@[simp] theorem State.put_caps (x : State) (g : Group) : (x.put g).caps = x.caps := rfl
@[simp] theorem State.put_expanders (x : State) (g : Group) : (x.put g).expanders = x.expanders := rfl
@[simp] theorem State.put_fuses (x : State) (g : Group) : (x.put g).fuses = x.fuses := rfl
@[simp] theorem State.put_psc (x : State) (g : Group) : (x.put g).psc = x.psc := rfl
@[simp] theorem State.put_grooms (x : State) (g : Group) : (x.put g).grooms = x.grooms := rfl
@[simp] theorem State.put_held (x : State) (g : Group) : (x.put g).held = x.held := rfl
@[simp] theorem State.put_outbox (x : State) (g : Group) : (x.put g).outbox = x.outbox := rfl
@[simp] theorem State.put_teamCount (x : State) (g : Group) : (x.put g).teamCount = x.teamCount := rfl
@[simp] theorem State.put_schedule (x : State) (g : Group) : (x.put g).schedule = x.schedule := rfl
@[simp] theorem State.put_focus (x : State) (g : Group) : (x.put g).focus = x.focus := rfl
@[simp] theorem State.put_args (x : State) (g : Group) : (x.put g).args = x.args := rfl
@[simp] theorem State.put_free (x : State) (g : Group) : (x.put g).free = x.free := rfl
@[simp] theorem State.put_groups (x : State) (g : Group) : (x.put g).groups = x.groups.map fun h => if h.id = g.id then g else h := rfl

/-! ### Every group changed -/

@[simp] theorem State.mapGroups_mem (x : State) (f : Group → Group) : (x.mapGroups f).mem = x.mem := rfl
@[simp] theorem State.mapGroups_poison (x : State) (f : Group → Group) : (x.mapGroups f).poison = x.poison := rfl
@[simp] theorem State.mapGroups_hmask (x : State) (f : Group → Group) : (x.mapGroups f).hmask = x.hmask := rfl
@[simp] theorem State.mapGroups_hmaskQ (x : State) (f : Group → Group) : (x.mapGroups f).hmaskQ = x.hmaskQ := rfl
@[simp] theorem State.mapGroups_cores (x : State) (f : Group → Group) : (x.mapGroups f).cores = x.cores := rfl
@[simp] theorem State.mapGroups_teams (x : State) (f : Group → Group) : (x.mapGroups f).teams = x.teams := rfl
@[simp] theorem State.mapGroups_tasks (x : State) (f : Group → Group) : (x.mapGroups f).tasks = x.tasks := rfl
@[simp] theorem State.mapGroups_ready (x : State) (f : Group → Group) : (x.mapGroups f).ready = x.ready := rfl
@[simp] theorem State.mapGroups_saved (x : State) (f : Group → Group) : (x.mapGroups f).saved = x.saved := rfl
@[simp] theorem State.mapGroups_wide (x : State) (f : Group → Group) : (x.mapGroups f).wide = x.wide := rfl
@[simp] theorem State.mapGroups_ctxReg (x : State) (f : Group → Group) : (x.mapGroups f).ctxReg = x.ctxReg := rfl
@[simp] theorem State.mapGroups_ctxs (x : State) (f : Group → Group) : (x.mapGroups f).ctxs = x.ctxs := rfl
@[simp] theorem State.mapGroups_migrations (x : State) (f : Group → Group) : (x.mapGroups f).migrations = x.migrations := rfl
@[simp] theorem State.mapGroups_decrs (x : State) (f : Group → Group) : (x.mapGroups f).decrs = x.decrs := rfl
@[simp] theorem State.mapGroups_stale (x : State) (f : Group → Group) : (x.mapGroups f).stale = x.stale := rfl
@[simp] theorem State.mapGroups_watchers (x : State) (f : Group → Group) : (x.mapGroups f).watchers = x.watchers := rfl
@[simp] theorem State.mapGroups_l2 (x : State) (f : Group → Group) : (x.mapGroups f).l2 = x.l2 := rfl
@[simp] theorem State.mapGroups_dir (x : State) (f : Group → Group) : (x.mapGroups f).dir = x.dir := rfl
@[simp] theorem State.mapGroups_homes (x : State) (f : Group → Group) : (x.mapGroups f).homes = x.homes := rfl
@[simp] theorem State.mapGroups_invals (x : State) (f : Group → Group) : (x.mapGroups f).invals = x.invals := rfl
@[simp] theorem State.mapGroups_owed (x : State) (f : Group → Group) : (x.mapGroups f).owed = x.owed := rfl
@[simp] theorem State.mapGroups_called (x : State) (f : Group → Group) : (x.mapGroups f).called = x.called := rfl
@[simp] theorem State.mapGroups_dieTlb (x : State) (f : Group → Group) : (x.mapGroups f).dieTlb = x.dieTlb := rfl
@[simp] theorem State.mapGroups_decidedL2 (x : State) (f : Group → Group) : (x.mapGroups f).decidedL2 = x.decidedL2 := rfl
@[simp] theorem State.mapGroups_devidx (x : State) (f : Group → Group) : (x.mapGroups f).devidx = x.devidx := rfl
@[simp] theorem State.mapGroups_ua (x : State) (f : Group → Group) : (x.mapGroups f).ua = x.ua := rfl
@[simp] theorem State.mapGroups_hostLink (x : State) (f : Group → Group) : (x.mapGroups f).hostLink = x.hostLink := rfl
@[simp] theorem State.mapGroups_capLink (x : State) (f : Group → Group) : (x.mapGroups f).capLink = x.capLink := rfl
@[simp] theorem State.mapGroups_inbound (x : State) (f : Group → Group) : (x.mapGroups f).inbound = x.inbound := rfl
@[simp] theorem State.mapGroups_chains (x : State) (f : Group → Group) : (x.mapGroups f).chains = x.chains := rfl
@[simp] theorem State.mapGroups_hdm (x : State) (f : Group → Group) : (x.mapGroups f).hdm = x.hdm := rfl
@[simp] theorem State.mapGroups_decoders (x : State) (f : Group → Group) : (x.mapGroups f).decoders = x.decoders := rfl
@[simp] theorem State.mapGroups_ckpt (x : State) (f : Group → Group) : (x.mapGroups f).ckpt = x.ckpt := rfl
@[simp] theorem State.mapGroups_caps (x : State) (f : Group → Group) : (x.mapGroups f).caps = x.caps := rfl
@[simp] theorem State.mapGroups_expanders (x : State) (f : Group → Group) : (x.mapGroups f).expanders = x.expanders := rfl
@[simp] theorem State.mapGroups_fuses (x : State) (f : Group → Group) : (x.mapGroups f).fuses = x.fuses := rfl
@[simp] theorem State.mapGroups_psc (x : State) (f : Group → Group) : (x.mapGroups f).psc = x.psc := rfl
@[simp] theorem State.mapGroups_grooms (x : State) (f : Group → Group) : (x.mapGroups f).grooms = x.grooms := rfl
@[simp] theorem State.mapGroups_held (x : State) (f : Group → Group) : (x.mapGroups f).held = x.held := rfl
@[simp] theorem State.mapGroups_outbox (x : State) (f : Group → Group) : (x.mapGroups f).outbox = x.outbox := rfl
@[simp] theorem State.mapGroups_teamCount (x : State) (f : Group → Group) : (x.mapGroups f).teamCount = x.teamCount := rfl
@[simp] theorem State.mapGroups_schedule (x : State) (f : Group → Group) : (x.mapGroups f).schedule = x.schedule := rfl
@[simp] theorem State.mapGroups_focus (x : State) (f : Group → Group) : (x.mapGroups f).focus = x.focus := rfl
@[simp] theorem State.mapGroups_args (x : State) (f : Group → Group) : (x.mapGroups f).args = x.args := rfl
@[simp] theorem State.mapGroups_free (x : State) (f : Group → Group) : (x.mapGroups f).free = x.free := rfl
@[simp] theorem State.mapGroups_groups (x : State) (f : Group → Group) : (x.mapGroups f).groups = x.groups.map f := rfl

/-! ### A team stored back -/

@[simp] theorem State.putTeam_mem (x : State) (t : Team) : (x.putTeam t).mem = x.mem := rfl
@[simp] theorem State.putTeam_poison (x : State) (t : Team) : (x.putTeam t).poison = x.poison := rfl
@[simp] theorem State.putTeam_hmask (x : State) (t : Team) : (x.putTeam t).hmask = x.hmask := rfl
@[simp] theorem State.putTeam_hmaskQ (x : State) (t : Team) : (x.putTeam t).hmaskQ = x.hmaskQ := rfl
@[simp] theorem State.putTeam_groups (x : State) (t : Team) : (x.putTeam t).groups = x.groups := rfl
@[simp] theorem State.putTeam_cores (x : State) (t : Team) : (x.putTeam t).cores = x.cores := rfl
@[simp] theorem State.putTeam_tasks (x : State) (t : Team) : (x.putTeam t).tasks = x.tasks := rfl
@[simp] theorem State.putTeam_ready (x : State) (t : Team) : (x.putTeam t).ready = x.ready := rfl
@[simp] theorem State.putTeam_saved (x : State) (t : Team) : (x.putTeam t).saved = x.saved := rfl
@[simp] theorem State.putTeam_wide (x : State) (t : Team) : (x.putTeam t).wide = x.wide := rfl
@[simp] theorem State.putTeam_ctxReg (x : State) (t : Team) : (x.putTeam t).ctxReg = x.ctxReg := rfl
@[simp] theorem State.putTeam_ctxs (x : State) (t : Team) : (x.putTeam t).ctxs = x.ctxs := rfl
@[simp] theorem State.putTeam_migrations (x : State) (t : Team) : (x.putTeam t).migrations = x.migrations := rfl
@[simp] theorem State.putTeam_decrs (x : State) (t : Team) : (x.putTeam t).decrs = x.decrs := rfl
@[simp] theorem State.putTeam_stale (x : State) (t : Team) : (x.putTeam t).stale = x.stale := rfl
@[simp] theorem State.putTeam_watchers (x : State) (t : Team) : (x.putTeam t).watchers = x.watchers := rfl
@[simp] theorem State.putTeam_l2 (x : State) (t : Team) : (x.putTeam t).l2 = x.l2 := rfl
@[simp] theorem State.putTeam_dir (x : State) (t : Team) : (x.putTeam t).dir = x.dir := rfl
@[simp] theorem State.putTeam_homes (x : State) (t : Team) : (x.putTeam t).homes = x.homes := rfl
@[simp] theorem State.putTeam_invals (x : State) (t : Team) : (x.putTeam t).invals = x.invals := rfl
@[simp] theorem State.putTeam_owed (x : State) (t : Team) : (x.putTeam t).owed = x.owed := rfl
@[simp] theorem State.putTeam_called (x : State) (t : Team) : (x.putTeam t).called = x.called := rfl
@[simp] theorem State.putTeam_dieTlb (x : State) (t : Team) : (x.putTeam t).dieTlb = x.dieTlb := rfl
@[simp] theorem State.putTeam_decidedL2 (x : State) (t : Team) : (x.putTeam t).decidedL2 = x.decidedL2 := rfl
@[simp] theorem State.putTeam_devidx (x : State) (t : Team) : (x.putTeam t).devidx = x.devidx := rfl
@[simp] theorem State.putTeam_ua (x : State) (t : Team) : (x.putTeam t).ua = x.ua := rfl
@[simp] theorem State.putTeam_hostLink (x : State) (t : Team) : (x.putTeam t).hostLink = x.hostLink := rfl
@[simp] theorem State.putTeam_capLink (x : State) (t : Team) : (x.putTeam t).capLink = x.capLink := rfl
@[simp] theorem State.putTeam_inbound (x : State) (t : Team) : (x.putTeam t).inbound = x.inbound := rfl
@[simp] theorem State.putTeam_chains (x : State) (t : Team) : (x.putTeam t).chains = x.chains := rfl
@[simp] theorem State.putTeam_hdm (x : State) (t : Team) : (x.putTeam t).hdm = x.hdm := rfl
@[simp] theorem State.putTeam_decoders (x : State) (t : Team) : (x.putTeam t).decoders = x.decoders := rfl
@[simp] theorem State.putTeam_ckpt (x : State) (t : Team) : (x.putTeam t).ckpt = x.ckpt := rfl
@[simp] theorem State.putTeam_caps (x : State) (t : Team) : (x.putTeam t).caps = x.caps := rfl
@[simp] theorem State.putTeam_expanders (x : State) (t : Team) : (x.putTeam t).expanders = x.expanders := rfl
@[simp] theorem State.putTeam_fuses (x : State) (t : Team) : (x.putTeam t).fuses = x.fuses := rfl
@[simp] theorem State.putTeam_psc (x : State) (t : Team) : (x.putTeam t).psc = x.psc := rfl
@[simp] theorem State.putTeam_grooms (x : State) (t : Team) : (x.putTeam t).grooms = x.grooms := rfl
@[simp] theorem State.putTeam_held (x : State) (t : Team) : (x.putTeam t).held = x.held := rfl
@[simp] theorem State.putTeam_outbox (x : State) (t : Team) : (x.putTeam t).outbox = x.outbox := rfl
@[simp] theorem State.putTeam_teamCount (x : State) (t : Team) : (x.putTeam t).teamCount = x.teamCount := rfl
@[simp] theorem State.putTeam_schedule (x : State) (t : Team) : (x.putTeam t).schedule = x.schedule := rfl
@[simp] theorem State.putTeam_focus (x : State) (t : Team) : (x.putTeam t).focus = x.focus := rfl
@[simp] theorem State.putTeam_args (x : State) (t : Team) : (x.putTeam t).args = x.args := rfl
@[simp] theorem State.putTeam_free (x : State) (t : Team) : (x.putTeam t).free = x.free := rfl
@[simp] theorem State.putTeam_teams (x : State) (t : Team) : (x.putTeam t).teams = x.teams.map fun u => if u.task = t.task ∧ u.lin = t.lin then t else u := rfl

/-! ### A context stored back -/

@[simp] theorem State.putCtx_mem (x : State) (c : Ctx) : (x.putCtx c).mem = x.mem := rfl
@[simp] theorem State.putCtx_poison (x : State) (c : Ctx) : (x.putCtx c).poison = x.poison := rfl
@[simp] theorem State.putCtx_hmask (x : State) (c : Ctx) : (x.putCtx c).hmask = x.hmask := rfl
@[simp] theorem State.putCtx_hmaskQ (x : State) (c : Ctx) : (x.putCtx c).hmaskQ = x.hmaskQ := rfl
@[simp] theorem State.putCtx_groups (x : State) (c : Ctx) : (x.putCtx c).groups = x.groups := rfl
@[simp] theorem State.putCtx_cores (x : State) (c : Ctx) : (x.putCtx c).cores = x.cores := rfl
@[simp] theorem State.putCtx_teams (x : State) (c : Ctx) : (x.putCtx c).teams = x.teams := rfl
@[simp] theorem State.putCtx_tasks (x : State) (c : Ctx) : (x.putCtx c).tasks = x.tasks := rfl
@[simp] theorem State.putCtx_ready (x : State) (c : Ctx) : (x.putCtx c).ready = x.ready := rfl
@[simp] theorem State.putCtx_saved (x : State) (c : Ctx) : (x.putCtx c).saved = x.saved := rfl
@[simp] theorem State.putCtx_wide (x : State) (c : Ctx) : (x.putCtx c).wide = x.wide := rfl
@[simp] theorem State.putCtx_ctxReg (x : State) (c : Ctx) : (x.putCtx c).ctxReg = x.ctxReg := rfl
@[simp] theorem State.putCtx_migrations (x : State) (c : Ctx) : (x.putCtx c).migrations = x.migrations := rfl
@[simp] theorem State.putCtx_decrs (x : State) (c : Ctx) : (x.putCtx c).decrs = x.decrs := rfl
@[simp] theorem State.putCtx_stale (x : State) (c : Ctx) : (x.putCtx c).stale = x.stale := rfl
@[simp] theorem State.putCtx_watchers (x : State) (c : Ctx) : (x.putCtx c).watchers = x.watchers := rfl
@[simp] theorem State.putCtx_l2 (x : State) (c : Ctx) : (x.putCtx c).l2 = x.l2 := rfl
@[simp] theorem State.putCtx_dir (x : State) (c : Ctx) : (x.putCtx c).dir = x.dir := rfl
@[simp] theorem State.putCtx_homes (x : State) (c : Ctx) : (x.putCtx c).homes = x.homes := rfl
@[simp] theorem State.putCtx_invals (x : State) (c : Ctx) : (x.putCtx c).invals = x.invals := rfl
@[simp] theorem State.putCtx_owed (x : State) (c : Ctx) : (x.putCtx c).owed = x.owed := rfl
@[simp] theorem State.putCtx_called (x : State) (c : Ctx) : (x.putCtx c).called = x.called := rfl
@[simp] theorem State.putCtx_dieTlb (x : State) (c : Ctx) : (x.putCtx c).dieTlb = x.dieTlb := rfl
@[simp] theorem State.putCtx_decidedL2 (x : State) (c : Ctx) : (x.putCtx c).decidedL2 = x.decidedL2 := rfl
@[simp] theorem State.putCtx_devidx (x : State) (c : Ctx) : (x.putCtx c).devidx = x.devidx := rfl
@[simp] theorem State.putCtx_ua (x : State) (c : Ctx) : (x.putCtx c).ua = x.ua := rfl
@[simp] theorem State.putCtx_hostLink (x : State) (c : Ctx) : (x.putCtx c).hostLink = x.hostLink := rfl
@[simp] theorem State.putCtx_capLink (x : State) (c : Ctx) : (x.putCtx c).capLink = x.capLink := rfl
@[simp] theorem State.putCtx_inbound (x : State) (c : Ctx) : (x.putCtx c).inbound = x.inbound := rfl
@[simp] theorem State.putCtx_chains (x : State) (c : Ctx) : (x.putCtx c).chains = x.chains := rfl
@[simp] theorem State.putCtx_hdm (x : State) (c : Ctx) : (x.putCtx c).hdm = x.hdm := rfl
@[simp] theorem State.putCtx_decoders (x : State) (c : Ctx) : (x.putCtx c).decoders = x.decoders := rfl
@[simp] theorem State.putCtx_ckpt (x : State) (c : Ctx) : (x.putCtx c).ckpt = x.ckpt := rfl
@[simp] theorem State.putCtx_caps (x : State) (c : Ctx) : (x.putCtx c).caps = x.caps := rfl
@[simp] theorem State.putCtx_expanders (x : State) (c : Ctx) : (x.putCtx c).expanders = x.expanders := rfl
@[simp] theorem State.putCtx_fuses (x : State) (c : Ctx) : (x.putCtx c).fuses = x.fuses := rfl
@[simp] theorem State.putCtx_psc (x : State) (c : Ctx) : (x.putCtx c).psc = x.psc := rfl
@[simp] theorem State.putCtx_grooms (x : State) (c : Ctx) : (x.putCtx c).grooms = x.grooms := rfl
@[simp] theorem State.putCtx_held (x : State) (c : Ctx) : (x.putCtx c).held = x.held := rfl
@[simp] theorem State.putCtx_outbox (x : State) (c : Ctx) : (x.putCtx c).outbox = x.outbox := rfl
@[simp] theorem State.putCtx_teamCount (x : State) (c : Ctx) : (x.putCtx c).teamCount = x.teamCount := rfl
@[simp] theorem State.putCtx_schedule (x : State) (c : Ctx) : (x.putCtx c).schedule = x.schedule := rfl
@[simp] theorem State.putCtx_focus (x : State) (c : Ctx) : (x.putCtx c).focus = x.focus := rfl
@[simp] theorem State.putCtx_args (x : State) (c : Ctx) : (x.putCtx c).args = x.args := rfl
@[simp] theorem State.putCtx_free (x : State) (c : Ctx) : (x.putCtx c).free = x.free := rfl
@[simp] theorem State.putCtx_ctxs (x : State) (c : Ctx) : (x.putCtx c).ctxs = x.ctxs.map fun d => if d.n = c.n then c else d := rfl

/-! ### A word that stalls -/

@[simp] theorem State.stall_mem (x : State) (g : Group) : (x.stall g).mem = x.mem := rfl
@[simp] theorem State.stall_poison (x : State) (g : Group) : (x.stall g).poison = x.poison := rfl
@[simp] theorem State.stall_hmask (x : State) (g : Group) : (x.stall g).hmask = x.hmask := rfl
@[simp] theorem State.stall_hmaskQ (x : State) (g : Group) : (x.stall g).hmaskQ = x.hmaskQ := rfl
@[simp] theorem State.stall_cores (x : State) (g : Group) : (x.stall g).cores = x.cores := rfl
@[simp] theorem State.stall_teams (x : State) (g : Group) : (x.stall g).teams = x.teams := rfl
@[simp] theorem State.stall_tasks (x : State) (g : Group) : (x.stall g).tasks = x.tasks := rfl
@[simp] theorem State.stall_ready (x : State) (g : Group) : (x.stall g).ready = x.ready := rfl
@[simp] theorem State.stall_saved (x : State) (g : Group) : (x.stall g).saved = x.saved := rfl
@[simp] theorem State.stall_wide (x : State) (g : Group) : (x.stall g).wide = x.wide := rfl
@[simp] theorem State.stall_ctxReg (x : State) (g : Group) : (x.stall g).ctxReg = x.ctxReg := rfl
@[simp] theorem State.stall_ctxs (x : State) (g : Group) : (x.stall g).ctxs = x.ctxs := rfl
@[simp] theorem State.stall_migrations (x : State) (g : Group) : (x.stall g).migrations = x.migrations := rfl
@[simp] theorem State.stall_decrs (x : State) (g : Group) : (x.stall g).decrs = x.decrs := rfl
@[simp] theorem State.stall_stale (x : State) (g : Group) : (x.stall g).stale = x.stale := rfl
@[simp] theorem State.stall_watchers (x : State) (g : Group) : (x.stall g).watchers = x.watchers := rfl
@[simp] theorem State.stall_l2 (x : State) (g : Group) : (x.stall g).l2 = x.l2 := rfl
@[simp] theorem State.stall_dir (x : State) (g : Group) : (x.stall g).dir = x.dir := rfl
@[simp] theorem State.stall_homes (x : State) (g : Group) : (x.stall g).homes = x.homes := rfl
@[simp] theorem State.stall_invals (x : State) (g : Group) : (x.stall g).invals = x.invals := rfl
@[simp] theorem State.stall_owed (x : State) (g : Group) : (x.stall g).owed = x.owed := rfl
@[simp] theorem State.stall_called (x : State) (g : Group) : (x.stall g).called = x.called := rfl
@[simp] theorem State.stall_dieTlb (x : State) (g : Group) : (x.stall g).dieTlb = x.dieTlb := rfl
@[simp] theorem State.stall_decidedL2 (x : State) (g : Group) : (x.stall g).decidedL2 = x.decidedL2 := rfl
@[simp] theorem State.stall_devidx (x : State) (g : Group) : (x.stall g).devidx = x.devidx := rfl
@[simp] theorem State.stall_ua (x : State) (g : Group) : (x.stall g).ua = x.ua := rfl
@[simp] theorem State.stall_hostLink (x : State) (g : Group) : (x.stall g).hostLink = x.hostLink := rfl
@[simp] theorem State.stall_capLink (x : State) (g : Group) : (x.stall g).capLink = x.capLink := rfl
@[simp] theorem State.stall_inbound (x : State) (g : Group) : (x.stall g).inbound = x.inbound := rfl
@[simp] theorem State.stall_chains (x : State) (g : Group) : (x.stall g).chains = x.chains := rfl
@[simp] theorem State.stall_hdm (x : State) (g : Group) : (x.stall g).hdm = x.hdm := rfl
@[simp] theorem State.stall_decoders (x : State) (g : Group) : (x.stall g).decoders = x.decoders := rfl
@[simp] theorem State.stall_ckpt (x : State) (g : Group) : (x.stall g).ckpt = x.ckpt := rfl
@[simp] theorem State.stall_caps (x : State) (g : Group) : (x.stall g).caps = x.caps := rfl
@[simp] theorem State.stall_expanders (x : State) (g : Group) : (x.stall g).expanders = x.expanders := rfl
@[simp] theorem State.stall_fuses (x : State) (g : Group) : (x.stall g).fuses = x.fuses := rfl
@[simp] theorem State.stall_psc (x : State) (g : Group) : (x.stall g).psc = x.psc := rfl
@[simp] theorem State.stall_grooms (x : State) (g : Group) : (x.stall g).grooms = x.grooms := rfl
@[simp] theorem State.stall_held (x : State) (g : Group) : (x.stall g).held = x.held := rfl
@[simp] theorem State.stall_outbox (x : State) (g : Group) : (x.stall g).outbox = x.outbox := rfl
@[simp] theorem State.stall_teamCount (x : State) (g : Group) : (x.stall g).teamCount = x.teamCount := rfl
@[simp] theorem State.stall_schedule (x : State) (g : Group) : (x.stall g).schedule = x.schedule := rfl
@[simp] theorem State.stall_focus (x : State) (g : Group) : (x.stall g).focus = x.focus := rfl
@[simp] theorem State.stall_args (x : State) (g : Group) : (x.stall g).args = x.args := rfl
@[simp] theorem State.stall_free (x : State) (g : Group) : (x.stall g).free = x.free := rfl

/-! ### A core changed -/

@[simp] theorem State.modCore_mem (x : State) (c : CoreId) (f : Core → Core) : (x.modCore c f).mem = x.mem := by
  unfold State.modCore; split <;> rfl
@[simp] theorem State.modCore_poison (x : State) (c : CoreId) (f : Core → Core) : (x.modCore c f).poison = x.poison := by
  unfold State.modCore; split <;> rfl
@[simp] theorem State.modCore_hmask (x : State) (c : CoreId) (f : Core → Core) : (x.modCore c f).hmask = x.hmask := by
  unfold State.modCore; split <;> rfl
@[simp] theorem State.modCore_hmaskQ (x : State) (c : CoreId) (f : Core → Core) : (x.modCore c f).hmaskQ = x.hmaskQ := by
  unfold State.modCore; split <;> rfl
@[simp] theorem State.modCore_groups (x : State) (c : CoreId) (f : Core → Core) : (x.modCore c f).groups = x.groups := by
  unfold State.modCore; split <;> rfl
@[simp] theorem State.modCore_teams (x : State) (c : CoreId) (f : Core → Core) : (x.modCore c f).teams = x.teams := by
  unfold State.modCore; split <;> rfl
@[simp] theorem State.modCore_tasks (x : State) (c : CoreId) (f : Core → Core) : (x.modCore c f).tasks = x.tasks := by
  unfold State.modCore; split <;> rfl
@[simp] theorem State.modCore_ready (x : State) (c : CoreId) (f : Core → Core) : (x.modCore c f).ready = x.ready := by
  unfold State.modCore; split <;> rfl
@[simp] theorem State.modCore_saved (x : State) (c : CoreId) (f : Core → Core) : (x.modCore c f).saved = x.saved := by
  unfold State.modCore; split <;> rfl
@[simp] theorem State.modCore_wide (x : State) (c : CoreId) (f : Core → Core) : (x.modCore c f).wide = x.wide := by
  unfold State.modCore; split <;> rfl
@[simp] theorem State.modCore_ctxReg (x : State) (c : CoreId) (f : Core → Core) : (x.modCore c f).ctxReg = x.ctxReg := by
  unfold State.modCore; split <;> rfl
@[simp] theorem State.modCore_ctxs (x : State) (c : CoreId) (f : Core → Core) : (x.modCore c f).ctxs = x.ctxs := by
  unfold State.modCore; split <;> rfl
@[simp] theorem State.modCore_migrations (x : State) (c : CoreId) (f : Core → Core) : (x.modCore c f).migrations = x.migrations := by
  unfold State.modCore; split <;> rfl
@[simp] theorem State.modCore_decrs (x : State) (c : CoreId) (f : Core → Core) : (x.modCore c f).decrs = x.decrs := by
  unfold State.modCore; split <;> rfl
@[simp] theorem State.modCore_stale (x : State) (c : CoreId) (f : Core → Core) : (x.modCore c f).stale = x.stale := by
  unfold State.modCore; split <;> rfl
@[simp] theorem State.modCore_watchers (x : State) (c : CoreId) (f : Core → Core) : (x.modCore c f).watchers = x.watchers := by
  unfold State.modCore; split <;> rfl
@[simp] theorem State.modCore_l2 (x : State) (c : CoreId) (f : Core → Core) : (x.modCore c f).l2 = x.l2 := by
  unfold State.modCore; split <;> rfl
@[simp] theorem State.modCore_dir (x : State) (c : CoreId) (f : Core → Core) : (x.modCore c f).dir = x.dir := by
  unfold State.modCore; split <;> rfl
@[simp] theorem State.modCore_homes (x : State) (c : CoreId) (f : Core → Core) : (x.modCore c f).homes = x.homes := by
  unfold State.modCore; split <;> rfl
@[simp] theorem State.modCore_invals (x : State) (c : CoreId) (f : Core → Core) : (x.modCore c f).invals = x.invals := by
  unfold State.modCore; split <;> rfl
@[simp] theorem State.modCore_owed (x : State) (c : CoreId) (f : Core → Core) : (x.modCore c f).owed = x.owed := by
  unfold State.modCore; split <;> rfl
@[simp] theorem State.modCore_called (x : State) (c : CoreId) (f : Core → Core) : (x.modCore c f).called = x.called := by
  unfold State.modCore; split <;> rfl
@[simp] theorem State.modCore_dieTlb (x : State) (c : CoreId) (f : Core → Core) : (x.modCore c f).dieTlb = x.dieTlb := by
  unfold State.modCore; split <;> rfl
@[simp] theorem State.modCore_decidedL2 (x : State) (c : CoreId) (f : Core → Core) : (x.modCore c f).decidedL2 = x.decidedL2 := by
  unfold State.modCore; split <;> rfl
@[simp] theorem State.modCore_devidx (x : State) (c : CoreId) (f : Core → Core) : (x.modCore c f).devidx = x.devidx := by
  unfold State.modCore; split <;> rfl
@[simp] theorem State.modCore_ua (x : State) (c : CoreId) (f : Core → Core) : (x.modCore c f).ua = x.ua := by
  unfold State.modCore; split <;> rfl
@[simp] theorem State.modCore_hostLink (x : State) (c : CoreId) (f : Core → Core) : (x.modCore c f).hostLink = x.hostLink := by
  unfold State.modCore; split <;> rfl
@[simp] theorem State.modCore_capLink (x : State) (c : CoreId) (f : Core → Core) : (x.modCore c f).capLink = x.capLink := by
  unfold State.modCore; split <;> rfl
@[simp] theorem State.modCore_inbound (x : State) (c : CoreId) (f : Core → Core) : (x.modCore c f).inbound = x.inbound := by
  unfold State.modCore; split <;> rfl
@[simp] theorem State.modCore_chains (x : State) (c : CoreId) (f : Core → Core) : (x.modCore c f).chains = x.chains := by
  unfold State.modCore; split <;> rfl
@[simp] theorem State.modCore_hdm (x : State) (c : CoreId) (f : Core → Core) : (x.modCore c f).hdm = x.hdm := by
  unfold State.modCore; split <;> rfl
@[simp] theorem State.modCore_decoders (x : State) (c : CoreId) (f : Core → Core) : (x.modCore c f).decoders = x.decoders := by
  unfold State.modCore; split <;> rfl
@[simp] theorem State.modCore_ckpt (x : State) (c : CoreId) (f : Core → Core) : (x.modCore c f).ckpt = x.ckpt := by
  unfold State.modCore; split <;> rfl
@[simp] theorem State.modCore_caps (x : State) (c : CoreId) (f : Core → Core) : (x.modCore c f).caps = x.caps := by
  unfold State.modCore; split <;> rfl
@[simp] theorem State.modCore_expanders (x : State) (c : CoreId) (f : Core → Core) : (x.modCore c f).expanders = x.expanders := by
  unfold State.modCore; split <;> rfl
@[simp] theorem State.modCore_fuses (x : State) (c : CoreId) (f : Core → Core) : (x.modCore c f).fuses = x.fuses := by
  unfold State.modCore; split <;> rfl
@[simp] theorem State.modCore_psc (x : State) (c : CoreId) (f : Core → Core) : (x.modCore c f).psc = x.psc := by
  unfold State.modCore; split <;> rfl
@[simp] theorem State.modCore_grooms (x : State) (c : CoreId) (f : Core → Core) : (x.modCore c f).grooms = x.grooms := by
  unfold State.modCore; split <;> rfl
@[simp] theorem State.modCore_held (x : State) (c : CoreId) (f : Core → Core) : (x.modCore c f).held = x.held := by
  unfold State.modCore; split <;> rfl
@[simp] theorem State.modCore_outbox (x : State) (c : CoreId) (f : Core → Core) : (x.modCore c f).outbox = x.outbox := by
  unfold State.modCore; split <;> rfl
@[simp] theorem State.modCore_teamCount (x : State) (c : CoreId) (f : Core → Core) : (x.modCore c f).teamCount = x.teamCount := by
  unfold State.modCore; split <;> rfl
@[simp] theorem State.modCore_schedule (x : State) (c : CoreId) (f : Core → Core) : (x.modCore c f).schedule = x.schedule := by
  unfold State.modCore; split <;> rfl
@[simp] theorem State.modCore_focus (x : State) (c : CoreId) (f : Core → Core) : (x.modCore c f).focus = x.focus := by
  unfold State.modCore; split <;> rfl
@[simp] theorem State.modCore_args (x : State) (c : CoreId) (f : Core → Core) : (x.modCore c f).args = x.args := by
  unfold State.modCore; split <;> rfl
@[simp] theorem State.modCore_free (x : State) (c : CoreId) (f : Core → Core) : (x.modCore c f).free = x.free := by
  unfold State.modCore; split <;> rfl

/-! ### A scalar register written -/

@[simp] theorem Group.sset_id (x : Group) (n : Nat) (w : Word) : (x.sset n w).id = x.id := rfl
@[simp] theorem Group.sset_task (x : Group) (n : Nat) (w : Word) : (x.sset n w).task = x.task := rfl
@[simp] theorem Group.sset_lin (x : Group) (n : Nat) (w : Word) : (x.sset n w).lin = x.lin := rfl
@[simp] theorem Group.sset_gidx (x : Group) (n : Nat) (w : Word) : (x.sset n w).gidx = x.gidx := rfl
@[simp] theorem Group.sset_pv (x : Group) (n : Nat) (w : Word) : (x.sset n w).pv = x.pv := rfl
@[simp] theorem Group.sset_pc (x : Group) (n : Nat) (w : Word) : (x.sset n w).pc = x.pc := rfl
@[simp] theorem Group.sset_stage (x : Group) (n : Nat) (w : Word) : (x.sset n w).stage = x.stage := rfl
@[simp] theorem Group.sset_turn (x : Group) (n : Nat) (w : Word) : (x.sset n w).turn = x.turn := rfl
@[simp] theorem Group.sset_clause (x : Group) (n : Nat) (w : Word) : (x.sset n w).clause = x.clause := rfl
@[simp] theorem Group.sset_v (x : Group) (n : Nat) (w : Word) : (x.sset n w).v = x.v := rfl
@[simp] theorem Group.sset_p (x : Group) (n : Nat) (w : Word) : (x.sset n w).p = x.p := rfl
@[simp] theorem Group.sset_x (x : Group) (n : Nat) (w : Word) : (x.sset n w).x = x.x := rfl
@[simp] theorem Group.sset_dc (x : Group) (n : Nat) (w : Word) : (x.sset n w).dc = x.dc := rfl
@[simp] theorem Group.sset_pending (x : Group) (n : Nat) (w : Word) : (x.sset n w).pending = x.pending := rfl
@[simp] theorem Group.sset_clauseSeq (x : Group) (n : Nat) (w : Word) : (x.sset n w).clauseSeq = x.clauseSeq := rfl
@[simp] theorem Group.sset_serial (x : Group) (n : Nat) (w : Word) : (x.sset n w).serial = x.serial := rfl
@[simp] theorem Group.sset_yielding (x : Group) (n : Nat) (w : Word) : (x.sset n w).yielding = x.yielding := rfl
@[simp] theorem Group.sset_fpmode (x : Group) (n : Nat) (w : Word) : (x.sset n w).fpmode = x.fpmode := rfl
@[simp] theorem Group.sset_fpsr (x : Group) (n : Nat) (w : Word) : (x.sset n w).fpsr = x.fpsr := rfl
@[simp] theorem Group.sset_seg (x : Group) (n : Nat) (w : Word) : (x.sset n w).seg = x.seg := rfl
@[simp] theorem Group.sset_faultMask (x : Group) (n : Nat) (w : Word) : (x.sset n w).faultMask = x.faultMask := rfl
@[simp] theorem Group.sset_faultCode (x : Group) (n : Nat) (w : Word) : (x.sset n w).faultCode = x.faultCode := rfl
@[simp] theorem Group.sset_faultAddr (x : Group) (n : Nat) (w : Word) : (x.sset n w).faultAddr = x.faultAddr := rfl
@[simp] theorem Group.sset_retpc (x : Group) (n : Nat) (w : Word) : (x.sset n w).retpc = x.retpc := rfl
@[simp] theorem Group.sset_retw (x : Group) (n : Nat) (w : Word) : (x.sset n w).retw = x.retw := rfl
@[simp] theorem Group.sset_retmask (x : Group) (n : Nat) (w : Word) : (x.sset n w).retmask = x.retmask := rfl
@[simp] theorem Group.sset_scr (x : Group) (n : Nat) (w : Word) : (x.sset n w).scr = x.scr := rfl
@[simp] theorem Group.sset_fabrec (x : Group) (n : Nat) (w : Word) : (x.sset n w).fabrec = x.fabrec := rfl
@[simp] theorem Group.sset_portrec (x : Group) (n : Nat) (w : Word) : (x.sset n w).portrec = x.portrec := rfl
@[simp] theorem Group.sset_inHandler (x : Group) (n : Nat) (w : Word) : (x.sset n w).inHandler = x.inHandler := rfl
@[simp] theorem Group.sset_lateMask (x : Group) (n : Nat) (w : Word) : (x.sset n w).lateMask = x.lateMask := rfl
@[simp] theorem Group.sset_lateCtrs (x : Group) (n : Nat) (w : Word) : (x.sset n w).lateCtrs = x.lateCtrs := rfl
@[simp] theorem Group.sset_lateRec (x : Group) (n : Nat) (w : Word) : (x.sset n w).lateRec = x.lateRec := rfl
@[simp] theorem Group.sset_delayed (x : Group) (n : Nat) (w : Word) : (x.sset n w).delayed = x.delayed := rfl
@[simp] theorem Group.sset_status (x : Group) (n : Nat) (w : Word) : (x.sset n w).status = x.status := rfl
@[simp] theorem Group.sset_wait (x : Group) (n : Nat) (w : Word) : (x.sset n w).wait = x.wait := rfl
@[simp] theorem Group.sset_fault (x : Group) (n : Nat) (w : Word) : (x.sset n w).fault = x.fault := rfl
@[simp] theorem Group.sset_restore (x : Group) (n : Nat) (w : Word) : (x.sset n w).restore = x.restore := rfl
@[simp] theorem Group.sset_replay (x : Group) (n : Nat) (w : Word) : (x.sset n w).replay = x.replay := rfl
@[simp] theorem Group.sset_missed (x : Group) (n : Nat) (w : Word) : (x.sset n w).missed = x.missed := rfl
@[simp] theorem Group.sset_resume (x : Group) (n : Nat) (w : Word) : (x.sset n w).resume = x.resume := rfl
@[simp] theorem Group.sset_tx (x : Group) (n : Nat) (w : Word) : (x.sset n w).tx = x.tx := rfl
@[simp] theorem Group.sset_txStatus (x : Group) (n : Nat) (w : Word) : (x.sset n w).txStatus = x.txStatus := rfl
@[simp] theorem Group.sset_arrivals (x : Group) (n : Nat) (w : Word) : (x.sset n w).arrivals = x.arrivals := rfl
@[simp] theorem Group.sset_posts (x : Group) (n : Nat) (w : Word) : (x.sset n w).posts = x.posts := rfl
@[simp] theorem Group.sset_sets (x : Group) (n : Nat) (w : Word) : (x.sset n w).sets = x.sets := rfl
@[simp] theorem Group.sset_xbPhase (x : Group) (n : Nat) (w : Word) : (x.sset n w).xbPhase = x.xbPhase := rfl
@[simp] theorem Group.sset_out (x : Group) (n : Nat) (w : Word) : (x.sset n w).out = x.out := rfl
@[simp] theorem Group.sset_stores (x : Group) (n : Nat) (w : Word) : (x.sset n w).stores = x.stores := rfl
@[simp] theorem Group.sset_seq (x : Group) (n : Nat) (w : Word) : (x.sset n w).seq = x.seq := rfl
@[simp] theorem Group.sset_fence (x : Group) (n : Nat) (w : Word) : (x.sset n w).fence = x.fence := rfl
@[simp] theorem Group.sset_acqCtrs (x : Group) (n : Nat) (w : Word) : (x.sset n w).acqCtrs = x.acqCtrs := rfl
@[simp] theorem Group.sset_sat (x : Group) (n : Nat) (w : Word) : (x.sset n w).sat = x.sat := rfl
@[simp] theorem Group.sset_hsat (x : Group) (n : Nat) (w : Word) : (x.sset n w).hsat = x.hsat := rfl
@[simp] theorem Group.sset_s (x : Group) (n : Nat) (w : Word) : (x.sset n w).s = x.s.setIfInBounds n w := rfl

/-! ### A scalar pair written -/

@[simp] theorem Group.ssetPair_id (x : Group) (n : Nat) (w : DWord) : (x.ssetPair n w).id = x.id := rfl
@[simp] theorem Group.ssetPair_task (x : Group) (n : Nat) (w : DWord) : (x.ssetPair n w).task = x.task := rfl
@[simp] theorem Group.ssetPair_lin (x : Group) (n : Nat) (w : DWord) : (x.ssetPair n w).lin = x.lin := rfl
@[simp] theorem Group.ssetPair_gidx (x : Group) (n : Nat) (w : DWord) : (x.ssetPair n w).gidx = x.gidx := rfl
@[simp] theorem Group.ssetPair_pv (x : Group) (n : Nat) (w : DWord) : (x.ssetPair n w).pv = x.pv := rfl
@[simp] theorem Group.ssetPair_pc (x : Group) (n : Nat) (w : DWord) : (x.ssetPair n w).pc = x.pc := rfl
@[simp] theorem Group.ssetPair_stage (x : Group) (n : Nat) (w : DWord) : (x.ssetPair n w).stage = x.stage := rfl
@[simp] theorem Group.ssetPair_turn (x : Group) (n : Nat) (w : DWord) : (x.ssetPair n w).turn = x.turn := rfl
@[simp] theorem Group.ssetPair_clause (x : Group) (n : Nat) (w : DWord) : (x.ssetPair n w).clause = x.clause := rfl
@[simp] theorem Group.ssetPair_v (x : Group) (n : Nat) (w : DWord) : (x.ssetPair n w).v = x.v := rfl
@[simp] theorem Group.ssetPair_p (x : Group) (n : Nat) (w : DWord) : (x.ssetPair n w).p = x.p := rfl
@[simp] theorem Group.ssetPair_x (x : Group) (n : Nat) (w : DWord) : (x.ssetPair n w).x = x.x := rfl
@[simp] theorem Group.ssetPair_dc (x : Group) (n : Nat) (w : DWord) : (x.ssetPair n w).dc = x.dc := rfl
@[simp] theorem Group.ssetPair_pending (x : Group) (n : Nat) (w : DWord) : (x.ssetPair n w).pending = x.pending := rfl
@[simp] theorem Group.ssetPair_clauseSeq (x : Group) (n : Nat) (w : DWord) : (x.ssetPair n w).clauseSeq = x.clauseSeq := rfl
@[simp] theorem Group.ssetPair_serial (x : Group) (n : Nat) (w : DWord) : (x.ssetPair n w).serial = x.serial := rfl
@[simp] theorem Group.ssetPair_yielding (x : Group) (n : Nat) (w : DWord) : (x.ssetPair n w).yielding = x.yielding := rfl
@[simp] theorem Group.ssetPair_fpmode (x : Group) (n : Nat) (w : DWord) : (x.ssetPair n w).fpmode = x.fpmode := rfl
@[simp] theorem Group.ssetPair_fpsr (x : Group) (n : Nat) (w : DWord) : (x.ssetPair n w).fpsr = x.fpsr := rfl
@[simp] theorem Group.ssetPair_seg (x : Group) (n : Nat) (w : DWord) : (x.ssetPair n w).seg = x.seg := rfl
@[simp] theorem Group.ssetPair_faultMask (x : Group) (n : Nat) (w : DWord) : (x.ssetPair n w).faultMask = x.faultMask := rfl
@[simp] theorem Group.ssetPair_faultCode (x : Group) (n : Nat) (w : DWord) : (x.ssetPair n w).faultCode = x.faultCode := rfl
@[simp] theorem Group.ssetPair_faultAddr (x : Group) (n : Nat) (w : DWord) : (x.ssetPair n w).faultAddr = x.faultAddr := rfl
@[simp] theorem Group.ssetPair_retpc (x : Group) (n : Nat) (w : DWord) : (x.ssetPair n w).retpc = x.retpc := rfl
@[simp] theorem Group.ssetPair_retw (x : Group) (n : Nat) (w : DWord) : (x.ssetPair n w).retw = x.retw := rfl
@[simp] theorem Group.ssetPair_retmask (x : Group) (n : Nat) (w : DWord) : (x.ssetPair n w).retmask = x.retmask := rfl
@[simp] theorem Group.ssetPair_scr (x : Group) (n : Nat) (w : DWord) : (x.ssetPair n w).scr = x.scr := rfl
@[simp] theorem Group.ssetPair_fabrec (x : Group) (n : Nat) (w : DWord) : (x.ssetPair n w).fabrec = x.fabrec := rfl
@[simp] theorem Group.ssetPair_portrec (x : Group) (n : Nat) (w : DWord) : (x.ssetPair n w).portrec = x.portrec := rfl
@[simp] theorem Group.ssetPair_inHandler (x : Group) (n : Nat) (w : DWord) : (x.ssetPair n w).inHandler = x.inHandler := rfl
@[simp] theorem Group.ssetPair_lateMask (x : Group) (n : Nat) (w : DWord) : (x.ssetPair n w).lateMask = x.lateMask := rfl
@[simp] theorem Group.ssetPair_lateCtrs (x : Group) (n : Nat) (w : DWord) : (x.ssetPair n w).lateCtrs = x.lateCtrs := rfl
@[simp] theorem Group.ssetPair_lateRec (x : Group) (n : Nat) (w : DWord) : (x.ssetPair n w).lateRec = x.lateRec := rfl
@[simp] theorem Group.ssetPair_delayed (x : Group) (n : Nat) (w : DWord) : (x.ssetPair n w).delayed = x.delayed := rfl
@[simp] theorem Group.ssetPair_status (x : Group) (n : Nat) (w : DWord) : (x.ssetPair n w).status = x.status := rfl
@[simp] theorem Group.ssetPair_wait (x : Group) (n : Nat) (w : DWord) : (x.ssetPair n w).wait = x.wait := rfl
@[simp] theorem Group.ssetPair_fault (x : Group) (n : Nat) (w : DWord) : (x.ssetPair n w).fault = x.fault := rfl
@[simp] theorem Group.ssetPair_restore (x : Group) (n : Nat) (w : DWord) : (x.ssetPair n w).restore = x.restore := rfl
@[simp] theorem Group.ssetPair_replay (x : Group) (n : Nat) (w : DWord) : (x.ssetPair n w).replay = x.replay := rfl
@[simp] theorem Group.ssetPair_missed (x : Group) (n : Nat) (w : DWord) : (x.ssetPair n w).missed = x.missed := rfl
@[simp] theorem Group.ssetPair_resume (x : Group) (n : Nat) (w : DWord) : (x.ssetPair n w).resume = x.resume := rfl
@[simp] theorem Group.ssetPair_tx (x : Group) (n : Nat) (w : DWord) : (x.ssetPair n w).tx = x.tx := rfl
@[simp] theorem Group.ssetPair_txStatus (x : Group) (n : Nat) (w : DWord) : (x.ssetPair n w).txStatus = x.txStatus := rfl
@[simp] theorem Group.ssetPair_arrivals (x : Group) (n : Nat) (w : DWord) : (x.ssetPair n w).arrivals = x.arrivals := rfl
@[simp] theorem Group.ssetPair_posts (x : Group) (n : Nat) (w : DWord) : (x.ssetPair n w).posts = x.posts := rfl
@[simp] theorem Group.ssetPair_sets (x : Group) (n : Nat) (w : DWord) : (x.ssetPair n w).sets = x.sets := rfl
@[simp] theorem Group.ssetPair_xbPhase (x : Group) (n : Nat) (w : DWord) : (x.ssetPair n w).xbPhase = x.xbPhase := rfl
@[simp] theorem Group.ssetPair_out (x : Group) (n : Nat) (w : DWord) : (x.ssetPair n w).out = x.out := rfl
@[simp] theorem Group.ssetPair_stores (x : Group) (n : Nat) (w : DWord) : (x.ssetPair n w).stores = x.stores := rfl
@[simp] theorem Group.ssetPair_seq (x : Group) (n : Nat) (w : DWord) : (x.ssetPair n w).seq = x.seq := rfl
@[simp] theorem Group.ssetPair_fence (x : Group) (n : Nat) (w : DWord) : (x.ssetPair n w).fence = x.fence := rfl
@[simp] theorem Group.ssetPair_acqCtrs (x : Group) (n : Nat) (w : DWord) : (x.ssetPair n w).acqCtrs = x.acqCtrs := rfl
@[simp] theorem Group.ssetPair_sat (x : Group) (n : Nat) (w : DWord) : (x.ssetPair n w).sat = x.sat := rfl
@[simp] theorem Group.ssetPair_hsat (x : Group) (n : Nat) (w : DWord) : (x.ssetPair n w).hsat = x.hsat := rfl
@[simp] theorem Group.ssetPair_s (x : Group) (n : Nat) (w : DWord) : (x.ssetPair n w).s = (x.s.setIfInBounds n (loWord w)).setIfInBounds (n + 1) (hiWord w) := rfl

/-! ### The activity mask written -/

@[simp] theorem Group.setMask_id (x : Group) (m : Mask) : (x.setMask m).id = x.id := rfl
@[simp] theorem Group.setMask_task (x : Group) (m : Mask) : (x.setMask m).task = x.task := rfl
@[simp] theorem Group.setMask_lin (x : Group) (m : Mask) : (x.setMask m).lin = x.lin := rfl
@[simp] theorem Group.setMask_gidx (x : Group) (m : Mask) : (x.setMask m).gidx = x.gidx := rfl
@[simp] theorem Group.setMask_pv (x : Group) (m : Mask) : (x.setMask m).pv = x.pv := rfl
@[simp] theorem Group.setMask_pc (x : Group) (m : Mask) : (x.setMask m).pc = x.pc := rfl
@[simp] theorem Group.setMask_stage (x : Group) (m : Mask) : (x.setMask m).stage = x.stage := rfl
@[simp] theorem Group.setMask_turn (x : Group) (m : Mask) : (x.setMask m).turn = x.turn := rfl
@[simp] theorem Group.setMask_clause (x : Group) (m : Mask) : (x.setMask m).clause = x.clause := rfl
@[simp] theorem Group.setMask_v (x : Group) (m : Mask) : (x.setMask m).v = x.v := rfl
@[simp] theorem Group.setMask_p (x : Group) (m : Mask) : (x.setMask m).p = x.p := rfl
@[simp] theorem Group.setMask_x (x : Group) (m : Mask) : (x.setMask m).x = x.x := rfl
@[simp] theorem Group.setMask_dc (x : Group) (m : Mask) : (x.setMask m).dc = x.dc := rfl
@[simp] theorem Group.setMask_pending (x : Group) (m : Mask) : (x.setMask m).pending = x.pending := rfl
@[simp] theorem Group.setMask_clauseSeq (x : Group) (m : Mask) : (x.setMask m).clauseSeq = x.clauseSeq := rfl
@[simp] theorem Group.setMask_serial (x : Group) (m : Mask) : (x.setMask m).serial = x.serial := rfl
@[simp] theorem Group.setMask_yielding (x : Group) (m : Mask) : (x.setMask m).yielding = x.yielding := rfl
@[simp] theorem Group.setMask_fpmode (x : Group) (m : Mask) : (x.setMask m).fpmode = x.fpmode := rfl
@[simp] theorem Group.setMask_fpsr (x : Group) (m : Mask) : (x.setMask m).fpsr = x.fpsr := rfl
@[simp] theorem Group.setMask_seg (x : Group) (m : Mask) : (x.setMask m).seg = x.seg := rfl
@[simp] theorem Group.setMask_faultMask (x : Group) (m : Mask) : (x.setMask m).faultMask = x.faultMask := rfl
@[simp] theorem Group.setMask_faultCode (x : Group) (m : Mask) : (x.setMask m).faultCode = x.faultCode := rfl
@[simp] theorem Group.setMask_faultAddr (x : Group) (m : Mask) : (x.setMask m).faultAddr = x.faultAddr := rfl
@[simp] theorem Group.setMask_retpc (x : Group) (m : Mask) : (x.setMask m).retpc = x.retpc := rfl
@[simp] theorem Group.setMask_retw (x : Group) (m : Mask) : (x.setMask m).retw = x.retw := rfl
@[simp] theorem Group.setMask_retmask (x : Group) (m : Mask) : (x.setMask m).retmask = x.retmask := rfl
@[simp] theorem Group.setMask_scr (x : Group) (m : Mask) : (x.setMask m).scr = x.scr := rfl
@[simp] theorem Group.setMask_fabrec (x : Group) (m : Mask) : (x.setMask m).fabrec = x.fabrec := rfl
@[simp] theorem Group.setMask_portrec (x : Group) (m : Mask) : (x.setMask m).portrec = x.portrec := rfl
@[simp] theorem Group.setMask_inHandler (x : Group) (m : Mask) : (x.setMask m).inHandler = x.inHandler := rfl
@[simp] theorem Group.setMask_lateMask (x : Group) (m : Mask) : (x.setMask m).lateMask = x.lateMask := rfl
@[simp] theorem Group.setMask_lateCtrs (x : Group) (m : Mask) : (x.setMask m).lateCtrs = x.lateCtrs := rfl
@[simp] theorem Group.setMask_lateRec (x : Group) (m : Mask) : (x.setMask m).lateRec = x.lateRec := rfl
@[simp] theorem Group.setMask_delayed (x : Group) (m : Mask) : (x.setMask m).delayed = x.delayed := rfl
@[simp] theorem Group.setMask_status (x : Group) (m : Mask) : (x.setMask m).status = x.status := rfl
@[simp] theorem Group.setMask_wait (x : Group) (m : Mask) : (x.setMask m).wait = x.wait := rfl
@[simp] theorem Group.setMask_fault (x : Group) (m : Mask) : (x.setMask m).fault = x.fault := rfl
@[simp] theorem Group.setMask_restore (x : Group) (m : Mask) : (x.setMask m).restore = x.restore := rfl
@[simp] theorem Group.setMask_replay (x : Group) (m : Mask) : (x.setMask m).replay = x.replay := rfl
@[simp] theorem Group.setMask_missed (x : Group) (m : Mask) : (x.setMask m).missed = x.missed := rfl
@[simp] theorem Group.setMask_resume (x : Group) (m : Mask) : (x.setMask m).resume = x.resume := rfl
@[simp] theorem Group.setMask_tx (x : Group) (m : Mask) : (x.setMask m).tx = x.tx := rfl
@[simp] theorem Group.setMask_txStatus (x : Group) (m : Mask) : (x.setMask m).txStatus = x.txStatus := rfl
@[simp] theorem Group.setMask_arrivals (x : Group) (m : Mask) : (x.setMask m).arrivals = x.arrivals := rfl
@[simp] theorem Group.setMask_posts (x : Group) (m : Mask) : (x.setMask m).posts = x.posts := rfl
@[simp] theorem Group.setMask_sets (x : Group) (m : Mask) : (x.setMask m).sets = x.sets := rfl
@[simp] theorem Group.setMask_xbPhase (x : Group) (m : Mask) : (x.setMask m).xbPhase = x.xbPhase := rfl
@[simp] theorem Group.setMask_out (x : Group) (m : Mask) : (x.setMask m).out = x.out := rfl
@[simp] theorem Group.setMask_stores (x : Group) (m : Mask) : (x.setMask m).stores = x.stores := rfl
@[simp] theorem Group.setMask_seq (x : Group) (m : Mask) : (x.setMask m).seq = x.seq := rfl
@[simp] theorem Group.setMask_fence (x : Group) (m : Mask) : (x.setMask m).fence = x.fence := rfl
@[simp] theorem Group.setMask_acqCtrs (x : Group) (m : Mask) : (x.setMask m).acqCtrs = x.acqCtrs := rfl
@[simp] theorem Group.setMask_sat (x : Group) (m : Mask) : (x.setMask m).sat = x.sat := rfl
@[simp] theorem Group.setMask_hsat (x : Group) (m : Mask) : (x.setMask m).hsat = x.hsat := rfl
@[simp] theorem Group.setMask_s (x : Group) (m : Mask) : (x.setMask m).s = ((x.s.setIfInBounds 60 (maskWord m 0)).setIfInBounds 61 (maskWord m 1)).setIfInBounds 62 (maskWord m 2) := rfl

/-! ### A vector register written -/

@[simp] theorem Group.vset_id (x : Group) (gd : Guard) (d : Nat) (f : Nat → Word) : (x.vset gd d f).id = x.id := rfl
@[simp] theorem Group.vset_task (x : Group) (gd : Guard) (d : Nat) (f : Nat → Word) : (x.vset gd d f).task = x.task := rfl
@[simp] theorem Group.vset_lin (x : Group) (gd : Guard) (d : Nat) (f : Nat → Word) : (x.vset gd d f).lin = x.lin := rfl
@[simp] theorem Group.vset_gidx (x : Group) (gd : Guard) (d : Nat) (f : Nat → Word) : (x.vset gd d f).gidx = x.gidx := rfl
@[simp] theorem Group.vset_pv (x : Group) (gd : Guard) (d : Nat) (f : Nat → Word) : (x.vset gd d f).pv = x.pv := rfl
@[simp] theorem Group.vset_pc (x : Group) (gd : Guard) (d : Nat) (f : Nat → Word) : (x.vset gd d f).pc = x.pc := rfl
@[simp] theorem Group.vset_stage (x : Group) (gd : Guard) (d : Nat) (f : Nat → Word) : (x.vset gd d f).stage = x.stage := rfl
@[simp] theorem Group.vset_turn (x : Group) (gd : Guard) (d : Nat) (f : Nat → Word) : (x.vset gd d f).turn = x.turn := rfl
@[simp] theorem Group.vset_clause (x : Group) (gd : Guard) (d : Nat) (f : Nat → Word) : (x.vset gd d f).clause = x.clause := rfl
@[simp] theorem Group.vset_s (x : Group) (gd : Guard) (d : Nat) (f : Nat → Word) : (x.vset gd d f).s = x.s := rfl
@[simp] theorem Group.vset_p (x : Group) (gd : Guard) (d : Nat) (f : Nat → Word) : (x.vset gd d f).p = x.p := rfl
@[simp] theorem Group.vset_x (x : Group) (gd : Guard) (d : Nat) (f : Nat → Word) : (x.vset gd d f).x = x.x := rfl
@[simp] theorem Group.vset_dc (x : Group) (gd : Guard) (d : Nat) (f : Nat → Word) : (x.vset gd d f).dc = x.dc := rfl
@[simp] theorem Group.vset_pending (x : Group) (gd : Guard) (d : Nat) (f : Nat → Word) : (x.vset gd d f).pending = x.pending := rfl
@[simp] theorem Group.vset_clauseSeq (x : Group) (gd : Guard) (d : Nat) (f : Nat → Word) : (x.vset gd d f).clauseSeq = x.clauseSeq := rfl
@[simp] theorem Group.vset_serial (x : Group) (gd : Guard) (d : Nat) (f : Nat → Word) : (x.vset gd d f).serial = x.serial := rfl
@[simp] theorem Group.vset_yielding (x : Group) (gd : Guard) (d : Nat) (f : Nat → Word) : (x.vset gd d f).yielding = x.yielding := rfl
@[simp] theorem Group.vset_fpmode (x : Group) (gd : Guard) (d : Nat) (f : Nat → Word) : (x.vset gd d f).fpmode = x.fpmode := rfl
@[simp] theorem Group.vset_fpsr (x : Group) (gd : Guard) (d : Nat) (f : Nat → Word) : (x.vset gd d f).fpsr = x.fpsr := rfl
@[simp] theorem Group.vset_seg (x : Group) (gd : Guard) (d : Nat) (f : Nat → Word) : (x.vset gd d f).seg = x.seg := rfl
@[simp] theorem Group.vset_faultMask (x : Group) (gd : Guard) (d : Nat) (f : Nat → Word) : (x.vset gd d f).faultMask = x.faultMask := rfl
@[simp] theorem Group.vset_faultCode (x : Group) (gd : Guard) (d : Nat) (f : Nat → Word) : (x.vset gd d f).faultCode = x.faultCode := rfl
@[simp] theorem Group.vset_faultAddr (x : Group) (gd : Guard) (d : Nat) (f : Nat → Word) : (x.vset gd d f).faultAddr = x.faultAddr := rfl
@[simp] theorem Group.vset_retpc (x : Group) (gd : Guard) (d : Nat) (f : Nat → Word) : (x.vset gd d f).retpc = x.retpc := rfl
@[simp] theorem Group.vset_retw (x : Group) (gd : Guard) (d : Nat) (f : Nat → Word) : (x.vset gd d f).retw = x.retw := rfl
@[simp] theorem Group.vset_retmask (x : Group) (gd : Guard) (d : Nat) (f : Nat → Word) : (x.vset gd d f).retmask = x.retmask := rfl
@[simp] theorem Group.vset_scr (x : Group) (gd : Guard) (d : Nat) (f : Nat → Word) : (x.vset gd d f).scr = x.scr := rfl
@[simp] theorem Group.vset_fabrec (x : Group) (gd : Guard) (d : Nat) (f : Nat → Word) : (x.vset gd d f).fabrec = x.fabrec := rfl
@[simp] theorem Group.vset_portrec (x : Group) (gd : Guard) (d : Nat) (f : Nat → Word) : (x.vset gd d f).portrec = x.portrec := rfl
@[simp] theorem Group.vset_inHandler (x : Group) (gd : Guard) (d : Nat) (f : Nat → Word) : (x.vset gd d f).inHandler = x.inHandler := rfl
@[simp] theorem Group.vset_lateMask (x : Group) (gd : Guard) (d : Nat) (f : Nat → Word) : (x.vset gd d f).lateMask = x.lateMask := rfl
@[simp] theorem Group.vset_lateCtrs (x : Group) (gd : Guard) (d : Nat) (f : Nat → Word) : (x.vset gd d f).lateCtrs = x.lateCtrs := rfl
@[simp] theorem Group.vset_lateRec (x : Group) (gd : Guard) (d : Nat) (f : Nat → Word) : (x.vset gd d f).lateRec = x.lateRec := rfl
@[simp] theorem Group.vset_delayed (x : Group) (gd : Guard) (d : Nat) (f : Nat → Word) : (x.vset gd d f).delayed = x.delayed := rfl
@[simp] theorem Group.vset_status (x : Group) (gd : Guard) (d : Nat) (f : Nat → Word) : (x.vset gd d f).status = x.status := rfl
@[simp] theorem Group.vset_wait (x : Group) (gd : Guard) (d : Nat) (f : Nat → Word) : (x.vset gd d f).wait = x.wait := rfl
@[simp] theorem Group.vset_fault (x : Group) (gd : Guard) (d : Nat) (f : Nat → Word) : (x.vset gd d f).fault = x.fault := rfl
@[simp] theorem Group.vset_restore (x : Group) (gd : Guard) (d : Nat) (f : Nat → Word) : (x.vset gd d f).restore = x.restore := rfl
@[simp] theorem Group.vset_replay (x : Group) (gd : Guard) (d : Nat) (f : Nat → Word) : (x.vset gd d f).replay = x.replay := rfl
@[simp] theorem Group.vset_missed (x : Group) (gd : Guard) (d : Nat) (f : Nat → Word) : (x.vset gd d f).missed = x.missed := rfl
@[simp] theorem Group.vset_resume (x : Group) (gd : Guard) (d : Nat) (f : Nat → Word) : (x.vset gd d f).resume = x.resume := rfl
@[simp] theorem Group.vset_tx (x : Group) (gd : Guard) (d : Nat) (f : Nat → Word) : (x.vset gd d f).tx = x.tx := rfl
@[simp] theorem Group.vset_txStatus (x : Group) (gd : Guard) (d : Nat) (f : Nat → Word) : (x.vset gd d f).txStatus = x.txStatus := rfl
@[simp] theorem Group.vset_arrivals (x : Group) (gd : Guard) (d : Nat) (f : Nat → Word) : (x.vset gd d f).arrivals = x.arrivals := rfl
@[simp] theorem Group.vset_posts (x : Group) (gd : Guard) (d : Nat) (f : Nat → Word) : (x.vset gd d f).posts = x.posts := rfl
@[simp] theorem Group.vset_sets (x : Group) (gd : Guard) (d : Nat) (f : Nat → Word) : (x.vset gd d f).sets = x.sets := rfl
@[simp] theorem Group.vset_xbPhase (x : Group) (gd : Guard) (d : Nat) (f : Nat → Word) : (x.vset gd d f).xbPhase = x.xbPhase := rfl
@[simp] theorem Group.vset_out (x : Group) (gd : Guard) (d : Nat) (f : Nat → Word) : (x.vset gd d f).out = x.out := rfl
@[simp] theorem Group.vset_stores (x : Group) (gd : Guard) (d : Nat) (f : Nat → Word) : (x.vset gd d f).stores = x.stores := rfl
@[simp] theorem Group.vset_seq (x : Group) (gd : Guard) (d : Nat) (f : Nat → Word) : (x.vset gd d f).seq = x.seq := rfl
@[simp] theorem Group.vset_fence (x : Group) (gd : Guard) (d : Nat) (f : Nat → Word) : (x.vset gd d f).fence = x.fence := rfl
@[simp] theorem Group.vset_acqCtrs (x : Group) (gd : Guard) (d : Nat) (f : Nat → Word) : (x.vset gd d f).acqCtrs = x.acqCtrs := rfl
@[simp] theorem Group.vset_sat (x : Group) (gd : Guard) (d : Nat) (f : Nat → Word) : (x.vset gd d f).sat = x.sat := rfl
@[simp] theorem Group.vset_hsat (x : Group) (gd : Guard) (d : Nat) (f : Nat → Word) : (x.vset gd d f).hsat = x.hsat := rfl

/-! ### A vector pair written -/

@[simp] theorem Group.vsetPair_id (x : Group) (gd : Guard) (d : Nat) (f : Nat → DWord) : (x.vsetPair gd d f).id = x.id := rfl
@[simp] theorem Group.vsetPair_task (x : Group) (gd : Guard) (d : Nat) (f : Nat → DWord) : (x.vsetPair gd d f).task = x.task := rfl
@[simp] theorem Group.vsetPair_lin (x : Group) (gd : Guard) (d : Nat) (f : Nat → DWord) : (x.vsetPair gd d f).lin = x.lin := rfl
@[simp] theorem Group.vsetPair_gidx (x : Group) (gd : Guard) (d : Nat) (f : Nat → DWord) : (x.vsetPair gd d f).gidx = x.gidx := rfl
@[simp] theorem Group.vsetPair_pv (x : Group) (gd : Guard) (d : Nat) (f : Nat → DWord) : (x.vsetPair gd d f).pv = x.pv := rfl
@[simp] theorem Group.vsetPair_pc (x : Group) (gd : Guard) (d : Nat) (f : Nat → DWord) : (x.vsetPair gd d f).pc = x.pc := rfl
@[simp] theorem Group.vsetPair_stage (x : Group) (gd : Guard) (d : Nat) (f : Nat → DWord) : (x.vsetPair gd d f).stage = x.stage := rfl
@[simp] theorem Group.vsetPair_turn (x : Group) (gd : Guard) (d : Nat) (f : Nat → DWord) : (x.vsetPair gd d f).turn = x.turn := rfl
@[simp] theorem Group.vsetPair_clause (x : Group) (gd : Guard) (d : Nat) (f : Nat → DWord) : (x.vsetPair gd d f).clause = x.clause := rfl
@[simp] theorem Group.vsetPair_s (x : Group) (gd : Guard) (d : Nat) (f : Nat → DWord) : (x.vsetPair gd d f).s = x.s := rfl
@[simp] theorem Group.vsetPair_p (x : Group) (gd : Guard) (d : Nat) (f : Nat → DWord) : (x.vsetPair gd d f).p = x.p := rfl
@[simp] theorem Group.vsetPair_x (x : Group) (gd : Guard) (d : Nat) (f : Nat → DWord) : (x.vsetPair gd d f).x = x.x := rfl
@[simp] theorem Group.vsetPair_dc (x : Group) (gd : Guard) (d : Nat) (f : Nat → DWord) : (x.vsetPair gd d f).dc = x.dc := rfl
@[simp] theorem Group.vsetPair_pending (x : Group) (gd : Guard) (d : Nat) (f : Nat → DWord) : (x.vsetPair gd d f).pending = x.pending := rfl
@[simp] theorem Group.vsetPair_clauseSeq (x : Group) (gd : Guard) (d : Nat) (f : Nat → DWord) : (x.vsetPair gd d f).clauseSeq = x.clauseSeq := rfl
@[simp] theorem Group.vsetPair_serial (x : Group) (gd : Guard) (d : Nat) (f : Nat → DWord) : (x.vsetPair gd d f).serial = x.serial := rfl
@[simp] theorem Group.vsetPair_yielding (x : Group) (gd : Guard) (d : Nat) (f : Nat → DWord) : (x.vsetPair gd d f).yielding = x.yielding := rfl
@[simp] theorem Group.vsetPair_fpmode (x : Group) (gd : Guard) (d : Nat) (f : Nat → DWord) : (x.vsetPair gd d f).fpmode = x.fpmode := rfl
@[simp] theorem Group.vsetPair_fpsr (x : Group) (gd : Guard) (d : Nat) (f : Nat → DWord) : (x.vsetPair gd d f).fpsr = x.fpsr := rfl
@[simp] theorem Group.vsetPair_seg (x : Group) (gd : Guard) (d : Nat) (f : Nat → DWord) : (x.vsetPair gd d f).seg = x.seg := rfl
@[simp] theorem Group.vsetPair_faultMask (x : Group) (gd : Guard) (d : Nat) (f : Nat → DWord) : (x.vsetPair gd d f).faultMask = x.faultMask := rfl
@[simp] theorem Group.vsetPair_faultCode (x : Group) (gd : Guard) (d : Nat) (f : Nat → DWord) : (x.vsetPair gd d f).faultCode = x.faultCode := rfl
@[simp] theorem Group.vsetPair_faultAddr (x : Group) (gd : Guard) (d : Nat) (f : Nat → DWord) : (x.vsetPair gd d f).faultAddr = x.faultAddr := rfl
@[simp] theorem Group.vsetPair_retpc (x : Group) (gd : Guard) (d : Nat) (f : Nat → DWord) : (x.vsetPair gd d f).retpc = x.retpc := rfl
@[simp] theorem Group.vsetPair_retw (x : Group) (gd : Guard) (d : Nat) (f : Nat → DWord) : (x.vsetPair gd d f).retw = x.retw := rfl
@[simp] theorem Group.vsetPair_retmask (x : Group) (gd : Guard) (d : Nat) (f : Nat → DWord) : (x.vsetPair gd d f).retmask = x.retmask := rfl
@[simp] theorem Group.vsetPair_scr (x : Group) (gd : Guard) (d : Nat) (f : Nat → DWord) : (x.vsetPair gd d f).scr = x.scr := rfl
@[simp] theorem Group.vsetPair_fabrec (x : Group) (gd : Guard) (d : Nat) (f : Nat → DWord) : (x.vsetPair gd d f).fabrec = x.fabrec := rfl
@[simp] theorem Group.vsetPair_portrec (x : Group) (gd : Guard) (d : Nat) (f : Nat → DWord) : (x.vsetPair gd d f).portrec = x.portrec := rfl
@[simp] theorem Group.vsetPair_inHandler (x : Group) (gd : Guard) (d : Nat) (f : Nat → DWord) : (x.vsetPair gd d f).inHandler = x.inHandler := rfl
@[simp] theorem Group.vsetPair_lateMask (x : Group) (gd : Guard) (d : Nat) (f : Nat → DWord) : (x.vsetPair gd d f).lateMask = x.lateMask := rfl
@[simp] theorem Group.vsetPair_lateCtrs (x : Group) (gd : Guard) (d : Nat) (f : Nat → DWord) : (x.vsetPair gd d f).lateCtrs = x.lateCtrs := rfl
@[simp] theorem Group.vsetPair_lateRec (x : Group) (gd : Guard) (d : Nat) (f : Nat → DWord) : (x.vsetPair gd d f).lateRec = x.lateRec := rfl
@[simp] theorem Group.vsetPair_delayed (x : Group) (gd : Guard) (d : Nat) (f : Nat → DWord) : (x.vsetPair gd d f).delayed = x.delayed := rfl
@[simp] theorem Group.vsetPair_status (x : Group) (gd : Guard) (d : Nat) (f : Nat → DWord) : (x.vsetPair gd d f).status = x.status := rfl
@[simp] theorem Group.vsetPair_wait (x : Group) (gd : Guard) (d : Nat) (f : Nat → DWord) : (x.vsetPair gd d f).wait = x.wait := rfl
@[simp] theorem Group.vsetPair_fault (x : Group) (gd : Guard) (d : Nat) (f : Nat → DWord) : (x.vsetPair gd d f).fault = x.fault := rfl
@[simp] theorem Group.vsetPair_restore (x : Group) (gd : Guard) (d : Nat) (f : Nat → DWord) : (x.vsetPair gd d f).restore = x.restore := rfl
@[simp] theorem Group.vsetPair_replay (x : Group) (gd : Guard) (d : Nat) (f : Nat → DWord) : (x.vsetPair gd d f).replay = x.replay := rfl
@[simp] theorem Group.vsetPair_missed (x : Group) (gd : Guard) (d : Nat) (f : Nat → DWord) : (x.vsetPair gd d f).missed = x.missed := rfl
@[simp] theorem Group.vsetPair_resume (x : Group) (gd : Guard) (d : Nat) (f : Nat → DWord) : (x.vsetPair gd d f).resume = x.resume := rfl
@[simp] theorem Group.vsetPair_tx (x : Group) (gd : Guard) (d : Nat) (f : Nat → DWord) : (x.vsetPair gd d f).tx = x.tx := rfl
@[simp] theorem Group.vsetPair_txStatus (x : Group) (gd : Guard) (d : Nat) (f : Nat → DWord) : (x.vsetPair gd d f).txStatus = x.txStatus := rfl
@[simp] theorem Group.vsetPair_arrivals (x : Group) (gd : Guard) (d : Nat) (f : Nat → DWord) : (x.vsetPair gd d f).arrivals = x.arrivals := rfl
@[simp] theorem Group.vsetPair_posts (x : Group) (gd : Guard) (d : Nat) (f : Nat → DWord) : (x.vsetPair gd d f).posts = x.posts := rfl
@[simp] theorem Group.vsetPair_sets (x : Group) (gd : Guard) (d : Nat) (f : Nat → DWord) : (x.vsetPair gd d f).sets = x.sets := rfl
@[simp] theorem Group.vsetPair_xbPhase (x : Group) (gd : Guard) (d : Nat) (f : Nat → DWord) : (x.vsetPair gd d f).xbPhase = x.xbPhase := rfl
@[simp] theorem Group.vsetPair_out (x : Group) (gd : Guard) (d : Nat) (f : Nat → DWord) : (x.vsetPair gd d f).out = x.out := rfl
@[simp] theorem Group.vsetPair_stores (x : Group) (gd : Guard) (d : Nat) (f : Nat → DWord) : (x.vsetPair gd d f).stores = x.stores := rfl
@[simp] theorem Group.vsetPair_seq (x : Group) (gd : Guard) (d : Nat) (f : Nat → DWord) : (x.vsetPair gd d f).seq = x.seq := rfl
@[simp] theorem Group.vsetPair_fence (x : Group) (gd : Guard) (d : Nat) (f : Nat → DWord) : (x.vsetPair gd d f).fence = x.fence := rfl
@[simp] theorem Group.vsetPair_acqCtrs (x : Group) (gd : Guard) (d : Nat) (f : Nat → DWord) : (x.vsetPair gd d f).acqCtrs = x.acqCtrs := rfl
@[simp] theorem Group.vsetPair_sat (x : Group) (gd : Guard) (d : Nat) (f : Nat → DWord) : (x.vsetPair gd d f).sat = x.sat := rfl
@[simp] theorem Group.vsetPair_hsat (x : Group) (gd : Guard) (d : Nat) (f : Nat → DWord) : (x.vsetPair gd d f).hsat = x.hsat := rfl

/-! ### One thread of a vector register written -/

@[simp] theorem Group.vput_id (x : Group) (d t : Nat) (w : Word) : (x.vput d t w).id = x.id := rfl
@[simp] theorem Group.vput_task (x : Group) (d t : Nat) (w : Word) : (x.vput d t w).task = x.task := rfl
@[simp] theorem Group.vput_lin (x : Group) (d t : Nat) (w : Word) : (x.vput d t w).lin = x.lin := rfl
@[simp] theorem Group.vput_gidx (x : Group) (d t : Nat) (w : Word) : (x.vput d t w).gidx = x.gidx := rfl
@[simp] theorem Group.vput_pv (x : Group) (d t : Nat) (w : Word) : (x.vput d t w).pv = x.pv := rfl
@[simp] theorem Group.vput_pc (x : Group) (d t : Nat) (w : Word) : (x.vput d t w).pc = x.pc := rfl
@[simp] theorem Group.vput_stage (x : Group) (d t : Nat) (w : Word) : (x.vput d t w).stage = x.stage := rfl
@[simp] theorem Group.vput_turn (x : Group) (d t : Nat) (w : Word) : (x.vput d t w).turn = x.turn := rfl
@[simp] theorem Group.vput_clause (x : Group) (d t : Nat) (w : Word) : (x.vput d t w).clause = x.clause := rfl
@[simp] theorem Group.vput_s (x : Group) (d t : Nat) (w : Word) : (x.vput d t w).s = x.s := rfl
@[simp] theorem Group.vput_p (x : Group) (d t : Nat) (w : Word) : (x.vput d t w).p = x.p := rfl
@[simp] theorem Group.vput_x (x : Group) (d t : Nat) (w : Word) : (x.vput d t w).x = x.x := rfl
@[simp] theorem Group.vput_dc (x : Group) (d t : Nat) (w : Word) : (x.vput d t w).dc = x.dc := rfl
@[simp] theorem Group.vput_pending (x : Group) (d t : Nat) (w : Word) : (x.vput d t w).pending = x.pending := rfl
@[simp] theorem Group.vput_clauseSeq (x : Group) (d t : Nat) (w : Word) : (x.vput d t w).clauseSeq = x.clauseSeq := rfl
@[simp] theorem Group.vput_serial (x : Group) (d t : Nat) (w : Word) : (x.vput d t w).serial = x.serial := rfl
@[simp] theorem Group.vput_yielding (x : Group) (d t : Nat) (w : Word) : (x.vput d t w).yielding = x.yielding := rfl
@[simp] theorem Group.vput_fpmode (x : Group) (d t : Nat) (w : Word) : (x.vput d t w).fpmode = x.fpmode := rfl
@[simp] theorem Group.vput_fpsr (x : Group) (d t : Nat) (w : Word) : (x.vput d t w).fpsr = x.fpsr := rfl
@[simp] theorem Group.vput_seg (x : Group) (d t : Nat) (w : Word) : (x.vput d t w).seg = x.seg := rfl
@[simp] theorem Group.vput_faultMask (x : Group) (d t : Nat) (w : Word) : (x.vput d t w).faultMask = x.faultMask := rfl
@[simp] theorem Group.vput_faultCode (x : Group) (d t : Nat) (w : Word) : (x.vput d t w).faultCode = x.faultCode := rfl
@[simp] theorem Group.vput_faultAddr (x : Group) (d t : Nat) (w : Word) : (x.vput d t w).faultAddr = x.faultAddr := rfl
@[simp] theorem Group.vput_retpc (x : Group) (d t : Nat) (w : Word) : (x.vput d t w).retpc = x.retpc := rfl
@[simp] theorem Group.vput_retw (x : Group) (d t : Nat) (w : Word) : (x.vput d t w).retw = x.retw := rfl
@[simp] theorem Group.vput_retmask (x : Group) (d t : Nat) (w : Word) : (x.vput d t w).retmask = x.retmask := rfl
@[simp] theorem Group.vput_scr (x : Group) (d t : Nat) (w : Word) : (x.vput d t w).scr = x.scr := rfl
@[simp] theorem Group.vput_fabrec (x : Group) (d t : Nat) (w : Word) : (x.vput d t w).fabrec = x.fabrec := rfl
@[simp] theorem Group.vput_portrec (x : Group) (d t : Nat) (w : Word) : (x.vput d t w).portrec = x.portrec := rfl
@[simp] theorem Group.vput_inHandler (x : Group) (d t : Nat) (w : Word) : (x.vput d t w).inHandler = x.inHandler := rfl
@[simp] theorem Group.vput_lateMask (x : Group) (d t : Nat) (w : Word) : (x.vput d t w).lateMask = x.lateMask := rfl
@[simp] theorem Group.vput_lateCtrs (x : Group) (d t : Nat) (w : Word) : (x.vput d t w).lateCtrs = x.lateCtrs := rfl
@[simp] theorem Group.vput_lateRec (x : Group) (d t : Nat) (w : Word) : (x.vput d t w).lateRec = x.lateRec := rfl
@[simp] theorem Group.vput_delayed (x : Group) (d t : Nat) (w : Word) : (x.vput d t w).delayed = x.delayed := rfl
@[simp] theorem Group.vput_status (x : Group) (d t : Nat) (w : Word) : (x.vput d t w).status = x.status := rfl
@[simp] theorem Group.vput_wait (x : Group) (d t : Nat) (w : Word) : (x.vput d t w).wait = x.wait := rfl
@[simp] theorem Group.vput_fault (x : Group) (d t : Nat) (w : Word) : (x.vput d t w).fault = x.fault := rfl
@[simp] theorem Group.vput_restore (x : Group) (d t : Nat) (w : Word) : (x.vput d t w).restore = x.restore := rfl
@[simp] theorem Group.vput_replay (x : Group) (d t : Nat) (w : Word) : (x.vput d t w).replay = x.replay := rfl
@[simp] theorem Group.vput_missed (x : Group) (d t : Nat) (w : Word) : (x.vput d t w).missed = x.missed := rfl
@[simp] theorem Group.vput_resume (x : Group) (d t : Nat) (w : Word) : (x.vput d t w).resume = x.resume := rfl
@[simp] theorem Group.vput_tx (x : Group) (d t : Nat) (w : Word) : (x.vput d t w).tx = x.tx := rfl
@[simp] theorem Group.vput_txStatus (x : Group) (d t : Nat) (w : Word) : (x.vput d t w).txStatus = x.txStatus := rfl
@[simp] theorem Group.vput_arrivals (x : Group) (d t : Nat) (w : Word) : (x.vput d t w).arrivals = x.arrivals := rfl
@[simp] theorem Group.vput_posts (x : Group) (d t : Nat) (w : Word) : (x.vput d t w).posts = x.posts := rfl
@[simp] theorem Group.vput_sets (x : Group) (d t : Nat) (w : Word) : (x.vput d t w).sets = x.sets := rfl
@[simp] theorem Group.vput_xbPhase (x : Group) (d t : Nat) (w : Word) : (x.vput d t w).xbPhase = x.xbPhase := rfl
@[simp] theorem Group.vput_out (x : Group) (d t : Nat) (w : Word) : (x.vput d t w).out = x.out := rfl
@[simp] theorem Group.vput_stores (x : Group) (d t : Nat) (w : Word) : (x.vput d t w).stores = x.stores := rfl
@[simp] theorem Group.vput_seq (x : Group) (d t : Nat) (w : Word) : (x.vput d t w).seq = x.seq := rfl
@[simp] theorem Group.vput_fence (x : Group) (d t : Nat) (w : Word) : (x.vput d t w).fence = x.fence := rfl
@[simp] theorem Group.vput_acqCtrs (x : Group) (d t : Nat) (w : Word) : (x.vput d t w).acqCtrs = x.acqCtrs := rfl
@[simp] theorem Group.vput_sat (x : Group) (d t : Nat) (w : Word) : (x.vput d t w).sat = x.sat := rfl
@[simp] theorem Group.vput_hsat (x : Group) (d t : Nat) (w : Word) : (x.vput d t w).hsat = x.hsat := rfl
@[simp] theorem Group.vput_v (x : Group) (d t : Nat) (w : Word) : (x.vput d t w).v = x.v.modify d fun r => r.setIfInBounds t w := rfl

/-! ### A predicate written -/

@[simp] theorem Group.pset_id (x : Group) (gd : Guard) (d : Pred) (f : Nat → Bool) : (x.pset gd d f).id = x.id := rfl
@[simp] theorem Group.pset_task (x : Group) (gd : Guard) (d : Pred) (f : Nat → Bool) : (x.pset gd d f).task = x.task := rfl
@[simp] theorem Group.pset_lin (x : Group) (gd : Guard) (d : Pred) (f : Nat → Bool) : (x.pset gd d f).lin = x.lin := rfl
@[simp] theorem Group.pset_gidx (x : Group) (gd : Guard) (d : Pred) (f : Nat → Bool) : (x.pset gd d f).gidx = x.gidx := rfl
@[simp] theorem Group.pset_pv (x : Group) (gd : Guard) (d : Pred) (f : Nat → Bool) : (x.pset gd d f).pv = x.pv := rfl
@[simp] theorem Group.pset_pc (x : Group) (gd : Guard) (d : Pred) (f : Nat → Bool) : (x.pset gd d f).pc = x.pc := rfl
@[simp] theorem Group.pset_stage (x : Group) (gd : Guard) (d : Pred) (f : Nat → Bool) : (x.pset gd d f).stage = x.stage := rfl
@[simp] theorem Group.pset_turn (x : Group) (gd : Guard) (d : Pred) (f : Nat → Bool) : (x.pset gd d f).turn = x.turn := rfl
@[simp] theorem Group.pset_clause (x : Group) (gd : Guard) (d : Pred) (f : Nat → Bool) : (x.pset gd d f).clause = x.clause := rfl
@[simp] theorem Group.pset_v (x : Group) (gd : Guard) (d : Pred) (f : Nat → Bool) : (x.pset gd d f).v = x.v := rfl
@[simp] theorem Group.pset_s (x : Group) (gd : Guard) (d : Pred) (f : Nat → Bool) : (x.pset gd d f).s = x.s := rfl
@[simp] theorem Group.pset_x (x : Group) (gd : Guard) (d : Pred) (f : Nat → Bool) : (x.pset gd d f).x = x.x := rfl
@[simp] theorem Group.pset_dc (x : Group) (gd : Guard) (d : Pred) (f : Nat → Bool) : (x.pset gd d f).dc = x.dc := rfl
@[simp] theorem Group.pset_pending (x : Group) (gd : Guard) (d : Pred) (f : Nat → Bool) : (x.pset gd d f).pending = x.pending := rfl
@[simp] theorem Group.pset_clauseSeq (x : Group) (gd : Guard) (d : Pred) (f : Nat → Bool) : (x.pset gd d f).clauseSeq = x.clauseSeq := rfl
@[simp] theorem Group.pset_serial (x : Group) (gd : Guard) (d : Pred) (f : Nat → Bool) : (x.pset gd d f).serial = x.serial := rfl
@[simp] theorem Group.pset_yielding (x : Group) (gd : Guard) (d : Pred) (f : Nat → Bool) : (x.pset gd d f).yielding = x.yielding := rfl
@[simp] theorem Group.pset_fpmode (x : Group) (gd : Guard) (d : Pred) (f : Nat → Bool) : (x.pset gd d f).fpmode = x.fpmode := rfl
@[simp] theorem Group.pset_fpsr (x : Group) (gd : Guard) (d : Pred) (f : Nat → Bool) : (x.pset gd d f).fpsr = x.fpsr := rfl
@[simp] theorem Group.pset_seg (x : Group) (gd : Guard) (d : Pred) (f : Nat → Bool) : (x.pset gd d f).seg = x.seg := rfl
@[simp] theorem Group.pset_faultMask (x : Group) (gd : Guard) (d : Pred) (f : Nat → Bool) : (x.pset gd d f).faultMask = x.faultMask := rfl
@[simp] theorem Group.pset_faultCode (x : Group) (gd : Guard) (d : Pred) (f : Nat → Bool) : (x.pset gd d f).faultCode = x.faultCode := rfl
@[simp] theorem Group.pset_faultAddr (x : Group) (gd : Guard) (d : Pred) (f : Nat → Bool) : (x.pset gd d f).faultAddr = x.faultAddr := rfl
@[simp] theorem Group.pset_retpc (x : Group) (gd : Guard) (d : Pred) (f : Nat → Bool) : (x.pset gd d f).retpc = x.retpc := rfl
@[simp] theorem Group.pset_retw (x : Group) (gd : Guard) (d : Pred) (f : Nat → Bool) : (x.pset gd d f).retw = x.retw := rfl
@[simp] theorem Group.pset_retmask (x : Group) (gd : Guard) (d : Pred) (f : Nat → Bool) : (x.pset gd d f).retmask = x.retmask := rfl
@[simp] theorem Group.pset_scr (x : Group) (gd : Guard) (d : Pred) (f : Nat → Bool) : (x.pset gd d f).scr = x.scr := rfl
@[simp] theorem Group.pset_fabrec (x : Group) (gd : Guard) (d : Pred) (f : Nat → Bool) : (x.pset gd d f).fabrec = x.fabrec := rfl
@[simp] theorem Group.pset_portrec (x : Group) (gd : Guard) (d : Pred) (f : Nat → Bool) : (x.pset gd d f).portrec = x.portrec := rfl
@[simp] theorem Group.pset_inHandler (x : Group) (gd : Guard) (d : Pred) (f : Nat → Bool) : (x.pset gd d f).inHandler = x.inHandler := rfl
@[simp] theorem Group.pset_lateMask (x : Group) (gd : Guard) (d : Pred) (f : Nat → Bool) : (x.pset gd d f).lateMask = x.lateMask := rfl
@[simp] theorem Group.pset_lateCtrs (x : Group) (gd : Guard) (d : Pred) (f : Nat → Bool) : (x.pset gd d f).lateCtrs = x.lateCtrs := rfl
@[simp] theorem Group.pset_lateRec (x : Group) (gd : Guard) (d : Pred) (f : Nat → Bool) : (x.pset gd d f).lateRec = x.lateRec := rfl
@[simp] theorem Group.pset_delayed (x : Group) (gd : Guard) (d : Pred) (f : Nat → Bool) : (x.pset gd d f).delayed = x.delayed := rfl
@[simp] theorem Group.pset_status (x : Group) (gd : Guard) (d : Pred) (f : Nat → Bool) : (x.pset gd d f).status = x.status := rfl
@[simp] theorem Group.pset_wait (x : Group) (gd : Guard) (d : Pred) (f : Nat → Bool) : (x.pset gd d f).wait = x.wait := rfl
@[simp] theorem Group.pset_fault (x : Group) (gd : Guard) (d : Pred) (f : Nat → Bool) : (x.pset gd d f).fault = x.fault := rfl
@[simp] theorem Group.pset_restore (x : Group) (gd : Guard) (d : Pred) (f : Nat → Bool) : (x.pset gd d f).restore = x.restore := rfl
@[simp] theorem Group.pset_replay (x : Group) (gd : Guard) (d : Pred) (f : Nat → Bool) : (x.pset gd d f).replay = x.replay := rfl
@[simp] theorem Group.pset_missed (x : Group) (gd : Guard) (d : Pred) (f : Nat → Bool) : (x.pset gd d f).missed = x.missed := rfl
@[simp] theorem Group.pset_resume (x : Group) (gd : Guard) (d : Pred) (f : Nat → Bool) : (x.pset gd d f).resume = x.resume := rfl
@[simp] theorem Group.pset_tx (x : Group) (gd : Guard) (d : Pred) (f : Nat → Bool) : (x.pset gd d f).tx = x.tx := rfl
@[simp] theorem Group.pset_txStatus (x : Group) (gd : Guard) (d : Pred) (f : Nat → Bool) : (x.pset gd d f).txStatus = x.txStatus := rfl
@[simp] theorem Group.pset_arrivals (x : Group) (gd : Guard) (d : Pred) (f : Nat → Bool) : (x.pset gd d f).arrivals = x.arrivals := rfl
@[simp] theorem Group.pset_posts (x : Group) (gd : Guard) (d : Pred) (f : Nat → Bool) : (x.pset gd d f).posts = x.posts := rfl
@[simp] theorem Group.pset_sets (x : Group) (gd : Guard) (d : Pred) (f : Nat → Bool) : (x.pset gd d f).sets = x.sets := rfl
@[simp] theorem Group.pset_xbPhase (x : Group) (gd : Guard) (d : Pred) (f : Nat → Bool) : (x.pset gd d f).xbPhase = x.xbPhase := rfl
@[simp] theorem Group.pset_out (x : Group) (gd : Guard) (d : Pred) (f : Nat → Bool) : (x.pset gd d f).out = x.out := rfl
@[simp] theorem Group.pset_stores (x : Group) (gd : Guard) (d : Pred) (f : Nat → Bool) : (x.pset gd d f).stores = x.stores := rfl
@[simp] theorem Group.pset_seq (x : Group) (gd : Guard) (d : Pred) (f : Nat → Bool) : (x.pset gd d f).seq = x.seq := rfl
@[simp] theorem Group.pset_fence (x : Group) (gd : Guard) (d : Pred) (f : Nat → Bool) : (x.pset gd d f).fence = x.fence := rfl
@[simp] theorem Group.pset_acqCtrs (x : Group) (gd : Guard) (d : Pred) (f : Nat → Bool) : (x.pset gd d f).acqCtrs = x.acqCtrs := rfl
@[simp] theorem Group.pset_sat (x : Group) (gd : Guard) (d : Pred) (f : Nat → Bool) : (x.pset gd d f).sat = x.sat := rfl
@[simp] theorem Group.pset_hsat (x : Group) (gd : Guard) (d : Pred) (f : Nat → Bool) : (x.pset gd d f).hsat = x.hsat := rfl

/-! ### A predicate pair written -/

@[simp] theorem Group.setPair_id (x : Group) (e : Nat → Bool) (d : Fin 6) (f : Nat → Bool) : (x.setPair e d f).id = x.id := rfl
@[simp] theorem Group.setPair_task (x : Group) (e : Nat → Bool) (d : Fin 6) (f : Nat → Bool) : (x.setPair e d f).task = x.task := rfl
@[simp] theorem Group.setPair_lin (x : Group) (e : Nat → Bool) (d : Fin 6) (f : Nat → Bool) : (x.setPair e d f).lin = x.lin := rfl
@[simp] theorem Group.setPair_gidx (x : Group) (e : Nat → Bool) (d : Fin 6) (f : Nat → Bool) : (x.setPair e d f).gidx = x.gidx := rfl
@[simp] theorem Group.setPair_pv (x : Group) (e : Nat → Bool) (d : Fin 6) (f : Nat → Bool) : (x.setPair e d f).pv = x.pv := rfl
@[simp] theorem Group.setPair_pc (x : Group) (e : Nat → Bool) (d : Fin 6) (f : Nat → Bool) : (x.setPair e d f).pc = x.pc := rfl
@[simp] theorem Group.setPair_stage (x : Group) (e : Nat → Bool) (d : Fin 6) (f : Nat → Bool) : (x.setPair e d f).stage = x.stage := rfl
@[simp] theorem Group.setPair_turn (x : Group) (e : Nat → Bool) (d : Fin 6) (f : Nat → Bool) : (x.setPair e d f).turn = x.turn := rfl
@[simp] theorem Group.setPair_clause (x : Group) (e : Nat → Bool) (d : Fin 6) (f : Nat → Bool) : (x.setPair e d f).clause = x.clause := rfl
@[simp] theorem Group.setPair_v (x : Group) (e : Nat → Bool) (d : Fin 6) (f : Nat → Bool) : (x.setPair e d f).v = x.v := rfl
@[simp] theorem Group.setPair_s (x : Group) (e : Nat → Bool) (d : Fin 6) (f : Nat → Bool) : (x.setPair e d f).s = x.s := rfl
@[simp] theorem Group.setPair_x (x : Group) (e : Nat → Bool) (d : Fin 6) (f : Nat → Bool) : (x.setPair e d f).x = x.x := rfl
@[simp] theorem Group.setPair_dc (x : Group) (e : Nat → Bool) (d : Fin 6) (f : Nat → Bool) : (x.setPair e d f).dc = x.dc := rfl
@[simp] theorem Group.setPair_pending (x : Group) (e : Nat → Bool) (d : Fin 6) (f : Nat → Bool) : (x.setPair e d f).pending = x.pending := rfl
@[simp] theorem Group.setPair_clauseSeq (x : Group) (e : Nat → Bool) (d : Fin 6) (f : Nat → Bool) : (x.setPair e d f).clauseSeq = x.clauseSeq := rfl
@[simp] theorem Group.setPair_serial (x : Group) (e : Nat → Bool) (d : Fin 6) (f : Nat → Bool) : (x.setPair e d f).serial = x.serial := rfl
@[simp] theorem Group.setPair_yielding (x : Group) (e : Nat → Bool) (d : Fin 6) (f : Nat → Bool) : (x.setPair e d f).yielding = x.yielding := rfl
@[simp] theorem Group.setPair_fpmode (x : Group) (e : Nat → Bool) (d : Fin 6) (f : Nat → Bool) : (x.setPair e d f).fpmode = x.fpmode := rfl
@[simp] theorem Group.setPair_fpsr (x : Group) (e : Nat → Bool) (d : Fin 6) (f : Nat → Bool) : (x.setPair e d f).fpsr = x.fpsr := rfl
@[simp] theorem Group.setPair_seg (x : Group) (e : Nat → Bool) (d : Fin 6) (f : Nat → Bool) : (x.setPair e d f).seg = x.seg := rfl
@[simp] theorem Group.setPair_faultMask (x : Group) (e : Nat → Bool) (d : Fin 6) (f : Nat → Bool) : (x.setPair e d f).faultMask = x.faultMask := rfl
@[simp] theorem Group.setPair_faultCode (x : Group) (e : Nat → Bool) (d : Fin 6) (f : Nat → Bool) : (x.setPair e d f).faultCode = x.faultCode := rfl
@[simp] theorem Group.setPair_faultAddr (x : Group) (e : Nat → Bool) (d : Fin 6) (f : Nat → Bool) : (x.setPair e d f).faultAddr = x.faultAddr := rfl
@[simp] theorem Group.setPair_retpc (x : Group) (e : Nat → Bool) (d : Fin 6) (f : Nat → Bool) : (x.setPair e d f).retpc = x.retpc := rfl
@[simp] theorem Group.setPair_retw (x : Group) (e : Nat → Bool) (d : Fin 6) (f : Nat → Bool) : (x.setPair e d f).retw = x.retw := rfl
@[simp] theorem Group.setPair_retmask (x : Group) (e : Nat → Bool) (d : Fin 6) (f : Nat → Bool) : (x.setPair e d f).retmask = x.retmask := rfl
@[simp] theorem Group.setPair_scr (x : Group) (e : Nat → Bool) (d : Fin 6) (f : Nat → Bool) : (x.setPair e d f).scr = x.scr := rfl
@[simp] theorem Group.setPair_fabrec (x : Group) (e : Nat → Bool) (d : Fin 6) (f : Nat → Bool) : (x.setPair e d f).fabrec = x.fabrec := rfl
@[simp] theorem Group.setPair_portrec (x : Group) (e : Nat → Bool) (d : Fin 6) (f : Nat → Bool) : (x.setPair e d f).portrec = x.portrec := rfl
@[simp] theorem Group.setPair_inHandler (x : Group) (e : Nat → Bool) (d : Fin 6) (f : Nat → Bool) : (x.setPair e d f).inHandler = x.inHandler := rfl
@[simp] theorem Group.setPair_lateMask (x : Group) (e : Nat → Bool) (d : Fin 6) (f : Nat → Bool) : (x.setPair e d f).lateMask = x.lateMask := rfl
@[simp] theorem Group.setPair_lateCtrs (x : Group) (e : Nat → Bool) (d : Fin 6) (f : Nat → Bool) : (x.setPair e d f).lateCtrs = x.lateCtrs := rfl
@[simp] theorem Group.setPair_lateRec (x : Group) (e : Nat → Bool) (d : Fin 6) (f : Nat → Bool) : (x.setPair e d f).lateRec = x.lateRec := rfl
@[simp] theorem Group.setPair_delayed (x : Group) (e : Nat → Bool) (d : Fin 6) (f : Nat → Bool) : (x.setPair e d f).delayed = x.delayed := rfl
@[simp] theorem Group.setPair_status (x : Group) (e : Nat → Bool) (d : Fin 6) (f : Nat → Bool) : (x.setPair e d f).status = x.status := rfl
@[simp] theorem Group.setPair_wait (x : Group) (e : Nat → Bool) (d : Fin 6) (f : Nat → Bool) : (x.setPair e d f).wait = x.wait := rfl
@[simp] theorem Group.setPair_fault (x : Group) (e : Nat → Bool) (d : Fin 6) (f : Nat → Bool) : (x.setPair e d f).fault = x.fault := rfl
@[simp] theorem Group.setPair_restore (x : Group) (e : Nat → Bool) (d : Fin 6) (f : Nat → Bool) : (x.setPair e d f).restore = x.restore := rfl
@[simp] theorem Group.setPair_replay (x : Group) (e : Nat → Bool) (d : Fin 6) (f : Nat → Bool) : (x.setPair e d f).replay = x.replay := rfl
@[simp] theorem Group.setPair_missed (x : Group) (e : Nat → Bool) (d : Fin 6) (f : Nat → Bool) : (x.setPair e d f).missed = x.missed := rfl
@[simp] theorem Group.setPair_resume (x : Group) (e : Nat → Bool) (d : Fin 6) (f : Nat → Bool) : (x.setPair e d f).resume = x.resume := rfl
@[simp] theorem Group.setPair_tx (x : Group) (e : Nat → Bool) (d : Fin 6) (f : Nat → Bool) : (x.setPair e d f).tx = x.tx := rfl
@[simp] theorem Group.setPair_txStatus (x : Group) (e : Nat → Bool) (d : Fin 6) (f : Nat → Bool) : (x.setPair e d f).txStatus = x.txStatus := rfl
@[simp] theorem Group.setPair_arrivals (x : Group) (e : Nat → Bool) (d : Fin 6) (f : Nat → Bool) : (x.setPair e d f).arrivals = x.arrivals := rfl
@[simp] theorem Group.setPair_posts (x : Group) (e : Nat → Bool) (d : Fin 6) (f : Nat → Bool) : (x.setPair e d f).posts = x.posts := rfl
@[simp] theorem Group.setPair_sets (x : Group) (e : Nat → Bool) (d : Fin 6) (f : Nat → Bool) : (x.setPair e d f).sets = x.sets := rfl
@[simp] theorem Group.setPair_xbPhase (x : Group) (e : Nat → Bool) (d : Fin 6) (f : Nat → Bool) : (x.setPair e d f).xbPhase = x.xbPhase := rfl
@[simp] theorem Group.setPair_out (x : Group) (e : Nat → Bool) (d : Fin 6) (f : Nat → Bool) : (x.setPair e d f).out = x.out := rfl
@[simp] theorem Group.setPair_stores (x : Group) (e : Nat → Bool) (d : Fin 6) (f : Nat → Bool) : (x.setPair e d f).stores = x.stores := rfl
@[simp] theorem Group.setPair_seq (x : Group) (e : Nat → Bool) (d : Fin 6) (f : Nat → Bool) : (x.setPair e d f).seq = x.seq := rfl
@[simp] theorem Group.setPair_fence (x : Group) (e : Nat → Bool) (d : Fin 6) (f : Nat → Bool) : (x.setPair e d f).fence = x.fence := rfl
@[simp] theorem Group.setPair_acqCtrs (x : Group) (e : Nat → Bool) (d : Fin 6) (f : Nat → Bool) : (x.setPair e d f).acqCtrs = x.acqCtrs := rfl
@[simp] theorem Group.setPair_sat (x : Group) (e : Nat → Bool) (d : Fin 6) (f : Nat → Bool) : (x.setPair e d f).sat = x.sat := rfl
@[simp] theorem Group.setPair_hsat (x : Group) (e : Nat → Bool) (d : Fin 6) (f : Nat → Bool) : (x.setPair e d f).hsat = x.hsat := rfl

/-! ### FPSR flags raised -/

@[simp] theorem Group.raiseFlags_id (x : Group) (fl : Flags) : (x.raiseFlags fl).id = x.id := rfl
@[simp] theorem Group.raiseFlags_task (x : Group) (fl : Flags) : (x.raiseFlags fl).task = x.task := rfl
@[simp] theorem Group.raiseFlags_lin (x : Group) (fl : Flags) : (x.raiseFlags fl).lin = x.lin := rfl
@[simp] theorem Group.raiseFlags_gidx (x : Group) (fl : Flags) : (x.raiseFlags fl).gidx = x.gidx := rfl
@[simp] theorem Group.raiseFlags_pv (x : Group) (fl : Flags) : (x.raiseFlags fl).pv = x.pv := rfl
@[simp] theorem Group.raiseFlags_pc (x : Group) (fl : Flags) : (x.raiseFlags fl).pc = x.pc := rfl
@[simp] theorem Group.raiseFlags_stage (x : Group) (fl : Flags) : (x.raiseFlags fl).stage = x.stage := rfl
@[simp] theorem Group.raiseFlags_turn (x : Group) (fl : Flags) : (x.raiseFlags fl).turn = x.turn := rfl
@[simp] theorem Group.raiseFlags_clause (x : Group) (fl : Flags) : (x.raiseFlags fl).clause = x.clause := rfl
@[simp] theorem Group.raiseFlags_v (x : Group) (fl : Flags) : (x.raiseFlags fl).v = x.v := rfl
@[simp] theorem Group.raiseFlags_s (x : Group) (fl : Flags) : (x.raiseFlags fl).s = x.s := rfl
@[simp] theorem Group.raiseFlags_p (x : Group) (fl : Flags) : (x.raiseFlags fl).p = x.p := rfl
@[simp] theorem Group.raiseFlags_x (x : Group) (fl : Flags) : (x.raiseFlags fl).x = x.x := rfl
@[simp] theorem Group.raiseFlags_dc (x : Group) (fl : Flags) : (x.raiseFlags fl).dc = x.dc := rfl
@[simp] theorem Group.raiseFlags_pending (x : Group) (fl : Flags) : (x.raiseFlags fl).pending = x.pending := rfl
@[simp] theorem Group.raiseFlags_clauseSeq (x : Group) (fl : Flags) : (x.raiseFlags fl).clauseSeq = x.clauseSeq := rfl
@[simp] theorem Group.raiseFlags_serial (x : Group) (fl : Flags) : (x.raiseFlags fl).serial = x.serial := rfl
@[simp] theorem Group.raiseFlags_yielding (x : Group) (fl : Flags) : (x.raiseFlags fl).yielding = x.yielding := rfl
@[simp] theorem Group.raiseFlags_fpmode (x : Group) (fl : Flags) : (x.raiseFlags fl).fpmode = x.fpmode := rfl
@[simp] theorem Group.raiseFlags_seg (x : Group) (fl : Flags) : (x.raiseFlags fl).seg = x.seg := rfl
@[simp] theorem Group.raiseFlags_faultMask (x : Group) (fl : Flags) : (x.raiseFlags fl).faultMask = x.faultMask := rfl
@[simp] theorem Group.raiseFlags_faultCode (x : Group) (fl : Flags) : (x.raiseFlags fl).faultCode = x.faultCode := rfl
@[simp] theorem Group.raiseFlags_faultAddr (x : Group) (fl : Flags) : (x.raiseFlags fl).faultAddr = x.faultAddr := rfl
@[simp] theorem Group.raiseFlags_retpc (x : Group) (fl : Flags) : (x.raiseFlags fl).retpc = x.retpc := rfl
@[simp] theorem Group.raiseFlags_retw (x : Group) (fl : Flags) : (x.raiseFlags fl).retw = x.retw := rfl
@[simp] theorem Group.raiseFlags_retmask (x : Group) (fl : Flags) : (x.raiseFlags fl).retmask = x.retmask := rfl
@[simp] theorem Group.raiseFlags_scr (x : Group) (fl : Flags) : (x.raiseFlags fl).scr = x.scr := rfl
@[simp] theorem Group.raiseFlags_fabrec (x : Group) (fl : Flags) : (x.raiseFlags fl).fabrec = x.fabrec := rfl
@[simp] theorem Group.raiseFlags_portrec (x : Group) (fl : Flags) : (x.raiseFlags fl).portrec = x.portrec := rfl
@[simp] theorem Group.raiseFlags_inHandler (x : Group) (fl : Flags) : (x.raiseFlags fl).inHandler = x.inHandler := rfl
@[simp] theorem Group.raiseFlags_lateMask (x : Group) (fl : Flags) : (x.raiseFlags fl).lateMask = x.lateMask := rfl
@[simp] theorem Group.raiseFlags_lateCtrs (x : Group) (fl : Flags) : (x.raiseFlags fl).lateCtrs = x.lateCtrs := rfl
@[simp] theorem Group.raiseFlags_lateRec (x : Group) (fl : Flags) : (x.raiseFlags fl).lateRec = x.lateRec := rfl
@[simp] theorem Group.raiseFlags_delayed (x : Group) (fl : Flags) : (x.raiseFlags fl).delayed = x.delayed := rfl
@[simp] theorem Group.raiseFlags_status (x : Group) (fl : Flags) : (x.raiseFlags fl).status = x.status := rfl
@[simp] theorem Group.raiseFlags_wait (x : Group) (fl : Flags) : (x.raiseFlags fl).wait = x.wait := rfl
@[simp] theorem Group.raiseFlags_fault (x : Group) (fl : Flags) : (x.raiseFlags fl).fault = x.fault := rfl
@[simp] theorem Group.raiseFlags_restore (x : Group) (fl : Flags) : (x.raiseFlags fl).restore = x.restore := rfl
@[simp] theorem Group.raiseFlags_replay (x : Group) (fl : Flags) : (x.raiseFlags fl).replay = x.replay := rfl
@[simp] theorem Group.raiseFlags_missed (x : Group) (fl : Flags) : (x.raiseFlags fl).missed = x.missed := rfl
@[simp] theorem Group.raiseFlags_resume (x : Group) (fl : Flags) : (x.raiseFlags fl).resume = x.resume := rfl
@[simp] theorem Group.raiseFlags_tx (x : Group) (fl : Flags) : (x.raiseFlags fl).tx = x.tx := rfl
@[simp] theorem Group.raiseFlags_txStatus (x : Group) (fl : Flags) : (x.raiseFlags fl).txStatus = x.txStatus := rfl
@[simp] theorem Group.raiseFlags_arrivals (x : Group) (fl : Flags) : (x.raiseFlags fl).arrivals = x.arrivals := rfl
@[simp] theorem Group.raiseFlags_posts (x : Group) (fl : Flags) : (x.raiseFlags fl).posts = x.posts := rfl
@[simp] theorem Group.raiseFlags_sets (x : Group) (fl : Flags) : (x.raiseFlags fl).sets = x.sets := rfl
@[simp] theorem Group.raiseFlags_xbPhase (x : Group) (fl : Flags) : (x.raiseFlags fl).xbPhase = x.xbPhase := rfl
@[simp] theorem Group.raiseFlags_out (x : Group) (fl : Flags) : (x.raiseFlags fl).out = x.out := rfl
@[simp] theorem Group.raiseFlags_stores (x : Group) (fl : Flags) : (x.raiseFlags fl).stores = x.stores := rfl
@[simp] theorem Group.raiseFlags_seq (x : Group) (fl : Flags) : (x.raiseFlags fl).seq = x.seq := rfl
@[simp] theorem Group.raiseFlags_fence (x : Group) (fl : Flags) : (x.raiseFlags fl).fence = x.fence := rfl
@[simp] theorem Group.raiseFlags_acqCtrs (x : Group) (fl : Flags) : (x.raiseFlags fl).acqCtrs = x.acqCtrs := rfl
@[simp] theorem Group.raiseFlags_sat (x : Group) (fl : Flags) : (x.raiseFlags fl).sat = x.sat := rfl
@[simp] theorem Group.raiseFlags_hsat (x : Group) (fl : Flags) : (x.raiseFlags fl).hsat = x.hsat := rfl
@[simp] theorem Group.raiseFlags_fpsr (x : Group) (fl : Flags) : (x.raiseFlags fl).fpsr = x.fpsr ||| BitVec.ofNat 32 fl.toNat := rfl

/-! ### The end of a clause -/

@[simp] theorem Group.endClause_id (x : Group) (a : DWord) : (x.endClause a).id = x.id := rfl
@[simp] theorem Group.endClause_task (x : Group) (a : DWord) : (x.endClause a).task = x.task := rfl
@[simp] theorem Group.endClause_lin (x : Group) (a : DWord) : (x.endClause a).lin = x.lin := rfl
@[simp] theorem Group.endClause_gidx (x : Group) (a : DWord) : (x.endClause a).gidx = x.gidx := rfl
@[simp] theorem Group.endClause_pv (x : Group) (a : DWord) : (x.endClause a).pv = x.pv := rfl
@[simp] theorem Group.endClause_v (x : Group) (a : DWord) : (x.endClause a).v = x.v := rfl
@[simp] theorem Group.endClause_s (x : Group) (a : DWord) : (x.endClause a).s = x.s := rfl
@[simp] theorem Group.endClause_p (x : Group) (a : DWord) : (x.endClause a).p = x.p := rfl
@[simp] theorem Group.endClause_x (x : Group) (a : DWord) : (x.endClause a).x = x.x := rfl
@[simp] theorem Group.endClause_dc (x : Group) (a : DWord) : (x.endClause a).dc = x.dc := rfl
@[simp] theorem Group.endClause_pending (x : Group) (a : DWord) : (x.endClause a).pending = x.pending := rfl
@[simp] theorem Group.endClause_clauseSeq (x : Group) (a : DWord) : (x.endClause a).clauseSeq = x.clauseSeq := rfl
@[simp] theorem Group.endClause_fpmode (x : Group) (a : DWord) : (x.endClause a).fpmode = x.fpmode := rfl
@[simp] theorem Group.endClause_fpsr (x : Group) (a : DWord) : (x.endClause a).fpsr = x.fpsr := rfl
@[simp] theorem Group.endClause_seg (x : Group) (a : DWord) : (x.endClause a).seg = x.seg := rfl
@[simp] theorem Group.endClause_faultMask (x : Group) (a : DWord) : (x.endClause a).faultMask = x.faultMask := rfl
@[simp] theorem Group.endClause_faultCode (x : Group) (a : DWord) : (x.endClause a).faultCode = x.faultCode := rfl
@[simp] theorem Group.endClause_faultAddr (x : Group) (a : DWord) : (x.endClause a).faultAddr = x.faultAddr := rfl
@[simp] theorem Group.endClause_retpc (x : Group) (a : DWord) : (x.endClause a).retpc = x.retpc := rfl
@[simp] theorem Group.endClause_retw (x : Group) (a : DWord) : (x.endClause a).retw = x.retw := rfl
@[simp] theorem Group.endClause_retmask (x : Group) (a : DWord) : (x.endClause a).retmask = x.retmask := rfl
@[simp] theorem Group.endClause_scr (x : Group) (a : DWord) : (x.endClause a).scr = x.scr := rfl
@[simp] theorem Group.endClause_fabrec (x : Group) (a : DWord) : (x.endClause a).fabrec = x.fabrec := rfl
@[simp] theorem Group.endClause_portrec (x : Group) (a : DWord) : (x.endClause a).portrec = x.portrec := rfl
@[simp] theorem Group.endClause_inHandler (x : Group) (a : DWord) : (x.endClause a).inHandler = x.inHandler := rfl
@[simp] theorem Group.endClause_lateMask (x : Group) (a : DWord) : (x.endClause a).lateMask = x.lateMask := rfl
@[simp] theorem Group.endClause_lateCtrs (x : Group) (a : DWord) : (x.endClause a).lateCtrs = x.lateCtrs := rfl
@[simp] theorem Group.endClause_lateRec (x : Group) (a : DWord) : (x.endClause a).lateRec = x.lateRec := rfl
@[simp] theorem Group.endClause_delayed (x : Group) (a : DWord) : (x.endClause a).delayed = x.delayed := rfl
@[simp] theorem Group.endClause_status (x : Group) (a : DWord) : (x.endClause a).status = x.status := rfl
@[simp] theorem Group.endClause_wait (x : Group) (a : DWord) : (x.endClause a).wait = x.wait := rfl
@[simp] theorem Group.endClause_fault (x : Group) (a : DWord) : (x.endClause a).fault = x.fault := rfl
@[simp] theorem Group.endClause_restore (x : Group) (a : DWord) : (x.endClause a).restore = x.restore := rfl
@[simp] theorem Group.endClause_replay (x : Group) (a : DWord) : (x.endClause a).replay = x.replay := rfl
@[simp] theorem Group.endClause_missed (x : Group) (a : DWord) : (x.endClause a).missed = x.missed := rfl
@[simp] theorem Group.endClause_resume (x : Group) (a : DWord) : (x.endClause a).resume = x.resume := rfl
@[simp] theorem Group.endClause_tx (x : Group) (a : DWord) : (x.endClause a).tx = x.tx := rfl
@[simp] theorem Group.endClause_txStatus (x : Group) (a : DWord) : (x.endClause a).txStatus = x.txStatus := rfl
@[simp] theorem Group.endClause_arrivals (x : Group) (a : DWord) : (x.endClause a).arrivals = x.arrivals := rfl
@[simp] theorem Group.endClause_posts (x : Group) (a : DWord) : (x.endClause a).posts = x.posts := rfl
@[simp] theorem Group.endClause_sets (x : Group) (a : DWord) : (x.endClause a).sets = x.sets := rfl
@[simp] theorem Group.endClause_xbPhase (x : Group) (a : DWord) : (x.endClause a).xbPhase = x.xbPhase := rfl
@[simp] theorem Group.endClause_out (x : Group) (a : DWord) : (x.endClause a).out = x.out := rfl
@[simp] theorem Group.endClause_stores (x : Group) (a : DWord) : (x.endClause a).stores = x.stores := rfl
@[simp] theorem Group.endClause_seq (x : Group) (a : DWord) : (x.endClause a).seq = x.seq := rfl
@[simp] theorem Group.endClause_fence (x : Group) (a : DWord) : (x.endClause a).fence = x.fence := rfl
@[simp] theorem Group.endClause_acqCtrs (x : Group) (a : DWord) : (x.endClause a).acqCtrs = x.acqCtrs := rfl
@[simp] theorem Group.endClause_sat (x : Group) (a : DWord) : (x.endClause a).sat = x.sat := rfl
@[simp] theorem Group.endClause_hsat (x : Group) (a : DWord) : (x.endClause a).hsat = x.hsat := rfl
@[simp] theorem Group.endClause_pc (x : Group) (a : DWord) : (x.endClause a).pc = a := rfl
@[simp] theorem Group.endClause_stage (x : Group) (a : DWord) : (x.endClause a).stage = .header := rfl
@[simp] theorem Group.endClause_turn (x : Group) (a : DWord) : (x.endClause a).turn = false := rfl
@[simp] theorem Group.endClause_clause (x : Group) (a : DWord) : (x.endClause a).clause = {} := rfl

/-! ### A long-latency word issued -/

@[simp] theorem Group.issueLong_id (x : Group) (o : Outst) : (x.issueLong o).id = x.id := rfl
@[simp] theorem Group.issueLong_task (x : Group) (o : Outst) : (x.issueLong o).task = x.task := rfl
@[simp] theorem Group.issueLong_lin (x : Group) (o : Outst) : (x.issueLong o).lin = x.lin := rfl
@[simp] theorem Group.issueLong_gidx (x : Group) (o : Outst) : (x.issueLong o).gidx = x.gidx := rfl
@[simp] theorem Group.issueLong_pv (x : Group) (o : Outst) : (x.issueLong o).pv = x.pv := rfl
@[simp] theorem Group.issueLong_pc (x : Group) (o : Outst) : (x.issueLong o).pc = x.pc := rfl
@[simp] theorem Group.issueLong_stage (x : Group) (o : Outst) : (x.issueLong o).stage = x.stage := rfl
@[simp] theorem Group.issueLong_turn (x : Group) (o : Outst) : (x.issueLong o).turn = x.turn := rfl
@[simp] theorem Group.issueLong_clause (x : Group) (o : Outst) : (x.issueLong o).clause = x.clause := rfl
@[simp] theorem Group.issueLong_v (x : Group) (o : Outst) : (x.issueLong o).v = x.v := rfl
@[simp] theorem Group.issueLong_s (x : Group) (o : Outst) : (x.issueLong o).s = x.s := rfl
@[simp] theorem Group.issueLong_p (x : Group) (o : Outst) : (x.issueLong o).p = x.p := rfl
@[simp] theorem Group.issueLong_x (x : Group) (o : Outst) : (x.issueLong o).x = x.x := rfl
@[simp] theorem Group.issueLong_clauseSeq (x : Group) (o : Outst) : (x.issueLong o).clauseSeq = x.clauseSeq := rfl
@[simp] theorem Group.issueLong_serial (x : Group) (o : Outst) : (x.issueLong o).serial = x.serial := rfl
@[simp] theorem Group.issueLong_yielding (x : Group) (o : Outst) : (x.issueLong o).yielding = x.yielding := rfl
@[simp] theorem Group.issueLong_fpmode (x : Group) (o : Outst) : (x.issueLong o).fpmode = x.fpmode := rfl
@[simp] theorem Group.issueLong_fpsr (x : Group) (o : Outst) : (x.issueLong o).fpsr = x.fpsr := rfl
@[simp] theorem Group.issueLong_seg (x : Group) (o : Outst) : (x.issueLong o).seg = x.seg := rfl
@[simp] theorem Group.issueLong_faultMask (x : Group) (o : Outst) : (x.issueLong o).faultMask = x.faultMask := rfl
@[simp] theorem Group.issueLong_faultCode (x : Group) (o : Outst) : (x.issueLong o).faultCode = x.faultCode := rfl
@[simp] theorem Group.issueLong_faultAddr (x : Group) (o : Outst) : (x.issueLong o).faultAddr = x.faultAddr := rfl
@[simp] theorem Group.issueLong_retpc (x : Group) (o : Outst) : (x.issueLong o).retpc = x.retpc := rfl
@[simp] theorem Group.issueLong_retw (x : Group) (o : Outst) : (x.issueLong o).retw = x.retw := rfl
@[simp] theorem Group.issueLong_retmask (x : Group) (o : Outst) : (x.issueLong o).retmask = x.retmask := rfl
@[simp] theorem Group.issueLong_scr (x : Group) (o : Outst) : (x.issueLong o).scr = x.scr := rfl
@[simp] theorem Group.issueLong_fabrec (x : Group) (o : Outst) : (x.issueLong o).fabrec = x.fabrec := rfl
@[simp] theorem Group.issueLong_portrec (x : Group) (o : Outst) : (x.issueLong o).portrec = x.portrec := rfl
@[simp] theorem Group.issueLong_inHandler (x : Group) (o : Outst) : (x.issueLong o).inHandler = x.inHandler := rfl
@[simp] theorem Group.issueLong_lateMask (x : Group) (o : Outst) : (x.issueLong o).lateMask = x.lateMask := rfl
@[simp] theorem Group.issueLong_lateCtrs (x : Group) (o : Outst) : (x.issueLong o).lateCtrs = x.lateCtrs := rfl
@[simp] theorem Group.issueLong_lateRec (x : Group) (o : Outst) : (x.issueLong o).lateRec = x.lateRec := rfl
@[simp] theorem Group.issueLong_delayed (x : Group) (o : Outst) : (x.issueLong o).delayed = x.delayed := rfl
@[simp] theorem Group.issueLong_status (x : Group) (o : Outst) : (x.issueLong o).status = x.status := rfl
@[simp] theorem Group.issueLong_wait (x : Group) (o : Outst) : (x.issueLong o).wait = x.wait := rfl
@[simp] theorem Group.issueLong_fault (x : Group) (o : Outst) : (x.issueLong o).fault = x.fault := rfl
@[simp] theorem Group.issueLong_restore (x : Group) (o : Outst) : (x.issueLong o).restore = x.restore := rfl
@[simp] theorem Group.issueLong_replay (x : Group) (o : Outst) : (x.issueLong o).replay = x.replay := rfl
@[simp] theorem Group.issueLong_missed (x : Group) (o : Outst) : (x.issueLong o).missed = x.missed := rfl
@[simp] theorem Group.issueLong_resume (x : Group) (o : Outst) : (x.issueLong o).resume = x.resume := rfl
@[simp] theorem Group.issueLong_tx (x : Group) (o : Outst) : (x.issueLong o).tx = x.tx := rfl
@[simp] theorem Group.issueLong_txStatus (x : Group) (o : Outst) : (x.issueLong o).txStatus = x.txStatus := rfl
@[simp] theorem Group.issueLong_arrivals (x : Group) (o : Outst) : (x.issueLong o).arrivals = x.arrivals := rfl
@[simp] theorem Group.issueLong_posts (x : Group) (o : Outst) : (x.issueLong o).posts = x.posts := rfl
@[simp] theorem Group.issueLong_sets (x : Group) (o : Outst) : (x.issueLong o).sets = x.sets := rfl
@[simp] theorem Group.issueLong_xbPhase (x : Group) (o : Outst) : (x.issueLong o).xbPhase = x.xbPhase := rfl
@[simp] theorem Group.issueLong_stores (x : Group) (o : Outst) : (x.issueLong o).stores = x.stores := rfl
@[simp] theorem Group.issueLong_fence (x : Group) (o : Outst) : (x.issueLong o).fence = x.fence := rfl
@[simp] theorem Group.issueLong_acqCtrs (x : Group) (o : Outst) : (x.issueLong o).acqCtrs = x.acqCtrs := rfl
@[simp] theorem Group.issueLong_sat (x : Group) (o : Outst) : (x.issueLong o).sat = x.sat := rfl
@[simp] theorem Group.issueLong_hsat (x : Group) (o : Outst) : (x.issueLong o).hsat = x.hsat := rfl
@[simp] theorem Group.issueLong_seq (x : Group) (o : Outst) : (x.issueLong o).seq = x.seq + 1 := rfl

/-! ### A long-latency result known -/

@[simp] theorem Group.retireLong_id (x : Group) (o : Outst) : (x.retireLong o).id = x.id := rfl
@[simp] theorem Group.retireLong_task (x : Group) (o : Outst) : (x.retireLong o).task = x.task := rfl
@[simp] theorem Group.retireLong_lin (x : Group) (o : Outst) : (x.retireLong o).lin = x.lin := rfl
@[simp] theorem Group.retireLong_gidx (x : Group) (o : Outst) : (x.retireLong o).gidx = x.gidx := rfl
@[simp] theorem Group.retireLong_pv (x : Group) (o : Outst) : (x.retireLong o).pv = x.pv := rfl
@[simp] theorem Group.retireLong_pc (x : Group) (o : Outst) : (x.retireLong o).pc = x.pc := rfl
@[simp] theorem Group.retireLong_stage (x : Group) (o : Outst) : (x.retireLong o).stage = x.stage := rfl
@[simp] theorem Group.retireLong_turn (x : Group) (o : Outst) : (x.retireLong o).turn = x.turn := rfl
@[simp] theorem Group.retireLong_clause (x : Group) (o : Outst) : (x.retireLong o).clause = x.clause := rfl
@[simp] theorem Group.retireLong_v (x : Group) (o : Outst) : (x.retireLong o).v = x.v := rfl
@[simp] theorem Group.retireLong_s (x : Group) (o : Outst) : (x.retireLong o).s = x.s := rfl
@[simp] theorem Group.retireLong_p (x : Group) (o : Outst) : (x.retireLong o).p = x.p := rfl
@[simp] theorem Group.retireLong_x (x : Group) (o : Outst) : (x.retireLong o).x = x.x := rfl
@[simp] theorem Group.retireLong_pending (x : Group) (o : Outst) : (x.retireLong o).pending = x.pending := rfl
@[simp] theorem Group.retireLong_clauseSeq (x : Group) (o : Outst) : (x.retireLong o).clauseSeq = x.clauseSeq := rfl
@[simp] theorem Group.retireLong_serial (x : Group) (o : Outst) : (x.retireLong o).serial = x.serial := rfl
@[simp] theorem Group.retireLong_yielding (x : Group) (o : Outst) : (x.retireLong o).yielding = x.yielding := rfl
@[simp] theorem Group.retireLong_fpmode (x : Group) (o : Outst) : (x.retireLong o).fpmode = x.fpmode := rfl
@[simp] theorem Group.retireLong_fpsr (x : Group) (o : Outst) : (x.retireLong o).fpsr = x.fpsr := rfl
@[simp] theorem Group.retireLong_seg (x : Group) (o : Outst) : (x.retireLong o).seg = x.seg := rfl
@[simp] theorem Group.retireLong_faultMask (x : Group) (o : Outst) : (x.retireLong o).faultMask = x.faultMask := rfl
@[simp] theorem Group.retireLong_faultCode (x : Group) (o : Outst) : (x.retireLong o).faultCode = x.faultCode := rfl
@[simp] theorem Group.retireLong_faultAddr (x : Group) (o : Outst) : (x.retireLong o).faultAddr = x.faultAddr := rfl
@[simp] theorem Group.retireLong_retpc (x : Group) (o : Outst) : (x.retireLong o).retpc = x.retpc := rfl
@[simp] theorem Group.retireLong_retw (x : Group) (o : Outst) : (x.retireLong o).retw = x.retw := rfl
@[simp] theorem Group.retireLong_retmask (x : Group) (o : Outst) : (x.retireLong o).retmask = x.retmask := rfl
@[simp] theorem Group.retireLong_scr (x : Group) (o : Outst) : (x.retireLong o).scr = x.scr := rfl
@[simp] theorem Group.retireLong_fabrec (x : Group) (o : Outst) : (x.retireLong o).fabrec = x.fabrec := rfl
@[simp] theorem Group.retireLong_portrec (x : Group) (o : Outst) : (x.retireLong o).portrec = x.portrec := rfl
@[simp] theorem Group.retireLong_inHandler (x : Group) (o : Outst) : (x.retireLong o).inHandler = x.inHandler := rfl
@[simp] theorem Group.retireLong_lateMask (x : Group) (o : Outst) : (x.retireLong o).lateMask = x.lateMask := rfl
@[simp] theorem Group.retireLong_lateCtrs (x : Group) (o : Outst) : (x.retireLong o).lateCtrs = x.lateCtrs := rfl
@[simp] theorem Group.retireLong_lateRec (x : Group) (o : Outst) : (x.retireLong o).lateRec = x.lateRec := rfl
@[simp] theorem Group.retireLong_delayed (x : Group) (o : Outst) : (x.retireLong o).delayed = x.delayed := rfl
@[simp] theorem Group.retireLong_status (x : Group) (o : Outst) : (x.retireLong o).status = x.status := rfl
@[simp] theorem Group.retireLong_wait (x : Group) (o : Outst) : (x.retireLong o).wait = x.wait := rfl
@[simp] theorem Group.retireLong_fault (x : Group) (o : Outst) : (x.retireLong o).fault = x.fault := rfl
@[simp] theorem Group.retireLong_restore (x : Group) (o : Outst) : (x.retireLong o).restore = x.restore := rfl
@[simp] theorem Group.retireLong_replay (x : Group) (o : Outst) : (x.retireLong o).replay = x.replay := rfl
@[simp] theorem Group.retireLong_missed (x : Group) (o : Outst) : (x.retireLong o).missed = x.missed := rfl
@[simp] theorem Group.retireLong_resume (x : Group) (o : Outst) : (x.retireLong o).resume = x.resume := rfl
@[simp] theorem Group.retireLong_tx (x : Group) (o : Outst) : (x.retireLong o).tx = x.tx := rfl
@[simp] theorem Group.retireLong_txStatus (x : Group) (o : Outst) : (x.retireLong o).txStatus = x.txStatus := rfl
@[simp] theorem Group.retireLong_arrivals (x : Group) (o : Outst) : (x.retireLong o).arrivals = x.arrivals := rfl
@[simp] theorem Group.retireLong_posts (x : Group) (o : Outst) : (x.retireLong o).posts = x.posts := rfl
@[simp] theorem Group.retireLong_sets (x : Group) (o : Outst) : (x.retireLong o).sets = x.sets := rfl
@[simp] theorem Group.retireLong_xbPhase (x : Group) (o : Outst) : (x.retireLong o).xbPhase = x.xbPhase := rfl
@[simp] theorem Group.retireLong_stores (x : Group) (o : Outst) : (x.retireLong o).stores = x.stores := rfl
@[simp] theorem Group.retireLong_seq (x : Group) (o : Outst) : (x.retireLong o).seq = x.seq := rfl
@[simp] theorem Group.retireLong_fence (x : Group) (o : Outst) : (x.retireLong o).fence = x.fence := rfl
@[simp] theorem Group.retireLong_acqCtrs (x : Group) (o : Outst) : (x.retireLong o).acqCtrs = x.acqCtrs := rfl
@[simp] theorem Group.retireLong_sat (x : Group) (o : Outst) : (x.retireLong o).sat = x.sat := rfl
@[simp] theorem Group.retireLong_hsat (x : Group) (o : Outst) : (x.retireLong o).hsat = x.hsat := rfl
@[simp] theorem Group.retireLong_out (x : Group) (o : Outst) : (x.retireLong o).out = x.out.filter fun y => y.seq ≠ o.seq := rfl

/-! ### The end of a replayed word, and the next word -/

@[simp] theorem Group.restoreMask_id (x : Group) : x.restoreMask.id = x.id := by
  unfold Group.restoreMask; split <;> rfl
@[simp] theorem Group.restoreMask_task (x : Group) : x.restoreMask.task = x.task := by
  unfold Group.restoreMask; split <;> rfl
@[simp] theorem Group.restoreMask_lin (x : Group) : x.restoreMask.lin = x.lin := by
  unfold Group.restoreMask; split <;> rfl
@[simp] theorem Group.restoreMask_gidx (x : Group) : x.restoreMask.gidx = x.gidx := by
  unfold Group.restoreMask; split <;> rfl
@[simp] theorem Group.restoreMask_pv (x : Group) : x.restoreMask.pv = x.pv := by
  unfold Group.restoreMask; split <;> rfl
@[simp] theorem Group.restoreMask_pc (x : Group) : x.restoreMask.pc = x.pc := by
  unfold Group.restoreMask; split <;> rfl
@[simp] theorem Group.restoreMask_stage (x : Group) : x.restoreMask.stage = x.stage := by
  unfold Group.restoreMask; split <;> rfl
@[simp] theorem Group.restoreMask_turn (x : Group) : x.restoreMask.turn = x.turn := by
  unfold Group.restoreMask; split <;> rfl
@[simp] theorem Group.restoreMask_clause (x : Group) : x.restoreMask.clause = x.clause := by
  unfold Group.restoreMask; split <;> rfl
@[simp] theorem Group.restoreMask_v (x : Group) : x.restoreMask.v = x.v := by
  unfold Group.restoreMask; split <;> rfl
@[simp] theorem Group.restoreMask_p (x : Group) : x.restoreMask.p = x.p := by
  unfold Group.restoreMask; split <;> rfl
@[simp] theorem Group.restoreMask_x (x : Group) : x.restoreMask.x = x.x := by
  unfold Group.restoreMask; split <;> rfl
@[simp] theorem Group.restoreMask_dc (x : Group) : x.restoreMask.dc = x.dc := by
  unfold Group.restoreMask; split <;> rfl
@[simp] theorem Group.restoreMask_pending (x : Group) : x.restoreMask.pending = x.pending := by
  unfold Group.restoreMask; split <;> rfl
@[simp] theorem Group.restoreMask_clauseSeq (x : Group) : x.restoreMask.clauseSeq = x.clauseSeq := by
  unfold Group.restoreMask; split <;> rfl
@[simp] theorem Group.restoreMask_serial (x : Group) : x.restoreMask.serial = x.serial := by
  unfold Group.restoreMask; split <;> rfl
@[simp] theorem Group.restoreMask_yielding (x : Group) : x.restoreMask.yielding = x.yielding := by
  unfold Group.restoreMask; split <;> rfl
@[simp] theorem Group.restoreMask_fpmode (x : Group) : x.restoreMask.fpmode = x.fpmode := by
  unfold Group.restoreMask; split <;> rfl
@[simp] theorem Group.restoreMask_fpsr (x : Group) : x.restoreMask.fpsr = x.fpsr := by
  unfold Group.restoreMask; split <;> rfl
@[simp] theorem Group.restoreMask_seg (x : Group) : x.restoreMask.seg = x.seg := by
  unfold Group.restoreMask; split <;> rfl
@[simp] theorem Group.restoreMask_faultMask (x : Group) : x.restoreMask.faultMask = x.faultMask := by
  unfold Group.restoreMask; split <;> rfl
@[simp] theorem Group.restoreMask_faultCode (x : Group) : x.restoreMask.faultCode = x.faultCode := by
  unfold Group.restoreMask; split <;> rfl
@[simp] theorem Group.restoreMask_faultAddr (x : Group) : x.restoreMask.faultAddr = x.faultAddr := by
  unfold Group.restoreMask; split <;> rfl
@[simp] theorem Group.restoreMask_retpc (x : Group) : x.restoreMask.retpc = x.retpc := by
  unfold Group.restoreMask; split <;> rfl
@[simp] theorem Group.restoreMask_retw (x : Group) : x.restoreMask.retw = x.retw := by
  unfold Group.restoreMask; split <;> rfl
@[simp] theorem Group.restoreMask_retmask (x : Group) : x.restoreMask.retmask = x.retmask := by
  unfold Group.restoreMask; split <;> rfl
@[simp] theorem Group.restoreMask_scr (x : Group) : x.restoreMask.scr = x.scr := by
  unfold Group.restoreMask; split <;> rfl
@[simp] theorem Group.restoreMask_fabrec (x : Group) : x.restoreMask.fabrec = x.fabrec := by
  unfold Group.restoreMask; split <;> rfl
@[simp] theorem Group.restoreMask_portrec (x : Group) : x.restoreMask.portrec = x.portrec := by
  unfold Group.restoreMask; split <;> rfl
@[simp] theorem Group.restoreMask_inHandler (x : Group) : x.restoreMask.inHandler = x.inHandler := by
  unfold Group.restoreMask; split <;> rfl
@[simp] theorem Group.restoreMask_lateMask (x : Group) : x.restoreMask.lateMask = x.lateMask := by
  unfold Group.restoreMask; split <;> rfl
@[simp] theorem Group.restoreMask_lateCtrs (x : Group) : x.restoreMask.lateCtrs = x.lateCtrs := by
  unfold Group.restoreMask; split <;> rfl
@[simp] theorem Group.restoreMask_lateRec (x : Group) : x.restoreMask.lateRec = x.lateRec := by
  unfold Group.restoreMask; split <;> rfl
@[simp] theorem Group.restoreMask_delayed (x : Group) : x.restoreMask.delayed = x.delayed := by
  unfold Group.restoreMask; split <;> rfl
@[simp] theorem Group.restoreMask_status (x : Group) : x.restoreMask.status = x.status := by
  unfold Group.restoreMask; split <;> rfl
@[simp] theorem Group.restoreMask_wait (x : Group) : x.restoreMask.wait = x.wait := by
  unfold Group.restoreMask; split <;> rfl
@[simp] theorem Group.restoreMask_fault (x : Group) : x.restoreMask.fault = x.fault := by
  unfold Group.restoreMask; split <;> rfl
@[simp] theorem Group.restoreMask_replay (x : Group) : x.restoreMask.replay = x.replay := by
  unfold Group.restoreMask; split <;> rfl
@[simp] theorem Group.restoreMask_missed (x : Group) : x.restoreMask.missed = x.missed := by
  unfold Group.restoreMask; split <;> rfl
@[simp] theorem Group.restoreMask_resume (x : Group) : x.restoreMask.resume = x.resume := by
  unfold Group.restoreMask; split <;> rfl
@[simp] theorem Group.restoreMask_tx (x : Group) : x.restoreMask.tx = x.tx := by
  unfold Group.restoreMask; split <;> rfl
@[simp] theorem Group.restoreMask_txStatus (x : Group) : x.restoreMask.txStatus = x.txStatus := by
  unfold Group.restoreMask; split <;> rfl
@[simp] theorem Group.restoreMask_arrivals (x : Group) : x.restoreMask.arrivals = x.arrivals := by
  unfold Group.restoreMask; split <;> rfl
@[simp] theorem Group.restoreMask_posts (x : Group) : x.restoreMask.posts = x.posts := by
  unfold Group.restoreMask; split <;> rfl
@[simp] theorem Group.restoreMask_sets (x : Group) : x.restoreMask.sets = x.sets := by
  unfold Group.restoreMask; split <;> rfl
@[simp] theorem Group.restoreMask_xbPhase (x : Group) : x.restoreMask.xbPhase = x.xbPhase := by
  unfold Group.restoreMask; split <;> rfl
@[simp] theorem Group.restoreMask_out (x : Group) : x.restoreMask.out = x.out := by
  unfold Group.restoreMask; split <;> rfl
@[simp] theorem Group.restoreMask_stores (x : Group) : x.restoreMask.stores = x.stores := by
  unfold Group.restoreMask; split <;> rfl
@[simp] theorem Group.restoreMask_seq (x : Group) : x.restoreMask.seq = x.seq := by
  unfold Group.restoreMask; split <;> rfl
@[simp] theorem Group.restoreMask_fence (x : Group) : x.restoreMask.fence = x.fence := by
  unfold Group.restoreMask; split <;> rfl
@[simp] theorem Group.restoreMask_acqCtrs (x : Group) : x.restoreMask.acqCtrs = x.acqCtrs := by
  unfold Group.restoreMask; split <;> rfl
@[simp] theorem Group.restoreMask_sat (x : Group) : x.restoreMask.sat = x.sat := by
  unfold Group.restoreMask; split <;> rfl
@[simp] theorem Group.restoreMask_hsat (x : Group) : x.restoreMask.hsat = x.hsat := by
  unfold Group.restoreMask; split <;> rfl
@[simp] theorem Group.restoreMask_restore (x : Group) : x.restoreMask.restore = none := by
  unfold Group.restoreMask; split <;> simp_all
@[simp] theorem Group.nextWord_id (x : Group) (n : Nat) : (x.nextWord n).id = x.id := by
  simp only [Group.nextWord]; split <;> simp
@[simp] theorem Group.nextWord_task (x : Group) (n : Nat) : (x.nextWord n).task = x.task := by
  simp only [Group.nextWord]; split <;> simp
@[simp] theorem Group.nextWord_lin (x : Group) (n : Nat) : (x.nextWord n).lin = x.lin := by
  simp only [Group.nextWord]; split <;> simp
@[simp] theorem Group.nextWord_gidx (x : Group) (n : Nat) : (x.nextWord n).gidx = x.gidx := by
  simp only [Group.nextWord]; split <;> simp
@[simp] theorem Group.nextWord_pv (x : Group) (n : Nat) : (x.nextWord n).pv = x.pv := by
  simp only [Group.nextWord]; split <;> simp
@[simp] theorem Group.nextWord_v (x : Group) (n : Nat) : (x.nextWord n).v = x.v := by
  simp only [Group.nextWord]; split <;> simp
@[simp] theorem Group.nextWord_p (x : Group) (n : Nat) : (x.nextWord n).p = x.p := by
  simp only [Group.nextWord]; split <;> simp
@[simp] theorem Group.nextWord_x (x : Group) (n : Nat) : (x.nextWord n).x = x.x := by
  simp only [Group.nextWord]; split <;> simp
@[simp] theorem Group.nextWord_dc (x : Group) (n : Nat) : (x.nextWord n).dc = x.dc := by
  simp only [Group.nextWord]; split <;> simp
@[simp] theorem Group.nextWord_pending (x : Group) (n : Nat) : (x.nextWord n).pending = x.pending := by
  simp only [Group.nextWord]; split <;> simp
@[simp] theorem Group.nextWord_clauseSeq (x : Group) (n : Nat) : (x.nextWord n).clauseSeq = x.clauseSeq := by
  simp only [Group.nextWord]; split <;> simp
@[simp] theorem Group.nextWord_fpmode (x : Group) (n : Nat) : (x.nextWord n).fpmode = x.fpmode := by
  simp only [Group.nextWord]; split <;> simp
@[simp] theorem Group.nextWord_fpsr (x : Group) (n : Nat) : (x.nextWord n).fpsr = x.fpsr := by
  simp only [Group.nextWord]; split <;> simp
@[simp] theorem Group.nextWord_seg (x : Group) (n : Nat) : (x.nextWord n).seg = x.seg := by
  simp only [Group.nextWord]; split <;> simp
@[simp] theorem Group.nextWord_faultMask (x : Group) (n : Nat) : (x.nextWord n).faultMask = x.faultMask := by
  simp only [Group.nextWord]; split <;> simp
@[simp] theorem Group.nextWord_faultCode (x : Group) (n : Nat) : (x.nextWord n).faultCode = x.faultCode := by
  simp only [Group.nextWord]; split <;> simp
@[simp] theorem Group.nextWord_faultAddr (x : Group) (n : Nat) : (x.nextWord n).faultAddr = x.faultAddr := by
  simp only [Group.nextWord]; split <;> simp
@[simp] theorem Group.nextWord_retpc (x : Group) (n : Nat) : (x.nextWord n).retpc = x.retpc := by
  simp only [Group.nextWord]; split <;> simp
@[simp] theorem Group.nextWord_retw (x : Group) (n : Nat) : (x.nextWord n).retw = x.retw := by
  simp only [Group.nextWord]; split <;> simp
@[simp] theorem Group.nextWord_retmask (x : Group) (n : Nat) : (x.nextWord n).retmask = x.retmask := by
  simp only [Group.nextWord]; split <;> simp
@[simp] theorem Group.nextWord_scr (x : Group) (n : Nat) : (x.nextWord n).scr = x.scr := by
  simp only [Group.nextWord]; split <;> simp
@[simp] theorem Group.nextWord_fabrec (x : Group) (n : Nat) : (x.nextWord n).fabrec = x.fabrec := by
  simp only [Group.nextWord]; split <;> simp
@[simp] theorem Group.nextWord_portrec (x : Group) (n : Nat) : (x.nextWord n).portrec = x.portrec := by
  simp only [Group.nextWord]; split <;> simp
@[simp] theorem Group.nextWord_inHandler (x : Group) (n : Nat) : (x.nextWord n).inHandler = x.inHandler := by
  simp only [Group.nextWord]; split <;> simp
@[simp] theorem Group.nextWord_lateMask (x : Group) (n : Nat) : (x.nextWord n).lateMask = x.lateMask := by
  simp only [Group.nextWord]; split <;> simp
@[simp] theorem Group.nextWord_lateCtrs (x : Group) (n : Nat) : (x.nextWord n).lateCtrs = x.lateCtrs := by
  simp only [Group.nextWord]; split <;> simp
@[simp] theorem Group.nextWord_lateRec (x : Group) (n : Nat) : (x.nextWord n).lateRec = x.lateRec := by
  simp only [Group.nextWord]; split <;> simp
@[simp] theorem Group.nextWord_delayed (x : Group) (n : Nat) : (x.nextWord n).delayed = x.delayed := by
  simp only [Group.nextWord]; split <;> simp
@[simp] theorem Group.nextWord_status (x : Group) (n : Nat) : (x.nextWord n).status = x.status := by
  simp only [Group.nextWord]; split <;> simp
@[simp] theorem Group.nextWord_wait (x : Group) (n : Nat) : (x.nextWord n).wait = x.wait := by
  simp only [Group.nextWord]; split <;> simp
@[simp] theorem Group.nextWord_fault (x : Group) (n : Nat) : (x.nextWord n).fault = x.fault := by
  simp only [Group.nextWord]; split <;> simp
@[simp] theorem Group.nextWord_replay (x : Group) (n : Nat) : (x.nextWord n).replay = x.replay := by
  simp only [Group.nextWord]; split <;> simp
@[simp] theorem Group.nextWord_missed (x : Group) (n : Nat) : (x.nextWord n).missed = x.missed := by
  simp only [Group.nextWord]; split <;> simp
@[simp] theorem Group.nextWord_resume (x : Group) (n : Nat) : (x.nextWord n).resume = x.resume := by
  simp only [Group.nextWord]; split <;> simp
@[simp] theorem Group.nextWord_tx (x : Group) (n : Nat) : (x.nextWord n).tx = x.tx := by
  simp only [Group.nextWord]; split <;> simp
@[simp] theorem Group.nextWord_txStatus (x : Group) (n : Nat) : (x.nextWord n).txStatus = x.txStatus := by
  simp only [Group.nextWord]; split <;> simp
@[simp] theorem Group.nextWord_arrivals (x : Group) (n : Nat) : (x.nextWord n).arrivals = x.arrivals := by
  simp only [Group.nextWord]; split <;> simp
@[simp] theorem Group.nextWord_posts (x : Group) (n : Nat) : (x.nextWord n).posts = x.posts := by
  simp only [Group.nextWord]; split <;> simp
@[simp] theorem Group.nextWord_sets (x : Group) (n : Nat) : (x.nextWord n).sets = x.sets := by
  simp only [Group.nextWord]; split <;> simp
@[simp] theorem Group.nextWord_xbPhase (x : Group) (n : Nat) : (x.nextWord n).xbPhase = x.xbPhase := by
  simp only [Group.nextWord]; split <;> simp
@[simp] theorem Group.nextWord_out (x : Group) (n : Nat) : (x.nextWord n).out = x.out := by
  simp only [Group.nextWord]; split <;> simp
@[simp] theorem Group.nextWord_stores (x : Group) (n : Nat) : (x.nextWord n).stores = x.stores := by
  simp only [Group.nextWord]; split <;> simp
@[simp] theorem Group.nextWord_seq (x : Group) (n : Nat) : (x.nextWord n).seq = x.seq := by
  simp only [Group.nextWord]; split <;> simp
@[simp] theorem Group.nextWord_fence (x : Group) (n : Nat) : (x.nextWord n).fence = x.fence := by
  simp only [Group.nextWord]; split <;> simp
@[simp] theorem Group.nextWord_acqCtrs (x : Group) (n : Nat) : (x.nextWord n).acqCtrs = x.acqCtrs := by
  simp only [Group.nextWord]; split <;> simp
@[simp] theorem Group.nextWord_sat (x : Group) (n : Nat) : (x.nextWord n).sat = x.sat := by
  simp only [Group.nextWord]; split <;> simp
@[simp] theorem Group.nextWord_hsat (x : Group) (n : Nat) : (x.nextWord n).hsat = x.hsat := by
  simp only [Group.nextWord]; split <;> simp
@[simp] theorem Group.nextWord_restore (x : Group) (n : Nat) : (x.nextWord n).restore = none := by
  simp only [Group.nextWord]; split <;> simp
@[simp] theorem Group.nextWord_s (x : Group) (n : Nat) : (x.nextWord n).s = x.restoreMask.s := by
  simp only [Group.nextWord]; split <;> simp

end Sys2Proof.Machine
end

