-- ==== Sys2Proof/Laws/Memory.lean ====
section
/-! SUPPORT. Memory: what a byte reads as after a write, and that every memory operation keeps the canonical form. -/

namespace Sys2Proof.Machine

/-! ### The canonical form -/

/-- Every entry of a memory lies above an address. -/
def Memory.above (n : Nat) (m : Memory) : Prop := ∀ c ∈ m, n < c.1

theorem Memory.wf_nil : Memory.wf [] = true := rfl

theorem Memory.wf_cons (c : Host.Cell) (m : Memory) : Memory.wf (c :: m) = true ↔ m.above c.1 ∧ c.2 ≠ 0 ∧ m.wf = true := by
  simp only [Memory.wf, Memory.above, List.pairwise_cons, List.all_cons, Bool.and_eq_true, decide_eq_true_eq, bne_iff_ne]
  tauto

theorem Memory.above_mono {n k : Nat} {m : Memory} (h : m.above n) (hk : k ≤ n) : m.above k :=
  fun c hc => Nat.lt_of_le_of_lt hk (h c hc)

theorem Memory.read_above {n a : Nat} {m : Memory} (h : m.above n) (ha : a ≤ n) : m.read a = 0 := by
  cases m with
  | nil => rfl
  | cons c m =>
    have := h c (by simp)
    simp only [Memory.read]
    rw [if_neg (by omega), if_pos (by omega)]

theorem Memory.write_above {n a : Nat} {v : Byte} {m : Memory} (h : m.above n) (ha : n < a) : (m.write a v).above n := by
  induction m with
  | nil => unfold Memory.write; split <;> simp_all [Memory.above]
  | cons c m ih =>
    have hc := h c (by simp)
    have hm : Memory.above n m := fun x hx => h x (by simp [hx])
    unfold Memory.write
    split
    · split
      · exact h
      · intro x hx
        rcases List.mem_cons.1 hx with rfl | hx
        · exact ha
        · exact h x hx
    · split
      · split
        · exact hm
        · intro x hx
          rcases List.mem_cons.1 hx with rfl | hx
          · exact ha
          · exact hm x hx
      · intro x hx
        rcases List.mem_cons.1 hx with rfl | hx
        · exact hc
        · exact ih hm x hx

/-- A byte written keeps the canonical form. -/
theorem Memory.write_wf {m : Memory} (h : m.wf = true) (a : Nat) (v : Byte) : (m.write a v).wf = true := by
  induction m with
  | nil => unfold Memory.write; split <;> simp_all [Memory.wf]
  | cons c m ih =>
    obtain ⟨h1, h2, h3⟩ := (Memory.wf_cons c m).1 h
    unfold Memory.write
    split
    · split
      · exact h
      · refine (Memory.wf_cons _ _).2 ⟨?_, by simpa using ‹¬v = 0›, h⟩
        intro x hx
        rcases List.mem_cons.1 hx with rfl | hx
        · simpa using ‹a < x.1›
        · exact Nat.lt_trans ‹a < c.1› (h1 x hx)
    · split
      · split
        · exact h3
        · refine (Memory.wf_cons _ _).2 ⟨?_, by simpa using ‹¬v = 0›, h3⟩
          simpa [‹a = c.1›] using h1
      · exact (Memory.wf_cons _ _).2 ⟨Memory.write_above h1 (by omega), h2, ih h3⟩

/-- What a byte reads as after a write: the byte written at its address, and what it was elsewhere. -/
theorem Memory.read_write {m : Memory} (h : m.wf = true) (a b : Nat) (v : Byte) :
    (m.write a v).read b = if b = a then v else m.read b := by
  induction m with
  | nil =>
    unfold Memory.write
    split
    · subst_vars; simp [Memory.read]
    · simp only [Memory.read]; split <;> simp
  | cons c m ih =>
    obtain ⟨h1, -, h3⟩ := (Memory.wf_cons c m).1 h
    unfold Memory.write
    split
    · split
      · split
        · subst_vars; simp only [Memory.read]; rw [if_neg (by omega), if_pos (by omega)]
        · rfl
      · rw [Memory.read]
        split
        · rfl
        · split
          · simp only [Memory.read]; rw [if_neg (by omega), if_pos (by omega)]
          · rfl
    · split
      · subst_vars
        split
        · subst_vars
          simp only [Memory.read]
          split
          · subst_vars; exact Memory.read_above h1 (Nat.le_refl _)
          · split
            · exact Memory.read_above h1 (by omega)
            · rfl
        · simp only [Memory.read]; split <;> rfl
      · rw [Memory.read, Memory.read, ih h3]
        split
        · rw [if_neg (by omega)]
        · split
          · rw [if_neg (by omega)]
          · rfl

/-- Consecutive bytes written keep the canonical form. -/
theorem Memory.writeBytes_wf {m : Memory} (h : m.wf = true) (a : Nat) (bs : List Byte) : (m.writeBytes a bs).wf = true := by
  induction bs generalizing m a with
  | nil => exact h
  | cons b bs ih => exact ih (Memory.write_wf h a b) (a + 1)

/-- What a byte reads as after consecutive bytes are written. -/
theorem Memory.read_writeBytes {m : Memory} (h : m.wf = true) (a x : Nat) (bs : List Byte) :
    (m.writeBytes a bs).read x = if a ≤ x ∧ x < a + bs.length then bs.getD (x - a) 0 else m.read x := by
  induction bs generalizing m a with
  | nil => simp [Memory.writeBytes]
  | cons b bs ih =>
    rw [Memory.writeBytes, ih (Memory.write_wf h a b), Memory.read_write h]
    simp only [List.length_cons]
    split
    · rw [if_pos (by omega), show x - a = x - (a + 1) + 1 by omega, List.getD_cons_succ]
    · split
      · subst_vars; rw [if_pos (by omega)]; simp
      · rw [if_neg (by omega)]

/-! ### Cells of HBM4E addresses -/

/-- The PC hash flips bits of PCRAW by what the row says (R296). -/
theorem pcsel_row (m : Vector (BitVec 23) 6) (q : Nat) : ∃ f : Fin 6 → Nat, ∀ a, a / 8192 = q →
    pcsel m a = (a / 128 + f 0) % 2 + (a / 256 + f 1) % 2 * 2 + (a / 512 + f 2) % 2 * 4 + (a / 1024 + f 3) % 2 * 8 +
      (a / 2048 + f 4) % 2 * 16 + (a / 4096 + f 5) % 2 * 32 := by
  refine ⟨fun i => popCount (BitVec.ofNat 23 q &&& m[i]), fun a h => ?_⟩
  subst h
  have e : ∀ f : Fin 6 → Nat, ((List.finRange 6).map f).sum = f 0 + f 1 + f 2 + f 3 + f 4 + f 5 := by
    intro f
    simp only [List.finRange_succ, List.finRange_zero, List.map_cons, List.map_nil, List.sum_cons, List.sum_nil]
    simp only [Nat.add_zero, ← Nat.add_assoc]
    rfl
  unfold pcsel
  rw [e]
  beta_reduce
  generalize popCount (BitVec.ofNat 23 (a / 8192) &&& m[(0 : Fin 6)]) = f0
  generalize popCount (BitVec.ofNat 23 (a / 8192) &&& m[(1 : Fin 6)]) = f1
  generalize popCount (BitVec.ofNat 23 (a / 8192) &&& m[(2 : Fin 6)]) = f2
  generalize popCount (BitVec.ofNat 23 (a / 8192) &&& m[(3 : Fin 6)]) = f3
  generalize popCount (BitVec.ofNat 23 (a / 8192) &&& m[(4 : Fin 6)]) = f4
  generalize popCount (BitVec.ofNat 23 (a / 8192) &&& m[(5 : Fin 6)]) = f5
  have e0 : ((0 : Fin 6) : Nat) = 0 := rfl
  have e1 : ((1 : Fin 6) : Nat) = 1 := rfl
  have e2 : ((2 : Fin 6) : Nat) = 2 := rfl
  have e3 : ((3 : Fin 6) : Nat) = 3 := rfl
  have e4 : ((4 : Fin 6) : Nat) = 4 := rfl
  have e5 : ((5 : Fin 6) : Nat) = 5 := rfl
  simp only [field, e0, e1, e2, e3, e4, e5]
  omega

/-- Flipping bits of PCRAW by what the row says is one to one. -/
theorem flip_inj (a b f0 f1 f2 f3 f4 f5 : Nat)
    (h : (a + f0) % 2 + (a / 2 + f1) % 2 * 2 + (a / 4 + f2) % 2 * 4 + (a / 8 + f3) % 2 * 8 + (a / 16 + f4) % 2 * 16 +
        (a / 32 + f5) % 2 * 32 =
      (b + f0) % 2 + (b / 2 + f1) % 2 * 2 + (b / 4 + f2) % 2 * 4 + (b / 8 + f3) % 2 * 8 + (b / 16 + f4) % 2 * 16 +
        (b / 32 + f5) % 2 * 32) : a % 64 = b % 64 := by
  have h0 : (a + f0) % 2 = (b + f0) % 2 := by omega
  have h1 : (a / 2 + f1) % 2 = (b / 2 + f1) % 2 := by omega
  have h2 : (a / 4 + f2) % 2 = (b / 4 + f2) % 2 := by omega
  have h3 : (a / 8 + f3) % 2 = (b / 8 + f3) % 2 := by omega
  have h4 : (a / 16 + f4) % 2 = (b / 16 + f4) % 2 := by omega
  have h5 : (a / 32 + f5) % 2 = (b / 32 + f5) % 2 := by omega
  clear h
  have g0 : a % 2 = b % 2 := by clear h1 h2 h3 h4 h5; omega
  have g1 : a / 2 % 2 = b / 2 % 2 := by clear h0 h2 h3 h4 h5; omega
  have g2 : a / 4 % 2 = b / 4 % 2 := by clear h0 h1 h3 h4 h5; omega
  have g3 : a / 8 % 2 = b / 8 % 2 := by clear h0 h1 h2 h4 h5; omega
  have g4 : a / 16 % 2 = b / 16 % 2 := by clear h0 h1 h2 h3 h5; omega
  have g5 : a / 32 % 2 = b / 32 % 2 := by clear h0 h1 h2 h3 h4; omega
  clear h0 h1 h2 h3 h4 h5
  omega

/-- PCSEL has six bits (R296). -/
theorem pcsel_lt (m : Vector (BitVec 23) 6) (a : Nat) : pcsel m a < 64 := by
  obtain ⟨f, hf⟩ := pcsel_row m (a / 8192)
  rw [hf a rfl]
  have := fun n => Nat.mod_lt n (y := 2) (by omega)
  have h0 := this (a / 128 + f 0)
  have h1 := this (a / 256 + f 1)
  have h2 := this (a / 512 + f 2)
  have h3 := this (a / 1024 + f 3)
  have h4 := this (a / 2048 + f 4)
  have h5 := this (a / 4096 + f 5)
  generalize (a / 128 + f 0) % 2 = x0 at *
  generalize (a / 256 + f 1) % 2 = x1 at *
  generalize (a / 512 + f 2) % 2 = x2 at *
  generalize (a / 1024 + f 3) % 2 = x3 at *
  generalize (a / 2048 + f 4) % 2 = x4 at *
  generalize (a / 4096 + f 5) % 2 = x5 at *
  omega

/-- Two places of a row have two values of PCSEL (R296). -/
theorem pcsel_inj (m : Vector (BitVec 23) 6) {a b : Nat} (h : a / 8192 = b / 8192) (e : pcsel m a = pcsel m b) :
    a / 128 % 64 = b / 128 % 64 := by
  obtain ⟨f, hf⟩ := pcsel_row m (b / 8192)
  rw [hf a h, hf b rfl] at e
  refine flip_inj (a / 128) (b / 128) (f 0) (f 1) (f 2) (f 3) (f 4) (f 5) ?_
  simpa only [Nat.div_div_eq_div_mul] using e

/-- A cell keeps all of an address but PCRAW, and two addresses have two cells (R296). -/
theorem State.cellOf_inj (s : State) {a b : Nat} (e : s.cellOf a = s.cellOf b) : a = b := by
  have lt := fun (h : b / 2 ^ 36 < 12) => pcsel_lt s.hmask[b / 2 ^ 36] (b % 2 ^ 36)
  have key : ∀ x, (s.cellOf x = x ∧ (x / 2 ^ 36 < 12 → ∃ h : x / 2 ^ 36 < 12, s.hmask[x / 2 ^ 36] = Vector.replicate 6 0)) ∨
      ∃ h : x / 2 ^ 36 < 12, s.hmask[x / 2 ^ 36] ≠ Vector.replicate 6 0 ∧ pcsel s.hmask[x / 2 ^ 36] (x % 2 ^ 36) < 64 ∧
        s.cellOf x = x - x / 128 % 64 * 128 + pcsel s.hmask[x / 2 ^ 36] (x % 2 ^ 36) * 128 := by
    intro x
    unfold State.cellOf
    split
    · rename_i h
      split
      · rename_i z
        exact .inl ⟨rfl, fun _ => ⟨h, z⟩⟩
      · rename_i z
        exact .inr ⟨h, z, pcsel_lt _ _, rfl⟩
    · rename_i h
      exact .inl ⟨rfl, fun k => absurd k h⟩
  have row : ∀ x, s.cellOf x / 8192 = x / 8192 ∧ s.cellOf x % 128 = x % 128 := by
    intro x
    rcases key x with ⟨h, -⟩ | ⟨h, -, l, c⟩
    · rw [h]; exact ⟨rfl, rfl⟩
    · rw [c]
      generalize pcsel s.hmask[x / 2 ^ 36] (x % 2 ^ 36) = p at l
      omega
  have ra := row a
  have rb := row b
  have hd : a / 8192 = b / 8192 := by rw [← ra.1, e, rb.1]
  have hm : a % 128 = b % 128 := by rw [← ra.2, e, rb.2]
  have hq : a / 2 ^ 36 = b / 2 ^ 36 := by omega
  have hf : a / 128 % 64 = b / 128 % 64 := by
    rcases key a with ⟨ca, za⟩ | ⟨h, za, la, ca⟩ <;> rcases key b with ⟨cb, zb⟩ | ⟨h', zb, lb, cb⟩
    · rw [← ca, ← cb, e]
    · obtain ⟨k, z⟩ := za (hq ▸ h')
      exact absurd (by simpa only [hq] using z) zb
    · obtain ⟨k, z⟩ := zb (hq ▸ h)
      exact absurd (by simpa only [hq] using z) za
    · have : s.hmask[a / 2 ^ 36] = s.hmask[b / 2 ^ 36] := by simp only [hq]
      rw [ca, cb, this] at e
      rw [this] at la
      refine (by omega : (a % 2 ^ 36) / 128 % 64 = (b % 2 ^ 36) / 128 % 64 → _) (pcsel_inj s.hmask[b / 2 ^ 36] (by omega) ?_)
      generalize pcsel s.hmask[b / 2 ^ 36] (b % 2 ^ 36) = p at *
      generalize pcsel s.hmask[b / 2 ^ 36] (a % 2 ^ 36) = q at *
      omega
  omega

end Sys2Proof.Machine
end

