-- ==== Sys2Proof/Laws/Ops.lean ====
section
/-! SUPPORT. What each shared operation can do: the issue of a word, a fault and a trap, a performed write. -/

namespace Sys2Proof.Machine

/-! ### Groups -/

theorem State.group?_some {s : State} {i : GroupId} {g : Group} (h : s.group? i = some g) : g ∈ s.groups ∧ g.id = i := by
  refine ⟨List.mem_of_find?_eq_some h, ?_⟩
  simpa using List.find?_some h

/-- A group stored back is read back. -/
theorem State.group?_put {s : State} {g h : Group} (hs : s.group? g.id = some h) : (s.put g).group? g.id = some g := by
  unfold State.group? at *
  simp only [State.put_groups]
  generalize s.groups = l at *
  induction l with
  | nil => simp at hs
  | cons x xs ih =>
    by_cases hx : x.id = g.id
    · simp [hx]
    · simp only [List.map_cons, hx, if_false]
      rw [List.find?_cons_of_neg (by simpa using hx)] at hs ⊢
      exact ih hs

/-- A group stored back leaves every other group as it was. -/
theorem State.group?_put_other {s : State} {g : Group} {i : GroupId} (hi : i ≠ g.id) : (s.put g).group? i = s.group? i := by
  unfold State.group?
  simp only [State.put_groups]
  generalize s.groups = l
  induction l with
  | nil => rfl
  | cons x xs ih =>
    by_cases hx : x.id = g.id
    · rw [List.map_cons, if_pos hx, List.find?_cons_of_neg (by simpa using Ne.symm hi),
        List.find?_cons_of_neg (by simpa [hx] using Ne.symm hi), ih]
    · rw [List.map_cons, if_neg hx]
      by_cases hy : x.id = i
      · rw [List.find?_cons_of_pos (by simpa using hy), List.find?_cons_of_pos (by simpa using hy)]
      · rw [List.find?_cons_of_neg (by simpa using hy), List.find?_cons_of_neg (by simpa using hy), ih]

/-! ### The issue of a word -/

theorem Group.issueFault_none {g : Group} {priv : Bool} {rs : List PReg} :
    g.issueFault priv rs = none ↔
      (priv = true → g.pv = true) ∧ ∀ r ∈ rs, g.beyond r = false ∧ g.isPending r = false := by
  unfold Group.issueFault
  constructor
  · intro h
    split at h
    · simp at h
    · rename_i h1
      split at h
      · simp at h
      · rename_i h2
        split at h
        · simp at h
        · rename_i h3
          simp only [Bool.and_eq_true, Bool.not_eq_true', not_and, Bool.not_eq_false] at h1
          refine ⟨h1, fun r hr => ⟨?_, ?_⟩⟩
          · simpa using fun hb => h2 (List.any_eq_true.2 ⟨r, hr, hb⟩)
          · simpa using fun hb => h3 (List.any_eq_true.2 ⟨r, hr, hb⟩)
  · rintro ⟨h1, h2⟩
    have a : (priv && !g.pv) = false := by cases priv <;> simp_all
    have b : rs.any g.beyond = false := by simpa using fun r hr => (h2 r hr).1
    have c : rs.any g.isPending = false := by simpa using fun r hr => (h2 r hr).2
    simp [a, b, c]

/-- What a word can do: the fault of its first failing check, or its effect. -/
theorem State.word_next {s t : State} {priv : Bool} {rs : List PReg} {body : Group → State} (h : s.word priv rs body = .next t) :
    ∃ g, s.cur = some g ∧ ((∃ c, g.issueFault priv rs = some c ∧ t = s.groupFault g c) ∨
      (g.issueFault priv rs = none ∧ t = body g)) := by
  unfold State.word at h
  split at h
  · simp at h
  · rename_i g hg
    refine ⟨g, hg, ?_⟩
    split at h
    · exact .inl ⟨_, ‹_›, by simpa using h.symm⟩
    · exact .inr ⟨‹_›, by simpa using h.symm⟩

/-- A word whose checks pass has its effect. -/
theorem State.word_ok {s : State} {g : Group} {priv : Bool} {rs : List PReg} (body : Group → State) (hg : s.cur = some g)
    (h : g.issueFault priv rs = none) : s.word priv rs body = .next (body g) := by
  simp [State.word, hg, h]

/-- A word whose first failing check gives a code takes that fault. -/
theorem State.word_fault {s : State} {g : Group} {priv : Bool} {rs : List PReg} {c : Nat} (body : Group → State)
    (hg : s.cur = some g) (h : g.issueFault priv rs = some c) : s.word priv rs body = .next (s.groupFault g c) := by
  simp [State.word, hg, h]

theorem State.plain_ok {s : State} {g : Group} {n : Nat} {rs : List PReg} (f : Group → Group) (hg : s.cur = some g)
    (h : g.issueFault false rs = none) : s.plain n rs f = .next (s.put ((f g).nextWord n)) :=
  State.word_ok _ hg h

/-- A word that does not stall and whose checks pass has its effect. -/
theorem State.stallWord_ok {s : State} {g : Group} {wait : Group → Bool} {priv : Bool} {rs : List PReg} (body : Group → State)
    (hg : s.cur = some g) (hw : wait g = false) (h : g.issueFault priv rs = none) :
    s.stallWord wait priv rs body = .next (body g) := by
  simp [State.stallWord, hg, hw, State.word_ok body hg h]

/-- What a word with a stall can do: the stall, a fault, or its effect (R471). -/
theorem State.stallWord_next {s t : State} {wait : Group → Bool} {priv : Bool} {rs : List PReg} {body : Group → State}
    (h : s.stallWord wait priv rs body = .next t) :
    ∃ g, s.cur = some g ∧ ((wait g = true ∧ t = s.stall g) ∨
      (∃ c, g.issueFault priv rs = some c ∧ t = s.groupFault g c) ∨ (g.issueFault priv rs = none ∧ t = body g)) := by
  unfold State.stallWord at h
  split at h
  · simp at h
  · rename_i g hg
    refine ⟨g, hg, ?_⟩
    split at h
    · exact .inl ⟨‹_›, by simpa using h.symm⟩
    · obtain ⟨g', hg', hh⟩ := State.word_next h
      have : g' = g := by rw [hg] at hg'; exact (Option.some.inj hg').symm
      subst this
      exact .inr hh

theorem State.longWord_ok {s : State} {g : Group} {priv : Bool} {rs : List PReg} (body : Group → State) (hg : s.cur = some g)
    (hf : g.counterFull = false) (h : g.issueFault priv rs = none) : s.longWord priv rs body = .next (body g) :=
  State.stallWord_ok body hg hf h

/-- What a long-latency word can do: the stall of a full counter (R26), a fault, or its effect. -/
theorem State.longWord_next {s t : State} {priv : Bool} {rs : List PReg} {body : Group → State}
    (h : s.longWord priv rs body = .next t) :
    ∃ g, s.cur = some g ∧ ((g.counterFull = true ∧ t = s.stall g) ∨
      (∃ c, g.issueFault priv rs = some c ∧ t = s.groupFault g c) ∨ (g.issueFault priv rs = none ∧ t = body g)) :=
  State.stallWord_next h

/-- A memory word whose checks pass has its effect, behind no FENCE and with room in the queue of its core's banks. -/
theorem State.memWord_ok {s : State} {g : Group} {sh : Bool} {rs : List PReg} (body : Group → State → State) (hg : s.cur = some g)
    (hf : g.fence = []) (hq : (sh && s.shFull g.id.coreId) = false) (h : g.issueFault false rs = none) :
    s.memWord sh rs body = .next (body g s) := by
  have h1 : g.fenced = false := by simp [Group.fenced, hf]
  have h2 : s.passFence g = s := by simp [State.passFence, hf]
  have h3 : s.fenceReady g = true := by simp [State.fenceReady, hf]
  simp [State.memWord, hg, h1, h2, h3, hq, State.word_ok _ hg h]

/-- A memory word with a stall of its own that does not stall. -/
theorem State.memStall_ok {s : State} {g : Group} {sh : Bool} {wait : Group → Bool} {rs : List PReg} (body : Group → State → State)
    (hg : s.cur = some g) (hw : wait g = false) (hf : g.fence = []) (hq : (sh && s.shFull g.id.coreId) = false)
    (h : g.issueFault false rs = none) : s.memStall sh wait rs body = .next (body g s) := by
  simp [State.memStall, hg, hw, State.memWord_ok body hg hf hq h]

theorem State.memStall_stalls {s : State} {g : Group} {sh : Bool} {wait : Group → Bool} {rs : List PReg} (body : Group → State → State)
    (hg : s.cur = some g) (hw : wait g = true) : s.memStall sh wait rs body = .next (s.stall g) := by
  simp [State.memStall, hg, hw]

theorem State.memLong_ok {s : State} {g : Group} {sh : Bool} {rs : List PReg} (body : Group → State → State) (hg : s.cur = some g)
    (hc : g.counterFull = false) (hf : g.fence = []) (hq : (sh && s.shFull g.id.coreId) = false)
    (h : g.issueFault false rs = none) : s.memLong sh rs body = .next (body g s) := by
  simp [State.memLong, State.memStall, hg, hc, State.memWord_ok body hg hf hq h]

/-! ### Faults and traps -/

/-- The group with a fault recorded, which waits for its delivery. -/
def Group.faulted (g : Group) (r : FaultRec) : Group := { g with fault := some r, status := .trapping, turn := false }

/-- What a raised fault does: it is recorded, and delivered where the group may take it now. -/
theorem State.raise_cases (s : State) (g : Group) (r : FaultRec) :
    (s.mayTrap (g.faulted r) = false ∧ s.raise g r = s.put (g.faulted r)) ∨
    (s.mayTrap (g.faulted r) = true ∧ s.raise g r = (s.put (g.faulted r)).takeTrap (g.faulted r)) := by
  cases h : s.mayTrap (g.faulted r)
  · exact .inl ⟨rfl, if_neg (by simpa [Group.faulted] using h)⟩
  · exact .inr ⟨rfl, if_pos (by simpa [Group.faulted] using h)⟩

/-- What a release's step can do: go on with its L1 action done, or ask for the invalidations that it needs. -/
theorem State.releasing_cases (s : State) (c : CoreId) (sc : Scope) (f : State → State) :
    (s.releasable c sc = true ∧ s.releasing c sc f = f (s.releaseL1 c sc)) ∨
      (s.releasable c sc = false ∧ s.releasing c sc f = s.claimBack c fun _ => true) := by
  unfold State.releasing
  cases h : s.releasable c sc <;> simp

/-- What the delivery of a fault can do (R402, R407): wait, kill the task, ask for the lines that it writes back, or enter
the handler with every older store of the core performed. -/
theorem State.takeTrap_cases (s : State) (g : Group) :
    s.takeTrap g = s ∨
    (∃ r, g.fault = some r ∧ (g.inHandler = true ∨ s.traph g = 0) ∧
      s.takeTrap g = s.kill g.task r.word.toNat r.addr (locWord g.id.coreId) (s.depth g.id.coreId)) ∨
    (s.releasable g.id.coreId .dev = false ∧ s.takeTrap g = s.claimBack g.id.coreId fun _ => true) ∨
    ∃ r, g.fault = some r ∧ g.inHandler = false ∧ s.traph g ≠ 0 ∧ g.quiet = true ∧ s.releasable g.id.coreId .dev = true ∧
      s.takeTrap g = ((s.releaseL1 g.id.coreId .dev).leaveSpat g.id).put
        (g.enterHandler r ((s.releaseL1 g.id.coreId .dev).traph g)) := by
  unfold State.takeTrap
  split
  · rename_i r hr
    by_cases hk : (g.inHandler || decide (s.traph g = 0)) = true
    · rw [if_pos hk]
      exact .inr (.inl ⟨r, hr, by simpa using hk, rfl⟩)
    · rw [if_neg hk]
      by_cases hq : g.quiet = true
      · rw [if_pos hq]
        rcases s.releasing_cases g.id.coreId .dev fun s => (s.leaveSpat g.id).put (g.enterHandler r (s.traph g)) with ⟨h, e⟩ | ⟨h, e⟩
        · exact .inr (.inr (.inr ⟨r, hr, by simp at hk; exact hk.1, by simp at hk; exact hk.2, hq, h, e⟩))
        · exact .inr (.inr (.inl ⟨h, e⟩))
      · rw [if_neg hq]
        exact .inl rfl
  · exact .inl rfl

/-! ### A performed write: the memories stay canonical -/

theorem State.memWf_iff (s : State) :
    s.memWf = true ↔ s.mem.wf = true ∧ (∀ c ∈ s.cores, c.shared.wf = true) ∧ s.psc.staging.wf = true := by
  simp [State.memWf, and_assoc]

/-- The memories of two states are the same. -/
def sameMems (s t : State) : Prop := t.mem = s.mem ∧ t.cores = s.cores ∧ t.psc = s.psc

theorem sameMems.refl (s : State) : sameMems s s := ⟨rfl, rfl, rfl⟩

theorem sameMems.trans {s t u : State} (h : sameMems s t) (k : sameMems t u) : sameMems s u :=
  ⟨k.1.trans h.1, k.2.1.trans h.2.1, k.2.2.trans h.2.2⟩

theorem sameMems.memWf {s t : State} (h : sameMems s t) (w : s.memWf = true) : t.memWf = true := by
  rw [State.memWf_iff] at *; rw [h.1, h.2.1, h.2.2]; exact w

theorem sameMems_foldl {α : Type} (f : State → α → State) (h : ∀ s a, sameMems s (f s a)) (l : List α) (s : State) :
    sameMems s (l.foldl f s) := by
  induction l generalizing s with
  | nil => exact .refl s
  | cons a l ih => exact (h s a).trans (ih (f s a))

/-- An operation over a list keeps what each of its steps keeps. -/
theorem memWf_foldl {α : Type} (f : State → α → State) (h : ∀ s a, s.memWf = true → (f s a).memWf = true) (l : List α)
    (s : State) (w : s.memWf = true) : (l.foldl f s).memWf = true := by
  induction l generalizing s with
  | nil => exact w
  | cons a l ih => exact ih (f s a) (h s a w)

theorem State.modCore_memWf {s : State} (c : CoreId) (f : Core → Core)
    (hf : ∀ k, k.shared.wf = true → (f k).shared.wf = true) (w : s.memWf = true) : (s.modCore c f).memWf = true := by
  rw [State.memWf_iff] at *
  refine ⟨by simpa using w.1, ?_, by simpa using w.2.2⟩
  unfold State.modCore
  split
  · intro x hx
    obtain ⟨y, hy, rfl⟩ := List.mem_map.1 hx
    split
    · exact hf y (w.2.1 y hy)
    · exact w.2.1 y hy
  · intro x hx
    rcases List.mem_cons.1 hx with rfl | hx
    · exact hf _ rfl
    · exact w.2.1 x hx

theorem State.writePa_memWf {s : State} (a : Nat) (v : Byte) (w : s.memWf = true) : (s.writePa a v).memWf = true := by
  unfold State.writePa
  split
  · exact w
  · rw [State.memWf_iff] at *
    exact ⟨Memory.write_wf w.1 _ _, w.2⟩

theorem State.writePaBytes_memWf {s : State} (a : Nat) (bs : List Byte) (w : s.memWf = true) :
    (s.writePaBytes a bs).memWf = true := by
  induction bs generalizing s a with
  | nil => exact w
  | cons b bs ih => exact ih (a + 1) (State.writePa_memWf a b w)

theorem State.writeSpot_memWf {s : State} (v : Byte) (x : Spot) (w : s.memWf = true) : (s.writeSpot v x).memWf = true := by
  cases x with
  | sh d c o => exact State.modCore_memWf _ _ (fun k hk => Memory.write_wf hk _ _) w
  | pa a => exact State.writePa_memWf a v w
  | member t l o => exact w

theorem State.writeSpots_memWf {s : State} (x : Spot) (bs : List Byte) (w : s.memWf = true) :
    (s.writeSpots x bs).memWf = true := by
  induction bs generalizing s x with
  | nil => exact w
  | cons b bs ih => exact ih (x.shift 1) (State.writeSpot_memWf b x w)

theorem State.setWaiton_same (s : State) (k : TaskKey) (o : Word) : sameMems s (s.setWaiton k o) := ⟨rfl, rfl, rfl⟩

theorem State.recomputePrio_same (s : State) (k : TaskKey) : sameMems s (s.recomputePrio k) := ⟨rfl, rfl, rfl⟩

theorem State.wakeTeam_same (s : State) (t : Team) : sameMems s (s.wakeTeam t) := by
  unfold State.wakeTeam
  split
  · exact .refl s
  · exact .trans ⟨rfl, rfl, rfl⟩ (sameMems_foldl _ State.recomputePrio_same _ _)

theorem State.wakeIf_same (s : State) (p : Team → Sleep → Bool) : sameMems s (s.wakeIf p) :=
  sameMems_foldl _ State.wakeTeam_same _ _

theorem State.wakeAt_same (s : State) (x : Spot) (n : Nat) : sameMems s (s.wakeAt x n) := by
  unfold State.wakeAt
  split
  · simp only
    split
    · exact .trans (State.wakeIf_same s _) ⟨rfl, rfl, rfl⟩
    · exact .trans (State.wakeIf_same s _) ⟨rfl, rfl, rfl⟩
  · exact .refl s

theorem State.ringBell_same (s : State) (x : Spot) (n : Nat) : sameMems s (s.ringBell x n) := by
  unfold State.ringBell
  split
  · split
    · exact ⟨rfl, rfl, rfl⟩
    · exact .refl s
  · exact .refl s

theorem State.clearPoison_same (s : State) (x : Spot) (n : Nat) : sameMems s (s.clearPoison x n) := by
  unfold State.clearPoison
  split
  · exact .refl s
  · exact ⟨rfl, rfl, rfl⟩

theorem State.mapGroups_same (s : State) (f : Group → Group) : sameMems s (s.mapGroups f) := ⟨rfl, rfl, rfl⟩

/-- What stands at its home changes no byte. -/
theorem State.holdHome_same (s : State) (line : Nat) (dirty u : Bool) : sameMems s (s.holdHome line dirty u) := by
  unfold State.holdHome
  split
  · exact ⟨rfl, rfl, rfl⟩
  · exact .refl s

theorem State.holdRun_same (s : State) (a n : Nat) (dirty u : Bool) : sameMems s (s.holdRun a n dirty u) :=
  sameMems_foldl _ (fun s l => s.holdHome_same l dirty u) _ s

theorem State.disown_same (s : State) (p : Nat → Bool) : sameMems s (s.disown p) := by
  unfold State.disown
  split
  · exact ⟨rfl, rfl, rfl⟩
  · exact .refl s

/-- Transactions that see a cause drop clean copies at most. -/
theorem State.abortWhere_memWf {s : State} (p : Group → Tx → Bool) (cause : Nat) (w : s.memWf = true) :
    (s.abortWhere p cause).memWf = true := by
  unfold State.abortWhere
  simp only
  split
  · exact w
  · exact memWf_foldl (fun t c => t.modCore c (Core.dropClean fun _ => true))
      (fun t c ht => State.modCore_memWf c (Core.dropClean fun _ => true) (fun k hk => hk) ht) _ _
      (((State.mapGroups_same s _).trans (State.disown_same _ _)).memWf w)

theorem State.markIf_memWf {s : State} (p : GroupId → Bool) (x : Spot) (n : Nat) (w : s.memWf = true) :
    (s.markIf p x n).memWf = true := State.abortWhere_memWf _ _ w

theorem State.outsideWrite_memWf {s : State} (x : Spot) (bs : List Byte) (w : s.memWf = true) :
    (s.outsideWrite x bs).memWf = true := by
  unfold State.outsideWrite
  exact (State.ringBell_same _ _ _).memWf ((State.wakeAt_same _ _ _).memWf
    ((State.clearPoison_same _ _ _).memWf (State.writeSpots_memWf x bs w)))

theorem State.noteWrite_same (s : State) (x : Spot) (n : Nat) : sameMems s (s.noteWrite x n) := by
  unfold State.noteWrite
  split
  · simp only
    split
    · exact .refl s
    · exact ⟨rfl, rfl, rfl⟩
  · exact .refl s

theorem State.deviceWrite_memWf {s : State} (g : Option GroupId) (x : Spot) (bs : List Byte) (w : s.memWf = true) :
    (s.deviceWrite g x bs).memWf = true :=
  State.outsideWrite_memWf x bs ((State.noteWrite_same _ x bs.length).memWf (State.markIf_memWf _ x bs.length w))

theorem State.homeWrite_memWf {s : State} (out : Bool) (x : Spot) (bs : List Byte) (w : s.memWf = true) :
    (s.homeWrite out x bs).memWf = true := by
  unfold State.homeWrite
  split
  · exact State.outsideWrite_memWf x bs ((State.noteWrite_same s x bs.length).memWf w)
  · exact State.deviceWrite_memWf none x bs w

theorem State.putDir_same (s : State) (e : DirEntry) : sameMems s (s.putDir e) := ⟨rfl, rfl, rfl⟩

theorem State.fetchPoison_same (s : State) (d l : Nat) : sameMems s (s.fetchPoison d l) := by
  unfold State.fetchPoison
  split
  · exact .refl s
  · exact ⟨rfl, rfl, rfl⟩

theorem State.taint_same (s : State) (d a : Nat) : sameMems s (s.taint d a) := by
  unfold State.taint
  generalize (if s.inL2 d (lineOf a) then Poison.l2 d (eccAt a) else .cell (s.eccOf (.pa a))) = e
  dsimp only
  split
  · exact .refl s
  · exact ⟨rfl, rfl, rfl⟩

theorem State.putL2_same (s : State) (d l : Nat) (st : L2State) : sameMems s (s.putL2 d l st) := by
  unfold State.putL2
  split
  · simp only
    split
    · exact ⟨rfl, rfl, rfl⟩
    · exact .trans (State.fetchPoison_same s d l) ⟨rfl, rfl, rfl⟩
  · exact .refl s

theorem State.takeDirty_same (s : State) (d a : Nat) : sameMems s (s.takeDirty d a) := by
  unfold State.takeDirty
  split
  · simp only
    split
    · exact State.putL2_same _ _ _ _
    · exact .trans (State.putDir_same s _) (State.putL2_same _ _ _ _)
  · exact .refl s

theorem State.claimLine_same (s : State) (d : Option Nat) (a : Nat) : sameMems s (s.claimLine d a) := by
  unfold State.claimLine
  split
  · exact ⟨rfl, rfl, rfl⟩
  · exact .refl s

theorem State.claimAll_same (s : State) (d : Option Nat) (rs : List (Nat × Nat)) : sameMems s (s.claimAll d rs) :=
  sameMems_foldl _ (fun s a => State.claimLine_same s d a) _ s

theorem State.claimBack_same (s : State) (c : CoreId) (p : Nat → Bool) : sameMems s (s.claimBack c p) :=
  State.claimAll_same _ _ _

theorem State.writeBackS_memWf {s : State} (c : CoreId) (p : Nat → Bool) (w : s.memWf = true) :
    (s.writeBackS c p).memWf = true := by
  unfold State.writeBackS
  simp only
  split
  · exact w
  · refine (sameMems_foldl _ (fun s a => State.taint_same s c.die a) _ _).memWf ?_
    refine (sameMems_foldl _ (fun s (x : L1Byte) => State.takeDirty_same s c.die x.pa) _ _).memWf ?_
    exact State.modCore_memWf _ _ (fun k hk => hk) (memWf_foldl _ (fun s x h =>
      State.outsideWrite_memWf _ _ ((State.noteWrite_same _ _ _).memWf (State.markIf_memWf _ _ _ h))) _ _ w)

theorem State.releaseL1_memWf {s : State} (c : CoreId) (sc : Scope) (w : s.memWf = true) : (s.releaseL1 c sc).memWf = true := by
  unfold State.releaseL1
  split
  · exact State.writeBackS_memWf c _ w
  · exact w

/-- A release's step keeps the memories canonical where what follows its L1 action does. -/
theorem State.releasing_memWf {s : State} (c : CoreId) (sc : Scope) (f : State → State)
    (hf : ∀ t : State, t.memWf = true → (f t).memWf = true) (w : s.memWf = true) : (s.releasing c sc f).memWf = true := by
  rcases s.releasing_cases c sc f with ⟨-, h⟩ | ⟨-, h⟩
  · rw [h]; exact hf _ (State.releaseL1_memWf c sc w)
  · rw [h]; exact (State.claimBack_same s c _).memWf w

theorem State.put_memWf {s : State} (g : Group) (w : s.memWf = true) : (s.put g).memWf = true := w

/-! ### A killed task and a delivered fault -/

theorem State.ringPush_memWf {s t : State} {r : Nat} {bs : List Byte} (h : s.ringPush r bs = some t) (w : s.memWf = true) :
    t.memWf = true := by
  unfold State.ringPush at h
  generalize s.ring r = q at h
  generalize q.1 + q.2.2.2 % q.2.1 * bs.length = a at h
  generalize natToBytes 4 (q.2.2.2 + 1) = b at h
  dsimp only at h
  split at h
  · exact absurd h (by simp)
  · rw [← Option.some.inj h]
    exact State.deviceWrite_memWf _ _ _ (State.deviceWrite_memWf _ _ _ w)

theorem State.flogPush_memWf {s : State} (d : Nat) (e : List Byte) (w : s.memWf = true) : (s.flogPush d e).memWf = true := by
  unfold State.flogPush
  cases h : s.ringPush (d + 0xB0) e with
  | some t => exact State.ringPush_memWf h w
  | none =>
    rw [Option.getD_none]
    exact State.deviceWrite_memWf _ _ _ w

theorem State.flog_memWf {s : State} (k : TaskKey) (code : Nat) (addr : DWord) (loc : Word) (depth : Nat) (w : s.memWf = true) :
    (s.flog k code addr loc depth).memWf = true := by
  unfold State.flog
  split
  · exact w
  · exact State.flogPush_memWf _ _ w

/-- A mirrored task is two writes at its home. -/
theorem State.mirror_writes (s : State) (t : Task) (out : Bool) :
    ∃ x a y b, s.mirror t out = (s.homeWrite out x a).homeWrite out y b := ⟨_, _, _, _, rfl⟩

theorem State.mirror_memWf {s : State} (t : Task) (out : Bool) (w : s.memWf = true) : (s.mirror t out).memWf = true := by
  obtain ⟨x, a, y, b, h⟩ := s.mirror_writes t out
  rw [h]
  exact State.homeWrite_memWf _ _ _ (State.homeWrite_memWf _ _ _ w)

theorem State.decrs_same (s : State) (l : List Decr) : sameMems s { s with decrs := l } := ⟨rfl, rfl, rfl⟩

theorem State.putTask_memWf {s : State} (t : Task) (out : Bool) (w : s.memWf = true) : (s.putTask t out).memWf = true :=
  State.mirror_memWf t out (sameMems.memWf (s := s) ⟨rfl, rfl, rfl⟩ w)

theorem State.popFrame_memWf {s : State} (c : CoreId) (k : TaskKey) (lin : Nat) (w : s.memWf = true) :
    (s.popFrame c k lin).memWf = true := by
  unfold State.popFrame
  split
  · exact w
  · exact State.modCore_memWf _ _ (fun k hk => hk) w

theorem State.tokensDone_same (s : State) (c : CoreId) : sameMems s (s.tokensDone c) := ⟨rfl, rfl, rfl⟩

theorem State.wakeWatchers_same (s : State) (id : Word) : sameMems s (s.wakeWatchers id) := ⟨rfl, rfl, rfl⟩

theorem State.wakeOwned_same (s : State) (k : TaskKey) : sameMems s (s.wakeOwned k) :=
  ((State.wakeIf_same s _).trans (State.wakeWatchers_same _ _)).trans (State.mapGroups_same _ _)

/-- A kill keeps the memories canonical. -/
theorem State.kill_memWf {s : State} (k : TaskKey) (code : Nat) (addr : DWord) (loc : Word) (depth : Nat) (w : s.memWf = true) :
    (s.kill k code addr loc depth).memWf = true := by
  have h := (State.disown_same (s.flog k code addr loc depth) fun _ => true).memWf (State.flog_memWf k code addr loc depth w)
  rw [State.memWf_iff] at h
  have h2 : ∀ (gone : List GroupId) (u : State), u.mem = ((s.flog k code addr loc depth).disown fun _ => true).mem →
      u.cores = ((s.flog k code addr loc depth).disown fun _ => true).cores.map (Core.abandon k gone) →
      u.psc = ((s.flog k code addr loc depth).disown fun _ => true).psc → u.memWf = true := by
    intro gone u h1 h2 h3
    rw [State.memWf_iff, h1, h2, h3]
    exact ⟨h.1, by simpa [Core.abandon] using h.2.1, h.2.2⟩
  unfold State.kill
  simp only
  split
  · exact w
  · have h3 := fun (u : State) (l : List Core) (hu : u.memWf = true) => memWf_foldl (fun s (t : Team) => s.popFrame t.core k t.lin)
      (fun s t h => State.popFrame_memWf t.core k t.lin h) (s.teams.filter fun t => t.task = k) _
      ((sameMems_foldl (fun (s : State) (c : Core) => s.tokensDone c.id) (fun s c => State.tokensDone_same s c.id) l u).memWf hu)
    split
    · exact h3 _ _ (h2 _ _ rfl rfl rfl)
    · refine (State.wakeOwned_same _ _).memWf ((State.decrs_same _ _).memWf ?_)
      exact State.putTask_memWf _ _ (h3 _ _ (h2 _ _ rfl rfl rfl))

/-- A waiting SPAT given up keeps the memories canonical. -/
theorem State.leaveSpat_memWf {s : State} (i : GroupId) (w : s.memWf = true) : (s.leaveSpat i).memWf = true := by
  unfold State.leaveSpat
  dsimp only
  split
  · exact State.modCore_memWf _ _ (fun k hk => hk) w
  · exact w

/-- The delivery of a fault keeps the memories canonical. -/
theorem State.takeTrap_memWf {s : State} (g : Group) (w : s.memWf = true) : (s.takeTrap g).memWf = true := by
  rcases State.takeTrap_cases s g with h | ⟨r, -, -, h⟩ | ⟨-, h⟩ | ⟨r, -, -, -, -, -, h⟩
  · rw [h]; exact w
  · rw [h]; exact State.kill_memWf _ _ _ _ _ w
  · rw [h]; exact (State.claimBack_same s _ _).memWf w
  · rw [h]; exact State.put_memWf _ (State.leaveSpat_memWf _ (State.releaseL1_memWf _ _ w))

end Sys2Proof.Machine
end

