-- ==== Sys2Proof/Laws/Steps.lean ====
section
/-! SUPPORT. What a step adds around the instruction that it executes: the wait for a line that the host holds. -/

namespace Sys2Proof.Machine

/-- What a step can do with the outcome of its instruction (R447): answer it, or send the back-invalidations for which it waits. -/
theorem State.behindHost_cases (s : State) (i : Instr) (n : State) (o : Out) :
    s.behindHost i n o = o ∨ ∃ t, o = .next t ∧ hostOwn i = false ∧ n.heldLines t ≠ [] ∧
      s.behindHost i n o = .next { (n.heldLines t).foldl State.callBack n with schedule := defer s.schedule } := by
  unfold State.behindHost
  split
  · rename_i t
    cases h : hostOwn i with
    | true => simp
    | false =>
      cases e : n.heldLines t with
      | nil => simp [e]
      | cons l ls => exact .inr ⟨t, rfl, rfl, by simp [e], by simp [e]⟩
  · exact .inl rfl

/-- A back-invalidation sent changes the invalidations in flight alone. -/
theorem State.callBack_eq (s : State) (line : Nat) : ∃ l, s.callBack line = { s with invals := s.invals ++ l } := by
  unfold State.callBack
  split
  · exact ⟨[], by simp⟩
  · exact ⟨_, rfl⟩

theorem State.callBack_same (s : State) (line : Nat) : sameMems s (s.callBack line) := by
  obtain ⟨l, h⟩ := s.callBack_eq line
  rw [h]
  exact ⟨rfl, rfl, rfl⟩

/-- The order of what is scheduled changes at most. -/
theorem mem_defer (l : List Due) (d : Due) : d ∈ defer l ↔ d ∈ l := by
  unfold defer
  split <;> simp only [List.mem_cons]
  tauto

/-- A step keeps the memories canonical where its instruction does. -/
theorem step_memWf {s t : State} (h : step s = .next t) (hn : s.nextStep.2.memWf = true)
    (he : ∀ u, exec s.nextStep.1 s.nextStep.2 = .next u → u.memWf = true) : t.memWf = true := by
  unfold step at h
  rcases s.behindHost_cases s.nextStep.1 s.nextStep.2 (exec s.nextStep.1 s.nextStep.2) with e | ⟨u, -, -, -, e⟩ <;> rw [e] at h
  · exact he t h
  · cases h
    have := sameMems_foldl State.callBack State.callBack_same (s.nextStep.2.heldLines u) s.nextStep.2
    exact sameMems.memWf (s := s.nextStep.2) ⟨this.1, this.2.1, this.2.2⟩ hn

end Sys2Proof.Machine
end

