-- ==== Sys2Proof/Tests/Slice0.lean ====
section
/-! SUPPORT. Tests: words written out field by field from the encoding tables of the manual, ill-formed terms that are refused,
single steps, and for every statement a state and operands that meet its hypotheses. -/

namespace Sys2Proof.Tests.Slice0

open Sys2Proof Sys2Proof.Machine Sys2Proof.Slice0

/-! ### Decoding: opcode, guard and the fields of the format (R72 to R82, R87), with the field use of R97, R114, R128, R133, R141,
R207, R263, R331, R376 and R412 -/

theorem test_decode_integer : ∀ x ∈ ([
    (0x01F00000, .nop),
    (0x02317FFF, .movi (.pred 3) 5 (-1)),
    (0x03F18000, .movl .always 6 0),
    (0x0421C0C2, .mov (.pred 2) 7 (.s 33)),
    (0x05F04392, .movx .always 1 9 3),
    (0x06007F92, .movy (.pred 0) 1 9 63),
    (0x07B14955, .iadd (.pred 11) 5 9 (.v 42) true),
    (0x08B14955, .isub (.pred 11) 5 9 (.v 42) true),
    (0x0AF149D4, .imul .always 5 9 (.s 42)),
    (0x0BB14955, .imulh (.pred 11) 5 9 (.v 42) true),
    (0x0CF149D4, .imad .always 5 9 (.s 42)),
    (0x0DB14955, .imadw (.pred 11) 5 9 (.v 42) true),
    (0x0EB14955, .iadd64 (.pred 11) 5 9 (.v 42) true),
    (0x0FB14955, .imin (.pred 11) 5 9 (.v 42) true),
    (0x10B14955, .imax (.pred 11) 5 9 (.v 42) true),
    (0x12F149D4, .and .always 5 9 (.s 42)),
    (0x13F149D4, .or .always 5 9 (.s 42)),
    (0x14F149D4, .xor .always 5 9 (.s 42)),
    (0x15F149D4, .andn .always 5 9 (.s 42)),
    (0x16F149D4, .shl .always 5 9 (.s 42)),
    (0x17B14955, .shr (.pred 11) 5 9 (.v 42) true),
    (0x18B14955, .rot (.pred 11) 5 9 (.v 42) true),
    (0x1AB14955, .bfe (.pred 11) 5 9 (.v 42) true),
    (0x1BF149D4, .bfi .always 5 9 (.s 42)),
    (0x09F13F80, .iaddi .always 4 63 (-128)),
    (0x11F14087, .iabs .always 5 (.s 3) true),
    (0x19F08321, .shifti .always 2 3 .shl 33),
    (0x19F08361, .shifti .always 2 3 .shr 33),
    (0x19F083A1, .shifti .always 2 3 .sar 33),
    (0x19F083E1, .shifti .always 2 3 .rot 33),
    (0x1CF1400C, .popc .always 5 (.v 6)),
    (0x1DF1400C, .clz .always 5 (.v 6)),
    (0x1EF1400C, .brev .always 5 (.v 6))] : List (Nat × Instr)), decodeTableWord 32 x.1 = some x.2 := by decide

theorem test_decode_compares_and_scalar : ∀ x ∈ ([
    (0x1FFA8815, .icmp .always 5 .lt 8 (.v 10) true),
    (0x20114894, .icmpn (.pred 1) 0 .ge 8 (.s 10) false),
    (0x217149D4, .sel 7 5 9 (.s 42)),
    (0x22F23FFF, .smovi 8 (-1)),
    (0x23FF0000, .smovl 60 0),
    (0x24F149D4, .sadd 5 9 42),
    (0x25F149D4, .ssub 5 9 42),
    (0x26F149D4, .smul 5 9 42),
    (0x27F149D4, .sand 5 9 42),
    (0x28F149D4, .sor 5 9 42),
    (0x29F149D4, .sxor 5 9 42),
    (0x2AF149D4, .sshl 5 9 42),
    (0x2BF149D5, .sshr 5 9 42 true),
    (0x2CF709D5, .scmp 3 .gt 9 42 true),
    (0x2DF1495F, .readl 5 9 95),
    (0x2EF1495F, .writel 5 9 95)] : List (Nat × Instr)), decodeTableWord 32 x.1 = some x.2 := by decide

theorem test_decode_float : ∀ x ∈ ([
    (0x30418814, .faddF32 (.pred 4) 6 8 (.v 10)),
    (0x31418814, .faddF64 (.pred 4) 6 8 (.v 10)),
    (0x32418814, .faddH2 (.pred 4) 6 8 (.v 10)),
    (0x33418814, .faddBH2 (.pred 4) 6 8 (.v 10)),
    (0x34418814, .fsubF32 (.pred 4) 6 8 (.v 10)),
    (0x35418814, .fsubF64 (.pred 4) 6 8 (.v 10)),
    (0x36418814, .fsubH2 (.pred 4) 6 8 (.v 10)),
    (0x37418814, .fsubBH2 (.pred 4) 6 8 (.v 10)),
    (0x38418814, .fmulF32 (.pred 4) 6 8 (.v 10)),
    (0x39418814, .fmulF64 (.pred 4) 6 8 (.v 10)),
    (0x3A418814, .fmulH2 (.pred 4) 6 8 (.v 10)),
    (0x3B418814, .fmulBH2 (.pred 4) 6 8 (.v 10)),
    (0x3C418815, .ffmaF32 (.pred 4) 6 8 (.v 10) true),
    (0x3D418815, .ffmaF64 (.pred 4) 6 8 (.v 10) true),
    (0x3E418815, .ffmaH2 (.pred 4) 6 8 (.v 10) true),
    (0x3F418815, .ffmaBH2 (.pred 4) 6 8 (.v 10) true),
    (0x40418815, .fminF32 (.pred 4) 6 8 (.v 10) true),
    (0x41418815, .fminF64 (.pred 4) 6 8 (.v 10) true),
    (0x42418815, .fminH2 (.pred 4) 6 8 (.v 10) true),
    (0x43418815, .fminBH2 (.pred 4) 6 8 (.v 10) true),
    (0x44418815, .fmaxF32 (.pred 4) 6 8 (.v 10) true),
    (0x45418815, .fmaxF64 (.pred 4) 6 8 (.v 10) true),
    (0x46418815, .fmaxH2 (.pred 4) 6 8 (.v 10) true),
    (0x47418815, .fmaxBH2 (.pred 4) 6 8 (.v 10) true),
    (0x48F9C895, .fcmpF32 .always 4 .ord 8 (.s 10) true),
    (0x49F9C895, .fcmpF64 .always 4 .ord 8 (.s 10) true),
    (0x4AF9C895, .fcmpH2 .always 4 .ord 8 (.s 10) true),
    (0x4BF9C895, .fcmpBH2 .always 4 .ord 8 (.s 10) true),
    (0x4CF18014, .frcp .always 6 (.v 10)),
    (0x4DF18014, .frsq .always 6 (.v 10)),
    (0x4EF18014, .fsqrt .always 6 (.v 10)),
    (0x4FF18014, .fexp2 .always 6 (.v 10)),
    (0x50F18014, .flog2 .always 6 (.v 10)),
    (0x51F18014, .fsin .always 6 (.v 10)),
    (0x52F18014, .fcos .always 6 (.v 10)),
    (0x53F18014, .ftanh .always 6 (.v 10))] : List (Nat × Instr)), decodeTableWord 32 x.1 = some x.2 := by decide

theorem test_decode_conversions : ∀ x ∈ ([
    (0x54F18014, .cvtF32F64 .always 6 (.v 10)),
    (0x55F18094, .cvtF64F32 .always 6 (.s 10)),
    (0x56F18015, .cvtF32H2 .always 6 (.v 10) true),
    (0x57F18814, .cvtH2F32 .always 6 8 (.v 10)),
    (0x58F18015, .cvtF32Bh2 .always 6 (.v 10) true),
    (0x59F18814, .cvtBh2F32 .always 6 8 (.v 10)),
    (0x5AF18014, .cvtF32I32 .always 6 (.v 10)),
    (0x5BF18014, .cvtF32N32 .always 6 (.v 10)),
    (0x5CF18015, .cvtI32F32 .always 6 (.v 10) true),
    (0x5DF18015, .cvtN32F32 .always 6 (.v 10) true),
    (0x5EF18014, .cvtF64I32 .always 6 (.v 10)),
    (0x5FF18015, .cvtI32F64 .always 6 (.v 10) true),
    (0x60F18815, .cvtpE4m3 .always 6 8 (.v 10) true),
    (0x61F18814, .cvtpE5m2 .always 6 8 (.v 10) false),
    (0x62F18015, .cvtuE4m3 .always 6 (.v 10) true),
    (0x63F18014, .cvtuE5m2 .always 6 (.v 10) false)] : List (Nat × Instr)), decodeTableWord 32 x.1 = some x.2 := by decide

theorem test_decode_control : ∀ x ∈ ([
    (0x683FFFFF, .braAny (.pred 3) (-1)),
    (0x69F00005, .braAll .always 5),
    (0x6AF7FFFF, .braNone .always 0x7FFFF),
    (0x6BFFFFEF, .jmp (-17)),
    (0x6CF00009, .call 9),
    (0x6DF03E00, .callr 62),
    (0x6EF03800, .ret 56),
    (0x6FFE4B01, .mskand 57 11 true),
    (0x70F03D17, .mskset 61 (some 11)),
    (0x70F00C00, .mskset 12 none),
    (0x71200000, .exit (.pred 2)),
    (0xA2F0C000, .bar .team 3),
    (0xA3F0C000, .bara .team 3),
    (0xA4F0C000, .barw .team 3),
    (0xA2F1C001, .bar .cluster 7),
    (0xA4F0C002, .barw .launch 3),
    (0xA5F03E00, .spat 62),
    (0xA6F00100, .grow 256),
    (0xA7F00008, .shrnk 8)] : List (Nat × Instr)), decodeTableWord 32 x.1 = some x.2 := by decide

theorem test_decode_loads_and_stores : ∀ x ∈ ([
    (0x78F18907, .ldS8 .always 6 9 .gl 7),
    (0x79F18947, .ldN8 .always 6 9 .sh 7),
    (0x7AF18987, .ldS16 .always 6 9 .cn 7),
    (0x7BF189C7, .ldN16 .always 6 9 .lo 7),
    (0x7CF18907, .ldB32 .always 6 9 .gl 7),
    (0x7DF18947, .ldB64 .always 6 9 .sh 7),
    (0x7EF18987, .ldB128 .always 6 9 .cn 7),
    (0x7FF189C7, .stB8 .always 6 9 .lo 7),
    (0x80F18907, .stB16 .always 6 9 .gl 7),
    (0x81F18947, .stB32 .always 6 9 .sh 7),
    (0x82F18947, .stB64 .always 6 9 .sh 7),
    (0x83F189C7, .stB128 .always 6 9 .lo 7),
    (0x84518963, .ldaqB32 (.pred 5) 6 9 .sh .sys 3),
    (0x85518963, .ldaqB64 (.pred 5) 6 9 .sh .sys 3),
    (0x86518963, .strlB32 (.pred 5) 6 9 .sh .sys 3),
    (0x87518963, .strlB64 (.pred 5) 6 9 .sh .sys 3)] : List (Nat × Instr)), decodeTableWord 32 x.1 = some x.2 := by decide

theorem test_decode_system : ∀ x ∈ ([
    (0x88103FFF, .trap (.pred 1) 0x3FFF),
    (0x89F20030, .srr 8 0x30),
    (0x8AF20010, .swr 8 0x10),
    (0x8BF0FC00, .segset 3 60),
    (0x8CF00000, .eret),
    (0x8DF05400, .tlbinv .core false 20),
    (0x8DF0C001, .tlbinv .dev true 0),
    (0x8EF03E8E, .ctxsv 62 7),
    (0x8FF1FE00, .ctxld 7 62)] : List (Nat × Instr)), decodeTableWord 32 x.1 = some x.2 := by decide

theorem test_decode_across_threads : ∀ x ∈ ([
    (0x98F149D5, .shfl .always 5 9 (.s 42) true),
    (0x99F1491F, .shfli .always 5 9 .up 31),
    (0x99F1495F, .shfli .always 5 9 .down 31),
    (0x99F1499F, .shfli .always 5 9 .xor 31),
    (0x99F149DF, .shfli .always 5 9 .rot 31),
    (0x9AFF4BF8, .ptos 61 11 60 false),
    (0x9B22FD01, .stop (.pred 2) 11 61 true),
    (0x9CFBA980, .plop .always 11 10 9 8),
    (0x9DF10290, .vconf .always 4 2 (.s 8) false),
    (0x9EF18291, .vrank .always 6 2 (.s 8) true),
    (0x9FF1C206, .rsumk .always 7 2 (.v 3) false),
    (0xA0F1400D, .redi .always .add 5 (.v 6) true),
    (0xA0F1410D, .redi .always .min 5 (.v 6) true),
    (0xA0F1420D, .redi .always .max 5 (.v 6) true),
    (0xA0F1430D, .redi .always .minn 5 (.v 6) true),
    (0xA0F1440D, .redi .always .maxn 5 (.v 6) true),
    (0xA0F1450D, .redi .always .and 5 (.v 6) true),
    (0xA0F1460D, .redi .always .or 5 (.v 6) true),
    (0xA0F1470D, .redi .always .xor 5 (.v 6) true),
    (0xA1118110, .redf (.pred 1) true 6 (.v 8) false)] : List (Nat × Instr)), decodeTableWord 32 x.1 = some x.2 := by decide

theorem test_decode_records : ∀ x ∈ ([
    (0xB0F18900, .tlaunch .always 6 9 .gl),
    (0xB1F18900, .tsucc .always 6 9 .gl),
    (0xB2F1891B, .propose .always 6 9 .gl .dev .acqrel),
    (0xB3F18911, .cellrd .always 6 9 .gl .die .acq),
    (0xB4F18924, .cellwt .always 6 9 .gl .sys .sc),
    (0xB5F1890A, .cellinit .always 6 9 .gl .core .rel),
    (0xB6F18900, .cellrst .always 6 9 .gl .grp .rlx),
    (0xB7F18919, .lkacq .always 6 9 .gl .dev .acq),
    (0xB8F1891A, .lkrel .always 6 9 .gl .dev .rel),
    (0xBAF18922, .qput .always 6 9 .gl .sys .rel),
    (0xBBF18919, .qget .always 6 9 .gl .dev .acq),
    (0xB9F18900, .qrsv .always 6 9 .gl)] : List (Nat × Instr)), decodeTableWord 32 x.1 = some x.2 := by decide

theorem test_decode_atomics_and_ordering : ∀ x ∈ ([
    (0xC0F18800, .ataddI32 .always 6 8 .gl .grp .rlx),
    (0xC1F18841, .ataddI64 .always 6 8 .sh .grp .acq),
    (0xC2F1880A, .ataddF32 .always 6 8 .gl .core .rel),
    (0xC3F1884B, .atminI32 .always 6 8 .sh .core .acqrel),
    (0xC4F18814, .atmaxI32 .always 6 8 .gl .die .sc),
    (0xC5F18850, .atandB32 .always 6 8 .sh .die .rlx),
    (0xC6F18819, .atorB32 .always 6 8 .gl .dev .acq),
    (0xC7F1885A, .atxorB32 .always 6 8 .sh .dev .rel),
    (0xC8F18823, .atxchB32 .always 6 8 .gl .sys .acqrel),
    (0xC9F18864, .atxchB64 .always 6 8 .sh .sys .sc),
    (0xCAF18800, .atcasB32 .always 6 8 .gl .grp .rlx),
    (0xCBF18841, .atcasB64 .always 6 8 .sh .grp .acq),
    (0xCCF1885A, .redstF32 .always 6 8 .sh .dev .rel),
    (0xCDF0001C, .fence .dev .sc),
    (0xCEF20A1A, .publish 8 10 .dev),
    (0xCFF088C5, .pref .always .l3 8 .lo 5)] : List (Nat × Instr)), decodeTableWord 32 x.1 = some x.2 := by decide

theorem test_decode_engine_and_tx : ∀ x ∈ ([
    (0xD0FFF000, .tdef 255),
    (0xD1F01000, .tinv 1),
    (0xD2F07EC3, .tcopy 7 59 3),
    (0xD3F07EC3, .tstore 7 59 3),
    (0xD4F5D240, .mma 11 true false true 9),
    (0xD5F07EC3, .mdrain 7 59 3),
    (0xD6F3C092, .xbexp 15 9),
    (0xD7F12009, .xbwait 4 (some 9)),
    (0xD7F3C000, .xbwait 15 none),
    (0xD8F1CF01, .slotset 7 15 true),
    (0xD9F1CF00, .slotwt 7 15 false),
    (0xDAF1C994, .bufdef 7 9 10),
    (0xDAF1C001, .bufdefFree 7),
    (0xE0F0000F, .txbeg 15),
    (0xE1F00000, .txend),
    (0xE2F000FF, .txabt 255),
    (0xE3F20000, .txst 8)] : List (Nat × Instr)), decodeTableWord 32 x.1 = some x.2 := by decide

theorem test_decode_spatial : ∀ x ∈ ([
    (0xF0DE0A40, .src ⟨13, 14, 5, 2, false, false, false, false, false⟩),
    (0xF1D301C1, .snk ⟨13, 3, 0, 14, false, false, false, false, true⟩),
    (0xF2EE0620, .ctr ⟨14, 14, 3, 1, false, false, false, false, false⟩),
    (0xF30E0A50, .steer ⟨0, 14, 5, 2, true, false, false, false, false⟩),
    (0xF4010A51, .merge ⟨0, 1, 5, 2, true, false, false, false, true⟩),
    (0xF52E0A4C, .acc ⟨2, 14, 5, 2, false, true, true, false, false⟩),
    (0xF6EE0A40, .ord ⟨14, 14, 5, 2, false, false, false, false, false⟩),
    (0xF70E0A40, .conv ⟨0, 14, 5, 2, false, false, false, false, false⟩),
    (0xF8EE0A40, .rdreg ⟨14, 14, 5, 2, false, false, false, false, false⟩),
    (0xF93E01C1, .wrreg ⟨3, 14, 0, 14, false, false, false, false, true⟩),
    (0xFA3E01C0, .mtok ⟨3, 14, 0, 14, false, false, false, false, false⟩),
    (0xFB4C0A40, .dup ⟨4, 12, 5, 2, false, false, false, false, false⟩)] : List (Nat × Instr)), decodeTableWord 32 x.1 = some x.2 := by decide

theorem test_decode_alu_operator : decodeOperator 0x0701FF72#32 = .ok (.aluOperatorFire 0x07 ⟨0, 1, 127, 11, true, false, false, true, false⟩) := by decide

/-- A literal is the next word of the clause (R18); without one the word is no instruction. -/
theorem test_decode_literal : decodeWord 0x03F14000#32 (some 0xDEADBEEF#32) = .ok (.movl .always 5 0xDEADBEEF) ∧
    (decodeWord 0x23F20000#32 none).toOption = none ∧ decodeWord 0x23F20000#32 (some 1#32) = .ok (.smovl 8 1) := by decide

/-- Unassigned opcodes, reserved fields and guards that R72 to R83 exclude are refused. -/
theorem test_decode_refuses : ∀ w ∈ ([0, 0xFFF00000, 0x2FF00000, 0x64F00000, 0x90F00000, 0xFCF00000, 0x01F00001, 0x01300000, 0x07C00000,
    0x22300000, 0x21F00000, 0x04F10100, 0x30F00001, 0x05F00000, 0x1FFC0000, 0x2DF00060, 0x8BF10000, 0x89F00005, 0x8AF00000, 0xB0F00001,
    0xA6F00009, 0xD4F00000, 0xA2F00003, 0xE2F00100, 0x7CF00008, 0x9CFC0000, 0xCDF00018, 0xF0FF0000] : List Nat),
    decodeTableWord 32 w = none := by decide

/-- A header's fields, and headers that R68 refuses. -/
theorem test_decode_header : decodeHeader 0x5A0EB000#32 = .ok ⟨5, .tx, 7, 2, true, true⟩ ∧ decodeHeader 0x02000000#32 = .error .badHeader ∧
    decodeHeader 0x1C000000#32 = .error .badHeader ∧ decodeHeader 0x10000001#32 = .error .badHeader := by decide

/-! ### Well-formedness: for each check a term that it refuses -/

theorem test_ill_formed : ∀ i ∈ ([.imadw .always 63 0 (.v 0) false, .iadd64 .always 0 63 (.v 0) false, .iadd64 .always 0 0 (.s 63) true,
    .icmp .always 0 .un 0 (.v 0) false, .icmpn .always 0 .eq 63 (.v 0) true, .scmp 0 .ord 0 0 false, .faddF64 .always 63 0 (.v 0),
    .fsubF64 .always 0 63 (.v 0), .fmulF64 .always 0 0 (.v 63), .ffmaF64 .always 63 0 (.v 0) true, .fminF64 .always 0 63 (.v 0) true,
    .fmaxF64 .always 0 0 (.s 63) true, .fcmpF64 .always 0 .un 63 (.v 0) false, .cvtF32F64 .always 0 (.v 63), .cvtF64F32 .always 63 (.v 0),
    .cvtF64I32 .always 63 (.v 0), .cvtI32F64 .always 0 (.v 63) false, .cvtuE4m3 .always 63 (.v 0) false, .cvtuE5m2 .always 63 (.v 0) false,
    .callr 63, .ret 63, .mskand 58 0 false, .mskset 62 none, .ldS8 .always 0 63 .gl 0, .ldB64 .always 63 0 .sh 0, .ldB128 .always 61 0 .sh 0,
    .stB32 .always 0 63 .gl 0, .stB64 .always 63 0 .sh 0, .stB128 .always 61 0 .lo 0, .ldaqB64 .always 63 0 .sh .grp 0,
    .strlB64 .always 0 63 .gl .grp 0, .srr 63 4, .srr 0 5, .swr 0 0, .swr 63 0x38, .srr 0 0x106, .segset 0 61, .tlbinv .grp false 0,
    .tlbinv .sys true 0, .tlbinv .dev true 2, .ctxsv 63 0, .ctxld 0 63, .shfli .always 0 0 .rot 32, .ptos 62 0 0 false, .ptos 0 0 62 true,
    .stop .always 0 62 false, .redi (.pred 0) .add 0 (.v 0) true, .redf (.pred 0) false 0 (.v 0) true, .redf .always true 63 (.v 0) false,
    .bar .cluster 8, .bara .launch 4, .barw .launch 15, .spat 63, .grow 0, .grow 12, .shrnk 264, .tlaunch .always 0 63 .gl,
    .tsucc .always 0 63 .gl] : List Instr), i.wf = false := by decide

theorem test_ill_formed_records : ∀ i ∈ ([.propose .always 0 0 .gl .grp .acq, .propose .always 62 0 .gl .grp .sc, .cellrd .always 0 0 .gl .grp .rel,
    .cellwt .always 0 63 .gl .grp .acq, .cellinit .always 0 0 .gl .grp .acq, .cellrst .always 0 0 .gl .grp .acqrel, .lkacq .always 0 0 .gl .grp .rel,
    .lkrel .always 0 0 .gl .grp .acq, .qrsv .always 0 63 .gl, .qput .always 63 0 .gl .grp .rel, .qget .always 62 0 .gl .grp .acq,
    .ataddI32 .always 0 63 .gl .grp .rlx, .ataddI64 .always 63 0 .sh .grp .rlx, .atxchB64 .always 63 0 .sh .grp .rlx,
    .atcasB32 .always 63 0 .sh .grp .rlx, .atcasB64 .always 61 0 .sh .grp .rlx, .redstF32 .always 0 0 .sh .grp .acq, .fence .dev .rlx,
    .publish 0 63 .dev, .pref .always .l1 63 .gl 0, .tcopy 0 60 0, .tstore 0 60 0, .mdrain 0 60 0, .mma 0 false false false 0,
    .mma 12 false false false 0, .src ⟨15, 0, 0, 0, false, false, false, false, false⟩, .steer ⟨0, 15, 0, 0, false, false, false, false, false⟩,
    .dup ⟨0, 0, 0, 15, false, false, false, false, false⟩, .aluOperatorFire 0x09 ⟨0, 0, 0, 0, false, false, false, false, false⟩,
    .aluOperatorFire 0x21 ⟨0, 0, 0, 15, false, false, false, false, false⟩] : List Instr), i.wf = false := by decide

/-! ### Small states -/

/-- A group of core 0 that stands at the first of three NOPs, with 64 vector registers of zeros and every thread active. -/
def g1 : Machine.Group := placedGroup [0x30000000, 0x01F00000, 0x01F00000, 0x01F00000]

/-- Its team and its task, which has a handler. -/
def t1 : Team := { task := 0, lin := 0, core := ⟨0, 0⟩, groups := 1, live := 1, shLen := 65536 }
def k1 : Task :=
  { key := 0, pa := 0x10000, die := 0, entry := #v[0, 0, 0], roles := 1, shape := 65536, teams := 1, pred := 0, succ := [], done := 0
    started := 1, traph := 0x4000, tensp := 0, parent := 0, waiton := 0, state := .running, eprio := 0
    seg := Vector.replicate 4 {}, paddock := false }

/-- The state after reset with one group in focus, and with its team and task. -/
def on (g : Machine.Group) : State := { State.reset with groups := [g], focus := .group g.id }
def full (g : Machine.Group) : State := { on g with teams := [t1], tasks := [k1] }

/-- A leaf entry for frame 0 of class D that grants everything and has AC and DT set (R389). -/
def leaf : DWord := 0xC07E000000000000

/-- Core 0 with the first GiB of context 0 mapped to physical address 0 in its translation cache. -/
def c1 : Core := { id := ⟨0, 0⟩, tlb := [⟨0, 0, 2 ^ 30, leaf, 0⟩] }

/-- The group with a global segment of 1 MiB and a shared segment of 64 KiB, and with thread 0 alone active. -/
def segs : Vector Segment 4 := #v[⟨0, 0x100000⟩, ⟨0, 65536⟩, ⟨0, 0x1000⟩, ⟨0x8000, 64⟩]
def g2 : Machine.Group := { (((g1.sset 60 1).sset 61 0).sset 62 0) with seg := segs }

/-- Its state, with the core's translations. -/
def mapped (g : Machine.Group) : State := { full g with cores := [c1] }

/-- A fault record, and an outstanding load of one word into v1. -/
def r1 : FaultRec := { code := 0x05, mask := 1, addr := 0x100, widx := 15, retpc := 0, retw := 15, rp := true }
def o1 : Outst := { seq := 0, ctr := 0, kind := .load 4 false none, d := 1, dst := [.v 1] }

/-! ### Witnesses: words -/

theorem witness_IntegerValueWords : ∃ gd d rs f, intValue (.iadd (.pred 11) 63 63 (.v 63) true) = some (gd, d, rs, f) ∧
    issues (on g1) g1 (vecRegs gd ++ .v d.val :: rs) := ⟨_, _, _, _, rfl, rfl, by decide⟩

theorem witness_PairWordsWriteTheirValue : ∃ gd d rs f, pairValue (.iadd64 .always 62 62 (.s 62) true) = some (gd, d, rs, f) ∧
    issues (on g1) g1 (vecRegs gd ++ vRegs d.val 2 ++ rs) := ⟨_, _, _, _, rfl, rfl, by decide⟩

/-- s0 is 0, so that MOVX and MOVY with k = 63 reach v63, the last register of the budget. -/
theorem witness_MovesWriteTheirRegister : issues (on g1) g1 [] ∧ issues (on g1) g1 (vecRegs (.pred 0) ++ [.v 63]) ∧
    issues (on g1) g1 (vecRegs .always ++ [.v 1, .s 0, .v ((g1.sget 0).toNat + 63)]) ∧ issues (on g1) g1 [.v 63, .s 63] :=
  ⟨⟨rfl, by decide⟩, ⟨rfl, by decide⟩, ⟨rfl, by decide⟩, rfl, by decide⟩

theorem witness_ScalarWordsWriteTheirValue : ∃ d rs n f, scalarValue (.smovl 63 7) = some (d, rs, n, f) ∧
    issues (on g1) g1 (.s d.val :: rs) := ⟨_, _, _, _, rfl, rfl, by decide⟩

theorem witness_IntegerComparesWritePredicatePair : ∃ pair c rs e xy, intCompare (.icmp (.pred 3) 5 .ge 62 (.v 62) true) =
    some (pair, c, rs, e, xy) ∧ issues (on g1) g1 (maskRegs ++ pairRegs pair ++ rs) := ⟨_, _, _, _, _, rfl, rfl, by decide⟩

theorem witness_FloatSingleWordsRoundOnce : ∃ gd d rs f, floatValue (.ffmaH2 .always 1 2 (.v 3) true) = some (gd, d, rs, f) ∧
    issues (on g1) g1 (vecRegs gd ++ .v d.val :: rs) := ⟨_, _, _, _, rfl, rfl, by decide⟩

theorem witness_FloatPairWordsRoundOnce : ∃ gd d rs f, floatPair (.fmaxF64 .always 62 2 (.s 62) true) = some (gd, d, rs, f) ∧
    issues (on g1) g1 (vecRegs gd ++ vRegs d.val 2 ++ rs) := ⟨_, _, _, _, rfl, rfl, by decide⟩

theorem witness_ConversionsWriteTheirValue : (∃ gd d rs f, convertValue (.cvtI32F64 .always 1 (.v 62) true) = some (gd, d, rs, f) ∧
      issues (on g1) g1 (vecRegs gd ++ .v d.val :: rs)) ∧
    ∃ gd d rs f, convertPair (.cvtuE5m2 .always 62 (.v 0) true) = some (gd, d, rs, f) ∧ issues (on g1) g1 (vecRegs gd ++ vRegs d.val 2 ++ rs) :=
  ⟨⟨_, _, _, _, rfl, rfl, by decide⟩, _, _, _, _, rfl, rfl, by decide⟩

theorem witness_FloatComparesWritePredicatePair : ∃ F sig gd pair c rs xy, floatCompare (.fcmpF32 .always 5 .ord 1 (.v 2) true) =
    some (F, sig, gd, pair, c, rs, xy) ∧ issues (on g1) g1 (vecRegs gd ++ pairRegs pair ++ rs) := ⟨_, _, _, _, _, _, _, rfl, rfl, by decide⟩

theorem witness_SpecialFunctionsIssue : specialCall (.ftanh .always 63 (.v 63)) = some (7, .always, 63, .v 63) ∧
    issues (on g1) g1 (vecRegs .always ++ [.v 63, bReg (.v 63)]) ∧ g1.dc[g1.setc] ≠ 63 := ⟨rfl, ⟨rfl, by decide⟩, by decide⟩

/-- 0x7E00 and 0xFE01 are NaNs of FP16; 0x0001 is its least subnormal. -/
theorem witness_FormatsKeepTheirCodes : Fmt.f16.isNan 0x7E00 = true ∧ Fmt.f16.isNan 0xFE01 = true ∧
    1 < 2 ^ Fmt.f16.width ∧ Fmt.f16.isNan 1 = false := by decide

theorem witness_ShufflesReadActiveThreads : ∃ gd d a rs j, shuffleFrom (.shfli .always 0 63 .up 63) = some (gd, d, a, rs, j) ∧
    issues (on g1) g1 (vecRegs gd ++ .v d.val :: rs) := ⟨_, _, _, _, _, rfl, rfl, by decide⟩

theorem witness_PredicateWordsWriteTheirValue : issues (on g1) g1 (maskRegs ++ .p 11 :: sRegs 61 3 ++ sRegs 61 3) ∧
    issues (on g1) g1 (maskRegs ++ .p 11 :: sRegs 61 3 ++ sRegs 63 1) ∧ issues (on g1) g1 (vecRegs .always ++ .p 11 :: sRegs 61 3) ∧
    issues (on g1) g1 (vecRegs .always ++ [.p 0, .p 1, .p 11]) := ⟨⟨rfl, by decide⟩, ⟨rfl, by decide⟩, ⟨rfl, by decide⟩, rfl, by decide⟩

theorem witness_KeyedWordsAndReductions : (∃ gd d rs f, keyedValue (.vrank .always 1 2 (.v 3) true) = some (gd, d, rs, f) ∧
      issues (on g1) g1 (vecRegs gd ++ .v d.val :: rs)) ∧ issues (on g1) g1 (vecRegs .always ++ [.v 1, .v 2, bReg (.s 3)]) ∧
    issues (on g1) g1 (vecRegs .always ++ [.v 1, bReg (.s 3)]) ∧ issues (on g1) g1 (vecRegs .always ++ [.s 1, bReg (.s 3)]) ∧
    issues (on g1) g1 (vecRegs .always ++ vRegs 62 2 ++ bRegs 2 (.v 62)) ∧ issues (on g1) g1 (vecRegs .always ++ sRegs 62 2 ++ bRegs 2 (.v 62)) :=
  ⟨⟨_, _, _, _, rfl, rfl, by decide⟩, ⟨rfl, by decide⟩, ⟨rfl, by decide⟩, ⟨rfl, by decide⟩, ⟨rfl, by decide⟩, rfl, by decide⟩

/-- A value word of `g1` issues and leaves the rest (ValueWordsLeaveTheRest, WordsMoveOnToNextWordOrHeader). -/
theorem witness_ValueWordsLeaveTheRest : namedRegs (.sadd 1 2 3) = some [.s 1, .s 2, .s 3] ∧ issues (on g1) g1 [.s 1, .s 2, .s 3] ∧
    exec (.sadd 1 2 3) (on g1) = .next ((on g1).put ((g1.sset 1 0).nextWord 1)) ∧
    g1.clause.next + 1 < g1.clause.words.length ∧ g1.clause.words.length ≤ { g1 with clause := { g1.clause with next := 3 } }.clause.next + 1 :=
  ⟨rfl, ⟨rfl, by decide⟩, rfl, by decide, by decide⟩

/-! ### Witnesses: traps, control, system words -/

theorem witness_RaisedFaultEntersTheHandler : (full g1).cur = some g1 ∧ g1.inHandler = false ∧ (full g1).traph g1 ≠ 0 ∧
    (full g1).mayIssue g1 = true ∧ g1.out = [] ∧ g1.stores = [] ∧ g1.posts = [] ∧ g1.sets = [] ∧ r1.port = none ∧ r1.raw = none ∧
    r1.code < 256 ∧ r1.widx < 16 ∧ r1.retw < 16 ∧ r1.imm < 16384 ∧ ((full g1).coreD g1.id.coreId).l1s = [] := by decide

/-- A team that sleeps parks its group. -/
def asleep (g : Machine.Group) : State := { full g with teams := [{ t1 with sleep := some ⟨g.id, none, [], []⟩ }] }

theorem witness_RaisedFaultWaitsOrKills :
    let g := { g1 with out := [o1] }
    let h := { g1 with inHandler := true }
    (g.inHandler = false ∧ (full g).traph g ≠ 0 ∧ g.out ≠ []) ∧ (h.inHandler = true ∧ (full h).mayIssue h = true) ∧ (on g1).traph g1 = 0 ∧
    (on g1).mayIssue g1 = true ∧ (asleep g1).mayIssue g1 = false := by decide

/-- A trap to come, with a return point inside its clause; a delayed fault at a header. -/
theorem witness_TrapEntryAndDelayedFaults :
    let g := { g1 with status := .trapping, fault := some r1 }
    let h := { g1 with stage := .decoded, delayed := [⟨0x10, 0, 1, false⟩] }
    let k := { g1 with stage := .decoded, delayed := [⟨0x10, 0, 1, true⟩], inHandler := true }
    ((full g).group? (full g).args.group = some g ∧ (full g).mayIssue g = true ∧ g.out = [] ∧ g.stores = [] ∧ g.posts = [] ∧ g.sets = [] ∧
      r1.port = none ∧ ((full g).coreD g.id.coreId).l1s = []) ∧ ((asleep g).group? (asleep g).args.group = some g ∧ (asleep g).mayIssue g = false) ∧
    ((full h).group? (full h).args.group = some h ∧ h.status = .running ∧ h.stage ≠ .issuing ∧ h.inHandler = false ∧ h.resume = none ∧
      (full h).mayIssue h = true) ∧ (full k).group? (full k).args.group = some k ∧ k.inHandler = true ∧ (full k).mayIssue k = true := by decide

/-- In the handler, with WIDX 0 and with WIDX 15 and RP; and in that of a port fault record. -/
theorem witness_EretReturnsToTheReturnPoint :
    let h := { g1 with inHandler := true, retw := 0x1F }
    let k := { g1 with inHandler := true, retw := 0x0F }
    let q : Rig := { group := g1.id, desc := 0, phase := .running, open_ := true, recs := [⟨0, 0, 5, 0, 0, 0, 0, 0⟩] }
    let s := fun (g : Machine.Group) => { on g with cores := [{ c1 with rigs := [q] }] }
    (issues (on g1) g1 maskRegs ∧ g1.inHandler = false) ∧ issues (on h) h maskRegs ∧ h.inHandler = true ∧ h.retw.toNat % 16 ≠ 0 ∧
    h.retw.getLsbD 4 = true ∧ (∀ r ∈ ((on h).coreD h.id.coreId).rigs, r.group = h.id → r.open_ = false) ∧ g1.retw.toNat % 16 = 0 ∧
    (issues (s k) k maskRegs ∧ ((s k).coreD k.id.coreId).rigs.find? (fun x => decide (x.group = k.id) && x.open_) = some q ∧ k.retw.getLsbD 4 = false) ∧
    issues (s h) h maskRegs ∧ ((s h).coreD h.id.coreId).rigs.find? (fun x => decide (x.group = h.id) && x.open_) = some q ∧ q.recs.tail = [] := by
  decide

/-- All 96 threads pass guard 15, and none passes p0. -/
theorem witness_BranchesContinueByTheirCondition : issues (on g1) g1 (vecRegs (.pred 0)) ∧ issues (on g1) g1 (vecRegs .always) ∧
    (∃ t, t < 96 ∧ g1.on .always t = true) ∧ (∀ t, t < 96 → g1.on (.pred 0) t = false) ∧ ∀ t, t < 96 → g1.isActive t = true :=
  ⟨⟨rfl, by decide⟩, ⟨rfl, by decide⟩, ⟨0, by decide, by decide⟩, by decide, by decide⟩

theorem witness_JumpsAndCallsContinueAtTheirTarget :
    let h := g1.sset 62 2
    issues (on g1) g1 [] ∧ issues (on g1) g1 (sRegs 62 2 ++ sRegs 56 2) ∧ (g1.spair 56).toNat % 4 = 0 ∧
    issues (on h) h (sRegs 62 2 ++ sRegs 56 2) ∧ (h.spair 62).toNat % 4 ≠ 0 :=
  ⟨⟨rfl, by decide⟩, ⟨rfl, by decide⟩, by decide, ⟨rfl, by decide⟩, by decide⟩

theorem witness_MaskWordsRewriteTheMask : issues (on g1) g1 (maskRegs ++ .p 11 :: sRegs 57 3) ∧
    issues (on g1) g1 (maskRegs ++ ((some (11 : Pred)).elim [] fun x => [.p x.val]) ++ sRegs 61 3) := ⟨⟨rfl, by decide⟩, rfl, by decide⟩

/-- EXIT of all threads, and of none. -/
theorem witness_ExitRetiresThreads : issues (on g1) g1 (vecRegs .always) ∧ issues (on g1) g1 (vecRegs (.pred 1)) ∧ g1.tx = none :=
  ⟨⟨rfl, by decide⟩, ⟨rfl, by decide⟩, rfl⟩

theorem witness_TrapRaisesUserTrap : issues (on g1) g1 (vecRegs (.pred 0)) ∧ (∀ t, t < 96 → g1.on (.pred 0) t = false) ∧
    issues (on g1) g1 (vecRegs .always) ∧ ∃ t, t < 96 ∧ g1.on .always t = true :=
  ⟨⟨rfl, by decide⟩, by decide, ⟨rfl, by decide⟩, 0, by decide, by decide⟩

/-- A pair into s62, and the privileged KEY at the end of the table. -/
theorem witness_SrrReadsSpecialRegisters : (∃ ws, srrValue (on g1) g1 0x38 = some ws ∧ ws.length = 2) ∧ srrOk 0x38 62 = true ∧
    issues (on g1) g1 (sRegs 62 2) ∧ (∃ ws, srrValue (on g1) g1 0x163 = some ws) ∧ srrOk 0x163 63 = true ∧ g1.pv = true ∧
    ∃ ws, srrValue (full g1) g1 0x21 = some ws := ⟨⟨_, rfl, rfl⟩, by decide, ⟨rfl, by decide⟩, ⟨_, rfl⟩, by decide, rfl, _, rfl⟩

theorem witness_SwrWritesGroupRegisters : (∃ h, swrGroup g1 0x38 (g1.sget 62) (g1.spair 62) = some h) ∧ swrOk 0x38 62 = true ∧
    issues (on g1) g1 (sRegs 62 2) ∧ (∃ h, swrGroup g1 0x43 (g1.sget 63) 0 = some h) ∧ swrOk 0x43 63 = true ∧ issues (on g1) g1 (sRegs 63 1) :=
  ⟨⟨_, rfl⟩, by decide, ⟨rfl, by decide⟩, ⟨_, rfl⟩, by decide, rfl, by decide⟩

/-- s0 names the group's own task, s63 another. -/
theorem witness_SwrPrivilegedRegistersAct : g1.pv = true ∧ issues (on g1) g1 [.s 0] ∧ g1.task / 2 ^ 32 * 2 ^ 32 + (g1.sget 0).toNat = g1.task ∧
    issues (on g1) g1 [.s 63] ∧ g1.task / 2 ^ 32 * 2 ^ 32 + (g1.sget 63).toNat ≠ g1.task :=
  ⟨rfl, ⟨rfl, by decide⟩, by decide, ⟨rfl, by decide⟩, by decide⟩

/-- A limit of 524,288 fits, one of 524,289 does not. -/
theorem witness_SegsetWritesASegment :
    let g := (g1.sset 2 0x80000)
    let h := (g1.sset 2 0x80001)
    g.pv = true ∧ g.tx = none ∧ issues (on g) g (sRegs 0 4) ∧ ¬ 524288 < (g.spair 0).toNat + (g.spair 2).toNat ∧ (g.spair 0).toNat % 16 = 0 ∧
    issues (on h) h (sRegs 0 4) ∧ 524288 < (h.spair 0).toNat + (h.spair 2).toNat :=
  ⟨rfl, rfl, ⟨rfl, by decide⟩, by decide, by decide, ⟨rfl, by decide⟩, by decide⟩

/-- A group of 8 registers parked in slot 1, and a saved area of a group of 8 registers at offset 0. -/
def parked : Machine.Group := { g2 with id := ⟨0, 0, 1⟩, status := .trapping, v := g1.v.take 8 }
def twoGroups : State := { mapped g2 with groups := [g2, parked], mem := [⟨8, 8⟩] }

set_option maxRecDepth 40000 in
theorem witness_ContextAndTlbWordsAct : g2.pv = true ∧ g2.tx = none ∧ g2.dc[g2.setc] ≠ 63 ∧ issues twoGroups g2 (sRegs 2 2 ++ [.s 63]) ∧
    twoGroups.ctxTarget g2 (g2.sget 63) = some parked ∧ twoGroups.targetBusy g2 (g2.sget 63) = false ∧
    (twoGroups.ctxTarget g2 (g2.sget 2) = none ∧ twoGroups.targetBusy g2 (g2.sget 2) = false) ∧
    { twoGroups with groups := [g2, { parked with out := [o1] }] }.targetBusy g2 (g2.sget 63) = true ∧
    (∃ ps t, twoGroups.areaAccess g2 (g2.spair 2) (1024 + 384 * parked.v.length) 1024 .store = (.ok ps, t) ∧
      t.piecesOwnable g2.id.die ps = true ∧ ((t.dropRig parked.id).vacate parked.id).linkLost ps = false ∧
      ∃ g', (((t.dropRig parked.id).vacate parked.id).group? g2.id) = some g') ∧
    ∃ hd bs ps qs t u, twoGroups.areaAccess g2 (g2.spair 2) 1024 1024 .load = (.ok ps, t) ∧ t.readArea g2 ps = some hd ∧ areaBad hd = false ∧
      t.areaAccess g2 (g2.spair 2) (areaSize (areaWord hd 8).toNat) 1024 .load = (.ok qs, u) ∧ u.readArea g2 qs = some bs :=
  ⟨rfl, rfl, by decide, ⟨rfl, by decide⟩, rfl, by decide, by decide, by decide, ⟨_, _, rfl, rfl, rfl, _, rfl⟩, _, _, _, _, _, _, rfl, rfl, by decide, rfl, rfl⟩

/-! ### Witnesses: memory words and performed accesses -/

/-- The last four bytes of the segment pass, the next offset does not. -/
theorem witness_SharedAccessesAreChecked : (mapped g2).clusterSize g2 = 1 ∧ (g2.seg[1].limit.toNat < 65533 % 524288 + 4 ∧ 65533 < 2 ^ 24) ∧
    (65532 % 524288 + 4 ≤ g2.seg[1].limit.toNat ∧ 65532 / 524288 = g2.lin % (mapped g2).clusterSize g2 ∧ 65532 % 4 = 0) ∧
    (65530 + 4 ≤ g2.seg[1].limit.toNat ∧ 65530 % 4 ≠ 0) ∧ (mapped g2).clusterSize g2 ≤ 524288 / 524288 := by decide

/-- The segment's last word, one past it, a misaligned word, and a write to the constant segment. -/
theorem witness_GlobalAccessesAreChecked :
    let va := fun (o : Nat) => g2.seg[0].base.toNat + o
    g2.seg[0].limit.toNat < 0xFFFFD + 4 ∧ (0xFFFFC + 4 ≤ g2.seg[0].limit.toNat ∧ canonical (va 0xFFFFC) = true ∧ va 0xFFFFC % 4 = 0) ∧
    (0xFFFFA + 4 ≤ g2.seg[0].limit.toNat ∧ canonical (va 0xFFFFA) = true ∧ va 0xFFFFA % 4 ≠ 0) ∧ Need.store.writes = true := by decide

/-- The core whose cached page lies in host memory, with the host port up, and one whose page has no cell attribute. -/
def onHost : State := { mapped g2 with cores := [{ c1 with tlb := [⟨0, 0, 2 ^ 30, 0xC07E008000000000, 0⟩] }], hostLink := { state := .up } }
def noCells : State := { mapped g2 with cores := [{ c1 with tlb := [⟨0, 0, 2 ^ 30, 0xC03E000000000000, 0⟩] }] }

theorem witness_RecordAddressesAreChecked : g2.offset .gl 2 0 0 + 32 ≤ g2.seg[0].limit.toNat ∧ canonical 0 = true ∧ Seg.sh ≠ .gl ∧
    (∃ p u y z, (mapped g2).xlatPiece g2 0 32 .both = (.ok p, u) ∧ u.translate g2.id.coreId g2.ctx 0 .both false = (.ok y, z) ∧ y.cells = true) ∧
    (∃ p u x, onHost.xlatPiece g2 0 32 .both = (.ok p, u) ∧ p.spot = .pa x ∧ isHost x = true) ∧
    ∃ p u y z, noCells.xlatPiece g2 0 32 .both = (.ok p, u) ∧ u.translate g2.id.coreId g2.ctx 0 .both false = (.ok y, z) ∧ y.cells = false :=
  ⟨by decide, by decide, by decide, ⟨_, _, _, _, rfl, rfl, rfl⟩, ⟨_, _, _, rfl, rfl, by decide⟩, _, _, _, _, rfl, rfl, rfl⟩

theorem witness_LoadsIssue : ∃ f ts u, loadForm (.ldB128 .always 60 62 .gl 7) = some f ∧
    issues (mapped g2) g2 (vecRegs f.gd ++ vRegs f.d.val f.regs ++ addrRegs f.seg f.a) ∧ g2.dc[g2.setc] ≠ 63 ∧ (mapped g2).shFull g2.id.coreId = false ∧
    g2.fence = [] ∧ g2.tx = none ∧
    checkThreads (plainCheck g2 f.seg f.a f.off f.size .load fun _ => []) (g2.enabled f.gd) (mapped g2) = (ts, [], u) :=
  ⟨_, _, _, rfl, ⟨rfl, by decide⟩, by decide, by decide, rfl, rfl, rfl⟩

theorem witness_StoresIssue : ∃ f ts u, storeForm (.strlB64 .always 62 62 .gl .sys 7) = some f ∧
    issues (mapped g2) g2 (vecRegs f.gd ++ vRegs f.d.val f.regs ++ addrRegs f.seg f.a) ∧
    checkThreads (plainCheck g2 f.seg f.a f.off f.size .store (dataWords g2 f.d.val f.regs)) (g2.enabled f.gd) (mapped g2) = (ts, [], u) :=
  ⟨_, _, _, rfl, ⟨rfl, by decide⟩, rfl⟩

theorem witness_AtomicsIssue : (∃ gd d a seg sc mo op size n ts u, atomForm (.atcasB64 .always 60 63 .sh .core .acq) =
      some (gd, d, a, seg, sc, mo, op, size, n) ∧ issues (mapped g2) g2 (vecRegs gd ++ vRegs d.val n ++ addrRegs seg a) ∧
      checkThreads (atomCheck g2 seg a op size (dataWords g2 d.val n)) (g2.enabled gd) (mapped g2) = (ts, [], u)) ∧
    issues (mapped g2) g2 (vecRegs .always ++ .v 1 :: addrRegs .gl 62) ∧
    ∃ ts u, checkThreads (atomCheck g2 .gl 62 .addF32 4 (dataWords g2 1 1)) (g2.enabled .always) (mapped g2) = (ts, [], u) :=
  ⟨⟨_, _, _, _, _, _, _, _, _, _, _, rfl, ⟨rfl, by decide⟩, rfl⟩, ⟨rfl, by decide⟩, _, _, rfl⟩

theorem witness_RecordWordsIssueAndHold : (∃ gd d a seg kind n m size ts u, recordForm (.propose .always 61 62 .gl .dev .sc) =
      some (gd, d, a, seg, kind, n, m, size) ∧ issues (mapped g2) g2 (vecRegs gd ++ vRegs d.val n ++ addrRegs seg a) ∧
      checkThreads (homeCheck g2 seg a size true (dataWords g2 d.val n)) (g2.enabled gd) (mapped g2) = (ts, [], u)) ∧ g2.wait = none :=
  ⟨⟨_, _, _, _, _, _, _, _, _, _, rfl, ⟨rfl, by decide⟩, rfl⟩, rfl⟩

/-- A waiting word outside a handler takes a restored set of satisfied threads, and none of them is left to perform. -/
theorem witness_SatisfiedSetsAreTaken : let g := { g2 with sat := 1 }
    ∃ gd d a seg kind n m size u, recordForm (.lkacq .always 1 62 .gl .dev .acq) = some (gd, d, a, seg, kind, n, m, size) ∧
      issues (mapped g) g (vecRegs gd ++ vRegs d.val n ++ addrRegs seg a) ∧ kind.waits = true ∧ g.inHandler = false ∧
      checkThreads (homeCheck g seg a size true (dataWords g d.val n)) ((g.enabled gd).filter fun t => !maskBit g.sat t) (mapped g) = ([], [], u) :=
  ⟨_, _, _, _, _, _, _, _, _, rfl, ⟨rfl, by decide⟩, rfl, rfl, rfl⟩

/-- A PUBLISH of no bytes and one of the whole segment. -/
theorem witness_OrderingWordsIssue :
    let g := g2.sset 8 0x100000
    issues (mapped g2) g2 (.s 8 :: sRegs 10 2) ∧ (g2.sget 8).getLsbD 31 = false ∧ (g2.sget 8).toNat = 0 ∧ g2.fence = [] ∧ g2.tx = none ∧
    issues (mapped g) g (.s 8 :: sRegs 10 2) ∧ (g.spair 10).toNat + (g.sget 8).toNat = g.seg[0].limit.toNat ∧ canonical (0 + 0x100000 - 1) = true ∧
    issues (mapped g2) g2 (vecRegs .always ++ addrRegs .lo 63) :=
  ⟨⟨rfl, by decide⟩, by decide, by decide, rfl, rfl, ⟨rfl, by decide⟩, by decide, by decide, rfl, by decide⟩

/-- Thread 0's access of the last word of the core's shared store. -/
def atBank : Target := ⟨0, 65532, [⟨.sh 0 0 524284, 4, .d, none⟩], []⟩

theorem witness_BankReadReturnsTheBytes :
    let o : Outst := { o1 with todo := [atBank] }
    let g := { g2 with out := [o] }
    (mapped g).due = some (g, o, atBank) ∧ o.kind = .load 4 false none ∧ g.stores = [] ∧ g.tx = none ∧
    (mapped g).blocked g o.seq atBank.thread atBank.pieces true false = false ∧ (mapped g).poison = [] := ⟨rfl, rfl, rfl, rfl, by decide, rfl⟩

theorem witness_BankWriteChangesExactlyItsBytes : ∀ add ∈ [true, false],
    let x : StoreReq := ⟨0, 0, 65532, [(⟨.sh 0 0 524284, 4, .d, none⟩, [1, 2, 3, 4])], none, add, []⟩
    let g := { g2 with stores := [x] }
    (mapped g).group? (mapped g).args.group = some g ∧ g.storeReq? (mapped g).args.k (mapped g).args.t = some x ∧
    (mapped g).blocked g x.seq x.thread x.pieces false false = false ∧ ∀ k ∈ (mapped g).cores, k.shared.wf = true := by decide

/-- A store to the last byte of the device's memory. -/
theorem witness_StorePerformChangesExactlyItsBytes :
    let pa := 0xC000000000 - 1
    let x : StoreReq := ⟨0, 0, 0, [(⟨.pa pa, 1, .u, none⟩, [7])], none, false, []⟩
    let g := { g2 with stores := [x] }
    (mapped g).group? (mapped g).args.group = some g ∧ g.storeReq? (mapped g).args.k (mapped g).args.t = some x ∧
    (mapped g).blocked g x.seq x.thread x.pieces false false = false ∧ isHbm pa = true ∧ pa % 128 + 1 ≤ 128 ∧
    (mapped g).writable g.id.coreId ⟨.pa pa, 1, .u, none⟩ = true ∧ (mapped g).mem.wf = true :=
  ⟨by decide, by decide, by decide, by decide, by decide, by decide, by decide⟩

theorem witness_BankAtomicReadsModifiesWrites : ∀ op ∈ [AtomOp.cas, .fetchAdd],
    let t : Target := { atBank with args := if op = .cas then [0, 9] else [9] }
    let o : Outst := { o1 with kind := .atomic op 4 .core .rlx, todo := [t] }
    let g := { g2 with out := [o] }
    (mapped g).due = some (g, o, t) ∧ (mapped g).blocked g o.seq t.thread t.pieces false false = false ∧ (mapped g).poison = [] ∧
    (∀ k ∈ (mapped g).cores, k.shared.wf = true) ∧ g.tx = none ∧ g.out.find? (fun z => z.seq = o.seq) = some o := by decide

/-! ### Witnesses: every word's checks at issue -/

/-- With 8 registers v7 is inside the budget and v8 is beyond it; a register that o1 writes is pending; and forms of a memory word,
an engine word, a privileged word and SPAT that nothing stalls. -/
theorem witness_BudgetAndHazardTrapAtIssue :
    let g := { g1 with v := g1.v.take 8 }
    let h := { g1 with pending := [⟨.v 63, 0, 0⟩, ⟨.s 5, 0, 0⟩] }
    (∃ f, issueForm (on g) g (.iadd .always 8 7 (.v 7) false) = some f ∧ (on g).cur = some g ∧ unstalled (on g) g f ∧ (f.priv = true → g.pv = true) ∧
      ∃ r ∈ f.regs, g.beyond r = true) ∧
    (∃ f, issueForm (on h) h (.ldB32 .always 1 63 .sh 0) = some f ∧ (on h).cur = some h ∧ unstalled (on h) h f ∧ (f.priv = true → h.pv = true) ∧
      (∀ r ∈ f.regs, h.beyond r = false) ∧ ∃ r ∈ f.regs, h.isPending r = true) ∧
    (∃ f, issueForm (on h) h (.mma 4 true false false 5) = some f ∧ unstalled (on h) h f ∧ ∃ r ∈ f.regs, h.isPending r = true) ∧
    (∃ f, issueForm (on h) h (.segset 0 2) = some f ∧ unstalled (on h) h f ∧ h.pv = true ∧ ∃ r ∈ f.regs, h.isPending r = true) ∧
    ∃ f, issueForm (on h) h (.spat 4) = some f ∧ unstalled (on h) h f ∧ ∃ r ∈ f.regs, h.isPending r = true :=
  ⟨⟨_, rfl, rfl, ⟨nofun, nofun, nofun, rfl⟩, nofun, by decide⟩, ⟨_, rfl, rfl, ⟨fun _ => by decide, fun _ => rfl, fun _ => by decide, rfl⟩, nofun, by decide, by decide⟩,
   ⟨_, rfl, ⟨fun _ => by decide, nofun, nofun, by decide⟩, by decide⟩, ⟨_, rfl, ⟨nofun, nofun, nofun, rfl⟩, rfl, by decide⟩,
   _, rfl, ⟨nofun, fun _ => rfl, nofun, rfl⟩, by decide⟩

theorem witness_PrivilegedWordsTrapInUserMode :
    let g := { g1 with pv := false }
    (∃ f, issueForm (on g) g (.swr 1 0x162) = some f ∧ f.priv = true ∧ unstalled (on g) g f) ∧
    (∃ f, issueForm (on g) g (.tlbinv .dev true 0) = some f ∧ f.priv = true ∧ unstalled (on g) g f) ∧
    (∃ f, issueForm (on g) g (.ctxsv 2 4) = some f ∧ f.priv = true ∧ unstalled (on g) g f) ∧ (on g).cur = some g ∧ g.pv = false :=
  ⟨⟨_, rfl, rfl, nofun, nofun, nofun, rfl⟩, ⟨_, rfl, rfl, fun _ => by decide, nofun, nofun, rfl⟩,
   ⟨_, rfl, rfl, fun _ => by decide, nofun, nofun, by decide⟩, rfl, rfl⟩

/-- A group whose segments have no bytes: thread 0 fails in a load, a store, an atomic, a REDST and a record word. -/
def gNone : Machine.Group := { g2 with seg := Vector.replicate 4 ⟨0, 0⟩ }

/-- The failing threads of a word's accesses, with their fault. -/
def failing (i : Instr) : Option (List Nat × List Bool × Nat) :=
  (accessForm gNone i).map fun (gd, f) => let y := checkThreads f.check (gNone.enabled gd) (mapped gNone)
    (y.2.1.map Failed.thread, y.2.1.map (fun x => match x.why with | .fault _ _ => true | _ => false), y.2.2.migrations.length)

theorem witness_FailingThreadsTrapTogether : (mapped gNone).shFull gNone.id.coreId = false ∧ gNone.dc[gNone.setc] ≠ 63 ∧ gNone.fence = [] ∧
    gNone.tx = none ∧ gNone.sat = 0 ∧ gNone.hsat = 0 ∧ ∀ i ∈ [Instr.ldS8 .always 1 2 .sh 0, .strlB64 .always 62 62 .gl .sys 7, .atcasB64 .always 60 63 .sh .core .acq,
        .redstF32 .always 1 62 .gl .dev .rel, .propose .always 61 62 .gl .dev .sc],
      failing i = some ([0], [true], 0) ∧ ∃ gd f, accessForm gNone i = some (gd, f) ∧ issues (mapped gNone) gNone f.regs := by
  refine ⟨by decide, by decide, rfl, rfl, rfl, rfl, ?_⟩
  intro i hi
  simp only [List.mem_cons, List.not_mem_nil, or_false] at hi
  rcases hi with rfl | rfl | rfl | rfl | rfl <;> exact ⟨by decide, _, _, rfl, rfl, by decide⟩

/-- A group in a transaction that nothing stalls, at words that abort it with each cause. -/
theorem witness_WordsAbortTheirTransaction :
    let g := { g1 with tx := some { abortHdr := 0x100, mask := 1 } }
    (∃ t, g.tx = some t ∧ t.seen = none) ∧ g.out = [] ∧
    ∀ i ∈ [Instr.bar .cluster 0, .tlaunch .always 1 2 .gl, .spat 4, .tdef 0, .publish 1 2 .dev, .segset 0 4, .txbeg 0, .exit .always],
      ∃ cause f, abortCause (full g) g i = some cause ∧ issueForm (full g) g i = some f ∧ issues (full g) g f.regs ∧
        unstalled (full g) g f ∧ g.pv = true := by
  refine ⟨⟨_, rfl, rfl⟩, rfl, ?_⟩
  intro i hi
  simp only [List.mem_cons, List.not_mem_nil, or_false] at hi
  rcases hi with rfl | rfl | rfl | rfl | rfl | rfl | rfl | rfl <;>
    exact ⟨_, _, rfl, rfl, ⟨rfl, by decide⟩, ⟨fun _ => by decide, fun _ => rfl, nofun, rfl⟩, rfl⟩

/-! ### Witnesses: clauses, selection, barriers, the pool -/

theorem witness_StepRunsDecodedWord :
    let w : Word := 0x07000012
    let s : State := { on g1 with cores := [{ c1 with rigs := [placedRig w] }] }
    ((on g1).group? g1.id = some g1 ∧ g1.status = .running ∧ g1.stage = .issuing ∧ g1.turn = true ∧ g1.tx = none ∧ (on g1).mayIssue g1 = true ∧ g1.lateMask = 0 ∧ (on g1).rig? g1.id = none ∧
      decodeWord (g1.clause.words.getD g1.clause.next 0) g1.clause.words[g1.clause.next + 1]? = .ok .nop ∧ (on g1).schedule = [] ∧
      (on g1).focus = .group g1.id) ∧
    s.rig? ⟨0, 0, 0⟩ = some (placedRig w) ∧ ∃ b i, (placedRig w).block = some b ∧ decodeOperator (b.ops.getD 0 0) = .ok i :=
  ⟨by decide, rfl, _, _, rfl, rfl⟩

set_option maxRecDepth 40000 in
/-- A RECLAIM that is scheduled writes a line that the host holds, so the step does not perform it. -/
theorem witness_StepsWaitForTheHostsLines :
    let n : State := { State.reset with tasks := [{ k1 with key := 2, state := .killed }], dir := [⟨0x10000, [], true⟩], mem := [(0x10048, 5)], args := { task := 2 } }
    ∃ t, exec .reclaim n = .next t ∧ hostOwn .reclaim = false ∧ hostLines n t ≠ [] ∧ hostLines n n = [] :=
  ⟨_, rfl, rfl, by decide, rfl⟩

/-- A header that names one word, both in the core's instruction cache; and a state in which nothing is mapped. -/
theorem witness_ClausesAreFetchedWordByWord :
    let g := { g2 with stage := .header }
    let s : State := { mapped g with cores := [{ c1 with icache := [(0, 0x10000000#32), (4, 0x01F00000#32)] }] }
    s.group? s.args.group = some g ∧ g.status = .running ∧ g.tx = none ∧ g.delayed = [] ∧ s.mayStart g = true ∧
    (0x10000000#32).toNat / 2 ^ 28 = 1 ∧ s.fetchWord g (g.pc + BitVec.ofNat 64 0) = (.ok 0x10000000#32, s) ∧
    s.fetchWord g (g.pc + BitVec.ofNat 64 4) = (.ok 0x01F00000#32, s) ∧ ∃ code addr, (full g).fetchWord g (g.pc + BitVec.ofNat 64 0) = (.error (.fault code addr), full g) :=
  ⟨rfl, rfl, rfl, rfl, by decide, by decide, rfl, rfl, _, _, rfl⟩

/-- One NOP; a header of zeros; and a word of zeros. -/
theorem witness_ClausesAreCheckedAtDecode :
    let g := fun (h w : Word) => { g1 with stage := .fetched, clause := { addr := 0, words := [h, w], next := 1 } }
    ((on (g 0x10000000 0x01F00000)).group? (on (g 0x10000000 0x01F00000)).args.group = some (g 0x10000000 0x01F00000) ∧ g1.resume = none ∧
      ∃ x, decodeHeader 0x10000000#32 = .ok x ∧ goodWords x.cls [0x01F00000]) ∧
    (∃ e, decodeHeader 0#32 = .error e) ∧ ∃ x e, decodeHeader 0x10000000#32 = .ok x ∧ decodeWord ([0#32].getD 0 0) [0#32][1]? = .error e :=
  ⟨⟨rfl, rfl, _, rfl, .nop, rfl, rfl, .inl rfl⟩, ⟨_, rfl⟩, _, _, rfl, rfl⟩

/-- A decoded clause with WAIT bit 7: dc7 zero, dc7 not zero, late threads under dc7, a return point. -/
theorem witness_ClausesStartWhenTheirWaitIsMet :
    let g := { g1 with stage := .decoded, clause := { addr := 0, words := [0x11000000, 0x01F00000], next := 1 } }
    let h := { g with dc := g.dc.set 7 1 }
    let l := { g with lateMask := 1, lateCtrs := [7], lateRec := some (6, 0x100) }
    let k := { g with lateMask := 1, faultCode := 0x40000008 }
    let a := { g with acqCtrs := [7] }
    ((on g).group? (on g).args.group = some g ∧ g.status = .running ∧ g.turn = true ∧ (on g).mayStart g = true ∧ g.resume = none ∧ g.delayed = [] ∧
      (∀ c : Fin 8, g.waitMask.getLsbD c.val = true → g.dc[c] = 0) ∧ g.serial = none ∧ g.lateMask = 0) ∧
    (h.waitMask.getLsbD 7 = true ∧ h.dc[7] ≠ 0) ∧ ((∃ k ∈ l.lateCtrs, l.waitMask.getLsbD k.val = true) ∧ l.lateMask ≠ 0) ∧
    (k.lateMask ≠ 0 ∧ k.lateCtrs = [] ∧ k.lateRec = none ∧ { k with lateRec := some (6, 0x100) }.lateRec = some (6, 0x100)) ∧ (∃ c ∈ a.acqCtrs, a.waitMask.getLsbD c.val = true) ∧
    (∃ i, { g with resume := some ⟨1, true, 5⟩ }.resume = some ⟨1, true, 5⟩ ∧ decodeWord (g.clause.words.getD 1 0) g.clause.words[1 + 1]? = .ok i) :=
  ⟨by decide, by decide, by decide, by decide, by decide, _, rfl, rfl⟩

theorem witness_SelectionTakesTheNextEligibleGroup :
    let g := { g1 with turn := false, id := ⟨0, 0, 15⟩ }
    let h := { g1 with turn := false }
    let s : State := { on g with groups := [g, h] }
    g ∈ s.groups ∧ (s.groups.map (·.id)).Nodup ∧ g.id.coreId = s.args.core ∧ g.id.quad = s.args.n ∧ s.eligible g = true ∧ s.eligible h = true ∧
    (s.coreD s.args.core).cur[s.args.n]?.getD 0 = 0 ∧ h.id.slot + 31 = 31 ∧ (15 + (31 - 0 % 16)) % 16 < (0 + (31 - 0 % 16)) % 16 := by decide

theorem witness_ResultsAreWrittenForTheirThreads :
    let o : Outst := { o1 with res := [(0, [5]), (95, [6])], late := [(1, 0x09, 0)] }
    let g := { g1 with out := [o] }
    (on g).group? (on g).args.group = some g ∧ g.status = .running ∧
    g.out.find? (fun x => x.seq = (on g).args.k ∧ x.ready = true ∧ x.todo = [] ∧ x.held = []) = some o ∧ o.dst = vRegs o.d 1 ∧
    (o.res.map Prod.fst).Nodup ∧ (∀ r ∈ o.res, r.2.length = 1) ∧ (∀ l ∈ o.late, l.2.1 ≠ 0x0E ∧ l.2.1 ≠ 0x14) ∧ o.d + 1 ≤ g.v.length := by decide

theorem witness_GroupEndGivesTheSlotBack :
    let g := { g1 with status := .ending }
    let u := { t1 with groups := 16, live := 0x8001 }
    let s : State := { full g with teams := [u] }
    s.group? s.args.group = some g ∧ g.out = [] ∧ g.stores = [] ∧ g.posts = [] ∧ g.sets = [] ∧ g.lateMask = 0 ∧ (s.coreD g.id.coreId).l1s = [] ∧ s.team? g.task g.lin = some u ∧
    g.gidx < 16 ∧ (s.teams.map fun x => (x.task, x.lin)).Nodup ∧ 15 ≠ g.gidx ∧ u.live.getLsbD 15 = true := by decide

/-- With group 0 alone the arrival completes the phase; with group 15 live too it does not. -/
theorem witness_TeamBarrierArrivals :
    let u := { t1 with groups := 16, live := 0x8001 }
    let s : State := { full g1 with teams := [u] }
    issues (full g1) g1 [] ∧ (full g1).teamOf g1 = some t1 ∧ (full g1).task? g1.task = some k1 ∧
    (∀ i, i < 16 → t1.live.getLsbD i = true → i = g1.gidx ∨ i ∈ (t1.bars[15]).arrived) ∧ g1.arrivals = [] ∧ g1.status = .running ∧ g1.wait = none ∧
    issues s g1 [] ∧ s.teamOf g1 = some u ∧ u.live.getLsbD 15 = true ∧ 15 ≠ g1.gidx ∧ 15 ∉ (u.bars[15]).arrived :=
  ⟨⟨rfl, by decide⟩, rfl, rfl, by decide, rfl, rfl, rfl, ⟨rfl, by decide⟩, rfl, by decide⟩

theorem witness_WideBarrierArrivals : ∀ lv ∈ [BarLevel.cluster, .launch],
    let u := { t1 with groups := 16, live := 0x8001 }
    let s : State := { full g1 with teams := [u] }
    let w := s.wideOf g1.task (if lv = .cluster then some (g1.lin / k1.k) else none) 3
    lv ≠ .team ∧ (∀ r ∈ ([] : List PReg), g1.beyond r = false) ∧ (s.coreD g1.id.coreId).l1s = [] ∧ s.ready = [] ∧
    (∀ v ∈ s.startedTeams g1.task, v.live.getLsbD 15 = true ∧ (v.lin, 15) ∉ (g1.lin, g1.gidx) :: w.groups) ∧ w.bar.arrived.length < s.wideMembers k1 w := by
  decide

/-- An arrival that counts, and none; held in its phase with the arrival still counted, and forgotten. -/
theorem witness_BarrierWaitsAndReleases :
    let g := { g1 with arrivals := [(.team, 15, 7)] }
    let w : Wait := { kind := .phase .team 15 7 }
    let h := { g with status := .held, wait := some w }
    let k := { g1 with status := .held, wait := some w }
    issues (on g) g [] ∧ g.arrivals.find? (fun a => a.1 = .team ∧ a.2.1 = 15) = some (.team, 15, 7) ∧ issues (on g1) g1 [] ∧ g1.arrivals = [] ∧
    ((on h).group? (on h).args.group = some h ∧ ∃ a ∈ h.arrivals, a.1 = .team ∧ a.2.1 = 15) ∧ (on k).group? (on k).args.group = some k ∧ k.arrivals = [] ∧
    ((full g).teamOf g = some t1 ∧ issues (full g) g []) :=
  ⟨⟨rfl, by decide⟩, rfl, ⟨rfl, by decide⟩, rfl, ⟨rfl, by decide⟩, rfl, rfl, rfl, rfl, by decide⟩

/-- A posted arrival whose load is not done and one whose accesses are; and a group held for its next arrival whose team sleeps. -/
theorem witness_BarrierPosts :
    let g := { g1 with posts := [(.team, 15, 1)], seq := 1 }
    let h := { g with out := [{ o1 with todo := [atBank] }] }
    let k := { g1 with status := .held, wait := some { kind := .arrive .team 15 true } }
    ((on g).group? (on g).args.group = some g ∧ g.settledBefore 1 = true ∧ ((on g).coreD g.id.coreId).l1s = []) ∧
    ((on h).group? (on h).args.group = some h ∧ h.settledBefore 1 = false) ∧ (issues (on { h with posts := [] }) { h with posts := [] } [] ∧
      { h with posts := [] }.settled = false) ∧ (asleep k).group? (asleep k).args.group = some k ∧ (asleep k).mayIssue k = false := by decide

/-- A budget of 64: GROW to 56, 64 and 72, SHRNK to 72, to 56 with v63 pending, and to 56; a granted and a waiting request. -/
theorem witness_BudgetWordsAndThePool :
    let p := { g1 with pending := [⟨.v 63, 0, 0⟩] }
    let h := { g1 with status := .held, wait := some { kind := .grow 72 } }
    let s := fun (b : Nat) => { on h with cores := [{ c1 with pool := [.grow h.id b] }] }
    issues (on g1) g1 [] ∧ g1.tx = none ∧ (56 : Nat) < g1.v.length ∧ (64 : Nat) = g1.v.length ∧ g1.v.length < (72 : Nat) ∧
    (issues (on p) p [] ∧ 56 ≤ 63 ∧ 63 < p.v.length ∧ p.isPending (.v 63) = true) ∧ (∀ m, 56 ≤ m → m < g1.v.length → g1.isPending (.v m) = false) ∧
    ((s 72).coreD h.id.coreId).pool = [.grow h.id 72] ∧ (s 72).group? h.id = some h ∧ h.v.length ≤ 72 ∧
    3 * (72 - h.v.length) / 8 ≤ (s 72).freeGranules h.id.coreId h.id.quad ∧
    (s 4096).freeGranules h.id.coreId h.id.quad < 3 * (4096 - h.v.length) / 8 :=
  ⟨⟨rfl, by decide⟩, rfl, by decide, by decide, by decide, ⟨⟨rfl, by decide⟩, by decide⟩, fun _ _ _ => rfl, rfl, rfl, by decide⟩

theorem witness_SpatParksItsGroup :
    let g := { g1 with out := [o1] }
    issues (on g1) g1 (sRegs 62 2) ∧ g1.fence = [] ∧ g1.out = [] ∧ issues (on g) g (sRegs 62 2) ∧ g.out ≠ [] :=
  ⟨⟨rfl, by decide⟩, rfl, rfl, ⟨rfl, by decide⟩, by decide⟩

/-! ### Witnesses: records at their home, tasks, teams, waits -/

/-- One thread's operation on the record at address 0 of the device, of a group whose one outstanding word it is. -/
def atRecord (args : List Word) (size : Nat) : Target := ⟨0, 0, [⟨.pa 0, size, .d, none⟩], args⟩
def asks (kind : LLKind) (t : Target) : Outst := { seq := 0, ctr := 0, kind := kind, d := 1, todo := [t] }
def home (o : Outst) (mem : Memory) : State := { mapped { g2 with out := [o] } with mem := mem }

theorem witness_AtHome (kind : LLKind) (args : List Word) (size : Nat) (mem : Memory) :
    AtHome (home (asks kind (atRecord args size)) mem) { g2 with out := [asks kind (atRecord args size)] } (asks kind (atRecord args size))
      (atRecord args size) kind 0 size where
  due := rfl
  kind := rfl
  place := ⟨_, rfl⟩
  device := by decide
  first := by intro x hx; simp only [asks, List.mem_singleton] at hx; rw [hx]
  none := rfl
  only := rfl
  stores := rfl
  plain := rfl
  clean := rfl
  supplied := rfl
  l1 := rfl
  copies := rfl
  dieCopies := rfl
  line := rfl

/-- An EMPTY cell of generation 1 and OWNER 0, a DECIDED one, and the memories of a lock that is held and of a RESERVED entry. -/
theorem witness_RecordsAtHome (o : Outst) : (home o [(8, 1)]).paBytes 0 32 = cellBytes 0 1 0 0 ∧
    (home o [(0, 9), (8, 1), (16, 1)]).paBytes 0 32 = cellBytes 9 1 0 1 ∧ (home o [(0, 5), (4, 1)]).paBytes 0 8 = lockBytes false 1 5 ∧
    (home o [(7, 128)]).paBytes 0 8 = lockBytes true 0 0 ∧ (home o [(12, 1)]).paBytes 0 16 = entryBytes 0 0 1 ∧
    (home o [(12, 3)]).paBytes 0 16 = entryBytes 0 0 3 := ⟨rfl, rfl, rfl, rfl, rfl, rfl⟩

/-- A context with its arena at 0 and 16 slots, and a TCB of one team of one group in slot 1, to whose address v2 points. -/
def ctx0 : Ctx :=
  { n := 0, desc := 0x8000, root := 0x9000, fe := false, priv := false, ldie := 0, arena := 0, nslot := 16, window := 0x2000, save := 0, savesz := 0 }
def g3 : Machine.Group := { g2 with v := g2.v.set 2 (Vector.replicate 96 256) }
def tcb : Memory := [(280, 1), (288, 1)]
def launching (m : Memory) : State := { mapped g3 with mem := m, ctxs := [ctx0] }

/-- A TCB that R239 accepts, and one that it refuses: with no group. -/
theorem witness_TlaunchEntersThePaddock : issues (launching tcb) g3 (vecRegs .always ++ .v 1 :: addrRegs .gl 2) ∧ g3.dc[g3.setc] ≠ 63 ∧ g3.fence = [] ∧
    g3.tx = none ∧ g3.wait = none ∧ g3.out = [] ∧ g3.stores = [] ∧ (launching tcb).held = false ∧ (∀ v ∈ (launching tcb).teams, v.sleep = none ∧ v.taken = false) ∧
    (launching tcb).poison = [] ∧ g3.sat = 0 ∧ g3.enabled .always = [0] ∧
    homeCheck g3 .gl 2 256 false (dataWords g3 1 1) (launching tcb) 0 = (.ok ⟨0, 256, [⟨.pa 256, 256, .d, none⟩], dataWords g3 1 1 0⟩, launching tcb) ∧
    (launching tcb).ctx? g3.ctx = some ctx0 ∧ 256 = ctx0.arena.toNat + 256 * 1 ∧ 1 < ctx0.nslot ∧
    (launching tcb).tcbBad (keyOf g3.ctx 1) 256 = false ∧ 0 < (launching tcb).paddockFree g3.id.die ∧ (launching []).tcbBad (keyOf g3.ctx 1) 256 = true ∧
    homeCheck g3 .gl 2 256 false (dataWords g3 1 1) (launching []) 0 = (.ok ⟨0, 256, [⟨.pa 256, 256, .d, none⟩], dataWords g3 1 1 0⟩, launching []) :=
  ⟨⟨rfl, by decide⟩, by decide, rfl, rfl, rfl, rfl, rfl, rfl, by decide, rfl, rfl, by decide, rfl, rfl, by decide, by decide, by decide, by decide, by decide, rfl⟩

set_option maxRecDepth 40000 in
/-- A paddock with 4,096 tasks of other keys is full. -/
theorem witness_TlaunchFull :
    let s : State := { launching tcb with tasks := k1 :: List.replicate 4096 { k1 with key := 99, paddock := true } }
    s.paddockFree 0 = 0 ∧ s.ready = [] ∧ s.tcbBad (keyOf g3.ctx 1) 256 = false := by
  refine ⟨?_, rfl, by decide⟩
  simp [State.paddockFree, k1]

/-- A predecessor at 256 and its successor, the empty slot 2 or the index 16, past the last slot. -/
def linking (x : Word) (k : Task) : State :=
  let g := { g3 with v := g3.v.set 1 (Vector.replicate 96 x) }
  { mapped g with ctxs := [ctx0], tasks := [k1, k], mem := [(0x9001, 0xA0), (0x9007, 0x80), (0xA001, 0xB0), (0xA007, 0x80),
      (0xB006, 0x7E), (0xB007, 0xC0)] }

theorem witness_TsuccLinksASuccessor :
    let g := { g3 with v := g3.v.set 1 (Vector.replicate 96 2) }
    let k := { k1 with key := 1, pa := 256 }
    issues (linking 2 k) g (vecRegs .always ++ .v 1 :: addrRegs .gl 2) ∧ g.enabled .always = [0] ∧
    homeCheck g .gl 2 256 false (dataWords g 1 1) (linking 2 k) 0 = (.ok ⟨0, 256, [⟨.pa 256, 256, .d, none⟩], dataWords g 1 1 0⟩, linking 2 k) ∧
    (linking 2 k).tcbPa g.ctx 2 = some 512 ∧ (linking 2 k).tcbState (keyOf g.ctx 2) 512 = 0 ∧ 2 < ctx0.nslot ∧ ctx0.nslot ≤ 16 ∧
    (linking 2 k).tasks.find? (fun y => y.pa = 256 ∧ y.state ≠ .finished) = some k ∧ (linking 2 k).task? k.key = some k ∧
    (k.state ≠ .killed ∧ k.succ.length ≠ 12) ∧ { k with succ := List.replicate 12 3 }.succ.length = 12 ∧ { k with state := .killed }.state ≠ .finished :=
  ⟨⟨rfl, by decide⟩, by decide, rfl, by decide, by decide, by decide, by decide, by decide, by decide, by decide, by decide, by decide⟩

/-- A READY task of one team of one group of 8 registers, in the queue of die 0, and one of lower priority. -/
def k2 : Task := { k1 with key := 2, shape := 0, state := .ready, started := 0, eprio := 4 }
def starting : State :=
  { State.reset with tasks := [k2, { k2 with key := 3, eprio := 3 }], ready := [⟨0, 2, 0, 1, false⟩, ⟨0, 3, 0, 1, false⟩] }

theorem witness_TeamStartEntersItsGroups : ∃ base, starting.roomFor starting.args.core none k2 0 k2.budgets false = some ([0], base) ∧
    starting.ready = [⟨starting.args.core.die, 2, 0, 1, false⟩, ⟨starting.args.core.die, 3, 0, 1, false⟩] ∧ starting.task? 2 = some k2 ∧ k2.eprio ≤ 7 ∧
    k2.groups = 1 ∧ (∀ x ∈ starting.ready, x.die = starting.args.core.die → x ≠ ⟨0, 2, 0, 1, false⟩ → starting.entryPrio x < k2.eprio) ∧
    starting.group? ⟨0, 0, 0⟩ = none ∧ starting.team? 2 0 = none ∧ starting.teams = [] :=
  ⟨_, rfl, rfl, rfl, by decide, by decide, by decide, rfl, rfl, rfl⟩

set_option maxRecDepth 40000 in
/-- Six teams in clusters of two, of which teams 2 to 5 move. -/
theorem witness_TeamBalanceMovesWholeClusters :
    let k := { k2 with shape := 0x100000, teams := 6 }
    let s : State := { State.reset with tasks := [k], ready := [⟨0, 2, 0, 6, false⟩], args := { x := 2, n := 4, t := 7 } }
    s.ready[s.args.k]? = some ⟨0, 2, 0, 6, false⟩ ∧ s.task? 2 = some k ∧ s.args.x.toNat % (k.shape.toNat / 2 ^ 20 % 32 + 1) = 0 ∧
    s.args.n % (k.shape.toNat / 2 ^ 20 % 32 + 1) = 0 ∧ s.clusterDie k s.args.x.toNat false = none ∧ s.args.x.toNat + s.args.n = 0 + 6 ∧
    s.args.t < 8 := by decide

/-- A decrement to a task with PRED 1, or to one with PRED 2, with the wake behind it, and one to device 9 over a port that is up. -/
def waits (p : Word) : Task := { k2 with state := .pending, pred := p }
def lowered (p : Word) : State := { State.reset with tasks := [waits p], decrs := [⟨0, some 2⟩, ⟨0, none⟩] }
def raised : State := { State.reset with decrs := [⟨0, some 0x09000002⟩], ua := State.reset.ua.set 15 { state := .up } }

theorem witness_SuccessorsBecomeReady (p : Word) : (lowered p).decrs[(lowered p).args.k]? = some ⟨0, some 2⟩ ∧ (2 : Word).toNat / 2 ^ 24 = (lowered p).devidx ∧
    (waits p).key = keyOf (0 / 2 ^ 32) 2 ∧ (lowered p).task? (waits p).key = some (waits p) ∧
    (0x09000002 : Word).toNat / 2 ^ 24 ≠ raised.devidx ∧ (∃ i : Fin 16, raised.ua[i].state = .up) ∧ raised.args.ok = true ∧
    (∃ y ∈ (lowered p).decrs.take 1, y.task = 0) ∧ (({ lowered p with decrs := [⟨0, none⟩] } : State).decrs[(0 : Nat)]?).map (·.succ) = some none :=
  ⟨rfl, rfl, rfl, rfl, by decide, ⟨15, rfl⟩, rfl, ⟨⟨0, some 2⟩, by simp [lowered], rfl⟩, rfl⟩

/-- A window in the arena's memory: an empty head slot, and a slot that names the TCB at 256. -/
def scanning (m : Memory) (ts : List Task) : State :=
  { State.reset with mem := m, tasks := ts, ctxs := [{ ctx0 with scan := true }], hostLink := { state := .up } }
def window : Memory := [(280, 1), (288, 1), (0x2000, 1), (0x2001, 1), (0x9001, 0xA0), (0x9007, 0x80), (0xA001, 0xB0), (0xA007, 0x80),
  (0xB006, 0x7E), (0xB007, 0xC0)]

set_option maxRecDepth 40000 in
theorem witness_LaunchWindowScanTakesSlots :
    let s := scanning window []
    let u := (s.launch 1 256 0 0).deviceWrite none (.pa 0x2000) (natToBytes 8 256)
    (scanning [] []).ctx? 0 = some { ctx0 with scan := true } ∧ (scanning [] []).paNat 0x2000 8 % 2 = 0 ∧
    s.paNat 0x2000 8 % 2 = 1 ∧ s.paNat 0x2000 8 - 1 = ctx0.arena.toNat + 256 * 1 ∧ 0 < s.paddockFree ctx0.ldie ∧ s.tcbPa 0 1 = some 256 ∧
    s.tcbBad 1 256 = false ∧ s.poison = [] ∧ u.paNat (0x2000 + 8 * ((0 + 1) % 256)) 8 % 2 = 0 ∧ s.ownable none 0x2000 = true ∧
    let b := scanning [(0x2000, 3)] []
    b.paNat 0x2000 8 % 2 = 1 ∧ b.slotId 0 (b.paNat 0x2000 8 - 1) = none ∧ b.ownable none 0x2000 = true ∧
    ({ b with dir := [⟨lineOf 0x2000, [], true⟩] } : State).ownable none 0x2000 = false := by decide

/-- A lock at 0 that waits: with no owner, with the READY task 2 as owner, and with a running owner that waits on the group's task. -/
def waitingG : Machine.Group := { g2 with status := .held, task := 1, out := [{ asks (.lock true .dev .acq) (atRecord [0] 8) with todo := [], held := [atRecord [0] 8] }] }
def waitingOn (m : Memory) (k : Task) : State :=
  { mapped waitingG with mem := m, teams := [{ t1 with task := 1 }], tasks := [{ k1 with key := 1 }, k], ready := if k.state = .ready then [⟨0, 2, 0, 1, false⟩] else [] }

theorem witness_WaitingWordsInspectTheirOwner : (waitingOn [] k2).group? (waitingOn [] k2).args.group = some waitingG ∧
    (waitingOn [] k2).teamOf waitingG = some { t1 with task := 1 } ∧ ((waitingOn [] k2).coreD ⟨0, 0⟩).frames = [] ∧ waitingG.inHandler = false ∧
    (waitingOn [] k2).paNat 0 4 = 0 ∧ (waitingOn [(0, 2)] k2).paNat 0 4 = (2 : Word).toNat ∧ k2.key = keyOf waitingG.ctx 2 ∧
    (waitingOn [(0, 2)] k2).task? k2.key = some k2 ∧ (waitingOn [(0, 2)] k2).unstarted? k2.key = some 0 ∧
    (∃ p, (waitingOn [(0, 2)] k2).roomFor ⟨0, 0⟩ (some (1, 0)) k2 0 k2.budgets false = some p) ∧ (waitingOn [(0, 2)] k2).team? k2.key 0 = none ∧
    let k := { k2 with state := .running, waiton := 1 }
    waitingG.status = .held ∧ (waitingOn [(0, 2)] k2).saved = [] ∧ (∃ l ∈ [((3 : Nat), (0x0E : Nat), (0 : Nat))], l.1 = 3 ∧ (l.2.1 = 0x0E ∨ l.2.1 = 0x14)) ∧
    (waitingOn [(0, 2)] k).task? k.key = some k ∧ (waitingOn [(0, 2)] k).ready = [] ∧ k.waiton = BitVec.ofNat 32 1 ∧ k.waiton.toNat / 2 ^ 24 = 0 :=
  ⟨rfl, rfl, rfl, rfl, by decide, by decide, by decide, rfl, by decide, ⟨_, rfl⟩, rfl, rfl, rfl, by decide, rfl, rfl, by decide, by decide⟩

theorem witness_RemoteSleepersWake :
    let pa := 2 ^ 48 + 2 ^ 40
    let v := { t1 with sleep := some ⟨g2.id, some pa, [], []⟩ }
    let s : State := { mapped g2 with teams := [v], args := { pa := pa } }
    (s.team? g2.task g2.lin = some v ∧ isPeer pa = true ∧ s.group? g2.id = some g2 ∧ s.args.pa = pa ∧ s.args.group = g2.id) ∧
    let t : Target := { atRecord [0] 8 with pieces := [⟨.pa pa, 8, .d, none⟩] }
    let o : Outst := { asks (.lock true .dev .acq) t with todo := [], held := [t] }
    let g := { g2 with out := [o] }
    let z : State := { mapped g with args := { pa := pa } }
    z.group? g.id = some g ∧ o ∈ g.out ∧ t ∈ o.held ∧ (∀ v ∈ z.teams, v.sleep = none) ∧ z.args.pa = pa ∧ z.args.group = g.id := by decide

/-! ### Witnesses: engines -/

/-- A dense 64 by 64 tensor of format `f` at offset 0, a buffer of two slots of 8 KiB, full or not, and a team that declares both. -/
def tensor (f : Nat) : Tensor :=
  { base := 0, scale := 0, dims := [64, 64, 1, 1, 1], strs := [32, 0, 0, 0], box := [64, 64, 1, 1, 1], rank := 2, fmt := f, sparse := false }
def buffer (full : Bool) : SlotBuf := ⟨0x8000, 0x2000, 0, [full, full], [false, false]⟩
def t2 (full : Bool) : Team := { t1 with bufs := [(0, buffer full)], tensors := [(7, tensor 4)] }

/-- A state of a group, its team and its core. -/
def eng (g : Machine.Group) (u : Team) (c : Core) : State := { mapped g with teams := [u], cores := [{ c with walkTlb := c1.tlb }] }

/-- A TDEF's read of its descriptor at address 0, and the descriptor of `tensor 2` (R352). -/
def tdefRead : Outst :=
  { seq := 0, ctr := 0, kind := .tdef, d := 7, todo := [⟨0, 0, [⟨.pa 0, 64, .d, none⟩], [0, 0, 0x100000, 0, 0x100, 0, 15]⟩] }
def descriptor : Memory :=
  [(0x10, 64), (0x14, 64), (0x18, 1), (0x1C, 1), (0x20, 1), (0x24, 16), (0x34, 64), (0x36, 64), (0x38, 1), (0x3A, 1), (0x3C, 1), (0x3E, 0x42)]
def reading (m : Memory) : State := { eng { g2 with out := [tdefRead] } t1 c1 with mem := m }

set_option maxRecDepth 40000 in
theorem witness_TensorIdentifierWords : g2.tx = none ∧ g2.fence = [] ∧ issues (eng g2 t1 c1) g2 [] ∧ g2.dc[g2.setc] ≠ 63 ∧
    (reading []).tdefOut 7 { g2 with out := [tdefRead] } = true ∧ (eng g2 t1 c1).tdefOut 7 g2 = false ∧
    (∃ u va ps, (eng g2 t1 c1).access g2 .gl ((eng g2 t1 c1).descAt g2 7) 64 0 .load = (.ok (va, ps), u)) ∧
    (∃ u code a, (eng { g2 with seg := g1.seg } t1 c1).access { g2 with seg := g1.seg } .gl 0 64 0 .load = (.error (.fault code a), u)) ∧
    (eng g2 t1 c1).teamOf g2 = some t1 :=
  ⟨rfl, rfl, ⟨rfl, by decide⟩, by decide, rfl, rfl, ⟨_, _, _, rfl⟩, ⟨_, _, _, rfl⟩, rfl⟩

theorem witness_TensorReads (m : Memory) : ∃ x bs, (reading m).due = some ({ g2 with out := [tdefRead] }, tdefRead, x) ∧ tdefRead.kind = .tdef ∧
    (reading m).teamOf g2 = some t1 ∧ (reading m).blocked { g2 with out := [tdefRead] } 0 x.thread x.pieces true false = false ∧ (reading m).linkLost x.pieces = false ∧
    (reading m).readTarget { g2 with out := [tdefRead] } 0 x = some bs ∧ x.args = [0, 0, 0x100000, 0, 0x100, 0, 15] :=
  ⟨_, _, rfl, rfl, rfl, rfl, rfl, rfl, rfl⟩

/-- The descriptor passes R354 in a segment of 1 MiB, and 64 zeros do not. -/
theorem test_descriptor : (tensorOf ((reading descriptor).paBytes 0 64)).1 = { tensor 2 with strs := [16, 0, 0, 0] } ∧
    (tensorOf ((reading descriptor).paBytes 0 64)).1.valid 0x42 ⟨0, 0x100000⟩ = true ∧
    (tensorOf ((reading []).paBytes 0 64)).1.valid 0 ⟨0, 0x100000⟩ = false :=
  ⟨rfl, rfl, rfl⟩

/-- s2 holds an offset, and s3 a control word: sixteen slots of 4 KiB that end the store, one more slot size, and a buffer in use. -/
theorem witness_BufferDeclarationWords : issues (eng g1 t1 c1) g1 [.s 2, .s 3] ∧ issues (eng g1 t1 c1) g1 [] ∧ g1.tx = none ∧ g1.dc[g1.setc] ≠ 63 ∧
    (eng g1 t1 c1).teamOf g1 = some t1 ∧ (eng g1 t1 c1).bufBusy 7 g1 = false ∧ bufdefOk t1 7 0 (32 * 2 ^ 10 + 15 * 2 ^ 6) ∧
    ¬ bufdefOk t1 7 0 (33 * 2 ^ 10 + 15 * 2 ^ 6) ∧ ¬ bufdefOk t1 7 0x80 (32 * 2 ^ 10 + 15 * 2 ^ 6) ∧
    (eng g1 t1 { c1 with updates := [⟨0, 0, 0, [7], 0, 0, false, []⟩] }).bufBusy 7 g1 = true :=
  ⟨⟨rfl, by decide⟩, ⟨rfl, by decide⟩, rfl, by decide, rfl, rfl, by decide, by decide, by decide, rfl⟩

/-- A store of the group into slot 1, which ends at the buffer's last byte, with a later word to issue. -/
def slotStore : StoreReq := { seq := 0, thread := 0, va := 0xBFFC, parts := [(⟨.sh 0 0 0xBFFC, 4, .d, none⟩, [0, 0, 0, 0])] }
def gStoring : Machine.Group := { g1 with seq := 1, stores := [slotStore] }

theorem witness_SlotWords : g1.tx = none ∧ (eng g1 (t2 true) c1).teamOf g1 = some (t2 true) ∧ issues (eng g1 (t2 true) c1) g1 [] ∧ g1.dc[g1.setc] ≠ 63 ∧
    (∀ x ∈ (t2 true).bufs, x.1 = 0 → x.2.full.length ≤ 2) ∧ (t2 true).bufs.find? (fun x => x.1 = 0) = some (0, buffer true) ∧ 1 < (buffer true).full.length ∧
    g1.sets = [] ∧ (eng g1 (t2 true) c1).slotInUse 0 1 g1.seq g1 = false ∧ ((eng g1 (t2 true) c1).coreD ⟨0, 0⟩).l1s = [] ∧
    (∀ o ∈ g1.out, o.kind ≠ .slotwt 0 1 true) ∧ issues (eng gStoring (t2 true) c1) gStoring [] ∧ (eng gStoring (t2 true) c1).teamOf gStoring = some (t2 true) ∧
    (eng gStoring (t2 true) c1).slotInUse 0 1 gStoring.seq gStoring = true :=
  ⟨rfl, rfl, ⟨rfl, by decide⟩, by decide, by decide, rfl, by decide, rfl, by decide, rfl, by decide, ⟨rfl, by decide⟩, rfl, by decide⟩

/-- s2 = 2^30, 0 and 8; a barrier with a copy fault, one that overflowed, one whose phase is past 0, and one at phase 0. -/
def xbTeam (b : XBar) : Team := { t1 with xb := t1.xb.set 15 b }

theorem witness_ByteBarrierWords : g1.tx = none ∧ (eng g1 (xbTeam {}) c1).teamOf g1 = some (xbTeam {}) ∧ issues (eng g1 t1 c1) g1 [.s 2] ∧
    ((g1.sset 2 (2 ^ 30)).sget 2).toNat = 2 ^ 30 ∧ (g1.sget 2).toNat % 16 = 0 ∧ ((g1.sset 2 8).sget 2).toNat % 16 ≠ 0 ∧
    2 ^ 30 < ((g1.sset 2 (2 ^ 30 + 16)).sget 2).toNat ∧ g1.status = .running ∧ g1.wait = none ∧ (xbTeam { fcode := 9 }).xb[15].fcode ≠ 0 ∧
    (xbTeam { ovf := true }).xb[15].ovf = true ∧ (xbTeam { phase := 1 }).xb[15].fcode = 0 ∧ (1 + 2 ^ 24 - 0) % 2 ^ 24 < 2 ^ 23 ∧
    ¬ (1 ≤ (0 + 2 ^ 24 - 0) % 2 ^ 24) :=
  ⟨rfl, rfl, ⟨rfl, by decide⟩, rfl, rfl, by decide, by decide, rfl, rfl, by decide, rfl, rfl, by decide, by decide⟩

/-- A copy of the 64 rows of 128 bytes of `tensor 4`, stopped at row 63 or at its end. -/
def copy (store moved : Bool) (row left : Nat) (started : Bool := true) : Copy :=
  { id := 3, group := g1.id, task := 0, lin := 0, store := store, tensor := { tensor 4 with strs := [8, 0, 0, 0] }, org := [0, 0, 0, 0, 0], rows := 64
    xb := 15, phase := 0, buf := 0, slot := 1, size := 8192, seg := ⟨0, 0x100000⟩, row := row, moved := moved, left := left
    started := started }
def copying (c : Copy) (full : Bool) : State :=
  { eng { g2 with out := [{ seq := 0, ctr := 0, kind := .copy 3, ready := false }] } (t2 full) { c1 with copies := [c] } with
    args := { core := ⟨0, 0⟩, k := 3, n := 8192, ok := true } }

/-- A group whose s0 to s4 hold the origin 0 and whose s5 asks for 64 rows into slot 1 of buffer 0 on barrier 15. -/
def g4 : Machine.Group := g2.sset 5 (64 * 2 ^ 16 + 15 * 2 ^ 12 + 2 ^ 8)

theorem witness_CopyWordsEnterTheQueue : g4.tx = none ∧ g4.fence = [] ∧ (eng g4 (t2 false) c1).teamOf g4 = some (t2 false) ∧
    issues (eng g4 (t2 false) c1) g4 (sRegs 0 5 ++ [.s 5]) ∧ g4.dc[g4.setc] ≠ 63 ∧ (eng g4 (t2 false) c1).tdefOut 7 g4 = false ∧
    ((eng g4 (t2 false) c1).coreD ⟨0, 0⟩).copies.length < 32 ∧
    32 ≤ ((eng g4 (t2 false) { c1 with copies := List.replicate 32 (copy false false 0 0) }).coreD ⟨0, 0⟩).copies.length ∧
    (g4.sget 5).toNat % 32 = 0 ∧ (t2 false).tensors.find? (fun y => y.1 = 7) = some (7, tensor 4) ∧
    (t2 false).buf? ((g4.sget 5).toNat / 2 ^ 5 % 8) = some (buffer false) ∧ (t2 false).tensors.find? (fun y => y.1 = 8) = none ∧
    copyBad (tensor 4) (buffer false) false [0, 0, 0, 0, 0] 1 64 = none ∧ imageBytes (tensor 4) 4 64 = 8192 ∧ imageBytes (tensor 4) 4 0 = 0 ∧
    copyBad (tensor 4) (buffer false) false [0, 0, 0, 0, 0] 2 64 = some 0x10 ∧
    copyBad { tensor 4 with box := [4, 64, 1, 1, 1] } (buffer false) false [0, 0, 0, 0, 0] 1 1 = some 0x11 :=
  ⟨rfl, rfl, rfl, ⟨rfl, by decide⟩, by decide, rfl, by decide, by decide, rfl, rfl, rfl, rfl, rfl, rfl, rfl, rfl, rfl⟩

/-- A token of format 4 on slots 0 and 1 of buffer 0 with the accumulator at 0, in the queue of its core. -/
def token (id : Nat) : NodeItem := .token id g1.id 0 0 (4 * 2 ^ 27 + 2 ^ 17 + 2 ^ 8) none 0x100 15
def matrix (g : Machine.Group) (full : Bool) (l : List NodeItem) : State := eng g (t2 full) { c1 with node := l }

theorem witness_MatrixWordsEnterTheNode : let s := matrix g2 true []
    g2.tx = none ∧ g2.fence = [] ∧ s.teamOf g2 = some (t2 true) ∧ g2.dc[g2.setc] ≠ 63 ∧ issues s g2 [.s 0] ∧ issues s g2 (sRegs 0 5 ++ [.s 5]) ∧
    s.tdefOut 7 g2 = false ∧ (s.coreD ⟨0, 0⟩).node.length < 8 ∧ 8 ≤ ((matrix g2 true (List.replicate 8 (token 0))).coreD ⟨0, 0⟩).node.length ∧
    (s.coreD ⟨0, 0⟩).claim = none ∧ ((eng g2 (t2 true) { c1 with claim := some g1.id }).coreD ⟨0, 0⟩).claim ≠ none ∧
    mtokBad (t2 true) (4 * 2 ^ 27 + 2 ^ 17 + 2 ^ 8) = false ∧ mtokBad (t2 true) 0 = true ∧ (t2 true).tensors.find? (fun y => y.1 = 8) = none ∧
    (let u : Team := { t2 true with tensors := [(7, tensor 2)] }
     u.tensors.find? (fun y => y.1 = 7) = some (7, tensor 2) ∧ 24 * 2048 + 4096 * 4 ≤ u.shLen ∧ (tensor 2).box = [64, 64, 1, 1, 1]) :=
  ⟨rfl, rfl, rfl, by decide, ⟨rfl, by decide⟩, ⟨rfl, by decide⟩, rfl, by decide, by decide, rfl, by decide, by decide, by decide, rfl, rfl, by decide, rfl⟩

theorem witness_ArrivalsCountOnTheirBarrier : let s := copying (copy false true 64 8192) true
    s.args.ok = true ∧ (s.coreD s.args.core).copies = [copy false true 64 8192] ∧ (copy false true 64 8192).id = s.args.k ∧
    s.team? 0 0 = some (t2 true) ∧ (copy false true 64 8192).xb < 16 ∧ min 8192 s.args.n / 16 * 16 = 8192 ∧
    (copying (copy false false 63 8064) false).team? 0 0 = some (t2 false) ∧
    let v := { eng g2 t1 { c1 with arrivals := [⟨0, 0, 15, 0, 16384⟩] } with args := { core := ⟨0, 0⟩, n := 16, ok := false } }
    v.args.ok = false ∧ (v.coreD v.args.core).arrivals[v.args.k]? = some ⟨0, 0, 15, 0, 16384⟩ ∧ v.team? 0 0 = some t1 ∧ min 16384 v.args.n / 16 * 16 = 16 :=
  ⟨rfl, rfl, rfl, rfl, by decide, rfl, rfl, rfl, rfl, rfl, rfl⟩

/-- A group held on phase 0 of barrier 15, where the barrier stands at phase 1, at phase 0, and has a copy fault. -/
def xbHeld : Machine.Group := { g1 with status := .held, turn := false, wait := some { kind := .xb 15 0 true } }

theorem witness_XbwaitResumesOnItsPhase (b : XBar) : let s := { eng xbHeld (xbTeam b) c1 with args := { group := g1.id } }
    s.group? s.args.group = some xbHeld ∧ xbHeld.status = .held ∧ xbHeld.turn = false ∧ xbHeld.wait = some { kind := .xb 15 0 true } ∧
    xbHeld.sets = [] ∧ s.teamOf xbHeld = some (xbTeam b) := ⟨rfl, rfl, rfl, rfl, rfl, rfl⟩

/-- A group with a SLOTSET under way, behind its store into the slot or alone. -/
theorem witness_SlotsetsTakeEffect : let g := { gStoring with sets := [(0, 1, true, 1)] }
    let s := { eng g (t2 true) c1 with args := { group := g1.id } }
    s.group? s.args.group = some g ∧ s.slotInUse 0 1 1 g = true ∧ (s.coreD g.id.coreId).l1s = [] ∧
    (eng { g with stores := [] } (t2 true) c1).slotInUse 0 1 1 { g with stores := [] } = false := ⟨rfl, by decide, rfl, by decide⟩

/-- The last row of a TCOPY into an empty slot, whose 128 bytes lie in one page, and the first row of a TSTORE. -/
theorem witness_CopyRowsAreMoved : let s := copying (copy false false 63 8064) false
    let c := copy false false 63 8064
    (s.coreD s.args.core).copies = [c] ∧ c.id = s.args.k ∧ s.team? 0 0 = some (t2 false) ∧ c.started = true ∧ c.moved = false ∧
    (t2 false).bufs.find? (fun y => y.1 = c.buf) = some (c.buf, buffer false) ∧ c.slot < 2 ∧ (buffer false).sparse.getD 1 false = false ∧
    c.tensor.sparse = false ∧ isBlock 4 = false ∧ (buffer false).format c.tensor = 4 ∧ (s.coreD s.args.core).shared.wf = true ∧
    (buffer false).full.getD 1 false = c.store ∧ (buffer true).full.getD 1 false ≠ c.store ∧ s.storesBefore c.group c.seq = true ∧
    (∃ ds v bs, s.spanAccess s.args.core 0 c.seg c.tensor c.org (rowSpan c.tensor c.org c.row) .load = (.ok (ds, []), v) ∧
      v.coreD s.args.core = s.coreD s.args.core ∧ v.teams = s.teams ∧ v.engineBytes s.args.core.die (c.seg.base.toNat + (rowSpan c.tensor c.org c.row).off) ds = .ok bs ∧ bs.length = 128) ∧
    elemBytes 4 64 = 128 :=
  ⟨rfl, rfl, rfl, rfl, rfl, rfl, by decide, rfl, rfl, rfl, rfl, rfl, rfl, by decide, rfl, ⟨_, _, _, rfl, rfl, rfl, rfl, rfl⟩, rfl⟩

theorem witness_CopyRowsAreStoredOrFault : let s := copying (copy true false 0 0) true
    let c := copy true false 0 0
    let p := rowSpan c.tensor c.org c.row
    p.count ≠ 0 ∧ s.aperture 0 0 p.off 128 = none ∧ (∃ v, s.spanAccess s.args.core 0 c.seg c.tensor c.org p .store = (.ok ([⟨.pa 0, 128, .d, none⟩], []), v) ∧
      v.teams = s.teams ∧ v.coreD s.args.core = s.coreD s.args.core ∧ v.piecesOwnable 0 [⟨.pa 0, 128, .d, none⟩] = true ∧
      ({ v with dir := [⟨0, [3], false⟩] } : State).piecesOwnable 0 [⟨.pa 0, 128, .d, none⟩] = false) ∧
    (∃ a v, s.spanAccess s.args.core 0 {} c.tensor c.org p .load = (.error (.fault 0x05 a), v) ∧ v.teams = s.teams) :=
  ⟨by decide, rfl, ⟨_, rfl, rfl, rfl, by decide, by decide⟩, ⟨_, _, rfl, rfl⟩⟩

/-- A TSTORE from slot 1, whose bytes are clean, and one whose first ECC word is poisoned (R455). -/
theorem witness_PoisonedSlotBytes : let s := copying (copy true false 0 0) true
    let z : State := { s with poison := [.cell (Spot.ecc (.sh 0 0 0xA000))] }
    (buffer true).base + 1 * (buffer true).size = 0xA000 ∧ (∀ i, i < 128 → s.poisoned (.sh 0 0 (0xA000 + i)) 1 = false) ∧
    z.poisoned (.sh 0 0 0xA000) 1 = true := by
  refine ⟨rfl, fun _ _ => rfl, ?_⟩
  simp [State.poisoned, State.homeBad, State.eccOf, State.resolve, Spot.shift, List.range_succ]

theorem witness_WalkAheadIsNoDemand : let s : State :=
      { copying (copy false false 0 0) false with args := { core := ⟨0, 0⟩, k := 3, x := 4095 }, ctxs := [ctx0], mem := window.drop 4 }
    let c := copy false false 0 0
    (s.coreD s.args.core).copies = [c] ∧ c.id = s.args.k ∧ c.pagesAhead = [0] ∧ s.args.x.toNat / 65536 = 0 ∧
    s.walk 0 s.args.x.toNat = .page ⟨0, 2 ^ 30, 0xB000, leaf⟩ ∧ (2 ^ 20 / 65536 : Nat) ∉ c.pagesAhead := by decide

/-- A copy that waits for its slot, for the group's earlier store, or for nothing. -/
theorem witness_CopiesStart : let c := copy false false 0 0 false
    c.started = false ∧ (buffer true).full.getD c.slot false ≠ c.store ∧ (buffer false).full.getD c.slot false = c.store ∧
    (copying c false).storesBefore c.group c.seq = true ∧ ((copying c false).coreD ⟨0, 0⟩).l1s = [] ∧
    (eng gStoring (t2 false) { c1 with copies := [{ c with seq := 1 }] }).storesBefore c.group 1 = false := by decide

/-- A token with full slots, and one with empty ones. -/
theorem witness_MatrixTokensFire (full : Bool) : let s := { matrix g2 full [token 5] with args := { core := ⟨0, 0⟩ } }
    (s.coreD s.args.core).node = [token 5] ∧ s.team? 0 0 = some (t2 full) ∧ (t2 full).buf? (wordA (4 * 2 ^ 27 + 2 ^ 17 + 2 ^ 8)).1 = some (buffer full) ∧
    (buffer full).full.getD 0 false = full ∧ (buffer full).full.getD 1 false = full ∧ (s.coreD s.args.core).updates = [] ∧
    (buffer full).sparse.getD 1 false = false ∧ (4 * 2 ^ 27 + 2 ^ 17 + 2 ^ 8) / 2 ^ 24 % 4 = 0 := ⟨rfl, rfl, rfl, rfl, rfl, rfl, rfl, rfl⟩

/-- An INT32 and an FP32 update of the last bank word of a store. -/
theorem witness_ChainedUpdatesAddInOrder (kind : Nat) : let x : ChainUpd := ⟨5, 0, 0, [0], 65528, kind, true, [[.fin 3 0, .fin (-4) 0], [.fin 5 0]]⟩
    let s := { eng g2 t1 { c1 with updates := [x] } with args := { core := ⟨0, 0⟩ } }
    (s.coreD s.args.core).updates = [x] ∧ s.args.k = 0 ∧ (∀ k ∈ s.cores, k.shared.wf = true) ∧ x.parts = [[3, -4], [5]].map (fun m => m.map fun z => .fin z 0) := by
  refine ⟨rfl, rfl, ?_, rfl⟩
  intro k hk
  simp only [eng, List.mem_singleton] at hk
  rw [hk]
  rfl

def drainItem : NodeItem := .drain 5 g1.id 0 0 (tensor 2) [0, 0, 0, 0, 0] 0 15 0 0 0 ⟨0, 0x100000⟩

theorem witness_DrainsReadTheirTile : let s := { matrix g2 true [drainItem] with args := { core := ⟨0, 0⟩ } }
    (s.coreD s.args.core).node = [drainItem] ∧ s.team? 0 0 = some (t2 true) ∧ (s.coreD s.args.core).updates = [] ∧ s.storesBefore g1.id 0 = true ∧
    (tensor 2).fmt ≠ 4 ∧ ((eng g2 t1 { c1 with updates := [⟨0, 0, 0, [], 0, 0, false, []⟩] }).coreD ⟨0, 0⟩).updates ≠ [] ∧
    (eng gStoring t1 c1).storesBefore g1.id 1 = false ∧ (s.coreD s.args.core).l1s = [] :=
  ⟨rfl, rfl, rfl, rfl, by decide, by decide, by decide, rfl⟩

/-- A drain of a tensor of one line at the device's first bytes. -/
def drain (sg : Segment) : Drain := ⟨5, g1.id, 0, 0, { tensor 2 with dims := [64, 1, 1, 1, 1] }, [0, 0, 0, 0, 0], 15, 0, sg, []⟩
def draining (sg : Segment) : State := { eng g2 (t2 true) { c1 with drains := [drain sg] } with args := { core := ⟨0, 0⟩ } }

theorem witness_TileDrainsAddOnce : (∀ sg, ((draining sg).coreD (draining sg).args.core).drains = [drain sg]) ∧
    (∃ rows u, (draining ⟨0, 0x100000⟩).drainPieces ⟨0, 0⟩ (drain ⟨0, 0x100000⟩) (List.range 64) = (.ok rows, u) ∧
      u.coreD ⟨0, 0⟩ = (draining ⟨0, 0x100000⟩).coreD ⟨0, 0⟩ ∧ rows.all (fun r => r.2.all fun p => decide (p.spot = .pa 0)) ∧
      u.ownableAll none (rows.flatMap fun r => r.2.flatMap Piece.runs) = true ∧
      ({ u with dir := [⟨0, [3], false⟩] } : State).ownableAll none (rows.flatMap fun r => r.2.flatMap Piece.runs) = false) ∧
    (∃ code a u, (draining {}).drainPieces ⟨0, 0⟩ (drain {}) (List.range 64) = (.error (.fault code a), u) ∧ u.team? 0 0 = some (t2 true)) :=
  ⟨fun _ => rfl, ⟨_, _, rfl, rfl, rfl, rfl, rfl⟩, ⟨_, _, _, rfl, rfl⟩⟩
/-! ### Witnesses: transactions -/

/-- A group with an open transaction that has buffered one byte of the device's memory, at the words of TXEND; one that has seen a conflict. -/
def inTx (seen : Option (Nat × Nat)) : Machine.Group :=
  { placedGroup [0x30000000, 0xE1F00000] with tx := some { abortHdr := 0x40, mask := 1, writes := [.pa 64], buf := [(0, .pa 100, 7)], seen := seen } }
/-- The same group held at its TXEND. -/
def committing (seen : Option (Nat × Nat)) : Machine.Group := { inTx seen with status := .held, turn := false, wait := some { kind := .commit } }

theorem witness_TransactionWordsAct : issues (full g1) g1 maskRegs ∧ g1.tx = none ∧ g1.out = [] ∧ { g1 with out := [o1] }.out ≠ [] ∧
    issues (full (inTx none)) (inTx none) maskRegs ∧ (∃ t, (inTx none).tx = some t ∧ t.seen = none) ∧ (inTx none).out = [] ∧
    issues (full g1) g1 [.s 63] := ⟨⟨rfl, by decide⟩, rfl, rfl, by decide, ⟨rfl, by decide⟩, ⟨_, rfl, rfl⟩, rfl, ⟨rfl, by decide⟩⟩

theorem witness_CommitPerformsTheBuffer : let s := { full (inTx none) with args := { group := (inTx none).id } }
    (∃ t, (inTx none).tx = some t ∧ t.seen = none ∧ (∀ x ∈ t.writes, ∃ a, x = .pa a ∧ a % 64 = 0 ∧ isHbm a = true) ∧ t.writes.Nodup ∧
      (∀ b ∈ t.buf, ∃ a, b.2.1 = .pa a ∧ .pa (a / 64 * 64) ∈ t.writes) ∧ s.ownableAll (some (inTx none).id.die) t.runs = true) ∧
    (inTx none).out = [] ∧ (inTx none).stores = [] ∧ (s.coreD ⟨0, 0⟩).l1s = [] ∧ s.mem.wf = true ∧ issues s (inTx none) [] ∧
    ({ s with groups := [committing none] } : State).group? s.args.group = some (committing none) ∧
    (committing none).wait.map Wait.kind = some .commit := by
  refine ⟨⟨_, rfl, rfl, ?_, by decide, ?_, by decide⟩, rfl, rfl, rfl, rfl, ⟨rfl, by decide⟩, rfl, rfl⟩
  · intro x hx
    exact ⟨64, by simpa using hx, by decide, by decide⟩
  · intro b hb
    exact ⟨100, by simp_all, by simp⟩

/-- At its TXEND with nothing left to do, with a cause seen, and with a load to come. -/
theorem witness_CommitsComplete : let s := { full (inTx none) with args := { group := (inTx none).id } }
    (∃ t, (inTx none).tx = some t ∧ t.seen = none ∧ (∀ x ∈ t.writes, s.resolve x ≠ none) ∧
      ∀ a, .pa a ∈ t.writes → ∀ l ∈ linesOf a 64, s.ownable (some (inTx none).id.die) l = true) ∧
    s.releasable (inTx none).id.coreId .dev = true ∧ (∀ o ∈ (inTx none).out, o.todo = [] ∧ o.held = []) ∧ (inTx none).stores = [] ∧
    issues s (inTx none) [] ∧ (∃ t, (committing none).tx = some t ∧ t.seen = none) ∧ issues (full (inTx (some (1, 0)))) (inTx (some (1, 0))) [] ∧
    (∃ t, (inTx (some (1, 0))).tx = some t ∧ t.seen ≠ none) ∧
    ¬ ∀ o ∈ ({ inTx none with out := [{ o1 with todo := [⟨0, 0, [], []⟩] }] } : Machine.Group).out, o.todo = [] ∧ o.held = [] := by
  refine ⟨⟨_, rfl, rfl, by decide, ?_⟩, rfl, by decide, rfl, ⟨rfl, by decide⟩, ⟨_, rfl, rfl⟩, ⟨rfl, by decide⟩, ⟨_, rfl, by decide⟩, by decide⟩
  intro a ha l _
  simp [State.ownable, State.exclusive, State.dirOf, full, on, State.reset]

theorem witness_AbortReturnsToTheAbortHeader : let s := { full (inTx (some (1, 0))) with args := { group := (inTx none).id } }
    s.group? s.args.group = some (inTx (some (1, 0))) ∧ (inTx (some (1, 0))).status = .running ∧ (committing (some (1, 0))).wait.map Wait.kind = some .commit ∧ (∃ t, (inTx (some (1, 0))).tx = some t ∧ t.seen = some (1, 0)) ∧
    (inTx none).out = [] ∧ { inTx none with out := [o1] }.out ≠ [] := ⟨rfl, rfl, rfl, ⟨_, rfl, rfl⟩, rfl, by decide⟩

/-! ### Witnesses: spatial operators -/

/-- A rig of one octet with one operator, its lane and its items; and the state that holds it, its group at its SPAT. -/
def rig1 (w : Word) (l : Lane) (c : LaneCfg) : Rig :=
  { placedRig w with
    lanes := List.replicate 8 { l with loaded := true }
    pages := [3]
    block := some { addr := 0x200, words := [0, w], ops := [w], cfg := [c], rigLog := 0, last := true, mx := false } }
def spat : Machine.Group := { g2 with status := .spat, turn := false }
def rigs (r : Rig) : State := { eng spat t1 { c1 with rigs := [r] } with focus := .lane g1.id 0, args := { group := g1.id } }

/-- Operand a from q0, b from q1, a discarded result; a guarded one; and a result for q11 of lane 7. -/
def oAB : SFields := ⟨0, 1, 0, 14, false, false, false, false, false⟩
def oG : SFields := { oAB with g := true }
def oQ : SFields := { oAB with dl := 7, dq := 11 }

/-- Tokens of context 0 with SEQ k; a lane that holds `a` in q0, `b` in q1, `p` as predicate and `i` as index. -/
def tok (v : DWord) (k : Word) : Token := ⟨v, k⟩
def lane1 (a b p i : List Token) : Lane := { q := (#v[a, b, [], [], [], [], [], [], [], [], [], []]), pq := p, iq := i }

/-- What a firing takes, with a tag on operand a alone, and on both. -/
theorem lined_one {r : Rig} {n : Nat} {o : SFields} {a : Operand1} {c : DWord} {p : Option Token} (ha : r.operand n o.qa.val = some a)
    (hb : r.operand n o.qb.val = some (c, none)) (hp : if o.g then p.isSome = true ∧ (r.lane n).pq.head? = p else p = none)
    (ht : ∀ t, p = some t → sameTS t.tag (firingTag r a (c, none))) : lined r n o a (c, none) p :=
  ⟨ha, hb, hp, fun _ _ _ k _ => (by cases k), ht⟩

theorem lined_two {r : Rig} {n : Nat} {o : SFields} {c d : DWord} {x y : Word} {p : Option Token} (ha : r.operand n o.qa.val = some (c, some x))
    (hb : r.operand n o.qb.val = some (d, some y)) (hp : if o.g then p.isSome = true ∧ (r.lane n).pq.head? = p else p = none)
    (hs : sameTS x y) (ht : ∀ t, p = some t → sameTS t.tag (firingTag r (c, some x) (d, some y))) : lined r n o (c, some x) (d, some y) p :=
  ⟨ha, hb, hp, fun _ _ h k _ => by cases h; cases k; exact hs, ht⟩

/-- IADD on q0 and q1, as the header of the operators' fields gives it. -/
def wAdd : Word := 0x0701001C

theorem witness_OperatorsComputeTheirThreadValue : threadWord 0x07 false .eq = some (.iadd .always 4 0 (.v 2) false) ∧
    (∃ x, intValue (.iadd .always 4 0 (.v 2) false) = some x) ∧ threadWord 0x30 false .eq = some (.faddF32 .always 4 0 (.v 2)) ∧
    (∃ x, floatValue (.faddF32 .always 4 0 (.v 2)) = some x) ∧ threadWord 0x54 false .eq = some (.cvtF32F64 .always 4 (.v 2)) ∧
    ((∃ x, convertValue (.cvtF32F64 .always 4 (.v 2)) = some x) ∨ (∃ x, convertPair (.cvtF32F64 .always 4 (.v 2)) = some x)) ∧
    (∃ x, floatPair (.faddF64 .always 4 0 (.v 2)) = some x) ∧ (∃ x, intCompare (.icmp .always 0 .eq 0 (.v 2) false) = some x) ∧
    (∃ x, floatCompare (.fcmpF32 .always 0 .eq 0 (.v 2) false) = some x) ∧ ({ const := some 0 } : LaneCfg).constant = g1.vpair 4 0 :=
  ⟨rfl, ⟨_, rfl⟩, rfl, ⟨_, rfl⟩, rfl, .inl ⟨_, rfl⟩, ⟨_, rfl⟩, ⟨_, rfl⟩, ⟨_, rfl⟩, rfl⟩

/-- Two tokens with equal SEQ; a predicate of 1 and of 0; tokens whose SEQ differ; and a full destination. -/
theorem witness_AluOperatorsFire : let r := rig1 wAdd (lane1 [tok 3 5] [tok 4 5] [] []) {}
    let p := rig1 wAdd (lane1 [tok 3 5] [tok 4 5] [tok 1 5] []) {}
    let m := rig1 wAdd (lane1 [tok 3 5] [tok 4 6] [] []) {}
    onLane (rigs r) r 0 ∧ r.destRoom oAB.dl.val oAB.dq.val = true ∧ lined r 0 oAB (3, some 5) (4, some 5) none ∧
    lined p 0 oG (3, some 5) (4, some 5) (some (tok 1 5)) ∧ openHigh 0x07 oAB (r.cfg 0) 0 = false ∧ r.destRoom oQ.dl.val oQ.dq.val = false ∧
    m.operand 0 0 = some (3, some 5) ∧ m.operand 0 1 = some (4, some 6) ∧ ¬ sameTS 5 6 :=
  ⟨⟨rfl, rfl, rfl, rfl, by decide⟩, rfl, lined_two rfl rfl rfl rfl nofun,
    lined_two rfl rfl ⟨rfl, rfl⟩ rfl (fun _ h => by cases h; rfl), rfl, rfl, rfl, rfl, by decide⟩

/-- A token in q0 and one in q1, with a predicate of 1 and of 0. -/
theorem witness_SteerAndMergeRouteTokens : let r := rig1 0xF301001C (lane1 [tok 3 5] [tok 4 5] [tok 1 5] []) { const := some (14 * 128) }
    let z := rig1 0xF301001C (lane1 [tok 3 5] [tok 4 5] [tok 0 5] []) {}
    onLane (rigs r) r 0 ∧ (r.lane 0).pq.head? = some (tok 1 5) ∧ (z.lane 0).pq.head? = some (tok 0 5) ∧ ((r.lane 0).queue 0 0).head? = some (tok 3 5) ∧
    ((r.lane 0).queue 1 0).head? = some (tok 4 5) ∧ r.destRoom 0 14 = true ∧ r.destRoom ((r.cfg 0).constant.toNat % 128) ((r.cfg 0).constant.toNat / 128 % 16) = true ∧
    sameTS 5 (5 + 2 ^ 18) ∧ ¬ sameTS 5 (5 + 2 ^ 17) :=
  ⟨⟨rfl, rfl, rfl, rfl, by decide⟩, rfl, rfl, rfl, rfl, rfl, by decide, by decide, by decide⟩

/-- A token in q0 alone, with a predicate of 1 and of 0. -/
def oA : SFields := { oAB with qb := 14 }
theorem witness_AccumulatorsFire : let r := rig1 0xF5000000 (lane1 [tok 3 5] [] [tok 1 5] []) {}
    let z := rig1 0xF5000000 (lane1 [tok 3 5] [] [tok 0 5] []) {}
    onLane (rigs r) r 0 ∧ r.destRoom 0 14 = true ∧ lined r 0 oA (3, some 5) (0, none) none ∧ lined r 0 { oA with g := true } (3, some 5) (0, none) (some (tok 1 5)) ∧
    lined z 0 { oA with g := true } (3, some 5) (0, none) (some (tok 0 5)) :=
  ⟨⟨rfl, rfl, rfl, rfl, by decide⟩, rfl, lined_one rfl rfl rfl nofun,
    lined_one rfl rfl ⟨rfl, rfl⟩ (fun _ h => by cases h; rfl), lined_one rfl rfl ⟨rfl, rfl⟩ (fun _ h => by cases h; rfl)⟩

theorem witness_DupSendsBothCopies : let r := rig1 0xFB000000 (lane1 [tok 3 5] [] [] []) { const := some (14 * 128) }
    let t := rig1 0xFB000000 { lane1 [] [] [] [] with outq := [tok 3 5], group := [tok 3 5] } { const := some (14 * 128) }
    onLane (rigs r) r 0 ∧ (r.lane 0).outq = [] ∧ (r.lane 0).group = [] ∧ lined r 0 { oA with qb := 12 } (3, some 5) ((r.cfg 0).constant, none) none ∧
    onLane (rigs t) t 0 ∧ (t.lane 0).outq = [tok 3 5] ∧ (t.lane 0).group = [tok 3 5] ∧ t.destRoom 7 14 = true ∧ t.destRoom 7 11 = false ∧
    t.destRoom (t.cfg 0).other.1 (t.cfg 0).other.2 = true :=
  ⟨⟨rfl, rfl, rfl, rfl, by decide⟩, rfl, rfl, lined_one rfl rfl rfl nofun,
    ⟨rfl, rfl, rfl, rfl, by decide⟩, rfl, rfl, rfl, rfl, rfl⟩

/-- A chain of one CTR with 2^24 values at its last, and one that is off. -/
def chained (on : Bool) : Rig := { rig1 0xF2EE01C0 {} { ctr := some (0, 0, 1, 2 ^ 24) } with chain := [2 ^ 24 - 1], chainOn := on }
theorem witness_CountersIterate : onLane (rigs (chained true)) (chained true) 0 ∧ ((chained true).lane 0).outq = [] ∧ (chained true).chainReady = true ∧
    (chained false).chainReady = false ∧ (chained true).chain.length = (chained true).counters.length ∧ (chained true).counters ≠ [] ∧
    (∀ x ∈ (chained true).chain.zip ((chained true).counters.map fun c => c.2.2.2), x.1 < x.2) :=
  ⟨⟨rfl, rfl, rfl, rfl, by decide⟩, rfl, by decide, by decide, by decide, by decide, by decide⟩

theorem witness_OrdJoinsItsArcs (k : Word) : let r := rig1 0xF6EE0000 { doneq := [[tok 0 5], [tok 0 k]] } { arcs := [1, 2] }
    onLane (rigs r) r 0 ∧ r.destRoom 0 14 = true ∧ (r.lane 0).doneq.map List.head? = ([tok 0 5, tok 0 k].map some) ∧
    (r.cfg 0).arcs.length = (r.lane 0).doneq.length :=
  ⟨⟨rfl, rfl, rfl, rfl, Nat.zero_lt_succ 7⟩, rfl, rfl, rfl⟩

/-- FP32 to FP16 with one token of the two already there, and with none. -/
theorem witness_ConvConvertsItsGroups : let c : LaneCfg := { conv := some (2, 3) }
    let r := rig1 0xF7000000 { lane1 [tok 0x3F800000 5] [] [] [] with group := [tok 0x40000000 5] } c
    let e := rig1 0xF7000000 (lane1 [tok 0x3F800000 5] [] [] []) c
    onLane (rigs r) r 0 ∧ (r.lane 0).outq = [] ∧ r.destRoom 0 14 = true ∧ ((r.lane 0).queue 0 0).head? = some (tok 0x3F800000 5) ∧ (r.cfg 0).conv = some (2, 3) ∧
    ((r.lane 0).group ++ [tok 0x3F800000 5]).length = convInputs 2 3 ∧ ((e.lane 0).group ++ [tok 0x3F800000 5]).length < convInputs 2 3 ∧
    convOutputs 2 3 [0x40000000, 0x3F800000] ≠ [] ∧ (tok 0 0xF0000005).tag.getLsbD 31 = true :=
  ⟨⟨rfl, rfl, rfl, rfl, by decide⟩, rfl, rfl, rfl, rfl, rfl, by decide, by decide, by decide⟩

theorem witness_RegisterAndMatrixOperatorsFire : let r := rig1 0xF8EE0000 (lane1 [tok 3 5] [] [] [tok 9 5]) {}
    let f := rig1 0xF8EE0000 { fired := true } {}
    onLane (rigs r) r 0 ∧ r.destRoom 0 14 = true ∧ (r.lane 0).fired = false ∧ (f.lane 0).fired = true ∧ (r.lane 0).iq.head? = some (tok 9 5) ∧
    ((r.lane 0).queue 0 0).head? = some (tok 3 5) ∧ (rigs r).group? r.group = some spat ∧ ((rigs r).coreD ⟨0, 0⟩).node.length < 8 ∧
    8 ≤ ({ c1 with node := List.replicate 8 drainItem } : Core).node.length :=
  ⟨⟨rfl, rfl, rfl, rfl, by decide⟩, rfl, rfl, rfl, rfl, rfl, rfl, by decide, by decide⟩

/-- An index token and data; data from the port queue; and a port with a record of its own. -/
theorem witness_PortsStartTheirAccess : let r := rig1 0xF0D101C0 { lane1 [tok 3 5] [tok 4 5] [] [] with portq := [tok 8 5] } {}
    let b := { r with recs := [⟨0, 0, 5, 0, 0, 0, 0, 0⟩] }
    onLane (rigs r) r 0 ∧ (rigs r).portReady r 0 = true ∧ (r.lane 0).outq = [] ∧ r.destRoom 0 14 = true ∧ lined r 0 oAB (3, some 5) (4, some 5) none ∧
    lined r 0 oA (3, some 5) (0, none) none ∧ (r.lane 0).portq.head? = some (tok 8 5) ∧ (rigs b).portReady b 0 = false :=
  ⟨⟨rfl, rfl, rfl, rfl, by decide⟩, rfl, rfl, rfl, lined_two rfl rfl rfl rfl nofun,
    lined_one rfl rfl rfl nofun, rfl, rfl⟩

/-! ### Witnesses: rigs -/

/-- A block that sends s2 through q0 of lane 1 to s3: RDREG, WRREG, two REG items and one QDEPTH item (R85, R87, R196). -/
def graph : List Word := [2 ^ 25 + 3 * 2 ^ 14 + 2 ^ 3, 0xF8EE0200, 0xF90E01C0, 6 * 2 ^ 21 + 2 ^ 6 + 2, 2 ^ 25 + 1, 2 ^ 25 + 6 * 2 ^ 21 + 2 ^ 6 + 3]

/-- A rig at a phase, with no block or with the one of an operator word. -/
def atPhase (p : RigPhase) (b : Option Block) : Rig := { placedRig 0 with phase := p, block := b, lanes := [] }
def opBlock (last mx : Bool) : Block := { addr := 0x200, words := [0, 0xF0EE01C0], ops := [0xF8EE01C0], cfg := [{}], rigLog := 0, last := last, mx := mx }

/-- The block of that graph as it was fetched. -/
def good : Block := Machine.blockOf 0x200 graph []

theorem witness_GraphsAreReadAndChecked : rigIn (rigs (atPhase .descriptor none)) (atPhase .descriptor none) spat .descriptor ∧
    (∃ va ps bs u, (rigs (atPhase .descriptor none)).access spat .gl 0 64 0 .load = (.ok (va, ps), u) ∧ ps.any Piece.atPeer = false ∧
      (u.supplied ps).readArea spat ps = some bs) ∧
    rigIn (rigs (atPhase .fetch none)) (atPhase .fetch none) spat .fetch ∧ (∃ ws u, (rigs (atPhase .fetch none)).fetchBlock spat 0 = (.ok ws, u)) ∧
    (∃ x, (rigs (atPhase .fetch none)).blockBad spat 0 1 [0, 0] = some x) ∧ (rigs (atPhase .fetch none)).blockBad spat 0 1 graph = none ∧
    ((rigs (atPhase .fetch none)).coreD ⟨0, 0⟩).pool = [] ∧
    (∃ h v, (rigs (atPhase .running (opBlock false false))).peekWord spat ((opBlock false false).nextAddr) = (some h, v)) ∧
    (opBlock false false).last = false :=
  ⟨⟨rfl, rfl, rfl, rfl, rfl⟩, ⟨_, _, _, _, rfl, rfl, rfl⟩, ⟨rfl, rfl, rfl, rfl, rfl⟩, ⟨_, _, rfl⟩, ⟨_, rfl⟩, rfl, rfl, ⟨_, _, rfl⟩, rfl⟩

/-- The block above passes every check as block 0 of a graph of at most one; without LAST it is rejected there (R177). -/
theorem test_blockCheck : (rigs (atPhase .fetch none)).blockBad spat 0 1 graph = none ∧ good.last = true ∧ good.ops.length = 2 ∧ good.cfg.length = 2 ∧
    (∃ x, (rigs (atPhase .fetch none)).blockBad spat 0 1 ((2 ^ 25 + 3 * 2 ^ 14) :: graph.tail) = some x) := ⟨rfl, rfl, rfl, rfl, ⟨_, rfl⟩⟩

theorem witness_RigsArePlaced : let r := { atPhase .place (some good) with maxb := 1 }
    let s := { rigs r with cores := [{ c1 with rigs := [r], pool := [.rig g1.id] }], args := { core := ⟨0, 0⟩, group := g1.id } }
    (s.coreD s.args.core).pool = [.rig g1.id] ∧ g1.id.coreId = s.args.core ∧ s.rig? g1.id = some r ∧ r.group = g1.id ∧ r.gated = false ∧
    (opBlock true true).mx = true ∧ (s.coreD s.args.core).claim ≠ some g1.id ∧ (∃ ps gs, s.choosePages s.args.core good = some (ps, gs)) ∧
    s.blockBad spat 0 1 good.words = none ∧ (∃ x, s.blockBad spat 0 1 (opBlock true false).words = some x) ∧ (s.coreD s.args.core).earlierSpat r = false ∧
    (s.coreD g1.id.coreId).pool.head? = some (.rig r.group) ∧
    (∃ x ∈ [NodeItem.token 5 g1.id 0 0 0 none 0 0], ∃ id i k l w hdr wi, x = .token id i k l w none hdr wi) ∧ rigIn s r spat .place ∧ (s.coreD s.args.core).claim = none ∧ (s.coreD s.args.core).updates = [] ∧ (s.coreD s.args.core).node = [] ∧
    (let t := { s with cores := [{ c1 with rigs := [r, { r with group := ⟨0, 0, 1⟩, pages := List.range 16 }] }] }
     t.choosePages ⟨0, 0⟩ good = none) :=
  ⟨rfl, rfl, rfl, rfl, rfl, rfl, by decide, ⟨_, _, rfl⟩, rfl, ⟨_, rfl⟩, rfl, rfl, ⟨_, .head _, _, _, _, _, _, _, _, rfl⟩, ⟨rfl, rfl, rfl, rfl, rfl⟩, rfl, rfl, rfl, rfl⟩

theorem witness_RigsStartConfigured (b : Bool) : let r := { rig1 0xF8EE01C0 {} {} with phase := .config, lanes := List.replicate 8 { loaded := b } }
    let s := { rigs r with args := { group := g1.id, t := 7 } }
    rigIn s r spat .config ∧ s.args.t < r.lanes.length ∧ (∀ l ∈ r.lanes, l.loaded = b) ∧ r.gated = false := by
  refine ⟨⟨rfl, rfl, rfl, rfl, rfl⟩, Nat.lt_succ_self 7, ?_, rfl⟩
  intro l hl
  simp only [List.mem_replicate] at hl
  rw [hl.2]

/-- A token of context 0, and one of context 1, to q11 of lane 7; and a second token of the same path. -/
def flying (fs : List Flight) : Rig := { rig1 wAdd {} {} with flight := fs, returns := [⟨7, 11, 0⟩] }
theorem witness_TokensAndSlotsArrive : let f : Flight := ⟨0, 7, 11, 0, tok 3 5⟩
    let x : Flight := ⟨0, 7, 11, 0, tok 3 (5 + 2 ^ 18)⟩
    rigMoves (rigs (flying [f])) (flying [f]) spat ∧ (flying [f]).flight[(rigs (flying [f])).args.k]? = some f ∧ f.lane < (flying [f]).lanes.length ∧
    f.qc < 15 ∧ firstOnPath (flying [f]) 0 f ∧ f.tok.tag.toNat / 2 ^ 18 % 1024 = ((flying [f]).context).toNat ∧
    x.tok.tag.toNat / 2 ^ 18 % 1024 ≠ ((flying [x]).context).toNat ∧ (flying [f, f]).flight[1]? = some f ∧ ¬ firstOnPath (flying [f, f]) 1 f :=
  ⟨⟨⟨rfl, rfl, rfl, rfl, rfl⟩, rfl⟩, rfl, by decide, by decide, by decide, rfl, by decide, rfl, by decide⟩

/-- A port on the shared store that moves four bytes at `base`, and its oldest access. -/
def ported (w : Word) (base : DWord) (data : Option DWord) : Rig :=
  { rig1 w {} { port := some ⟨2 + 2 ^ 3, base, 4⟩ } with accs := [{ lane := 0, iter := 0, idx := tok 0 5, data := data }] }
def porting (r : Rig) : State := { rigs r with args := { group := g1.id, t := 0 } }

theorem witness_PortsReply : let r := ported 0xF0DE01C0 65532 none
    let p : PortCfg := ⟨2 + 2 ^ 3, 65532, 4⟩
    let w := ported 0xF1D001C0 65532 (some 7)
    let f := ported 0xF0DE01C0 65533 none
    let b := ported 0xF0DE01C0 (2 ^ 32) none
    rigMoves (porting r) r spat ∧ r.accs.find? (fun x => x.lane = (porting r).args.t) = some { lane := 0, iter := 0, idx := tok 0 5, data := none } ∧
    (r.cfg 0).port = some p ∧ r.ops[0]? = some 0xF0DE01C0 ∧ r.recs = [] ∧ p.op = 0 ∧ p.order = 0 ∧ p.sh = true ∧ p.size = 4 ∧
    spat.out = [] ∧ spat.stores = [] ∧ spat.tx = none ∧ (porting r).poison = [] ∧ (r.lane 0).outq = [] ∧ r.destRoom 0 14 = true ∧
    (porting r).access spat .sh 65532 4 0 .load = (.ok (65532, [⟨.sh 0 0 65532, 4, .d, none⟩]), porting r) ∧
    (porting w).access spat .sh 65532 4 0 .store = (.ok (65532, [⟨.sh 0 0 65532, 4, .d, none⟩]), porting w) ∧
    (∃ c va u, (porting f).access spat .sh 65533 4 0 .load = (.error (.fault c va), u)) ∧ (b.cfg 0).port = some { p with base := 2 ^ 32 } :=
  ⟨⟨⟨rfl, rfl, rfl, rfl, rfl⟩, rfl⟩, rfl, rfl, rfl, rfl, rfl, rfl, rfl, rfl, rfl, rfl, rfl, rfl, rfl, rfl, rfl, rfl, ⟨_, _, _, rfl⟩, rfl⟩

theorem witness_PortRecordsAreDelivered : let x : PortRec := ⟨0x200, 0, 5, 0, 0, 0, 0, 0⟩
    let r := { ported 0xF0DE01C0 (2 ^ 32) none with recs := [x] }
    rigMoves (porting r) r spat ∧ x ∈ r.recs ∧ (∀ y ∈ r.recs, y ≠ x → x.lane < y.lane) ∧ r.recs.Nodup ∧ r.flight = [] ∧ r.returns = [] ∧ r.ops.length = 1 ∧
    (porting r).fireLane r 0 = none ∧ (∀ a ∈ r.accs, ∃ y ∈ r.recs, y.lane = a.lane) :=
  ⟨⟨⟨rfl, rfl, rfl, rfl, rfl⟩, rfl⟩, by decide, by decide, by decide, rfl, rfl, rfl, rfl, by decide⟩

/-- A rig whose RDREG has fired, with nothing left in it: of the last block, and of one before it whose next block is read ahead. -/
def idle (last : Bool) (ahead : Ahead) : Rig :=
  { rig1 0xF8EE01C0 { fired := true } {} with block := some (opBlock last false), ahead := ahead, maxb := 2 }
def next1 : Rig := { idle false (.block good) with block := some { good with last := false } }
theorem witness_QuiescenceEndsALoad : rigMoves (rigs (idle true .none)) (idle true .none) spat ∧ (idle true .none).block = some (opBlock true false) ∧
    (idle true .none).quiescent = true ∧ (flying []).quiescent = false ∧ spat.restore = none ∧ (∀ l ∈ (idle true .none).lanes, l.wr = none) ∧
    next1.quiescent = true ∧ next1.ahead = .block good ∧ next1.compact = false ∧ next1.gated = false ∧
    ((rigs next1).put spat).blockBad spat 1 2 good.words = none ∧
    (∃ x, ((rigs next1).put spat).blockBad spat 1 2 (opBlock true false).words = some x) ∧
    good.granules ≤ { good with last := false }.granules ∧
    ((rigs (idle false .none)).coreD ⟨0, 0⟩).claim = none ∧ (idle false .none).pages.length = 2 ^ (opBlock false false).rigLog :=
  ⟨⟨⟨rfl, rfl, rfl, rfl, rfl⟩, rfl⟩, rfl, rfl, rfl, rfl, by decide, rfl, rfl, rfl, rfl, rfl, ⟨_, rfl⟩, by decide, rfl, rfl⟩

theorem test_writeRegResults : let l : Lane := { wr := some 7 }
    let r := rig1 0xF90E01C0 l { reg := some (true, 63, 0) }
    (r.lane 0).wr = some 7 ∧ (r.cfg 0).reg = some (true, 63, 0) ∧ (r.writeRegs spat).sget 2 = spat.sget 2 := ⟨rfl, rfl, rfl⟩

/-- A token in q0 of lane 0 that has no partner, and an RDREG that never fires for want of a room. -/
def stuck : Rig := { rig1 wAdd {} {} with lanes := { lane1 [tok 3 5] [] [] [] with loaded := true } :: List.replicate 7 { loaded := true } }
theorem witness_StuckRigsStop : rigMoves (rigs stuck) stuck spat ∧ stuck.gated = false ∧ stuck.quiescent = false ∧ stuck.flight = [] ∧ stuck.returns = [] ∧
    stuck.accs = [] ∧ stuck.recs = [] ∧ stuck.ops.length = 1 ∧ (rigs stuck).fireLane stuck 0 = none ∧
    ((stuck.lane 0).queue 0 0)[stuck.matched 0 (0, 0)]? = some (tok 3 5) :=
  ⟨⟨⟨rfl, rfl, rfl, rfl, rfl⟩, rfl⟩, rfl, rfl, rfl, rfl, rfl, rfl, rfl, rfl, rfl⟩

/-- A team that is taken or not, with a rig that is gated or not and whose sources are done or not. -/
def savedRig (taken gated : Bool) (r : Rig) : State := { rigs { r with gated := gated } with teams := [{ t1 with taken := taken }] }
theorem witness_RigsAreGatedAndSaved (taken gated : Bool) : let r := { idle true .none with gated := gated }
    let q := { chained true with gated := gated }
    rigIn (savedRig taken gated (idle true .none)) r spat .running ∧ (savedRig taken gated (idle true .none)).teamOf spat = some { t1 with taken := taken } ∧
    r.sourcesDone = true ∧ q.sourcesDone = false ∧ r.flight = [] ∧ r.returns = [] ∧ r.ops.length = 1 ∧ (savedRig taken gated (idle true .none)).fireLane r 0 = none :=
  ⟨⟨rfl, rfl, rfl, rfl, rfl⟩, rfl, rfl, rfl, rfl, rfl, rfl, rfl⟩
/-! ### Witnesses: performed accesses, lines, translations -/

/-- One thread's four bytes of the device's memory, of a peer and of the host. -/
def access1 (kind : LLKind) (pa : Nat) (args : List Word) : Outst := { seq := 0, ctr := 0, kind := kind, d := 1, dst := [.v 1], todo := [⟨0, 0, [⟨.pa pa, 4, .d, none⟩], args⟩] }
def outG (o : Outst) : Machine.Group := { g2 with out := [o] }
def peerPa : Nat := 2 ^ 48 + 9 * 2 ^ 40
def linked (s : State) : State := { s with ua := s.ua.set 15 { state := .up }, hostLink := { state := .up } }

theorem witness_LoadPerformReturnsTheBytes : let o := access1 (.load 4 false none) (0xC000000000 - 4) []
    let q := access1 (.load 4 false none) peerPa []
    (mapped (outG o)).due = some (outG o, o, ⟨0, 0, [⟨.pa (0xC000000000 - 4), 4, .d, none⟩], []⟩) ∧ isHbm (0xC000000000 - 4) = true ∧
    (mapped (outG o)).blocked (outG o) 0 0 [⟨.pa (0xC000000000 - 4), 4, .d, none⟩] true false = false ∧ (outG o).stores = [] ∧ (outG o).tx = none ∧ (mapped (outG o)).poison = [] ∧
    (mapped (outG o)).awaitsAck 0 ⟨.pa (0xC000000000 - 4), 4, .d, none⟩ = false ∧
    (mapped (outG q)).due = some (outG q, q, ⟨0, 0, [⟨.pa peerPa, 4, .d, none⟩], []⟩) ∧ (mapped (outG q)).linkUp peerPa = false ∧
    (linked (mapped (outG q))).linkUp peerPa = true ∧ isPeer peerPa = true := ⟨rfl, rfl, by decide, rfl, rfl, rfl, rfl, rfl, by decide, by decide, by decide⟩

theorem witness_AtomicsPerformAtTheHome : let o := access1 (.atomic .fetchAdd 4 .dev .rlx) 0 [5]
    let h := access1 (.atomic .cas 4 .dev .rlx) (2 ^ 51) [5, 6]
    (mapped (outG o)).due = some (outG o, o, ⟨0, 0, [⟨.pa 0, 4, .d, none⟩], [5]⟩) ∧ (mapped (outG o)).blocked (outG o) 0 0 [⟨.pa 0, 4, .d, none⟩] false false = false ∧
    (mapped (outG o)).poison = [] ∧ o.held = [] ∧ (∀ c ∈ (mapped (outG o)).cores, c.l1s = []) ∧ (mapped (outG o)).exclusive none (lineOf 0) = true ∧
    (mapped (outG h)).due = some (outG h, h, ⟨0, 0, [⟨.pa (2 ^ 51), 4, .d, none⟩], [5, 6]⟩) ∧ isHost (2 ^ 51) = true ∧ (linked (mapped (outG h))).linkUp (2 ^ 51) = true ∧
    (mapped (outG h)).blocked (outG h) 0 0 [⟨.pa (2 ^ 51), 4, .d, none⟩] false false = false ∧
    (mapped (outG h)).ownable none (2 ^ 51) = true ∧
    (let x : StoreReq := ⟨0, 0, 0, [(⟨.pa 4, 4, .d, none⟩, [0, 0, 0x80, 0x3F])], none, true, []⟩
     (mapped { g2 with stores := [x] }).group? (mapped { g2 with stores := [x] }).args.group = some { g2 with stores := [x] } ∧
     ({ g2 with stores := [x] } : Machine.Group).storeReq? 0 0 = some x ∧ (mapped { g2 with stores := [x] }).blocked { g2 with stores := [x] } 0 0 x.pieces false false = false) :=
  ⟨rfl, by decide, rfl, rfl, by decide, rfl, rfl, by decide, by decide, by decide, by decide, rfl, rfl, by decide⟩

/-- Two threads of one beat whose words lie in one line, and a third in another line: the step takes the first two. -/
def addG : Machine.Group :=
  { g2 with stores := [4, 8, 132].zipIdx.map fun x => ⟨0, x.2, 0, [(⟨.pa x.1, 4, .d, none⟩, [0, 0, 0x80, 0x3F])], none, true, []⟩ }
theorem witness_AddsOfOneLine : let s := { mapped addG with args := { k := 0, t := 1 } }
    s.group? s.args.group = some addG ∧ (∃ x, addG.storeReq? s.args.k s.args.t = some x ∧ x.add = true ∧ Slice0.wordOf x = some (8, [0, 0, 0x80, 0x3F])) ∧
    addG.stores.Pairwise (fun y z => y.seq ≠ z.seq ∨ y.thread ≠ z.thread) ∧ (∀ c ∈ s.cores, c.l1s = []) ∧ s.exclusive none (lineOf 8) = true ∧
    (∀ y ∈ addG.stores, y.rel = none ∧ (Slice0.wordOf y).isSome = true ∧ (mapped addG).blocked addG y.seq y.thread y.pieces false false = false) ∧
    addG.stores.filterMap (fun y => (Slice0.wordOf y).map fun w => lineOf w.1) = [0, 0, 128] :=
  ⟨rfl, ⟨_, rfl, rfl, rfl⟩, by decide, by decide, rfl, by decide, rfl⟩

/-- A line that dies 0 and 7 and the host are listed for, with an invalidation to die 7 that is or is not done, and its L2 copies. -/
def shared (dropped : Bool) : State :=
  { State.reset with invals := [{ line := 128, die := some 7, dropped := dropped }], dir := [⟨128, [0, 7], true⟩], l2 := [⟨7, 128, .dirty⟩, ⟨0, 128, .shared⟩], args := { pa := 200, n := 7 } }
theorem witness_InvalidationsRunTheirCourse (b : Bool) : (shared b).invals[(shared b).args.k]? = some { line := 128, die := some 7, dropped := b } ∧ (shared b).args.x ≠ 1 ∧
    7 ∈ ((shared b).dirOf 128).dies ∧ ((shared b).dirOf 128).host = true ∧ (shared b).args.ok = true ∧
    (shared b).args.n = 7 ∧ (shared b).args.pa = 200 ∧ (⟨7, 128, .dirty⟩ : L2Line) ∈ (shared b).l2 ∧ (⟨0, 128, .shared⟩ : L2Line) ∈ (shared b).l2 :=
  ⟨rfl, nofun, .tail _ (.head _), rfl, rfl, rfl, rfl, .head _, .tail _ (.head _)⟩

/-- A core with one dirty S byte; a transaction that marks its line; and a PUBLISH whose earlier store is not performed. -/
def publishG (l : List StoreReq) : Machine.Group := { g2 with out := [{ seq := 1, ctr := 0, kind := .publish .dev 0 64, ready := false }], stores := l }
def byteStore : StoreReq := ⟨0, 0, 0, [(⟨.pa 255, 1, .s, none⟩, [7])], none, false, []⟩
def dirtyByte (g : Machine.Group) (l : List L1Byte) : State :=
  { mapped g with cores := [{ c1 with l1s := l }], args := { pa := 255, x := 1, k := 1, ok := false } }
set_option maxRecDepth 40000 in
theorem witness_CoresGiveUpTheirCopies : ((dirtyByte g2 [⟨255, 7, true⟩]).coreD ⟨0, 0⟩).l1s = [⟨255, 7, true⟩] ∧ (dirtyByte g2 []).ownable (some 0) 255 = true ∧
    ({ dirtyByte g2 [⟨255, 7, true⟩] with dir := [⟨128, [3], false⟩] } : State).ownable (some 0) 255 = false ∧ (dirtyByte g2 []).args.ok = false ∧
    (∀ g ∈ (dirtyByte g2 []).groups, g.tx = none) ∧
    (let t : Tx := { abortHdr := 0, mask := 1, reads := [.pa 192] }
     (dirtyByte { g2 with tx := some t } []).group? g2.id = some { g2 with tx := some t } ∧ 128 ∈ t.lines ∧ t.small = true ∧ t.seen = none ∧
     ({ t with writes := (List.range 1025).map fun i => .pa (64 * i) } : Tx).small = false) ∧
    (dirtyByte (publishG []) []).group? g2.id = some (publishG []) ∧ (publishG []).out.find? (fun o => o.seq = 1) = (publishG []).out.head? ∧
    (publishG []).settledBefore 1 = true ∧ (publishG [byteStore]).settledBefore 1 = false := by
  refine ⟨rfl, by decide, by decide, rfl, by decide, ⟨rfl, by decide, by decide, rfl, by decide⟩, rfl, rfl, by decide, by decide⟩

theorem witness_TranslationsAreCachedAndDropped : let s : State := { mapped g2 with ctxs := [ctx0], mem := window.drop 4, args := { x := 2 ^ 30 - 1 } }
    let g := { g2 with out := [{ seq := 0, ctr := 0, kind := .tlbinv .dev false 0, ready := false }] }
    s.walk s.args.n s.args.x.toNat = .page ⟨0, 2 ^ 30, 0xB000, leaf⟩ ∧ s.args.core.die < 8 ∧ (∀ p, State.reset.walk 0 0 ≠ .page p) ∧
    (mapped g).group? (mapped g).args.group = some g ∧ g.out.find? (fun o => o.seq = 0 ∧ o.ready = false) = g.out.head? ∧ (∃ k ∈ (mapped g).cores, k.id = g.id.coreId) ∧
    (let h := { g2 with status := .held, wait := some { kind := .hmask } }
     let s : State := { mapped h with hmaskQ := [⟨11, 5, 1, g2.id⟩] }
     s.hmaskQ[s.args.k]? = some ⟨11, 5, 1, g2.id⟩ ∧ s.group? g2.id = some h) :=
  ⟨by decide, by decide, nofun, rfl, rfl, ⟨_, .head _, rfl⟩, rfl, rfl⟩

theorem witness_TimeoutsLoseTheirAccesses : let o := { access1 (.load 4 false none) peerPa [] with todo := [⟨0, 0, [⟨.pa peerPa, 4, .d, none⟩], []⟩, ⟨1, 8, [⟨.pa 8, 4, .d, none⟩], []⟩] }
    let s : State := { linked (mapped (outG o)) with args := { port := .ua 15 } }
    s.group? g2.id = some (outG o) ∧ (∀ u ∈ s.teams, u.sleep = none) ∧ (outG o).out = [o] ∧ o.held = [] ∧ (∀ h ∈ s.groups, h.stores = []) ∧
    o.kind.accesses = true ∧ o.todo.Pairwise (fun x y => x.thread ≠ y.thread) ∧ s.through (.ua 14) 8 = false :=
  ⟨rfl, by decide, rfl, rfl, by decide, rfl, by decide, rfl⟩

/-! ### Witnesses: the host, links, chains, contexts, the register space, services -/

/-- The host's port UP, with the HDM decoder mapping host address 2^40 to the device's first GiB; the last 4 bytes of that GiB. -/
def hosted (a : StepArgs) : State := { State.reset with hostLink := { state := .up }, hdm := ⟨2 ^ 40, 2 ^ 30, 0, true⟩, args := a }
theorem witness_TheHostReachesTheDevice : let a : StepArgs := { pa := 2 ^ 40 + 2 ^ 30 - 4, n := 4, data := some [1, 2, 3, 4] }
    (hosted a).hdmAddr a.pa 4 = some (2 ^ 30 - 4) ∧ (2 ^ 30 - 4) % 128 + 4 ≤ 128 ∧ (hosted a).backInval (lineOf (2 ^ 30 - 4)) = none ∧
    ((hosted a).dirOf (lineOf (2 ^ 30 - 4))).dies = [] ∧ (hosted a).watchers = [] ∧ (hosted a).hdmAddr (a.pa + 1) 4 = none ∧ State.reset.hostLink.state ≠ .up ∧
    (hosted { pa := 2 ^ 51 + 5 }).args.pa / 128 * 128 = 2 ^ 51 ∧ isHost (2 ^ 51 + 5) = true ∧ (hosted { pa := 8, n := 8 }).exclusive none (lineOf 8) = true ∧ (hosted { pa := 8, n := 8 }).backed 8 = true ∧
    ((hosted { pa := 8, n := 8 }).dirOf (lineOf 8)).dies = [] ∧ (∀ i ∈ ({ hosted { pa := 8, n := 8 } with invals := [{ line := 0, die := none }] } : State).invals,
      i.line = lineOf 8 → i.die = none ∧ i.yielded = false) ∧ (({ hosted { pa := 8, n := 8 } with dir := [⟨0, [3], false⟩] } : State).dirOf (lineOf 8)).dies ≠ [] ∧ (lineOf (2 ^ 30 - 4) ∉ (hosted a).owed ∧ lineOf (2 ^ 30 - 4) ∈ ({ hosted a with owed := [lineOf (2 ^ 30 - 4)] } : State).owed) ∧ (∀ b : Bool, ({ hosted a with invals := [{ line := lineOf (2 ^ 30 - 4), die := none, yielded := b }] } : State).backInval (lineOf (2 ^ 30 - 4)) = some 0) ∧
    ({ hosted { data := some (List.replicate 128 1) } with invals := [{ line := 128, die := none }] } : State).invals[0]? = some { line := 128, die := none } := by decide

/-- A chain slot that runs as the first of two stages on this device, its next one, and a device that is READY with port 15 of a state. -/
def stage (n : Nat) : Chain := { en := true, ctl := BitVec.ofNat 32 (n * 2 ^ 15 + 2 ^ 10 + 3 * 2 ^ 7), len := 16, apbase := 0, ctx := 0, dest := 0, done := 64, state := .running, localElems := [(4, 7)] }
def linkedAs (st : LinkState) (spare : Nat) : State := { State.reset with psc := { boot := .ready }, ua := State.reset.ua.set 15 ⟨st, spare⟩, args := { port := .ua 15 } }
def inChain (n : Nat) (back : List (Nat × DWord)) : State :=
  { State.reset with chains := (State.reset.chains.set 15 { stage n with incoming := back }).set 14 { stage 1 with localElems := [] }, args := { k := 15, n := 4 } }

theorem witness_LinksChangeState (st : LinkState) (n : Nat) : (linkedAs st n).migrations = [] ∧ (∀ u ∈ (linkedAs st n).teams, u.sleep = none) ∧
    (linkedAs st n).watchers = [] ∧ (linkedAs st n).groups = [] ∧ (linkedAs st n).psc.boot = .ready ∧ State.reset.psc.boot ≠ .ready ∧
    ((linkedAs st n).link (.ua 15)).state = st ∧ ((linkedAs st n).link (.ua 15)).spare = n ∧
    (let c : Chain := { stage 0 with nextDev := 9 * 256 }
     c.isLast = false ∧ c.ndev ≠ State.reset.devidx) ∧
    (let c : Chain := { stage 1 with feeder := some 9 }
     c.state = .running ∧ c.feeder = some 9 ∧ 9 ≠ State.reset.devidx) :=
  ⟨rfl, nofun, rfl, rfl, rfl, nofun, rfl, rfl, (by decide), by decide⟩

/-- The only port that is UP carries a peer's accesses. -/
theorem witness_ThroughItsPort : (linkedAs .up 1).through (.ua 15) (2 ^ 48 + 9 * 2 ^ 40) = true := by
  have h : (linkedAs .up 1).uaPortOf (2 ^ 48 + 9 * 2 ^ 40) = some 15 := by
    unfold State.uaPortOf
    rw [show ((List.range 16).filter fun i => ((linkedAs .up 1).ua[i]?.map fun l => decide (l.state = .up)).getD false) = [15] by decide]
    simp [Nat.mod_one]
  simp only [State.through, h]
  decide

theorem witness_ChainSlotsAreSet (st : ChainState) (en : Bool) : let s : State :=
      { State.reset with psc := { boot := .ready }, chains := State.reset.chains.set 15 { en := en, state := st }, args := { k := 15 } }
    s.args.k = (15 : Fin 16).val ∧ s.psc.boot = .ready ∧ s.chains[(15 : Fin 16)].en = en ∧ s.chains[(15 : Fin 16)].state = st := ⟨rfl, rfl, rfl, rfl⟩

theorem witness_ChainStagesAdd : let s := inChain 0 []
    let t := inChain 1 [(4, 3)]
    s.args.k = (15 : Fin 16).val ∧ s.chains[(15 : Fin 16)].state = .running ∧ s.args.n % s.chains[(15 : Fin 16)].elem = 0 ∧ s.args.n < s.chains[(15 : Fin 16)].len.toNat ∧
    s.args.ok = true ∧ s.args.data = none ∧ s.chains[(15 : Fin 16)].localElems = [(4, 7)] ∧ s.nextStage s.chains[(15 : Fin 16)] = some 14 ∧
    s.chains[(15 : Fin 16)].stage < s.chains[(15 : Fin 16)].nstg ∧ s.chains[(15 : Fin 16)].ndev = s.devidx ∧
    t.chains[(15 : Fin 16)].stage = t.chains[(15 : Fin 16)].nstg ∧ t.chains[(15 : Fin 16)].incoming = [(4, 3)] ∧ t.ownableAll none [(4, 4)] = true ∧ t.ownableAll none [(4, 4), (64, 8)] = true ∧
    s.chainStarted s.chains[(15 : Fin 16)] = true ∧ t.chainStarted t.chains[(15 : Fin 16)] = true ∧ 4 ∉ t.chains[(15 : Fin 16)].sent ∧
    s.chains[(15 : Fin 16)].stage < s.chains[(15 : Fin 16)].nstg ∧
    ({ s with chains := s.chains.set 14 { stage 1 with en := false } } : State).chainStarted s.chains[(15 : Fin 16)] = false ∧
    ({ s with chains := s.chains.set 14 { stage 1 with state := .idle } } : State).chainStarted s.chains[(15 : Fin 16)] = false ∧
    (let l := { t.chains[(15 : Fin 16)] with sent := [0, 8, 12] }
     (l.sent.length + 1) * l.elem = l.len.toNat) ∧
    ¬ ((t.chains[(15 : Fin 16)].sent.length + 1) * t.chains[(15 : Fin 16)].elem = t.chains[(15 : Fin 16)].len.toNat) := by decide

theorem witness_ContextsAreEnabledAndDisabled (b : Bool) : let s : State :=
      { State.reset with ctxReg := State.reset.ctxReg.set 255 (b, 0x8000), psc := { boot := .ready }, args := { n := 255 } }
    s.args.n = (255 : Fin 256).val ∧ s.ctxReg[(255 : Fin 256)] = (b, 0x8000) ∧ s.psc.boot = .ready ∧ State.reset.ctxReg[(255 : Fin 256)] = (false, 0) ∧
    State.reset.psc.boot ≠ .ready := by
  refine ⟨rfl, ?_, rfl, ?_, by decide⟩ <;> simp [State.reset]

theorem witness_TheRegisterSpaceIsWritten : let s := fun (pa n : Nat) (d : Option (List Byte)) => ({ State.reset with args := { pa := pa, n := n, data := d } } : State)
    (s 6 4 none).args.k = 0 ∧ (s 6 4 none).args.pa % 4 ≠ 0 ∧ (s 0x1FFFFFC 4 none).args.pa < 0x2000000 ∧
    (s (0x30000 + 4 * 255) 4 (some (natToBytes 4 7))).args.data = some (natToBytes 4 (7 : Word).toNat) ∧ 0x10000 + 16 * 255 < 0x20000 ∧
    (∀ i : Fin 16, State.reset.ua[i].state ≠ .up) ∧ (linkedAs .up 1).ua[(15 : Fin 16)].state = .up ∧ State.reset.hdm.enabled = false ∧
    (hosted {}).hdm.enabled = true := ⟨rfl, by decide, by decide, rfl, by decide, by decide, rfl, rfl, rfl⟩

theorem witness_TheDeviceIsServiced : (linkedAs .up 1).stale = [] ∧ (linkedAs .up 1).psc.boot = .ready ∧ (linkedAs .up 1).decoderOk 15 (0 ||| 0x8000000000000000#64) = true ∧
    isHbm 0 = true ∧ Poison.cell (Spot.pa 0).ecc ∉ State.reset.poison ∧ Poison.cell (Spot.sh 7 319 524287).ecc ∉ State.reset.poison ∧
    (let s : State := { linkedAs .up 1 with grooms := State.reset.grooms.set 11 { loaded := true, pcSpares := 0 }, args := { k := 11 } }
     s.grooms[(11 : Fin 12)].loaded = true ∧ s.grooms[(11 : Fin 12)].pcSpares = 0 ∧ 0 < s.grooms[(10 : Fin 12)].pcSpares ∧
     s.grooms[(10 : Fin 12)].loaded = false ∧ ({ reply := .lost } : StepArgs).reply = .lost ∧ s.args.reply ≠ .lost) ∧
    (let s : State := { linkedAs .up 1 with expanders := State.reset.expanders.set 0 0x6001 }
     (∀ i, i < 2 ^ 0 → let x := s.expanders.toArray.getD (16 * 0 + (0 + i)) 0
       x.getLsbD 14 = true ∧ x.getLsbD 13 = true)) := by decide

/-- A device without stacks whose ports' first GiB is persistent, with both links UP; and the record that R453 makes of it. -/
def ckpted (st : CkptState) (a : StepArgs) (m : Memory) : State :=
  { State.reset with
    psc := { boot := .ready }
    caps := { inService := 0 }
    decoders := (State.reset.decoders.set 0 0xC000000040000000).set 8 0xC000000040000000
    capLink := Vector.replicate 2 { state := .up }
    ckpt := { state := st, tgt0 := 0x40000000000, tgt1 := 0x60000000000 }
    mem := m
    args := a }

theorem witness_CheckpointsRunTheirCourse (st : CkptState) (b : Bool) : let s := ckpted st { ok := b } []
    s.psc.boot = .ready ∧ s.ckpt.state = st ∧ s.args.ok = b ∧ s.ctxs = [] ∧ (∀ k ∈ s.cores, k.retired = false) ∧
    (∀ i : Fin 2, s.capLink[i].state = .up) ∧ ({ s with held := true } : State).held = true ∧ (∀ u ∈ s.teams, u.live = 0) ∧ s.args.t = 0 ∧
    (ckpted st { ok := b, t := 1, pa := 130 } []).args.t ≠ 0 ∧ State.reset.imageCovered 0 = false ∧
    (∃ u ∈ ({ s with teams := [t1] } : State).teams, u.live ≠ 0) ∧ (∀ k ∈ s.cores, s.backable k.id (fun _ => true) = true) ∧
    (∃ k ∈ [({ id := ⟨0, 0⟩, l1s := [⟨255, 7, true⟩] } : Core)], ({ s with cores := [k], dir := [⟨128, [3], false⟩] } : State).backable k.id (fun _ => true) = false) :=
  ⟨rfl, rfl, rfl, rfl, nofun, fun i => by fin_cases i <;> rfl, rfl, nofun, rfl, nofun, rfl, ⟨_, .head _, by decide⟩, nofun, ⟨_, .head _, rfl⟩⟩

theorem foldl_lt {α : Type} (f : Nat → α → Nat) (l : List α) (c : Nat) (h : ∀ c x, c < 2 ^ 32 → f c x < 2 ^ 32) (hc : c < 2 ^ 32) :
    l.foldl f c < 2 ^ 32 := by
  induction l generalizing c with
  | nil => exact hc
  | cons x l ih => exact ih _ (h c x hc)

theorem crc32c_lt (bs : List Byte) : crc32c bs < 2 ^ 32 := by
  refine Nat.xor_lt_two_pow (foldl_lt _ _ _ (fun c b hc => foldl_lt _ _ _ (fun c _ hc => ?_) ?_) (by decide)) (by decide)
  · dsimp only
    split
    · exact Nat.xor_lt_two_pow (by omega) (by decide)
    · omega
  · exact Nat.xor_lt_two_pow hc (by have := b.isLt; omega)

theorem natToBytes_length (n x : Nat) : (natToBytes n x).length = n := by
  induction n generalizing x with
  | zero => rfl
  | succ n ih => rw [natToBytes, List.length_cons, ih]

theorem bytesToNat_word (x : Nat) (h : x < 2 ^ 32) : bytesToNat (natToBytes 4 x) = x := by
  simp only [natToBytes, bytesToNat, BitVec.toNat_ofNat]
  omega

theorem paBytes_eq {s : State} {bs : List Byte} (a : Nat) (h : ∀ i, i < bs.length → s.readPa (a + i) = bs.getD i 0) : s.paBytes a bs.length = bs := by
  induction bs generalizing a with
  | nil => rfl
  | cons b bs ih =>
    rw [List.length_cons, State.paBytes, ih (a + 1) (fun i hi => by simpa [Nat.add_assoc, Nat.add_comm 1] using h (i + 1) (by simpa using hi))]
    simpa using h 0 (by simp)

/-- A record is a body of 4,092 bytes and its CRC. -/
theorem ckptRecord_parts (s : State) : ∃ body, body.length = 4092 ∧ s.ckptRecord = body ++ natToBytes 4 (crc32c body) := by
  have hl : ∀ ws : List Nat, (ws.flatMap (natToBytes 4)).length = 4 * ws.length := by
    intro ws
    induction ws with
    | nil => rfl
    | cons w ws ih => simp only [List.flatMap_cons, List.length_append, natToBytes_length, ih, List.length_cons]; omega
  refine ⟨_, ?_, rfl⟩
  rw [List.length_append, hl, List.length_replicate, List.length_append, List.length_flatMap]
  simp only [List.length_map, Vector.length_toList, List.map_const', List.sum_replicate, List.length_cons, List.length_nil, smul_eq_mul]

/-- A record that stands at its target fits the device that wrote it. -/
theorem recordFits_own (s : State) (p : Nat) (h : s.paBytes (s.ckptTarget p + s.imageSize p) 4096 = s.ckptRecord) : s.recordFits p = true := by
  obtain ⟨body, hb, e⟩ := ckptRecord_parts s
  have ht : s.ckptRecord.take 4092 = body := by rw [e, List.take_left' hb]
  have hd : s.ckptRecord.drop 4092 = natToBytes 4 (crc32c body) := by rw [e, List.drop_left' hb]
  simp only [State.recordFits, h, ht, hd, bytesToNat_word _ (crc32c_lt body), beq_self_eq_true, Bool.and_self]

theorem bytes_of_two {s : State} {bs : List Byte} (t0 t1 : Nat) (hm : s.mem = (Memory.writeBytes [] t0 bs).writeBytes t1 bs) (hc : s.ctxs = [])
    (h0 : 12 * 2 ^ 36 ≤ t0) (h1 : t0 + bs.length ≤ t1) : s.paBytes t0 bs.length = bs ∧ s.paBytes t1 bs.length = bs := by
  have hr : ∀ a, 12 * 2 ^ 36 ≤ a → s.readPa a = s.mem.read a := by
    intro a ha
    have e : s.cellOf a = a := dif_neg (by omega)
    have w : s.windowHole a = false := by rw [State.windowHole, hc]; rfl
    rw [State.readPa, e, w]; rfl
  constructor <;> refine paBytes_eq _ fun i hi => ?_ <;> rw [hr _ (by omega), hm, Memory.read_writeBytes (Memory.writeBytes_wf Memory.wf_nil _ _)]
  · rw [if_neg (by omega), Memory.read_writeBytes Memory.wf_nil, if_pos (by omega), Nat.add_sub_cancel_left]
  · rw [if_pos (by omega), Nat.add_sub_cancel_left]

/-- A device without stacks with bytes at both targets; its record does not depend on them. -/
def recorded (r : List Byte) : State := ckpted .idle {} ((Memory.writeBytes [] 0x40000000000 r).writeBytes 0x60000000000 r)
theorem recorded_record (r : List Byte) : (recorded r).ckptRecord = (ckpted .idle {} []).ckptRecord := rfl

theorem witness_RecordsFit : ∃ r, (recorded r).recordFits 0 = true ∧ (recorded r).recordFits 1 = true := by
  obtain ⟨body, hb, e⟩ := ckptRecord_parts (ckpted .idle {} [])
  have hl : (ckpted .idle {} []).ckptRecord.length = 4096 := by rw [e, List.length_append, hb, natToBytes_length]
  generalize hr : (ckpted .idle {} []).ckptRecord = r at hl
  have h := bytes_of_two (s := recorded r) 0x40000000000 0x60000000000 rfl rfl (by omega) (by omega)
  rw [hl] at h
  have e0 : (recorded r).ckptTarget 0 + (recorded r).imageSize 0 = 0x40000000000 := by
    simp [State.ckptTarget, State.imageSize, State.portStacks, recorded, ckpted]
  have e1 : (recorded r).ckptTarget 1 + (recorded r).imageSize 1 = 0x60000000000 := by
    simp [State.ckptTarget, State.imageSize, State.portStacks, recorded, ckpted]
  refine ⟨r, recordFits_own _ 0 ?_, recordFits_own _ 1 ?_⟩
  · rw [e0, h.1, recorded_record, hr]
  · rw [e1, h.2, recorded_record, hr]

theorem witness_ImagesAreCovered : (ckpted .idle {} []).imageCovered 0 = true ∧ (ckpted .idle {} []).imageCovered 1 = true := by decide

/-- A TEMPLATE of this device in slot 1, which a peer links as a successor, and a slot past the last. -/
theorem witness_PeersLinkSuccessors :
    let s : State := { linkedAs .up 1 with ctxs := [ctx0], inbound := State.reset.inbound.set 255 4, mem := [(0x9001, 0xA0), (0x9007, 0x80), (0xA001, 0xB0),
      (0xA007, 0x80), (0xB006, 0x7E), (0xB007, 0xC0)], args := { n := 255, peer := .predIncrement 1 } }
    s.tcbPa s.args.k 1 = some 256 ∧ s.ownTask 1 = true ∧ s.linkable s.args.k 1 = true ∧ s.exclusive none (lineOf (256 + 0x24)) = true ∧
    s.linkable s.args.k 17 = false := by decide

theorem witness_PeersReachTheDevice (r : PeerReq) (bits : BitVec 3) : let s : State := { linkedAs .up 1 with inbound := State.reset.inbound.set 255 bits, args := { n := 255, peer := r } }
    s.args.n = (255 : Fin 256).val ∧ (∃ i : Fin 16, s.ua[i].state = .up) ∧ s.args.peer = r ∧ s.inbound[(255 : Fin 256)] = bits ∧ s.poison = [] ∧
    s.exclusive none (lineOf (768 * 2 ^ 30 - 4)) = true ∧ (∀ i : Fin 16, State.reset.ua[i].state ≠ .up) := by
  refine ⟨rfl, ⟨15, ?_⟩, rfl, ?_, rfl, rfl, by decide⟩ <;> simp [linkedAs, State.reset]

/-! ### Witnesses: the PSC -/

def psc (b : BootState) (busy : Bool) (x y : DWord) (a : StepArgs) : State := { State.reset with psc := { boot := b, busy := busy, args := #v[x, y, 0, 0, 0, 0, 0, 0] }, args := a }

theorem witness_FirmwareBoots (b : BootState) (r : BootResult) : let s := psc b false 8388608 0 { k := 8388604, data := some [1, 2, 3, 4], boot := r }
    s.args.data = some [1, 2, 3, 4] ∧ s.args.k = 8388604 ∧ 8388604 % 4 = 0 ∧ 8388604 + 4 ≤ 8388608 ∧ s.psc.staging.wf = true ∧ s.psc.boot = b ∧ s.psc.busy = false ∧
    Slice0.arg s 0 = 8388608 ∧ s.args.boot = r ∧ Slice0.arg (psc b false 8388609 0 {}) 0 = 8388609 :=
  ⟨rfl, rfl, by decide, by decide, rfl, rfl, rfl, rfl, rfl, rfl⟩

theorem witness_KeysAndVersionsAreKept (b : BootState) (busy ok : Bool) (n : DWord) : let s := psc b busy n 1 { ok := ok }
    s.psc.busy = busy ∧ s.psc.boot = b ∧ Slice0.arg s 0 = n.toNat ∧ Slice0.arg s 1 = 1 ∧ s.args.ok = ok ∧ s.psc.fwsvn ≤ 128 ∧ s.psc.accepted[(3 : Fin 4)] ≤ 32 ∧
    s.fuses.okh[(3 : Fin 4)] = 0 ∧ ({ s with fuses := { s.fuses with okh := s.fuses.okh.set 3 1 } } : State).fuses.okh[(3 : Fin 4)] ≠ 0 ∧
    768 * 2 ^ 30 - 1 + 1 ≤ 768 * 2 ^ 30 ∧ 32 < bytesToNat (natToBytes 4 33) :=
  ⟨rfl, rfl, rfl, rfl, rfl, Nat.zero_le _, Nat.zero_le _, by simp [psc, State.reset], by simp [psc, State.reset], by decide, by decide⟩

theorem witness_ThePscReports (b : BootState) (n : DWord) (k : Nat) : let s := psc b false n 0 { k := k }
    s.psc.busy = false ∧ s.psc.boot = b ∧ Slice0.arg s 0 = n.toNat ∧ s.args.k = k := ⟨rfl, rfl, rfl, rfl⟩

/-! ### Witnesses: pre-emption, migration, kills, retirement, resets -/

/-- A team of low priority that takes the core's whole shared store, and a READY task of EPRIO 7 that needs 64 KiB of it. -/
def low : Team := { t1 with task := 1, shLen := 524288 }
def lowTask : Task := { k1 with key := 1, shape := 0 }
def high : Task := { k2 with key := 2, eprio := 7, shape := 65536 }
def bigGroup : Machine.Group := { g1 with task := 1, turn := false, stage := .header }
def entry : Ready := ⟨0, 2, 0, 1, false⟩
def crowd (l : List Ctx) : State :=
  { State.reset with
    groups := [bigGroup]
    teams := [low]
    tasks := [lowTask, high]
    ready := [entry]
    caps := { cores := Vector.replicate 8 1 }
    ctxs := l }

theorem witness_PreemptionTakesTheChosenTeams (l : List Ctx) : (crowd l).ready[(crowd l).args.k]? = some entry ∧ entry.die = (crowd l).args.core.die ∧
    (¬ ∃ i, i < (crowd []).coresOf 0 ∧ ((crowd []).tryEntry ⟨0, i⟩ entry).isSome = true) ∧ (crowd []).candidates ⟨0, 0⟩ entry = [low] ∧
    (crowd []).victims ⟨0, 0⟩ entry [] [low] = some [(1, 0)] ∧ (crowd []).poolHas [low] = false ∧
    (crowd [{ ctx0 with savesz := (crowd []).saveRoom low }]).poolHas [low] = true := by
  refine ⟨rfl, rfl, by decide, ?_, by decide, rfl, ?_⟩
  · simp only [State.candidates]
    rw [show (crowd []).teams.filter (fun u => decide (u.core = (⟨0, 0⟩ : CoreId) ∧ u.live ≠ 0 ∧ u.taken = false)) = [low] from rfl,
      show [low].filter (fun u => decide ((((crowd []).task? u.task).map fun x => x.eprio).getD 0 < (crowd []).entryPrio entry)) = [low] from rfl,
      List.mergeSort_singleton]
    rfl
  · simp only [State.poolHas]
    simp [crowd, State.ctx?, ctx0, low, t1, ctxOf, State.saveRoom, State.reset]
    exact Nat.le_of_eq rfl

/-- A taken team whose group stands at a header, with room for it in the pool; without a pool; and one that is not taken. -/
def taken (u : Team) (l : List Ctx) : State := { State.reset with groups := [bigGroup], teams := [u], tasks := [lowTask], ctxs := l, args := { task := 1 } }
theorem witness_TeamsAreSaved : let u := { low with taken := true }
    let s := taken u []
    let p := taken u [{ ctx0 with savesz := s.saveRoom u }]
    s.team? (keyOf s.args.n s.args.task) s.args.t = some u ∧ (∀ f ∈ (s.coreD u.core).frames, f.waiter ≠ (u.task, u.lin)) ∧ s.engineBusy u = false ∧
    (∀ g ∈ s.groups, s.takeable g = true) ∧ s.poolHas [u] = false ∧ s.ckpt.state ≠ .running ∧ p.poolHas [u] = true ∧ u.sleep = none ∧
    (∀ k ∈ p.cores, k.l1s = [] ∧ k.frames = [] ∧ k.rigs = []) ∧ low.taken = false := by
  refine ⟨rfl, nofun, rfl, ?_, rfl, nofun, ?_, rfl, nofun, rfl⟩
  · intro g hg
    simp only [taken, List.mem_singleton] at hg
    rw [hg]
    rfl
  · simp only [State.poolHas]
    simp [taken, State.ctx?, ctx0, low, t1, ctxOf, State.saveRoom, State.reset]
    exact Nat.le_of_eq rfl

/-- A taken team without room in the pool, whose group's rig has drained. -/
theorem witness_RigsRunOn : let u := { low with taken := true }
    let r : Rig := { group := bigGroup.id, desc := 0, phase := .quiet, gated := true }
    let h := { bigGroup with status := .spat, clause := { words := [0, 0], next := 1 } }
    let s : State := { taken u [] with groups := [h], cores := [{ id := low.core, rigs := [r] }] }
    s.team? (keyOf s.args.n s.args.task) s.args.t = some u ∧ (∀ g ∈ s.groups, s.takeable g = true) ∧ s.engineBusy u = false ∧ s.poolHas [u] = false ∧
    s.ckpt.state ≠ .running ∧ s.group? r.group = some h ∧ s.teamOf h = some u ∧ r ∈ (s.coreD u.core).rigs ∧ r.phase = .quiet := by
  refine ⟨rfl, ?_, rfl, rfl, nofun, rfl, rfl, .head _, rfl⟩
  intro g hg
  simp only [List.mem_singleton] at hg
  rw [hg]
  rfl

/-- A saved team of one group of 64 registers with a store of 1,024 bytes, and the queue entry that waits for a core of its die. -/
def saved1 : Saved := ⟨{ low with shLen := 1024 }, 0, [bigGroup], List.replicate 1024 7, [], 0⟩
def restoring : State := { State.reset with tasks := [{ lowTask with shape := 1 }], saved := [saved1], ready := [⟨0, 1, 0, 1, true⟩] }
theorem witness_TeamsAreRestored : (∃ slot base, restoring.nextStart restoring.args.core
      (restoring.ready.filter fun r => r.die = restoring.args.n ∧ (r.saved = true ∨ restoring.args.n = restoring.args.core.die)) = some (.back saved1 ([slot], base))) ∧
    saved1.groups = [bigGroup] ∧ saved1.rigs = [] ∧ saved1.team.live ≠ 0 ∧ saved1.bytes.length = saved1.team.shLen ∧ restoring.cores = [] :=
  ⟨⟨_, _, rfl⟩, rfl, rfl, by decide, List.length_replicate, rfl⟩

/-- A group restored in the middle of a clause with a late thread, whose fault the area names or does not. -/
theorem witness_LateThreadsTrapOnResume : ∀ l ∈ [none, some (6, 0x100)],
    let h := { g1 with stage := .issuing, lateMask := 1, lateRec := l }
    (full h).group? (full h).args.group = some h ∧ h.lateMask ≠ 0 ∧ h.lateCtrs = [] ∧ h.status = .running ∧ h.stage = .issuing ∧ h.resume = none ∧
    h.replay = none ∧ h.restore = none ∧ (full h).mayIssue h = true := by decide

/-- A migration of a 64 KiB page of capacity memory to the device's memory, whose leaf stands at 0xB000 and whose ring of returns is at the descriptor. -/
def moved : Migration := ⟨0, 0, 65536, 0xB000, 2 ^ 42, 65536, true, leaf, [], [], []⟩
def migrating (m : Migration) (d : List DirEntry) (bs : Memory) : State :=
  { State.reset with ctxs := [ctx0], migrations := [m], dir := d, mem := bs, capLink := Vector.replicate 2 { state := .up } }
def replaying : Machine.Group := { g2 with status := .migrating, replay := some 1 }
theorem witness_LinesOfAFrame : 65536 ≤ 65536 + 65408 ∧ 65536 + 65408 < 65536 + moved.bytes := by decide

theorem witness_MigrationsEnd : let s := migrating moved [] [(0x80A4, 4)]
    s.ctx? moved.ctx = some ctx0 ∧ s.args.k = 0 ∧ s.args.ok = true ∧ (∀ u ∈ s.teams, u.sleep = none) ∧ s.watchers = [] ∧ s.groups = [] ∧
    moved.waiters = [] ∧ moved.copies = [] ∧ moved.lanes = [] ∧ moved.wr = true := ⟨rfl, rfl, rfl, nofun, rfl, rfl, rfl, rfl, rfl, rfl⟩

/-- A copy of a line of the frame stands, or the ring of returns is full. -/
theorem witness_MigrationsWait : (∃ e ∈ (migrating moved [⟨65536, [3], false⟩] []).dir, moved.frame ≤ e.line ∧ e.line < moved.frame + moved.bytes) ∧
    (let s := migrating moved [] [(0x80A4, 4)]
     (s.ringPush (ctx0.desc + 0xA0) (natToBytes 8 (moved.backing + sizeIndex moved.size))).isSome = true) ∧
    (let s := migrating moved [] [(0x80AC, 1)]
     s.ringPush (ctx0.desc + 0xA0) (natToBytes 8 (moved.backing + sizeIndex moved.size)) = none) ∧ moved.newEntry.toNat % 2 ^ 40 = moved.frame / 4096 % 2 ^ 40 :=
  ⟨⟨_, .head _, by decide⟩, by decide, by decide, by decide⟩

theorem witness_MigrationLinks : (migrating moved [] []).migrationLinks moved = true ∧ State.reset.migrationLinks moved = false := by decide

theorem witness_MigrationReplay : let r := { migrating { moved with waiters := [g2.id] } [] [(0x80A4, 4)] with groups := [replaying] }
    r.group? g2.id = some replaying ∧ replaying.status = .migrating ∧ replaying.replay = some 1 ∧ replaying.tx = none ∧ replaying.out = [] :=
  ⟨rfl, rfl, rfl, rfl, rfl⟩

/-- A task of each state. -/
def ofState (st : TaskState) : Task := { k1 with key := 2, state := st }
def killing (st : TaskState) : State := { State.reset with tasks := [ofState st], args := { task := 2 } }
theorem witness_TasksAreKilledAndReclaimed (st : TaskState) : (killing st).task? (keyOf (killing st).args.n (killing st).args.task) = some (ofState st) ∧
    (ofState st).state = st ∧ (killing st).mem.wf = true ∧ isHbm (k1.pa + 255) = true ∧
    ∀ a, k1.pa ≤ a → a < k1.pa + 256 → ({ killing st with ctxs := [ctx0], mem := window.drop 4 } : State).windowHole a = false :=
  ⟨by simp [killing, ofState, State.task?, keyOf], rfl, rfl, by decide, fun a h _ => by
    have := show 0x10000 ≤ a from h
    simp [State.windowHole, ctx0]
    omega⟩

/-- A core that retires with a team and without; the core of the highest index with no spare left; and one past it. -/
def retiring (c : CoreId) (r : Bool) (us : List Team) (spare : Nat) : State :=
  { State.reset with cores := [{ id := c, retired := r }], teams := us, caps := { spare := Vector.replicate 8 spare }, args := { core := c } }
theorem witness_CoresRetire : let s := retiring ⟨0, 0⟩ false [t1] 16
    let r := retiring ⟨7, 319⟩ true [] 16
    let z := retiring ⟨7, 319⟩ true [] 0
    s.args.core.core < s.coresOf 0 ∧ (s.coreD s.args.core).retired = false ∧ (r.coreD r.args.core).retired = true ∧ (∀ u ∈ r.teams, u.core ≠ r.args.core) ∧
    r.args.core.die = (7 : Fin 8).val ∧ 0 < r.caps.spare[(7 : Fin 8)] ∧ z.caps.spare[(7 : Fin 8)] = 0 ∧ z.args.core.core + 1 = z.coresOf 7 ∧ s.coresOf 7 ≤ 320 := by decide

/-! ### Witnesses: encodings and invariants -/

theorem witness_EncodedWordsDecodeBack : Instr.wf (.ldB128 .always 60 62 .gl (-1024)) = true ∧ (∃ x, encodeNat (.ldB128 .always 60 62 .gl (-1024)) = some x) ∧
    Instr.wf (.movl .always 63 0xFFFFFFFF) = true ∧ (∃ x, encodeNat (.movl .always 63 0xFFFFFFFF) = some x) ∧
    Instr.wf (.aluOperatorFire 0x07 oAB) = true ∧ (∃ x, encodeNat (.aluOperatorFire 0x07 oAB) = some x) :=
  ⟨by decide, ⟨_, rfl⟩, by decide, ⟨_, rfl⟩, by decide, ⟨_, rfl⟩⟩

theorem witness_HeadersDecodeBack : 1 ≤ (⟨15, .alu, 255, 7, true, true⟩ : Header).n ∧ (⟨15, .alu, 255, 7, true, true⟩ : Header).n ≤ 15 ∧
    (0x0FFFFFFF : Word).toNat / 2 ^ 28 = 0 ∧ 6 ≤ (0x1C000000 : Word).toNat / 2 ^ 25 % 8 ∧ (0x10000FFF : Word).toNat % 4096 ≠ 0 := by decide

theorem witness_EveryStepKeepsMemoryCanonical : State.reset.memWf = true ∧ ∃ t, step State.reset = .next t := ⟨rfl, _, rfl⟩


/-! ### Witnesses: clauses on shared, mapped and S-class accesses -/

/-- The states of `mapped`, with a task whose teams form clusters of two. -/
def paired (g : Machine.Group) : State := { mapped g with tasks := [{ k1 with shape := 0x110000, teams := 2 }] }

/-- The other member's last word. -/
theorem witness_MemberAccesses : (paired g2).clusterSize g2 = 2 ∧ 524288 + 65532 < 2 ^ 24 ∧ (524288 + 65532) / 524288 < (paired g2).clusterSize g2 ∧
    (524288 + 65532) % 524288 + 4 ≤ g2.seg[1].limit.toNat ∧ (524288 + 65532) % 4 = 0 ∧
    (524288 + 65532) / 524288 ≠ g2.lin % (paired g2).clusterSize g2 := by decide

/-- The page of `c1`, marked for stores; one without permission, one whose host link is down, and one that a walk finds unmarked. -/
def page1 : Page := ⟨0, 2 ^ 30, 0, leaf⟩
def paged (e : DWord) : State := { mapped g2 with cores := [{ c1 with tlb := [⟨0, 0, 2 ^ 30, e, 0⟩] }] }
def walking : State := { full g2 with cores := [{ id := ⟨0, 0⟩ }], ctxs := [ctx0], mem := window.drop 4 }

theorem witness_MappedAccessesReachTheirBytes :
    (0xFFFFC + 4 ≤ g2.seg[0].limit.toNat ∧ canonical 0xFFFFC = true ∧ 0xFFFFC % 4 = 0) ∧ (0xFFC + 4 ≤ g2.seg[2].limit.toNat ∧ Need.load.writes = false) ∧
    tlbReady (mapped g2) g2 page1 0xFFFFC .store ∧ (walkedTo walking g2 ⟨0, 2 ^ 30, 0xB000, leaf⟩ 0xFFFFC ∧
      pageServes walking ⟨0, 2 ^ 30, 0xB000, leaf⟩ 0xFFFFC .store ∧ walking.mem.wf = true) ∧
    ((paged 0xC04E000000000000).cached g2.id.coreId g2.ctx 0 = some ⟨0, 2 ^ 30, 0, 0xC04E000000000000⟩ ∧ ¬ permits 0xC04E000000000000 .store ∧
      ¬ permits 0xC04E000000000000 .load) ∧
    (let e : DWord := 0xC07E008000000000
     (paged e).cached g2.id.coreId g2.ctx 0 = some ⟨0, 2 ^ 30, 0, e⟩ ∧ permits e .load ∧ e.getLsbD 57 = false ∧
      (paged e).linkUp (e.toNat % 2 ^ 40 * 4096 + (0 - 0)) = false) := by
  refine ⟨by decide, by decide, ⟨rfl, ⟨by decide, rfl, by decide⟩, by decide⟩, ⟨⟨rfl, by decide⟩, ⟨by decide, rfl, by decide⟩, rfl⟩, ⟨rfl, ?_, ?_⟩, rfl, rfl, by decide, by decide⟩
  · exact fun h => absurd (show BitVec.getLsbD 0xC04E000000000000#64 52 = true from h) (by decide)
  · exact fun h => absurd (show BitVec.getLsbD 0xC04E000000000000#64 53 = true from h) (by decide)

set_option maxRecDepth 40000 in
/-- Local words: the last byte of the limit and one past it, a misaligned word, the four words of a 16-byte access, and one whose page does not grant it. -/
theorem witness_LocalAccesses : let word := fun (o i : Nat) => 0x8000 + (o + 4 * i) / 4 * 384 + 4 * (95 % 96) + (o + 4 * i) % 4
    (g2.seg[3].base.toNat = 0x8000 ∧ g2.seg[3].limit.toNat < 61 + 4) ∧ 63 + 1 ≤ g2.seg[3].limit.toNat ∧ 62 % 4 ≠ 0 ∧
    (48 + 16 ≤ g2.seg[3].limit.toNat ∧ 48 % 16 = 0 ∧ (∀ i, i < 4 → canonical (word 48 i) = true) ∧
      ∀ i, i < 4 → tlbReady (mapped g2) g2 page1 (word 48 i) .store) ∧
    ((paged 0xC04E000000000000).cached g2.id.coreId g2.ctx (word 48 0) = some ⟨0, 2 ^ 30, 0, 0xC04E000000000000⟩) ∧
    canonical (2 ^ 63 + word 0 0) = false := by
  refine ⟨by decide, by decide, by decide, ⟨by decide, by decide, by decide, ?_⟩, rfl, by decide⟩
  intro i hi
  refine ⟨?_, ⟨rfl, rfl, ?_⟩, rfl⟩ <;> interval_cases i <;> rfl

/-- Four bytes of an S line of which the core's L1 holds some: one dirty byte, or all of them; and a line with room for them. -/
def sLoad (l : List L1Byte) : State :=
  let o : Outst := { access1 (.load 4 false none) 0 [] with todo := [⟨0, 0, [⟨.pa 252, 4, .s, none⟩], []⟩] }
  { mapped (outG o) with cores := [{ c1 with l1s := l }] }

theorem witness_LoadsOfSLines : let o : Outst := { access1 (.load 4 false none) 0 [] with todo := [⟨0, 0, [⟨.pa 252, 4, .s, none⟩], []⟩] }
    let part : List L1Byte := [⟨253, 7, true⟩]
    let all : List L1Byte := [⟨252, 1, false⟩, ⟨253, 7, true⟩, ⟨254, 3, false⟩, ⟨255, 4, false⟩]
    (∀ l ∈ [part, all], (sLoad l).due = some (outG o, o, ⟨0, 0, [⟨.pa 252, 4, .s, none⟩], []⟩) ∧ isHbm 252 = true ∧ (sLoad l).poison = [] ∧
      (sLoad l).blocked (outG o) 0 0 [⟨.pa 252, 4, .s, none⟩] true false = false ∧ (sLoad l).awaitsAck 0 ⟨.pa 252, 4, .s, none⟩ = false) ∧
    (outG o).stores = [] ∧ (outG o).tx = none ∧ (∀ i, i < 4 → ((sLoad all).coreD ⟨0, 0⟩).l1s.find? (fun b => b.pa = 252 + i) ≠ none) ∧
    ((sLoad part).coreD ⟨0, 0⟩).l1s.find? (fun b => b.pa = 252) = none ∧ ((sLoad part).coreD ⟨0, 0⟩).l1Room 128 = true := by decide

/-- A store to an S line for which the L1 has room; one to a D line while a context is enabled, in the reserved bytes of its window and outside. -/
theorem witness_StoresToSLines :
    let x : StoreReq := ⟨0, 0, 0, [(⟨.pa 255, 1, .s, none⟩, [7])], none, false, []⟩
    let y : StoreReq := ⟨0, 0, 0, [(⟨.pa 0x2808, 1, .d, none⟩, [7])], none, false, []⟩
    let s := mapped { g2 with stores := [x] }
    let z : State := { mapped { g2 with stores := [y] } with ctxs := [ctx0], mem := window.drop 4 }
    s.blocked { g2 with stores := [x] } 0 0 x.pieces false false = false ∧ (s.coreD g2.id.coreId).l1Room (255 / 128 * 128) = true ∧
    z.writable g2.id.coreId ⟨.pa 0x2808, 1, .d, none⟩ = true ∧ z.mem.wf = true ∧ z.windowHole 0x2808 = true ∧ z.windowHole 0x2807 = false := by decide

/-! ### Witnesses: clauses on wide barriers, SPAT, records and tasks -/

/-- The only live group of the only member team, which completes the phase. -/
theorem witness_WideBarrierCompletes : ∀ lv ∈ [BarLevel.cluster, .launch],
    let w := (full g1).wideOf g1.task (if lv = .cluster then some (g1.lin / k1.k) else none) 15
    ((full g1).startedTeams g1.task).filter (fun v => w.covers k1 v.lin && !w.bar.arrived.contains v.lin) = [t1] ∧
    (∀ i, i < 16 → t1.live.getLsbD i = true → i = g1.gidx ∨ (g1.lin, i) ∈ w.groups) ∧ w.bar.arrived.length + 1 = (full g1).wideMembers k1 w ∧
    t1.task = g1.task ∧ t1.lin = g1.lin ∧ (∀ v ∈ (full g1).teams, v.sleep = none) ∧ (∀ a ∈ g1.arrivals, ¬ (a.1 = lv ∧ a.2.1 = 15)) := by decide

/-- An arrival that counts and none; a group held in its phase with the arrival counted and forgotten, and for an arrival of a sleeping team;
a post whose access is not performed, and one without. -/
theorem witness_WideBarrierWaitsAndReleases : ∀ lv ∈ [BarLevel.cluster, .launch],
    let g := { g1 with arrivals := [(lv, 15, 7)] }
    let h := { g with status := .held, wait := some { kind := .phase lv 15 7 } }
    let k := { g1 with status := .held, wait := some { kind := .phase lv 15 7 } }
    let a := { g1 with status := .held, wait := some { kind := .arrive lv 15 true } }
    let p := { g1 with posts := [(lv, 15, 1)], seq := 1 }
    let q := { p with out := [{ o1 with todo := [atBank] }] }
    (issues (full g) g [] ∧ (full g).teamOf g = some t1 ∧ (full g).task? g.task = some k1 ∧ (full g).ready = []) ∧ issues (full g1) g1 [] ∧
    ({ q with posts := [] }.settled = false ∧ issues (full { q with posts := [] }) { q with posts := [] } []) ∧
    ((full h).group? (full h).args.group = some h ∧ (∃ x ∈ h.arrivals, x.1 = lv ∧ x.2.1 = 15)) ∧ (full k).group? (full k).args.group = some k ∧
    ((asleep a).group? (asleep a).args.group = some a ∧ (asleep a).mayIssue a = false ∧ (∃ u, (asleep a).teamOf a = some u)) ∧ q.settledBefore 1 = false ∧ p.settledBefore 1 = true ∧
    (full p).group? (full p).args.group = some p := by
  intro lv h
  simp only [List.mem_cons, List.not_mem_nil, or_false] at h
  rcases h with rfl | rfl <;>
    exact ⟨⟨⟨rfl, by decide⟩, rfl, rfl, rfl⟩, ⟨rfl, by decide⟩, ⟨by decide, rfl, by decide⟩, ⟨rfl, _, .head _, rfl, rfl⟩, rfl,
      ⟨rfl, rfl, _, rfl⟩, by decide, by decide, rfl⟩

/-- A SPAT of the group that waits for its results already, and one of another group. -/
theorem witness_SpatWaitsInItsOrder : let r : Rig := { group := g1.id, desc := 0, phase := .wait }
    let q : Rig := { group := ⟨0, 0, 1⟩, desc := 0, phase := .wait }
    let g := { g1 with out := [o1] }
    let s := fun (x : Machine.Group) (l : List Rig) => ({ on x with cores := [{ c1 with rigs := l }] } : State)
    ((s g [q]).cur = some g ∧ (∀ x ∈ ((s g [q]).coreD g.id.coreId).rigs, decide (x.group = g.id ∧ x.phase = .wait) = false)) ∧
    ((s g [r]).cur = some g ∧ ∃ x ∈ ((s g [r]).coreD g.id.coreId).rigs, decide (x.group = g.id ∧ x.phase = .wait) = true) ∧
    issues (s g1 [r, q]) g1 (sRegs 62 2) ∧ ∃ x ∈ ((s g1 [r, q]).coreD g1.id.coreId).rigs, decide (x.group = g1.id ∧ x.phase = .wait) = true :=
  ⟨⟨rfl, by decide⟩, ⟨rfl, _, .head _, by decide⟩, ⟨rfl, by decide⟩, _, .head _, by decide⟩

/-- A cell of state 3, one with a byte set at 31, an entry of state 4, and one with a byte set at 15. -/
theorem witness_RecordsOutOfTheirTable (o : Outst) : 2 < ((home o [(16, 3)]).readPa (0 + 16)).toNat ∧ (home o [(31, 1)]).readPa (0 + 31) ≠ 0 ∧
    3 < ((home o [(12, 4)]).readPa (0 + 12)).toNat ∧ (home o [(15, 1)]).readPa (0 + 15) ≠ 0 :=
  ⟨by show 2 < (3 : Byte).toNat; decide, by show (1 : Byte) ≠ 0; decide, by show 3 < (4 : Byte).toNat; decide, by show (1 : Byte) ≠ 0; decide⟩

/-- A waiting word in a handler takes the handler's own set. -/
theorem witness_HandlersTakeTheirSet : let g := { g2 with hsat := 1, inHandler := true }
    ∃ gd d a seg kind n m size u, recordForm (.lkacq .always 1 62 .gl .dev .acq) = some (gd, d, a, seg, kind, n, m, size) ∧
      issues (mapped g) g (vecRegs gd ++ vRegs d.val n ++ addrRegs seg a) ∧ kind.waits = true ∧ g.inHandler = true ∧
      checkThreads (homeCheck g seg a size true (dataWords g d.val n)) ((g.enabled gd).filter fun t => !maskBit g.hsat t) (mapped g) = ([], [], u) :=
  ⟨_, _, _, _, _, _, _, _, _, rfl, ⟨rfl, by decide⟩, rfl, rfl, rfl⟩

/-- A sleeper on an object of this device whose owner chain names task 1 of device 9. -/
theorem witness_KillsElsewhereWakeSleepers : let v := { t1 with sleep := some ⟨g2.id, some 64, [keyOf 0 0x09000001], []⟩ }
    let s : State := { mapped g2 with teams := [v], args := { pa := 64, task := 0x09000001 } }
    s.team? g2.task g2.lin = some v ∧ s.group? g2.id = some g2 ∧ isPeer s.args.pa = false ∧ s.args.task.toNat / 2 ^ 24 ≠ s.devidx ∧
    0 < s.args.task.toNat % 2 ^ 24 ∧ s.args.task.toNat % 2 ^ 24 < 0xFFFFFF ∧ keyOf s.args.n s.args.task ∈ [keyOf 0 0x09000001] := by decide

/-- A TLAUNCH whose address is no slot of the arena. -/
theorem witness_TlaunchPastTheArena : let g := { g2 with v := g2.v.set 2 (Vector.replicate 96 4096) }
    let s : State := { mapped g with ctxs := [ctx0] }
    issues s g (vecRegs .always ++ .v 1 :: addrRegs .gl 2) ∧ g.enabled .always = [0] ∧ g.hsat = 0 ∧ s.ctx? g.ctx = some ctx0 ∧
    homeCheck g .gl 2 256 false (dataWords g 1 1) s 0 = (.ok ⟨0, 4096, [⟨.pa 4096, 256, .d, none⟩], dataWords g 1 1 0⟩, s) ∧
    ∀ i, 0 < i → i < ctx0.nslot → i < 0xFFFFFF → 4096 ≠ ctx0.arena.toNat + 256 * i := by
  refine ⟨⟨rfl, by decide⟩, by decide, rfl, rfl, rfl, ?_⟩
  intro i _ h _
  simp only [ctx0, BitVec.ofNat_eq_ofNat, BitVec.toNat_ofNat] at *
  omega

/-- A task that the device holds and one that it does not. -/
theorem witness_TcbsAreRefusedByTheirContents : (launching tcb).task? (keyOf 0 0) = some k1 ∧ k1.state ≠ .finished ∧ k1.state ≠ .template ∧
    (launching tcb).task? (keyOf 0 1) = none := by decide

/-- While a checkpoint holds starts: with no team resident, and with one whose group lives. -/
theorem witness_DecrementsWaitForTheImages : let s : State := { lowered 1 with held := true }
    s.decrs[s.args.k]? = some ⟨0, some 2⟩ ∧ s.held = true ∧ (∀ v ∈ s.teams, v.live = 0) ∧ ∃ v ∈ ({ s with teams := [t1] } : State).teams, v.live ≠ 0 :=
  ⟨rfl, rfl, nofun, t1, .head _, by decide⟩

/-! ### Witnesses: clauses on chains, errors, images, retirement and rigs -/

/-- A stage on this device whose running slot takes the copy's bytes at its segment's start. -/
def feeding : Machine.State :=
  let s := copying (copy true false 0 0) true
  { s with chains := (State.reset.chains.set 15 { stage 0 with len := 0x1000 }), args := { k := 15, n := 4, ok := false } }

theorem witness_StoppedChainsFaultTheirCopies : ∃ c, feeding.cores = [c] ∧ c.copies = [copy true false 0 0] ∧ (copy true false 0 0).store = true ∧
    (copy true false 0 0).moved = false ∧ (copy true false 0 0).left < 16 ∧ (copy true false 0 0).row < (copy true false 0 0).rows ∧
    feeding.team? 0 0 = some (t2 true) ∧ (∃ b, (t2 true).xb[15]? = some b ∧ b.fcode = 0) ∧
    (let y := rowSpan (copy true false 0 0).tensor [0, 0, 0, 0, 0] 0
     y.count ≠ 0 ∧ feeding.aperture c.id.die (ctxOf 0) y.off (elemBytes 4 y.count) = some 15) ∧ feeding.chains[(15 : Fin 16)].state = .running ∧
    feeding.args.n % feeding.chains[(15 : Fin 16)].elem = 0 ∧ feeding.args.n < feeding.chains[(15 : Fin 16)].len.toNat :=
  ⟨_, rfl, rfl, rfl, rfl, by decide, by decide, rfl, ⟨_, rfl, rfl⟩, ⟨by decide, by decide⟩, by decide, by decide, by decide⟩

/-- A stage of the chain whose slot is off, and a last stage while a checkpoint's images are made. -/
theorem witness_ChainStagesWait : let s := inChain 0 []
    let t : State := { s with chains := s.chains.set 14 { stage 1 with en := false } }
    let u : State := { inChain 1 [(4, 3)] with held := true }
    t.chains[(14 : Fin 16)].en = false ∧ t.chains[(14 : Fin 16)].cid = t.chains[(15 : Fin 16)].cid ∧
    t.chains[(14 : Fin 16)].nstg = t.chains[(15 : Fin 16)].nstg ∧
    (∀ j : Fin 16, t.chains[j].en = true → t.chains[j].cid = t.chains[(15 : Fin 16)].cid → t.chains[j].stage ≠ t.chains[(14 : Fin 16)].stage) ∧
    u.chains[(15 : Fin 16)].stage = u.chains[(15 : Fin 16)].nstg ∧ u.held = true ∧ (∀ v ∈ u.teams, v.live = 0) ∧ (inChain 1 [(4, 3)]).held = false := by decide

/-- An L2 copy of the line of the error, and a core whose L1 and instruction cache hold a byte and a word of it. -/
theorem witness_ErrorsInCaches : let s := fun (n : Nat) => ({ State.reset with
      cores := [{ id := ⟨0, 0⟩, l1s := [⟨128, 7, true⟩], icache := [(128, 1)] }]
      l2 := [⟨0, 128, .shared⟩]
      args := { n := n, pa := 128 } } : State)
    (∃ x ∈ (s 2).l2, x.die = (s 2).args.core.die ∧ x.line = lineOf (s 2).args.pa) ∧ (∃ b ∈ ((s 1).coreD (s 1).args.core).l1s, b.pa = 128) ∧
    (∃ x ∈ ((s 3).coreD (s 3).args.core).icache, x.1 = 128) ∧ (∀ x ∈ (s 0).l2, x.line = lineOf (s 0).args.pa → x.state ≠ .dirty) ∧
    Poison.cell (Spot.pa ((s 0).cellOf 128)).ecc ∉ (s 0).poison :=
  ⟨⟨_, .head _, rfl, rfl⟩, ⟨_, .head _, rfl⟩, ⟨_, .head _, rfl⟩, by decide, nofun⟩

/-- A migration that is due while a checkpoint's images are made. -/
theorem witness_MigrationsWaitForTheImages : let s : State := { migrating moved [] [] with held := true }
    s.args.k = 0 ∧ s.held = true ∧ (∀ u ∈ s.teams, u.live = 0) ∧ (migrating moved [] []).held = false := ⟨rfl, rfl, nofun, rfl⟩

/-- A core that has emptied, below the one of the highest index, with no spare: that one is not yet in retirement, or has emptied too. -/
theorem witness_RetirementTakesTheHighestCore : let s := fun (l : List Core) => ({ retiring ⟨7, 0⟩ true [] 0 with cores := { id := ⟨7, 0⟩, retired := true } :: l } : State)
    (s []).args.core.core + 1 < (s []).coresOf 7 ∧ ((s []).coreD (s []).args.core).retired = true ∧ (s []).caps.spare[(7 : Fin 8)] = 0 ∧
    (∀ u ∈ (s []).teams, u.core ≠ (s []).args.core) ∧ ((s []).coreD ⟨7, 319⟩).retired = false ∧
    ((s [{ id := ⟨7, 319⟩, retired := true }]).coreD ⟨7, (s []).coresOf 7 - 1⟩).retired = true := by decide

/-- A last block whose sources are done and whose rig has no port record, and one with a record. -/
theorem witness_EndingRigsAreNotGated : let r := idle true .none
    let q : Rig := { r with recs := [⟨0x200, 0, 5, 0, 0, 0, 0, 0⟩] }
    ((∃ b, r.block = some b ∧ b.last = true) ∧ r.sourcesDone = true ∧ r.open_ = false ∧ r.recs = []) ∧ r.gated = false ∧
    (rigIn (savedRig true false q) q spat .running ∧ q.gated = false ∧ q.recs ≠ []) :=
  ⟨⟨⟨_, rfl, rfl⟩, rfl, rfl, rfl⟩, rfl, ⟨rfl, rfl, rfl, rfl, rfl⟩, rfl, by decide⟩

/-! ### Witnesses: the rejections of a block -/

/-- A block of some operator words and items on one octet, and an item's first word. -/
def blockWords (ops items : List Word) : List Word := BitVec.ofNat 32 ((ops.length - 1) * 2 ^ 25 + items.length * 2 ^ 14) :: (ops ++ items)
def item (lane kind val : Nat) : Word := BitVec.ofNat 32 (lane * 2 ^ 25 + kind * 2 ^ 21 + val)
/-- An operator word: opcode, the inputs' queues, the destination's lane and queue, and W. -/
def operatorWord (op qa qb dl dq w : Nat) : Word := BitVec.ofNat 32 (op * 2 ^ 24 + qa * 2 ^ 20 + qb * 2 ^ 16 + dl * 2 ^ 9 + dq * 2 ^ 5 + w)
def wordsOfBlock : List (List Word × List Word) :=
  [([0x07000000], []), ([operatorWord 0x30 14 14 0 14 0, operatorWord 0xF0 14 14 0 14 0], [item 0 0 1, item 1 4 0])]

/-- Each row of the words' rejections has a word that breaks it. -/
theorem witness_BlockWordsAreChecked :
    (∀ b ∈ wordsOfBlock, b.1.length = ((blockWords b.1 b.2).headD 0).toNat / 2 ^ 25 + 1 ∧ b.2.length = ((blockWords b.1 b.2).headD 0).toNat / 2 ^ 14 % 256) ∧
    5 ≤ (0x01400000 : Word).toNat / 2 ^ 22 % 8 ∧ (0x10 : Word).toNat / 2 ^ 4 % 1024 ≠ 0 ∧ ¬ operator 0x01 ∧
    (let w := operatorWord 0x07 15 1 8 15 1
     w.toNat / 2 ^ 24 = 0x07 ∧ valueOperator 0x07 ∧ 0x07 ∉ doubles ∧ w.getLsbD 0 = true ∧ w.toNat / 2 ^ 20 % 16 = 15 ∧ 8 * 2 ^ 0 ≤ w.toNat / 2 ^ 9 % 128 ∧
      w.toNat / 2 ^ 5 % 16 = 15) ∧
    (let w := operatorWord 0xF0 3 12 0 13 2
     w.toNat / 2 ^ 24 = 0xF0 ∧ (1 : Nat) % 8 ≠ 0 ∧ w.toNat / 2 ^ 5 % 16 = 13 ∧ ([w][w.toNat / 2 ^ 9 % 128]?).map (fun v => v.toNat / 2 ^ 24) = some 0xF0) ∧
    (let l := loadOf (blockWords [operatorWord 0x30 3 12 0 5 0] [])
     (∀ x ∈ l.items, x.lane = 0 → x.kind = 0 → x.val / 2 ^ 17 % 16 ≠ 3) ∧ ¬ ∃ x ∈ l.items, x.lane = 0 ∧ x.kind = 1) ∧
    (let l := loadOf (blockWords [operatorWord 0x30 0 1 0 5 1] [item 0 0 64, item 0 0 (2 ^ 17 + 64), item 0 0 (2 * 2 ^ 17 + 1)])
     256 < ((l.items.filter fun x => decide (x.lane = 0 ∧ x.kind = 0)).map fun x => x.val % 128).sum * 2) ∧
    (let w := operatorWord 0x30 0 14 1 5 1
     let v := operatorWord 0x30 0 14 0 14 0
     [w, v][w.toNat / 2 ^ 9 % 128]? = some v ∧ operator (v.toNat / 2 ^ 24) ∧ 0x30 ∉ narrowResult ∧ v.getLsbD 0 ≠ w.getLsbD 0) ∧
    (let l := loadOf (blockWords [operatorWord 0xF2 14 14 0 14 0] [item 0 3 2, 0, 1, 1])
     (l.cfgAt 0).ctr.map Prod.fst = some 2 ∧ l.levels.length ≤ 2) ∧
    (let l := loadOf (blockWords [operatorWord 0x30 13 14 0 14 0] [])
     ∀ j, (l.cfgAt j).ctr.map Prod.fst ≠ some (l.cfgAt 0).lvl) ∧
    (let w := operatorWord 0x30 12 14 0 14 2
     (w.toNat / 2 ^ 20 % 16 = 12 ∧ w.toNat / 2 ^ 16 % 16 = 14) ∧ (operatorWord 0x30 4 4 0 14 2).getLsbD 1 = true) := by
  refine ⟨by decide, by decide, by decide, by decide, by decide, by decide, ⟨by decide, by decide⟩, by decide, by decide, by decide, ?_, by decide⟩
  intro l j
  rcases j with _ | j <;> exact (Option.some_ne_none _).symm

/-- Each row of the items' rejections has an item that breaks it: out of its range, given twice, not used by its operator, missing, of a register
beyond the budget, and of a MODE that is not used. -/
theorem witness_BlockItemsAreChecked : let l := fun (ops items : List Word) => loadOf (blockWords ops items)
    let alu := operatorWord 0x30 14 14 0 14 0
    (9 ≤ (item 0 9 0).toNat / 2 ^ 21 % 16 ∧ (item 0 3 0).toNat / 2 ^ 21 % 16 = 3) ∧
    (∃ x ∈ (l [alu] [item 0 0 0]).items, x.kind = 0 ∧ x.val % 128 = 0) ∧ (∃ x ∈ (l [alu] [item 0 1 1, 0]).items, x.kind = 1 ∧ x.val ≠ 0) ∧
    (∃ x ∈ (l [alu] [item 0 2 512]).items, x.kind = 2 ∧ 512 ≤ x.val) ∧ (∃ x ∈ (l [alu] [item 0 3 4, 0, 0, 0]).items, x.kind = 3 ∧ 4 ≤ x.val ∧ (x.word 2).toNat = 0) ∧
    (∃ x ∈ (l [alu] [item 0 4 4, 0, 0, 0]).items, x.kind = 4 ∧ 3 < x.val % 8) ∧ (∃ x ∈ (l [alu] [item 0 5 0]).items, x.kind = 5 ∧ x.val % 32 ≠ 2 ∧ x.val / 2 ^ 5 % 32 ≠ 2) ∧
    (∃ x ∈ (l [alu] [item 0 6 (96 * 2 ^ 7)]).items, x.kind = 6 ∧ 95 < x.val / 2 ^ 7 % 128) ∧ (∃ x ∈ (l [alu] [item 0 7 128]).items, x.kind = 7 ∧ 128 ≤ x.val) ∧
    (∃ x ∈ (l [alu] [item 1 2 0]).items, 1 ≤ x.lane) ∧
    (∃ x y, (l [alu] [item 0 2 1, item 0 2 2]).items[0]? = some x ∧ (l [alu] [item 0 2 1, item 0 2 2]).items[1]? = some y ∧ x.lane = y.lane ∧ x.kind = y.kind) ∧
    (∃ x ∈ (l [operatorWord 0xF6 14 14 0 14 2] [item 0 0 1]).items, x.kind = 0 ∧ operator 0xF6) ∧
    (¬ ∃ x ∈ (l [operatorWord 0xF7 14 14 0 14 2] []).items, x.lane = 0 ∧ x.kind = 5) ∧
    (((l [operatorWord 0xF8 14 14 0 14 0] [item 0 6 8]).cfgAt 0).reg.map (fun r => (r.1, r.2.1)) = some (false, 8) ∧ ({ g1 with v := g1.v.take 8 } : Machine.Group).v.length = 8) ∧
    (∃ m, ((l [alu] [item 0 2 16]).cfgAt 0).mode = some m ∧ m.toNat / 2 ^ 4 % 8 ≠ 0) ∧
    ∃ p, ((l [operatorWord 0xF0 14 14 0 14 2] [item 0 4 (3 * 2 ^ 11), 0, 0, 4]).cfgAt 0).port = some p ∧ p.value.toNat / 2 ^ 3 % 4 = 0 ∧ p.value.toNat / 2 ^ 11 % 16 ∉ [0, 1, 2, 8] :=
  ⟨by decide, by decide, by decide, by decide, by decide, by decide, by decide, by decide, by decide, by decide, ⟨_, _, rfl, rfl, by decide, by decide⟩,
    by decide, by decide, by decide, ⟨_, rfl, by decide⟩, _, rfl, by decide, by decide⟩

end Sys2Proof.Tests.Slice0
end

/-! The proofs' own lemmas about the model, and the statements settled. -/

section
/-! ### What a value word leaves of its group (R9, R14, R15) -/

namespace Sys2Proof.Machine

open Sys2Proof.Slice0

/-- A group without what a value word, compare or jump may change: its vector, scalar and predicate registers, FPSR, and its place
in the words; of v the number of registers stays. -/
def Group.still (g : Group) : Group :=
  { g with pc := 0, stage := .header, turn := false, clause := {}, serial := none, yielding := false, restore := none,
           v := List.replicate g.v.length (Vector.replicate 96 0), s := Vector.replicate 64 0, p := Vector.replicate 12 0, fpsr := 0 }

theorem Group.id_of_still {g h : Group} (e : h.still = g.still) : h.id = g.id := by
  simpa [Group.still] using congrArg Group.id e

theorem Group.v_length_of_still {g h : Group} (e : h.still = g.still) : h.v.length = g.v.length := by
  simpa [Group.still] using congrArg (fun k => k.v.length) e

@[simp] theorem Group.still_sset (g : Group) (n : Nat) (x : Word) : (g.sset n x).still = g.still := rfl

@[simp] theorem Group.still_ssetPair (g : Group) (n : Nat) (x : DWord) : (g.ssetPair n x).still = g.still := by
  simp [Group.ssetPair]

@[simp] theorem Group.still_setMask (g : Group) (m : Mask) : (g.setMask m).still = g.still := by simp [Group.setMask]

@[simp] theorem Group.still_vset (g : Group) (gd : Guard) (d : Nat) (f : Nat → Word) : (g.vset gd d f).still = g.still := by
  simp [Group.still, Group.vset]

@[simp] theorem Group.still_vsetPair (g : Group) (gd : Guard) (d : Nat) (f : Nat → DWord) : (g.vsetPair gd d f).still = g.still := by
  simp [Group.vsetPair]

@[simp] theorem Group.still_setPair (g : Group) (e : Nat → Bool) (pair : Fin 6) (c : Nat → Bool) :
    (g.setPair e pair c).still = g.still := rfl

@[simp] theorem Group.still_raiseFlags (g : Group) (fl : Flags) : (g.raiseFlags fl).still = g.still := rfl

@[simp] theorem Group.still_endClause (g : Group) (pc : DWord) : (g.endClause pc).still = g.still := rfl

theorem Group.still_restore (g : Group) (r : Option Mask) : ({ g with restore := r } : Group).still = g.still := rfl

@[simp] theorem Group.still_restoreMask (g : Group) : g.restoreMask.still = g.still := by
  unfold Group.restoreMask
  split
  · exact (Group.still_restore _ _).trans (g.still_setMask _)
  · rfl

@[simp] theorem Group.still_jumpTo (g : Group) (pc : DWord) : (g.jumpTo pc).still = g.still := by simp [Group.jumpTo]

@[simp] theorem Group.still_link (g : Group) : g.link.still = g.still := g.still_ssetPair _ _

@[simp] theorem Group.still_nextWord (g : Group) (n : Nat) : (g.nextWord n).still = g.still := by
  unfold Group.nextWord
  dsimp only
  split
  · exact g.still_restoreMask
  · simp

/-! ### The words that change their group alone -/

theorem bRegs_one (b : BOp) : bRegs 1 b = [bReg b] := by cases b <;> rfl

/-- A word that, once the registers of `rs` pass their checks, changes its group alone, and there not what `Group.still` holds. -/
def QuietWord (i : Instr) (rs : List PReg) : Prop :=
  ∃ (qs : List PReg) (f : Group → Group), (∀ s, exec i s = s.word false qs fun g => s.put (f g)) ∧ qs ⊆ rs ∧
    ∀ g, (f g).still = g.still

theorem QuietWord.of_plain {i : Instr} {rs : List PReg} (n : Nat) (qs : List PReg) (f : Group → Group)
    (h : ∀ s, exec i s = s.plain n qs f) (hq : qs ⊆ rs) (hf : ∀ g, (f g).still = g.still) : QuietWord i rs :=
  ⟨qs, fun g => (f g).nextWord n, h, hq, fun g => by simp [hf]⟩

/-- What a quiet word does where its checks pass. -/
theorem QuietWord.exec_eq {i : Instr} {rs : List PReg} (w : QuietWord i rs) {s : State} {g : Group} (hi : issues s g rs) :
    ∃ h : Group, exec i s = .next (s.put h) ∧ h.still = g.still := by
  obtain ⟨qs, f, he, hq, hf⟩ := w
  have hc : g.issueFault false qs = none := Group.issueFault_none.2 ⟨by simp, fun r hr => hi.2 r (hq hr)⟩
  exact ⟨f g, by rw [he, State.word_ok _ hi.1 hc], hf g⟩

/-- A vector word that writes v(d), the flags of its threads with it or without, is quiet. -/
theorem QuietWord.of_vset {i : Instr} {gd : Guard} {d : Reg} {rs : List PReg} (F : Group → Nat → Word)
    (h : ∀ s, exec i s = s.vecWord gd d rs F) : QuietWord i (vecRegs gd ++ .v d.val :: rs) :=
  .of_plain _ _ _ h (List.Subset.refl _) fun g => g.still_vset _ _ _

theorem QuietWord.of_vsetPair {i : Instr} {gd : Guard} {d : Reg} {rs : List PReg} (F : Group → Nat → DWord)
    (h : ∀ s, exec i s = s.vecPairWord gd d rs F) : QuietWord i (vecRegs gd ++ vRegs d.val 2 ++ rs) :=
  .of_plain _ _ _ h (List.Subset.refl _) fun g => g.still_vsetPair _ _ _

theorem QuietWord.of_fpWord {i : Instr} {gd : Guard} {d : Reg} {rs : List PReg} (F : Group → Nat → Res32)
    (h : ∀ s, exec i s = s.fpWord gd d rs F) : QuietWord i (vecRegs gd ++ .v d.val :: rs) :=
  .of_plain _ _ _ h (List.Subset.refl _) fun g => by simp

theorem QuietWord.of_fpPairWord {i : Instr} {gd : Guard} {d : Reg} {rs : List PReg} (F : Group → Nat → Res64)
    (h : ∀ s, exec i s = s.fpPairWord gd d rs F) : QuietWord i (vecRegs gd ++ vRegs d.val 2 ++ rs) :=
  .of_plain _ _ _ h (List.Subset.refl _) fun g => by simp

/-- SEL writes every active thread: its guard field is an operand (R109). -/
theorem quietWord_sel (p : Pred) (d a : Reg) (b : BOp) :
    QuietWord (.sel p d a b) (vecRegs .always ++ [.v d.val, .p p.val, .v a.val, bReg b]) :=
  .of_plain _ _ _ (fun _ => rfl) (by simp [vecRegs, guardRegs, maskRegs, List.subset_def]) fun g => g.still_vset _ _ _

theorem quietWord_of_intValue {i : Instr} {gd : Guard} {d : Reg} {rs : List PReg} {f : Group → Nat → Word}
    (h : intValue i = some (gd, d, rs, f)) : QuietWord i (vecRegs gd ++ .v d.val :: rs) := by
  unfold intValue at h
  split at h
  case h_36 => cases h; exact quietWord_sel _ _ _ _
  all_goals cases h
  all_goals exact .of_vset _ fun _ => rfl

theorem quietWord_of_pairValue {i : Instr} {gd : Guard} {d : Reg} {rs : List PReg} {f : Group → Nat → DWord}
    (h : pairValue i = some (gd, d, rs, f)) : QuietWord i (vecRegs gd ++ vRegs d.val 2 ++ rs) := by
  unfold pairValue at h
  split at h
  all_goals cases h
  case h_3 => exact bRegs_one _ ▸ .of_vsetPair _ fun _ => rfl
  all_goals exact .of_vsetPair _ fun _ => rfl

theorem quietWord_of_scalarValue {i : Instr} {d : Reg} {rs : List PReg} {n : Nat} {f : Group → Word}
    (h : scalarValue i = some (d, rs, n, f)) : QuietWord i (.s d.val :: rs) := by
  unfold scalarValue at h
  split at h
  all_goals cases h
  all_goals exact .of_plain _ _ (fun g => g.sset d.val _) (fun _ => rfl) (List.Subset.refl _) fun g => rfl

theorem quietWord_of_floatValue {i : Instr} {gd : Guard} {d : Reg} {rs : List PReg} {f : Group → Nat → Word × Flags}
    (h : floatValue i = some (gd, d, rs, f)) : QuietWord i (vecRegs gd ++ .v d.val :: rs) := by
  unfold floatValue at h
  split at h
  all_goals cases h
  all_goals exact .of_fpWord _ fun _ => rfl

theorem quietWord_of_floatPair {i : Instr} {gd : Guard} {d : Reg} {rs : List PReg} {f : Group → Nat → DWord × Flags}
    (h : floatPair i = some (gd, d, rs, f)) : QuietWord i (vecRegs gd ++ vRegs d.val 2 ++ rs) := by
  unfold floatPair at h
  split at h
  all_goals cases h
  all_goals exact .of_fpPairWord _ fun _ => rfl

theorem quietWord_of_convertValue {i : Instr} {gd : Guard} {d : Reg} {rs : List PReg} {f : Group → Nat → Word × Flags}
    (h : convertValue i = some (gd, d, rs, f)) : QuietWord i (vecRegs gd ++ .v d.val :: rs) := by
  unfold convertValue at h
  split at h
  all_goals cases h
  all_goals exact .of_fpWord _ fun _ => rfl

theorem quietWord_of_convertPair {i : Instr} {gd : Guard} {d : Reg} {rs : List PReg} {f : Group → Nat → DWord × Flags}
    (h : convertPair i = some (gd, d, rs, f)) : QuietWord i (vecRegs gd ++ vRegs d.val 2 ++ rs) := by
  unfold convertPair at h
  split at h
  all_goals cases h
  all_goals exact .of_fpPairWord _ fun _ => rfl

theorem quietWord_of_shuffleFrom {i : Instr} {gd : Guard} {d a : Reg} {rs : List PReg} {f : Group → Nat → Int}
    (h : shuffleFrom i = some (gd, d, a, rs, f)) : QuietWord i (vecRegs gd ++ .v d.val :: rs) := by
  unfold shuffleFrom at h
  split at h
  all_goals cases h
  all_goals exact .of_vset _ fun _ => rfl

/-- The registers of ICMP and ICMPN, the guard's before the mask's or after the pair's. -/
theorem compareRegs_subset (gd : Guard) (ps xs ys : List PReg) :
    vecRegs gd ++ ps ++ xs ++ ys ⊆ maskRegs ++ ps ++ (guardRegs gd ++ xs ++ ys) := by
  intro r
  simp only [vecRegs, List.mem_append]
  tauto

theorem compareRegs_subset_one (gd : Guard) (ps : List PReg) (x : PReg) (b : BOp) :
    vecRegs gd ++ ps ++ [x] ++ bRegs 1 b ⊆ maskRegs ++ ps ++ (guardRegs gd ++ [x, bReg b]) := by
  simpa only [bRegs_one, List.append_assoc, List.cons_append, List.nil_append] using compareRegs_subset gd ps [x] (bRegs 1 b)

theorem quietWord_of_intCompare {i : Instr} {pair : Fin 6} {c : Cond} {rs : List PReg} {e : Group → Nat → Bool}
    {xy : Group → Nat → Int × Int} (h : intCompare i = some (pair, c, rs, e, xy)) : QuietWord i (maskRegs ++ pairRegs pair ++ rs) := by
  unfold intCompare at h
  split at h
  all_goals cases h
  case h_1 | h_3 => exact .of_plain _ _ (fun g => g.setPair _ pair _) (fun _ => rfl) (compareRegs_subset_one _ _ _ _) fun g => rfl
  case h_2 | h_4 => exact .of_plain _ _ (fun g => g.setPair _ pair _) (fun _ => rfl) (compareRegs_subset _ _ _ _) fun g => rfl
  case h_5 | h_6 => exact .of_plain _ _ (fun g => g.setPair _ pair _) (fun _ => rfl) (List.Subset.refl _) fun g => rfl

theorem quietWord_of_floatCompare {i : Instr} {F : Fmt} {sig : Bool} {gd : Guard} {pair : Fin 6} {c : Cond} {rs : List PReg}
    {xy : Group → Nat → Nat × Nat} (h : floatCompare i = some (F, sig, gd, pair, c, rs, xy)) :
    QuietWord i (vecRegs gd ++ pairRegs pair ++ rs) := by
  unfold floatCompare at h
  split at h
  all_goals cases h
  all_goals exact .of_plain _ _ _ (fun _ => rfl) (List.Subset.refl _) fun g => by simp

theorem quietWord_of_keyedValue {i : Instr} {gd : Guard} {d : Reg} {rs : List PReg} {f : Group → Nat → Word}
    (h : keyedValue i = some (gd, d, rs, f)) : QuietWord i (vecRegs gd ++ .v d.val :: rs) := by
  unfold keyedValue at h
  split at h
  all_goals cases h
  case h_5 => exact .of_fpWord _ fun _ => rfl
  all_goals exact .of_vset _ fun _ => rfl

theorem quietWord_of_plainWord {i : Instr} {rs : List PReg} (h : plainWord i = some rs) : QuietWord i rs := by
  unfold plainWord at h
  split at h
  all_goals cases h
  · exact .of_plain _ _ _ (fun _ => rfl) (List.Subset.refl _) fun g => rfl
  · exact .of_plain _ _ _ (fun _ => rfl) (List.Subset.refl _) fun g => rfl
  · exact .of_plain _ _ _ (fun _ => rfl) (List.Subset.refl _) fun g => rfl
  · exact ⟨_, _, fun _ => rfl, List.Subset.refl _, fun g => g.still_jumpTo _⟩
  · exact ⟨_, _, fun _ => rfl, List.Subset.refl _, fun g => by simp⟩
  · exact ⟨_, _, fun _ => rfl, List.Subset.refl _, fun g => g.still_jumpTo _⟩

/-- One alternative of a choice among forms: a word of the form is quiet, and a word of none is by what follows. -/
theorem QuietWord.of_orElse {α : Type} {i : Instr} {rs : List PReg} {o : Option α} {k : α → List PReg} {o' : Option (List PReg)}
    (h : (o.map k <|> o') = some rs) (w : ∀ x, o = some x → QuietWord i (k x)) (w' : o' = some rs → QuietWord i rs) :
    QuietWord i rs := by
  cases o with
  | none => exact w' h
  | some x => cases h; exact w x rfl

/-- Every word that `namedRegs` lists is quiet on the registers given there. -/
theorem quietWord_of_namedRegs {i : Instr} {rs : List PReg} (h : namedRegs i = some rs) : QuietWord i rs :=
  .of_orElse h (fun _ => quietWord_of_intValue) fun h => .of_orElse h (fun _ => quietWord_of_pairValue) fun h =>
  .of_orElse h (fun _ => quietWord_of_scalarValue) fun h => .of_orElse h (fun _ => quietWord_of_intCompare) fun h =>
  .of_orElse h (fun _ => quietWord_of_floatValue) fun h => .of_orElse h (fun _ => quietWord_of_floatPair) fun h =>
  .of_orElse h (fun _ => quietWord_of_convertValue) fun h => .of_orElse h (fun _ => quietWord_of_convertPair) fun h =>
  .of_orElse h (fun _ => quietWord_of_floatCompare) fun h => .of_orElse h (fun _ => quietWord_of_shuffleFrom) fun h =>
  .of_orElse h (fun _ => quietWord_of_keyedValue) fun h => quietWord_of_plainWord h

/-- The group in focus is read by its identifier. -/
theorem State.group?_of_cur {s : State} {g : Group} (h : s.cur = some g) : s.group? g.id = some g := by
  unfold State.cur at h
  split at h
  · rw [(State.group?_some h).2]
    exact h
  · cases h

end Sys2Proof.Machine

namespace Sys2Proof.Proofs

open Sys2Proof.Machine Sys2Proof.Slice0

/-- Settles O58: every listed word is quiet, and what `Group.still` holds stays. -/
theorem valueWordsLeaveTheRest : Obligations.ValueWordsLeaveTheRest := by
  intro i rs s t g hi hs ht
  obtain ⟨h, he, hh⟩ := (quietWord_of_namedRegs hi).exec_eq hs
  obtain rfl : s.put h = t := by rw [he] at ht; exact Host.Outcome.next.inj ht
  have hid := Group.id_of_still hh
  have hg : s.group? h.id = some g := by rw [hid]; exact State.group?_of_cur hs.1
  refine ⟨rfl, fun j hj => State.group?_put_other (by rwa [hid]), h, hid ▸ State.group?_put hg, ?_⟩
  have hv := Group.v_length_of_still hh
  simp only [Group.still, Group.mk.injEq] at hh
  simp [hh, hv]

end Sys2Proof.Proofs
end

section
/-! ### The bits of the activity mask (R9) -/

namespace Sys2Proof.Machine

theorem maskBit_maskOf (f : Nat → Bool) {t : Nat} (h : t < 96) : maskBit (maskOf f) t = f t := by
  simp [maskBit, maskOf, h]

theorem maskBit_and (m n : Mask) (t : Nat) : maskBit (m &&& n) t = (maskBit m t && maskBit n t) := BitVec.getLsbD_and

theorem maskBit_or (m n : Mask) (t : Nat) : maskBit (m ||| n) t = (maskBit m t || maskBit n t) := BitVec.getLsbD_or

theorem maskBit_not (m : Mask) {t : Nat} (h : t < 96) : maskBit (~~~ m) t = !maskBit m t := by
  simp [maskBit, h]

/-- All 96 threads are in a mask that is all ones (R132). -/
theorem eq_allOnes_iff (m : Mask) : m = BitVec.allOnes 96 ↔ ∀ t, t < 96 → maskBit m t = true := by
  constructor
  · rintro rfl t h
    rw [maskBit, BitVec.getLsbD_allOnes, decide_eq_true h]
  · intro h
    exact BitVec.eq_of_getLsbD_eq fun t ht => by rw [BitVec.getLsbD_allOnes, decide_eq_true ht]; exact h t ht

/-- Thread t's bit is bit t mod 32 of word t div 32. -/
theorem maskBit_maskOfWords (f : Nat → Word) {t : Nat} (h : t < 96) :
    maskBit (maskOfWords (f 0) (f 1) (f 2)) t = (f (t / 32)).getLsbD (t % 32) := by
  simp only [maskBit, maskOfWords, BitVec.getLsbD_append]
  rcases (by omega : t / 32 = 0 ∨ t / 32 = 1 ∨ t / 32 = 2) with e | e | e
  · rw [e, if_pos (by omega), show t % 32 = t by omega]
  · rw [e, if_neg (by omega), if_pos (by omega), show t % 32 = t - 32 by omega]
  · rw [e, if_neg (by omega), if_neg (by omega), show t % 32 = t - 32 - 32 by omega]

theorem getLsbD_maskWord (m : Mask) (i : Nat) {k : Nat} (h : k < 32) : (maskWord m i).getLsbD k = maskBit m (32 * i + k) := by
  simp only [maskWord, maskBit, BitVec.getLsbD, BitVec.toNat_ofNat, Nat.testBit_mod_two_pow, Nat.testBit_div_two_pow, h,
    decide_true, Bool.true_and, Nat.add_comm]

theorem maskBit_full {t : Nat} (h : t < 96) : maskBit (~~~ 0) t = true := by
  rw [maskBit_not _ h]
  exact congrArg (!·) BitVec.getLsbD_zero

/-- A mask is put together again from its words. -/
theorem maskOfWords_maskWord (m : Mask) : maskOfWords (maskWord m 0) (maskWord m 1) (maskWord m 2) = m := by
  refine BitVec.eq_of_getLsbD_eq fun t ht => ?_
  refine (maskBit_maskOfWords (maskWord m) ht).trans ?_
  rw [getLsbD_maskWord m _ (by omega), Nat.div_add_mod]
  rfl

/-! ### Scalar registers and the mask, read after a write -/

theorem Group.sget_sset (g : Group) (n k : Nat) (x : Word) :
    (g.sset n x).sget k = if k = n ∧ n < 64 then x else g.sget k := by
  unfold Group.sget Group.sset
  by_cases h : k = n
  · subst h
    by_cases hn : k < 64 <;> simp [hn]
  · simp [h, Ne.symm h]

theorem Group.sget_setMask (g : Group) (m : Mask) {k : Nat} (h : k < 60 ∨ k = 63) : (g.setMask m).sget k = g.sget k := by
  simp only [Group.setMask, Group.sget_sset]
  rw [if_neg (by omega), if_neg (by omega), if_neg (by omega)]

theorem Group.setMask_eq (g : Group) (m : Mask) : g.setMask m = { g with s := (g.setMask m).s } := by
  simp only [Group.setMask, Group.sset]

theorem Group.mask_setMask (g : Group) (m : Mask) : (g.setMask m).mask = m := by
  simp [Group.mask, Group.setMask, Group.sget_sset, maskOfWords_maskWord]

theorem Group.isActive_setMask (g : Group) (m : Mask) (t : Nat) : (g.setMask m).isActive t = maskBit m t := by
  simp [Group.isActive, Group.mask_setMask]

theorem Group.pget_val (g : Group) (p : Pred) (t : Nat) : g.pget p.val t = maskBit g.p[p] t := by
  simp [Group.pget]

theorem Group.mask_restore (g : Group) (r : Option Mask) : ({ g with restore := r } : Group).mask = g.mask := rfl

theorem Group.sget_restore (g : Group) (r : Option Mask) (n : Nat) : ({ g with restore := r } : Group).sget n = g.sget n := rfl

theorem Group.isActive_x (g : Group) (m : Mask) (t : Nat) : ({ g with x := m } : Group).isActive t = g.isActive t := rfl

theorem Group.sget_x (g : Group) (m : Mask) (n : Nat) : ({ g with x := m } : Group).sget n = g.sget n := rfl

/-- The mask of a replayed word's end: the fault's where one is to be given back (R398, R406). -/
theorem Group.mask_restoreMask (g : Group) : g.restoreMask.mask = g.restore.getD g.mask := by
  cases h : g.restore with
  | some m => simp only [Group.restoreMask, h, Group.mask_restore, Group.mask_setMask, Option.getD_some]
  | none => simp only [Group.restoreMask, h, Option.getD_none]

theorem Group.sget_restoreMask (g : Group) {k : Nat} (h : k < 60 ∨ k = 63) : g.restoreMask.sget k = g.sget k := by
  unfold Group.restoreMask
  split
  · exact (Group.sget_restore _ _ _).trans (Group.sget_setMask _ _ h)
  · rfl

/-- Only the scalar registers differ at a replayed word's end. -/
theorem Group.restoreMask_eq (g : Group) : g.restoreMask = { g with s := g.restoreMask.s, restore := none } := by
  cases h : g.restore with
  | some m => simp [Group.restoreMask, h]
  | none => cases g; simp_all [Group.restoreMask]

/-- A word that is decoded is well formed. -/
theorem wf_of_decodeWord {w : Word} {l : Option Word} {i : Instr} (h : decodeWord w l = .ok i) : i.wf = true := by
  unfold decodeWord wellFormedOnly at h
  split at h
  · split at h
    · rename_i hw
      cases h
      exact hw
    · cases h
  · cases h

/-- The threads that EXIT leaves active and retires (R132). -/
def Group.retired (g : Group) (gd : Guard) : Group :=
  { g.restoreMask.setMask (g.restoreMask.mask &&& ~~~ g.passed gd) with x := g.x ||| g.passed gd }

theorem Group.retired_eq (g : Group) (gd : Guard) :
    g.retired gd = { g with s := (g.retired gd).s, x := (g.retired gd).x, restore := none } := by
  unfold Group.retired
  rw [Group.setMask_eq, Group.restoreMask_eq]

theorem Group.isActive_retired (g : Group) (gd : Guard) {t : Nat} (h : t < 96) :
    (g.retired gd).isActive t = (maskBit (g.restore.getD g.mask) t && !g.on gd t) := by
  rw [← g.mask_restoreMask, ← maskBit_maskOf (g.on gd) h, ← maskBit_not _ h, ← maskBit_and]
  exact (Group.isActive_x _ _ _).trans (Group.isActive_setMask _ _ _)

theorem Group.x_retired (g : Group) (gd : Guard) {t : Nat} (h : t < 96) :
    maskBit (g.retired gd).x t = (maskBit g.x t || g.on gd t) := by
  rw [← maskBit_maskOf (g.on gd) h, ← maskBit_or]
  rfl

theorem Group.sget_retired (g : Group) (gd : Guard) {n : Nat} (h : n < 60 ∨ n = 63) : (g.retired gd).sget n = g.sget n :=
  (Group.sget_x _ _ _).trans ((Group.sget_setMask _ _ h).trans (g.sget_restoreMask h))

/-- The group at the header after its clause, with what EXIT left of it. -/
theorem Group.endClause_retired (g : Group) (gd : Guard) :
    (g.retired gd).endClause (g.retired gd).afterClause = { g.retired gd with
      pc := Slice0.afterClause g, stage := .header, turn := false, clause := {},
      serial := if g.isSerial then some (g.clauseSeq, g.setc) else none, yielding := g.yielding || g.yields } := by
  obtain ⟨a, b, h⟩ : ∃ a b, g.retired gd = { g with s := a, x := b, restore := none } := ⟨_, _, g.retired_eq gd⟩
  rw [h]
  rfl

end Sys2Proof.Machine

namespace Sys2Proof.Proofs

open Sys2Proof.Machine Sys2Proof.Slice0

theorem mskand_rewrites (d : Reg) (p : Pred) (not : Bool) (s : State) (g : Machine.Group) (hd : d.val ≤ 57)
    (hs : issues s g (maskRegs ++ .p p.val :: sRegs d.val 3)) :
    ∃ h : Machine.Group, exec (.mskand d p not) s = .next (s.put (h.nextWord 1)) ∧ h = { g with s := h.s } ∧
      (∀ t, t < 96 → h.isActive t = (g.isActive t && (g.pget p.val t != not))) ∧
      (∀ n, n < 3 → h.sget (d.val + n) = g.sget (60 + n)) ∧
      ∀ n, n < d.val ∨ (d.val + 3 ≤ n ∧ n < 60) ∨ n = 63 → h.sget n = g.sget n := by
  have hc : g.issueFault false (maskRegs ++ .p p.val :: sRegs d.val 3) = none := Group.issueFault_none.2 ⟨by simp, hs.2⟩
  refine ⟨_, State.plain_ok _ hs.1 hc, by simp only [Group.setMask, Group.sset], fun t ht => ?_, fun n hn => ?_, fun n hn => ?_⟩
  · rw [Group.isActive_setMask, maskBit_and, Group.pget_val]
    cases not
    · simp [Group.isActive]
    · simp [Group.isActive, maskBit_not _ ht]
  · rw [Group.sget_setMask _ _ (by omega)]
    simp only [Group.sget_sset]
    rcases (by omega : n = 0 ∨ n = 1 ∨ n = 2) with rfl | rfl | rfl
    · rw [if_neg (by omega), if_neg (by omega), if_pos (by omega)]
    · rw [if_neg (by omega), if_pos (by omega)]
    · rw [if_pos (by omega)]
  · rw [Group.sget_setMask _ _ (by omega)]
    simp only [Group.sget_sset]
    rw [if_neg (by omega), if_neg (by omega), if_neg (by omega)]

theorem mskset_rewrites (a : Reg) (q : Option Pred) (s : State) (g : Machine.Group)
    (hs : issues s g (maskRegs ++ (q.elim [] fun x => [.p x.val]) ++ sRegs a.val 3)) :
    ∃ h : Machine.Group, exec (.mskset a q) s = .next (s.put (h.nextWord 1)) ∧ h = { g with s := h.s } ∧
      (∀ t, t < 96 → h.isActive t =
        ((g.sget (a.val + t / 32)).getLsbD (t % 32) && (q.elim true fun x => g.pget x.val t) && !maskBit g.x t)) ∧
      ∀ n, n < 60 ∨ n = 63 → h.sget n = g.sget n := by
  have hc : g.issueFault false (maskRegs ++ (q.elim [] fun x => [.p x.val]) ++ sRegs a.val 3) = none :=
    Group.issueFault_none.2 ⟨by simp, hs.2⟩
  refine ⟨_, State.plain_ok _ hs.1 hc, Group.setMask_eq _ _, fun t ht => ?_, fun n hn => Group.sget_setMask _ _ hn⟩
  have hw : maskBit (maskOfWords (g.sget a.val) (g.sget (a.val + 1)) (g.sget (a.val + 2))) t = _ :=
    maskBit_maskOfWords (fun i => g.sget (a.val + i)) ht
  rw [Group.isActive_setMask, maskBit_and, maskBit_and, maskBit_not _ ht]
  cases q with
  | none => simp only [Option.elim, maskBit_full ht]; rw [← hw]
  | some x => simp only [Option.elim, Group.pget_val]; rw [← hw]

/-- EXIT of the last threads of a group ends it (R132). -/
theorem exec_exit_last {gd : Guard} {s : State} {g : Machine.Group} (hs : issues s g (vecRegs gd)) (htx : g.tx = none)
    (hx : (g.retired gd).x = BitVec.allOnes 96) :
    exec (.exit gd) s = .next (s.put { g.retired gd with status := .ending, turn := false }) := by
  have hc : g.issueFault false (vecRegs gd) = none := Group.issueFault_none.2 ⟨by simp, hs.2⟩
  refine (State.word_ok _ hs.1 hc).trans ?_
  rw [if_neg (by simp [htx])]
  exact congrArg Host.Outcome.next (if_pos (beq_iff_eq.2 hx))

/-- EXIT of a group that has threads left ends its clause (R132). -/
theorem exec_exit_more {gd : Guard} {s : State} {g : Machine.Group} (hs : issues s g (vecRegs gd)) (htx : g.tx = none)
    (hx : (g.retired gd).x ≠ BitVec.allOnes 96) :
    exec (.exit gd) s = .next (s.put ((g.retired gd).endClause (g.retired gd).afterClause)) := by
  have hc : g.issueFault false (vecRegs gd) = none := Group.issueFault_none.2 ⟨by simp, hs.2⟩
  refine (State.word_ok _ hs.1 hc).trans ?_
  rw [if_neg (by simp [htx])]
  exact congrArg Host.Outcome.next (if_neg fun h => hx (beq_iff_eq.1 h))

theorem exitRetiresThreads : ExitRetiresThreads := by
  intro gd s g hs htx before
  have hk := g.retired_eq gd
  have hact : ∀ t, t < 96 → (g.retired gd).isActive t = (before t && !g.on gd t) := by
    intro t ht
    rw [g.isActive_retired gd ht]
    congr 1
    simp only [before]
    cases g.restore <;> rfl
  by_cases hall : (g.retired gd).x = BitVec.allOnes 96
  · refine ⟨g.retired gd, _, exec_exit_last hs htx hall, hk, fun t ht => ⟨hact t ht, g.x_retired gd ht⟩,
      fun n => g.sget_retired gd, fun _ => rfl, ?_⟩
    rintro ⟨t, ht, hn⟩
    simp [(eq_allOnes_iff _).1 hall t ht] at hn
  · refine ⟨g.retired gd, _, exec_exit_more hs htx hall, hk, fun t ht => ⟨hact t ht, g.x_retired gd ht⟩,
      fun n => g.sget_retired gd,
      fun h => absurd ((eq_allOnes_iff _).2 h) hall, fun _ => ?_⟩
    exact g.endClause_retired gd

theorem maskWordsRewriteTheMask : MaskWordsRewriteTheMask := fun d a p not q s g =>
  ⟨mskand_rewrites d p not s g, fun hd w l h => absurd (wf_of_decodeWord h) (by simpa [Instr.wf] using hd),
    fun _ => mskset_rewrites a q s g⟩

/-- Settles O13: the mask words read back bit by bit, and EXIT's group by its two cases. -/
theorem maskWordsAndExitRewriteTheMask : Obligations.MaskWordsAndExitRewriteTheMask :=
  ⟨maskWordsRewriteTheMask, exitRetiresThreads⟩

end Sys2Proof.Proofs
end

section
/-! ### Cores, decoders, poison and grooms: what one service step leaves (R36, R450, R454, R455, R465) -/

namespace Sys2Proof.Machine

/-! ### A core changed -/

theorem State.modCore_cores_some {s : State} {c : CoreId} {x : Core} (h : s.core? c = some x) (f : Core → Core) :
    (s.modCore c f).cores = s.cores.map fun y => if y.id = c then f y else y := by simp [State.modCore, h]

theorem State.modCore_cores_none {s : State} {c : CoreId} (h : s.core? c = none) (f : Core → Core) :
    (s.modCore c f).cores = f (Core.fresh c) :: s.cores := by simp [State.modCore, h]

/-- What is found by identifier after a core is changed by what keeps its identifier. -/
theorem State.core?_modCore (s : State) (c k : CoreId) (f : Core → Core) (hf : ∀ x, (f x).id = x.id) :
    (s.modCore c f).core? k = if k = c then some (f (s.coreD c)) else s.core? k := by
  cases h : s.core? c with
  | some x =>
    have hx : x.id = c := by simpa using List.find?_some h
    have hp : ((fun y : Core => decide (y.id = k)) ∘ fun y => if y.id = c then f y else y) = fun y => decide (y.id = k) := by
      funext y
      by_cases hy : y.id = c <;> simp [hy, hf]
    unfold State.core? at h ⊢
    rw [State.modCore_cores_some h, List.find?_map, hp]
    by_cases hk : k = c
    · subst hk
      simp [State.coreD, State.core?, h, hx]
    · cases hy : s.cores.find? fun y => decide (y.id = k) with
      | none => simp [hk]
      | some y =>
        have : y.id = k := by simpa using List.find?_some hy
        simp [hk, this]
  | none =>
    have hid : (f (Core.fresh c)).id = c := hf _
    unfold State.core?
    rw [State.modCore_cores_none h]
    by_cases hk : k = c
    · subst hk
      simp [hid, State.coreD, h]
    · simp [hid, hk, Ne.symm hk]

/-- A core changed by what keeps its identifier is read back changed, and no other core is (R5). -/
theorem State.coreD_modCore (s : State) (c k : CoreId) (f : Core → Core) (hf : ∀ x, (f x).id = x.id) :
    (s.modCore c f).coreD k = if k = c then f (s.coreD c) else s.coreD k := by
  unfold State.coreD
  rw [State.core?_modCore _ _ _ _ hf]
  split <;> rfl

/-- With no task whose TCB lags, the mirrors of a cycle change nothing (R240). -/
theorem State.mirrorStale_nil {s : State} (h : s.stale = []) : s.mirrorStale = s := by
  cases s
  simp only at h
  subst h
  rfl

/-- CYC of the step's core counts (R36). -/
theorem exec_cycIncrement {s : State} (h : s.stale = []) :
    exec .cycIncrement s = .next (s.modCore s.args.core fun k => { k with cyc := k.cyc + 1 }) := by
  show Host.Outcome.next ((if s.imaging then s else s.mirrorStale).modCore _ _) = _
  rw [State.mirrorStale_nil h, ite_self]

/-! ### Decoders (R450) -/

theorem setIfInBounds_eq_set {α : Type} {n : Nat} (v : Vector α n) (k : Fin n) (x : α) : v.setIfInBounds k.val x = v.set k x := by
  ext i hi
  simp [Vector.getElem_setIfInBounds, Vector.getElem_set]

theorem bitOf_eq_getLsbD {n : Nat} (x : BitVec n) (i : Nat) : bitOf x.toNat i = x.getLsbD i := by
  simp [bitOf, BitVec.getLsbD, Nat.testBit_eq_decide_div_mod_eq, beq_eq_decide]

theorem decoderBits_lt (d : Nat) : decoderBits d < 2 ^ 62 := by
  unfold decoderBits
  omega

/-- EN := 1 changes no other bit of a decoder. -/
theorem toNat_or_en (v : DWord) : (v ||| 0x8000000000000000#64).toNat % 2 ^ 63 = v.toNat % 2 ^ 63 := by
  rw [BitVec.toNat_or, Nat.or_mod_two_pow]
  simp

theorem decoderBits_or_en (v : DWord) : decoderBits (v ||| 0x8000000000000000#64).toNat = decoderBits v.toNat := by
  have h := toNat_or_en v
  unfold decoderBits
  omega

theorem field_or_en (v : DWord) {lo n : Nat} (h : 2 ^ lo * n ∣ 2 ^ 63) :
    field (v ||| 0x8000000000000000#64).toNat lo n = v.toNat / 2 ^ lo % n := by
  have e : ∀ x, x / 2 ^ lo % n = x % 2 ^ 63 % (2 ^ lo * n) / 2 ^ lo := fun x => by
    rw [Nat.mod_mod_of_dvd _ h, Nat.mod_mul_right_div_self]
  rw [field, e, toNat_or_en, ← e]

/-- A decoder's word: what software writes, PM and EN (R450). -/
def decoderWord (b : Nat) (pm en : Bool) : DWord := BitVec.ofNat 64 (b + pm.toNat * 2 ^ 62 + en.toNat * 2 ^ 63)

theorem toNat_decoderWord {b : Nat} (h : b < 2 ^ 62) (pm en : Bool) :
    (decoderWord b pm en).toNat = b + pm.toNat * 2 ^ 62 + en.toNat * 2 ^ 63 := by
  have := pm.toNat_le
  have := en.toNat_le
  rw [decoderWord, BitVec.toNat_ofNat, Nat.mod_eq_of_lt (by omega)]

theorem decoderWord_pm {b : Nat} (h : b < 2 ^ 62) (pm en : Bool) : (decoderWord b pm en).getLsbD 62 = pm := by
  rw [← bitOf_eq_getLsbD, bitOf, toNat_decoderWord h]
  cases pm <;> cases en <;> simp <;> omega

theorem decoderWord_en {b : Nat} (h : b < 2 ^ 62) (pm en : Bool) : (decoderWord b pm en).getLsbD 63 = en := by
  rw [← bitOf_eq_getLsbD, bitOf, toNat_decoderWord h]
  cases pm <;> cases en <;> simp <;> omega

theorem decoderWord_mod {b : Nat} (h : b < 2 ^ 62) (pm en : Bool) : (decoderWord b pm en).toNat % 2 ^ 62 = b := by
  rw [toNat_decoderWord h]
  omega

theorem State.decoder_getD (s : State) (k : Fin 16) : s.decoders[k.val]?.getD 0 = s.decoders[k] := by simp

/-- PM of decoder k's setting: every target is one of its port's sixteen expanders and persistent (R450). -/
theorem State.targetsPersistent_or_en (s : State) (p : Nat) (v : DWord) :
    s.targetsPersistent p (v ||| 0x8000000000000000#64) = true ↔ ∀ i, i < 2 ^ (v.toNat / 2 ^ 60 % 4) →
      v.toNat / 2 ^ 56 % 16 + i < 16 ∧ let x := s.expanders.toArray.getD (16 * p + (v.toNat / 2 ^ 56 % 16 + i)) 0
        x.getLsbD 14 = true ∧ x.getLsbD 13 = true := by
  simp only [State.targetsPersistent, field_or_en v (show 2 ^ 60 * 4 ∣ 2 ^ 63 by norm_num), field_or_en v (show 2 ^ 56 * 16 ∣ 2 ^ 63 by norm_num),
    List.all_eq_true, List.mem_range, Bool.and_eq_true, decide_eq_true_eq, bitOf_eq_getLsbD, Array.getD_eq_getD_getElem?, and_assoc,
    Nat.add_assoc, Vector.getElem?_toArray]

/-- EN := 1 of a decoder whose setting may be enabled (R450). -/
theorem exec_capacityDecoderEnable {s : State} {k : Fin 16} (hk : s.args.k = k.val) (hb : s.psc.boot = .ready)
    (ho : s.decoderOk k.val (s.decoders[k] ||| 0x8000000000000000#64) = true) :
    let d := decoderWord (decoderBits s.decoders[k].toNat) (s.targetsPersistent (k.val / 8) (s.decoders[k] ||| 0x8000000000000000#64)) true
    exec .capacityDecoderEnable s = .next { s with
      decoders := s.decoders.set k d, caps := { s.caps with gib := gibSum (s.decoders.set k d).toList } } := by
  have he : bitOf (s.decoders[k] ||| 0x8000000000000000#64).toNat 63 = true := by rw [bitOf_eq_getLsbD]; simp
  have h : exec .capacityDecoderEnable s = .next (s.writeDecoder k.val (s.decoders[k] ||| 0x8000000000000000#64)) := by
    show Host.Outcome.next (if s.args.k < 16 then s.writeDecoder s.args.k _ else s) = _
    rw [hk, if_pos k.isLt, State.decoder_getD]
    rfl
  intro d
  rw [h]
  simp only [State.writeDecoder, he, ho, hb, decide_true, Bool.and_true, decoderBits_or_en, setIfInBounds_eq_set]
  rfl

/-! ### ECC errors (R455) -/

/-- Poison added changes the poison and the PSC's log alone; what stood already is not added again. -/
theorem State.addPoison_eq (s : State) (new : List Poison) (kind a : Nat) : ∃ log, s.addPoison new kind a =
    { s with poison := (new.filter fun e => !s.poison.contains e) ++ s.poison, psc := { s.psc with log := log } } := by
  cases h : new.filter fun e => !s.poison.contains e with
  | nil => exact ⟨s.psc.log, by unfold State.addPoison; rw [h]; rfl⟩
  | cons e es => exact ⟨s.psc.log ++ [(kind, a)], by unfold State.addPoison; rw [h]; rfl⟩

theorem State.mem_addPoison {s : State} {new : List Poison} {e : Poison} (kind a : Nat) (h : e ∈ new) :
    e ∈ (s.addPoison new kind a).poison := by
  obtain ⟨log, hl⟩ := s.addPoison_eq new kind a
  rw [hl]
  by_cases he : e ∈ s.poison <;> simp [h, he]

/-- One byte is poisoned where its home returns it poisoned. -/
theorem State.poisoned_one {s : State} {x : Spot} (h : s.homeBad (x.shift 0) = true) {e : Poison} (he : e ∈ s.poison) :
    s.poisoned x 1 = true := by
  have hp : s.poison.isEmpty = false := by simpa using List.ne_nil_of_mem he
  simp [State.poisoned, h, hp]

@[simp] theorem State.addPoison_mem (s : State) (new : List Poison) (kind a : Nat) : (s.addPoison new kind a).mem = s.mem := by
  obtain ⟨log, h⟩ := s.addPoison_eq new kind a
  rw [h]

@[simp] theorem State.addPoison_cores (s : State) (new : List Poison) (kind a : Nat) : (s.addPoison new kind a).cores = s.cores := by
  obtain ⟨log, h⟩ := s.addPoison_eq new kind a
  rw [h]

@[simp] theorem State.addPoison_l2 (s : State) (new : List Poison) (kind a : Nat) : (s.addPoison new kind a).l2 = s.l2 := by
  obtain ⟨log, h⟩ := s.addPoison_eq new kind a
  rw [h]

/-- The ECC word of an address is by the HMASK values, which an error leaves. -/
theorem State.eccOf_addPoison_pa (s : State) (new : List Poison) (kind a b : Nat) :
    (s.addPoison new kind a).eccOf (.pa b) = s.eccOf (.pa b) := by
  obtain ⟨log, h⟩ := s.addPoison_eq new kind a
  rw [h]
  rfl

/-- An address whose ECC word is poisoned at its home is returned poisoned, where no L2 holds its line dirty (R455). -/
theorem State.poisoned_addPoison_pa (s : State) (kind a : Nat) (h : ∀ x ∈ s.l2, x.line = lineOf a → x.state ≠ .dirty) :
    (s.addPoison [.cell (s.eccOf (.pa a))] kind a).poisoned (.pa a) 1 = true := by
  have he := s.mem_addPoison kind a (List.mem_singleton_self (Poison.cell (s.eccOf (.pa a))))
  have hd : s.l2.find? (fun y => decide (y.line = lineOf a ∧ y.state = .dirty)) = none := by
    simpa [List.find?_eq_none] using h
  refine State.poisoned_one ?_ he
  simp only [Spot.shift, Nat.add_zero, State.homeBad, State.addPoison_l2, hd, State.eccOf_addPoison_pa]
  simpa using he

/-- An offset of a shared store whose ECC word is poisoned is returned poisoned (R455). -/
theorem State.poisoned_addPoison_sh (s : State) (kind a d c o : Nat) :
    (s.addPoison [.cell (Spot.sh d c o).ecc] kind a).poisoned (.sh d c o) 1 = true := by
  have he := s.mem_addPoison kind a (List.mem_singleton_self (Poison.cell (Spot.sh d c o).ecc))
  exact State.poisoned_one (by simpa [State.homeBad, State.eccOf, State.resolve, Spot.shift] using he) he

theorem mem_eccWord {a i : Nat} (h : i < Config.eccBytes) : eccAt a + i ∈ (List.range Config.eccBytes).map (eccAt a + ·) :=
  List.mem_map.2 ⟨i, List.mem_range.2 h, rfl⟩

theorem State.mem_cacheWord_l1 {s : State} {c : CoreId} {a i : Nat} (hi : i < Config.eccBytes)
    (h : lineOf (eccAt a + i) ∈ (s.coreD c).l1d ∨ ∃ b ∈ (s.coreD c).l1s, b.pa = eccAt a + i) :
    Poison.l1 c (eccAt a + i) ∈ s.cacheWord c 1 a := by
  refine List.mem_map.2 ⟨_, List.mem_filter.2 ⟨mem_eccWord hi, ?_⟩, rfl⟩
  simpa [l1Find] using h

theorem State.mem_cacheWord_l2 {s : State} {c : CoreId} {a : Nat} (h : ∃ x ∈ s.l2, x.die = c.die ∧ x.line = lineOf a) :
    Poison.l2 c.die (eccAt a) ∈ s.cacheWord c 2 a := by
  have hl : s.inL2 c.die (lineOf a) = true := by simpa [State.inL2] using h
  simp [State.cacheWord, hl]

theorem State.mem_cacheWord_ic {s : State} {c : CoreId} {a : Nat} {x : Nat × Word} (hx : x ∈ (s.coreD c).icache)
    (h1 : eccAt a ≤ x.1) (h2 : x.1 < eccAt a + Config.eccBytes) : Poison.ic c x.1 ∈ s.cacheWord c 3 a := by
  have hm : x.1 ∈ (List.range Config.eccBytes).map (eccAt a + ·) :=
    Nat.add_sub_cancel' h1 ▸ mem_eccWord (by omega)
  exact List.mem_map.2 ⟨_, List.mem_filter.2 ⟨hm, List.any_eq_true.2 ⟨x, hx, by simp⟩⟩, rfl⟩

/-- An uncorrectable error in a cache (R455). -/
theorem exec_eccUncorrectable_cache {s : State} (h : 0 < s.args.n ∧ s.args.n < 4) :
    exec .eccUncorrectableError s = .next (s.addPoison (s.cacheWord s.args.core s.args.n s.args.pa) 6 s.args.pa) := if_pos h

/-- An uncorrectable error in the device's memory (R455). -/
theorem exec_eccUncorrectable_mem {s : State} (h : s.args.n = 0) (ho : s.args.ok = true) (hd : isDevice s.args.pa = true) :
    exec .eccUncorrectableError s = .next (s.addPoison [.cell (s.eccOf (.pa s.args.pa))] 1 s.args.pa) := by
  show (if _ then _ else if _ then Host.Outcome.next (if _ then _ else _) else _) = _
  rw [if_neg (by omega), if_pos ho, if_pos hd]

/-- An uncorrectable error in a shared store (R455). -/
theorem exec_eccUncorrectable_sh {s : State} (h : s.args.n = 0) (ho : s.args.ok = false) (hd : s.args.pa < shSize) :
    exec .eccUncorrectableError s =
      .next (s.addPoison [.cell (s.eccOf (.sh s.args.core.die s.args.core.core s.args.pa))] 5 s.args.pa) := by
  show (if _ then _ else if _ then _ else Host.Outcome.next (if _ then _ else _)) = _
  rw [if_neg (by omega), if_neg (by simp [ho]), if_pos hd]

/-! ### Grooms (R454, R465) -/

/-- A stack out of service leaves the others as they are. -/
theorem inService_dropStack (m : BitVec 12) (k i : Nat) (hi : i < 12) :
    (m &&& ~~~ BitVec.ofNat 12 (2 ^ k)).getLsbD i = (m.getLsbD i && decide (i ≠ k)) := by
  rw [BitVec.getLsbD_and, BitVec.getLsbD_not, BitVec.getLsbD_ofNat, Nat.testBit_two_pow]
  simp [hi, eq_comm]

theorem State.modGroom_eq (s : State) (k : Fin 12) (f : Groom → Groom) :
    s.modGroom k.val f = { s with grooms := s.grooms.set k (f s.grooms[k]) } := by
  simp [State.modGroom, setIfInBounds_eq_set]

theorem State.groom_loaded (s : State) (k : Fin 12) : ((s.grooms[k.val]?).map (·.loaded)).getD false = s.grooms[k].loaded := by simp

theorem State.groom_pcSpares (s : State) (k : Fin 12) : ((s.grooms[k.val]?).map (·.pcSpares)).getD 0 = s.grooms[k].pcSpares := by simp

/-- A command to a groom that has not loaded its component does nothing. -/
theorem State.groomDoes_unloaded {s : State} {k : Fin 12} (f : State → State) (h : s.grooms[k].loaded = false) :
    s.groomDoes k.val f = s := by
  rw [State.groomDoes, State.groom_loaded, h]
  simp

/-- A groom that does not answer loses its stack (R465). -/
theorem State.groomDoes_lost {s : State} {k : Fin 12} (f : State → State) (hf : s.firmwareUp = true)
    (h : s.grooms[k].loaded = true) (hr : s.args.reply = .lost) : s.groomDoes k.val f = s.dropStack k.val := by
  rw [State.groomDoes, State.groom_loaded, h, hf]
  simp [hr]

theorem State.groomDoes_answers {s : State} {k : Fin 12} (f : State → State) (hf : s.firmwareUp = true)
    (h : s.grooms[k].loaded = true) (hr : s.args.reply ≠ .lost) : s.groomDoes k.val f = f s := by
  rw [State.groomDoes, State.groom_loaded, h, hf]
  simp [hr]

/-- Every command to a groom but the load goes through `groomDoes`. -/
theorem exec_groom {e : Instr} (h : e ∈ [Instr.groomTrain, .groomRowRepair, .groomPcSpare, .groomScrub, .groomTelemetry]) :
    ∃ f : State → State → State, ∀ s, exec e s = .next (s.groomDoes s.args.k (f s)) := by
  simp only [List.mem_cons, List.not_mem_nil, or_false] at h
  rcases h with rfl | rfl | rfl | rfl | rfl
  all_goals exact ⟨_, fun s => rfl⟩

theorem exec_groomLoad {s : State} {k : Fin 12} (hk : s.args.k = k.val) (hf : s.firmwareUp = true) :
    exec .groomLoad s = .next (if s.args.ok then { s with grooms := s.grooms.set k { s.grooms[k] with loaded := true } }
      else s.dropStack k.val) := by
  refine (if_neg (by simp [hf])).trans ?_
  rw [hk, State.modGroom_eq]

section
variable {s : State} {k : Fin 12} (hk : s.args.k = k.val) (hf : s.firmwareUp = true) (hl : s.grooms[k].loaded = true)
  (hr : s.args.reply ≠ .lost)
include hk hf hl hr

theorem exec_groom_answers {e : Instr} (f : State → State) (h : exec e s = .next (s.groomDoes s.args.k f)) : exec e s = .next (f s) := by
  rw [h, hk, State.groomDoes_answers f hf hl hr]

theorem exec_groomTrain : exec .groomTrain s =
    .next (if s.args.ok then { s with grooms := s.grooms.set k { s.grooms[k] with trained := true } } else s.dropStack k.val) := by
  refine (exec_groom_answers hk hf hl hr _ rfl).trans ?_
  rw [hk, State.modGroom_eq]

theorem exec_groomRowRepair : exec .groomRowRepair s =
    .next { s with grooms := s.grooms.set k { s.grooms[k] with rows := s.grooms[k].rows ++ [s.args.n] } } := by
  refine (exec_groom_answers hk hf hl hr _ rfl).trans ?_
  rw [hk, State.modGroom_eq]

theorem exec_groomPcSpare : exec .groomPcSpare s = .next (
    if 0 < s.grooms[k].pcSpares then
      { s with grooms := s.grooms.set k { s.grooms[k] with pcSpares := s.grooms[k].pcSpares - 1, pcs := s.grooms[k].pcs ++ [s.args.n] } }
    else if s.args.ok then { s with psc := { s.psc with log := s.psc.log ++ [(3, k.val)] } } else s.dropStack k.val) := by
  refine (exec_groom_answers hk hf hl hr _ rfl).trans ?_
  rw [hk, State.modGroom_eq, State.groom_pcSpares]
  rfl

end

end Sys2Proof.Machine

namespace Sys2Proof.Proofs

open Sys2Proof.Machine Sys2Proof.Slice0

theorem coresCountAlone (s : State) (h : s.stale = []) :
    ∃ t, exec .cycIncrement s = .next t ∧ t.mem = s.mem ∧ t.groups = s.groups ∧ (∀ c, c ≠ s.args.core → t.coreD c = s.coreD c) ∧
      t.coreD s.args.core = { s.coreD s.args.core with cyc := (s.coreD s.args.core).cyc + 1 } := by
  refine ⟨_, exec_cycIncrement h, by simp, by simp, fun c hc => ?_, ?_⟩
  · exact (s.coreD_modCore _ c (fun k => { k with cyc := k.cyc + 1 }) fun _ => rfl).trans (if_neg hc)
  · exact (s.coreD_modCore _ _ (fun k => { k with cyc := k.cyc + 1 }) fun _ => rfl).trans (if_pos rfl)

theorem decoderEnabled (s : State) (k : Fin 16) (hk : s.args.k = k.val) (hb : s.psc.boot = .ready)
    (ho : s.decoderOk k.val (s.decoders[k] ||| 0x8000000000000000#64) = true) :
    ∃ t d, exec .capacityDecoderEnable s = .next t ∧ t.decoders = s.decoders.set k d ∧ d.getLsbD 63 = true ∧
      (let v := s.decoders[k].toNat
       d.getLsbD 62 = true ↔ ∀ i, i < 2 ^ (v / 2 ^ 60 % 4) → v / 2 ^ 56 % 16 + i < 16 ∧
         let x := s.expanders.toArray.getD (16 * (k.val / 8) + (v / 2 ^ 56 % 16 + i)) 0
         x.getLsbD 14 = true ∧ x.getLsbD 13 = true) ∧
      d.toNat % 2 ^ 62 = decoderBits s.decoders[k].toNat ∧ t.caps.gib = gibSum (s.decoders.set k d).toList ∧ t.mem = s.mem := by
  have hlt := decoderBits_lt s.decoders[k].toNat
  refine ⟨_, _, exec_capacityDecoderEnable hk hb ho, rfl, decoderWord_en hlt _ _, ?_, decoderWord_mod hlt _ _, rfl, rfl⟩
  rw [decoderWord_pm hlt]
  exact State.targetsPersistent_or_en _ _ _

theorem slicesRetire (s : State) :
    (∀ d : Fin 8, s.args.n = d.val → s.args.ok = true →
      exec .sliceRetire s = .next { s with caps := { s.caps with l2s := s.caps.l2s.set d (s.caps.l2s[d] - 1) } }) ∧
    (s.args.ok = false → exec .sliceRetire s = .next { s with caps := { s.caps with l3s := s.caps.l3s - 1 } }) := by
  refine ⟨fun d hd ho => ?_, fun ho => if_neg (by simp [ho])⟩
  refine (if_pos ho).trans ?_
  rw [hd, setIfInBounds_eq_set]
  simp

theorem uncorrectableErrorsPoison (s : State) :
    let pa := s.args.pa
    let c := s.args.core
    let e := Poison.cell (Spot.pa (s.cellOf pa)).ecc
    let word := pa / Config.eccBytes * Config.eccBytes
    (s.args.n = 0 → s.args.ok = true → isHbm pa = true → e ∉ s.poison → ∃ t, exec .eccUncorrectableError s = .next t ∧
      t.poison = e :: s.poison ∧ t.mem = s.mem ∧ ((∀ x ∈ s.l2, x.line = lineOf pa → x.state ≠ .dirty) → t.poisoned (.pa pa) 1 = true)) ∧
    (s.args.n = 0 → s.args.ok = false → pa < 524288 → Poison.cell (Spot.sh c.die c.core pa).ecc ∉ s.poison →
      ∃ t, exec .eccUncorrectableError s = .next t ∧ t.poisoned (.sh c.die c.core pa) 1 = true ∧ t.cores = s.cores) ∧
    (s.args.n = 1 → ∃ t, exec .eccUncorrectableError s = .next t ∧ t.mem = s.mem ∧ t.cores = s.cores ∧
      ∀ i, i < Config.eccBytes → (lineOf (word + i) ∈ (s.coreD c).l1d ∨ ∃ b ∈ (s.coreD c).l1s, b.pa = word + i) → Poison.l1 c (word + i) ∈ t.poison) ∧
    (s.args.n = 2 → (∃ x ∈ s.l2, x.die = c.die ∧ x.line = lineOf pa) → ∃ t, exec .eccUncorrectableError s = .next t ∧ t.mem = s.mem ∧
      t.l2 = s.l2 ∧ Poison.l2 c.die word ∈ t.poison) ∧
    (s.args.n = 3 → ∃ t, exec .eccUncorrectableError s = .next t ∧ t.mem = s.mem ∧ t.cores = s.cores ∧
      ∀ x ∈ (s.coreD c).icache, word ≤ x.1 → x.1 < word + Config.eccBytes → Poison.ic c x.1 ∈ t.poison) := by
  intro pa c e word
  refine ⟨fun hn ho hh he => ?_, fun hn ho hh he => ?_, fun hn => ?_, fun hn hx => ?_, fun hn => ?_⟩
  · have hd : isDevice s.args.pa = true := Bool.or_eq_true_iff.2 (.inl hh)
    refine ⟨_, exec_eccUncorrectable_mem hn ho hd, ?_, by simp, State.poisoned_addPoison_pa _ _ _⟩
    obtain ⟨log, hl⟩ := s.addPoison_eq [e] 1 pa
    refine (congrArg State.poison hl).trans ?_
    simp [he]
  · exact ⟨_, exec_eccUncorrectable_sh hn ho hh, State.poisoned_addPoison_sh _ _ _ _ _ _, by simp⟩
  · refine ⟨_, exec_eccUncorrectable_cache (by omega), by simp, by simp, fun i hi h => State.mem_addPoison _ _ ?_⟩
    rw [hn]
    exact State.mem_cacheWord_l1 hi h
  · refine ⟨_, exec_eccUncorrectable_cache (by omega), by simp, by simp, State.mem_addPoison _ _ ?_⟩
    rw [hn]
    exact State.mem_cacheWord_l2 hx
  · refine ⟨_, exec_eccUncorrectable_cache (by omega), by simp, by simp, fun x hx h1 h2 => State.mem_addPoison _ _ ?_⟩
    rw [hn]
    exact State.mem_cacheWord_ic hx h1 h2

theorem groomsAnswer (s : State) (hb : s.psc.boot = .init ∨ s.psc.boot = .ready) (k : Fin 12) (hk : s.args.k = k.val) :
    let g := s.grooms[k]
    let becomes := fun (e : Instr) (x : Groom) => exec e s = .next { s with grooms := s.grooms.set k x }
    let leaves := fun (e : Instr) => ∃ t, exec e s = .next t ∧ t = { s with caps := { s.caps with inService := t.caps.inService } } ∧
      ∀ i, i < 12 → t.caps.inService.getLsbD i = (s.caps.inService.getLsbD i && decide (i ≠ k.val))
    (s.args.ok = true → becomes .groomLoad { g with loaded := true }) ∧ (s.args.ok = false → leaves .groomLoad) ∧
    (∀ e, e ∈ [Instr.groomTrain, .groomRowRepair, .groomPcSpare, .groomScrub, .groomTelemetry] →
      (g.loaded = false → exec e s = .next s) ∧ (g.loaded = true → s.args.reply = .lost → leaves e)) ∧
    (g.loaded = true → s.args.reply ≠ .lost →
      (s.args.ok = true → becomes .groomTrain { g with trained := true }) ∧ (s.args.ok = false → leaves .groomTrain) ∧
      becomes .groomRowRepair { g with rows := g.rows ++ [s.args.n] } ∧
      (0 < g.pcSpares → becomes .groomPcSpare { g with pcSpares := g.pcSpares - 1, pcs := g.pcs ++ [s.args.n] }) ∧
      (g.pcSpares = 0 → s.args.ok = true → exec .groomPcSpare s = .next { s with psc := { s.psc with log := s.psc.log ++ [(3, k.val)] } }) ∧
      (g.pcSpares = 0 → s.args.ok = false → leaves .groomPcSpare) ∧ exec .groomScrub s = .next s ∧
      exec .groomTelemetry s = .next { s with psc := { s.psc with readings := s.psc.readings + 1 } }) := by
  intro g becomes leaves
  have hf : s.firmwareUp = true := by simpa [State.firmwareUp] using hb
  have hload := exec_groomLoad hk hf
  have hleave : ∀ {e : Instr} {t : State}, exec e s = .next t → t = s.dropStack k.val → leaves e :=
    fun he ht => ⟨_, he, by rw [ht]; rfl, fun i hi => by rw [ht]; exact inService_dropStack _ _ _ hi⟩
  refine ⟨fun ho => by rwa [if_pos ho] at hload, fun ho => hleave hload (if_neg (by simp [ho])), fun e he => ?_, fun hl hr => ?_⟩
  · obtain ⟨f, hex⟩ := exec_groom he
    have hex := hex s
    rw [hk] at hex
    exact ⟨fun hl => by rwa [State.groomDoes_unloaded _ hl] at hex, fun hl hr => hleave hex (State.groomDoes_lost _ hf hl hr)⟩
  · have htrain := exec_groomTrain hk hf hl hr
    have hspare := exec_groomPcSpare hk hf hl hr
    refine ⟨fun ho => by rwa [if_pos ho] at htrain, fun ho => hleave htrain (if_neg (by simp [ho])), exec_groomRowRepair hk hf hl hr,
      fun hp => by rwa [if_pos hp] at hspare, fun hp ho => ?_, fun hp ho => hleave hspare ?_,
      exec_groom_answers hk hf hl hr (fun s => s) rfl,
      exec_groom_answers hk hf hl hr (fun s => { s with psc := { s.psc with readings := s.psc.readings + 1 } }) rfl⟩
    · rwa [if_neg (Nat.not_lt.2 hp.le), if_pos ho] at hspare
    · rw [if_neg (Nat.not_lt.2 hp.le), if_neg (by simp [ho])]

theorem theDeviceIsServiced : TheDeviceIsServiced := fun s =>
  ⟨coresCountAlone s, decoderEnabled s, (slicesRetire s).1, (slicesRetire s).2, rfl, uncorrectableErrorsPoison s, rfl, groomsAnswer s⟩

end Sys2Proof.Proofs
end

section
/-! ### What the device's writes leave (R326, R447, R453) -/

namespace Sys2Proof.Machine

/-! ### A write's bytes, and all that it stirs beside them -/

/-- A state without what a write of the device may change beside the bytes of memory: what it wakes, marks and clears, the doorbells
that it rings, and the cores' own state. -/
def State.still (s : State) : State :=
  { s with poison := [], groups := [], cores := [], teams := [], tasks := [], stale := [], watchers := [], outbox := [], called := [],
           owed := [], ctxs := s.ctxs.map fun c => { c with scan := false } }

theorem State.foldl_keeps {α : Type} (E : State → State) {f : State → α → State} (h : ∀ s a, E (f s a) = E s) (l : List α) (s : State) :
    E (l.foldl f s) = E s := by
  induction l generalizing s with
  | nil => rfl
  | cons a l ih => exact (ih _).trans (h s a)

theorem State.still_modCore (s : State) (c : CoreId) (f : Core → Core) : (s.modCore c f).still = s.still := by
  unfold State.modCore
  split <;> rfl

theorem State.still_disown (s : State) (p : Nat → Bool) : (s.disown p).still = s.still := by
  unfold State.disown
  split <;> rfl

theorem State.still_abortWhere (s : State) (p : Group → Tx → Bool) (cause : Nat) : (s.abortWhere p cause).still = s.still := by
  unfold State.abortWhere
  dsimp only
  split
  · rfl
  · rw [State.foldl_keeps State.still fun t c => t.still_modCore c _, State.still_disown]
    rfl

theorem State.still_markIf (s : State) (p : GroupId → Bool) (x : Spot) (n : Nat) : (s.markIf p x n).still = s.still :=
  s.still_abortWhere _ _

theorem State.still_noteWrite (s : State) (x : Spot) (n : Nat) : (s.noteWrite x n).still = s.still := by
  unfold State.noteWrite
  split
  · dsimp only
    split <;> rfl
  · rfl

theorem State.still_poison (s : State) (l : List Poison) : ({ s with poison := l } : State).still = s.still := rfl

theorem State.still_clearPoison (s : State) (x : Spot) (n : Nat) : (s.clearPoison x n).still = s.still := by
  unfold State.clearPoison
  split <;> rfl

theorem State.still_recomputePrio (s : State) (k : TaskKey) : (s.recomputePrio k).still = s.still := rfl

theorem State.still_wakeTeam (s : State) (t : Team) : (s.wakeTeam t).still = s.still := by
  unfold State.wakeTeam
  split
  · rfl
  · exact State.foldl_keeps State.still State.still_recomputePrio _ _

theorem State.still_wakeAt (s : State) (x : Spot) (n : Nat) : (s.wakeAt x n).still = s.still := by
  have h : ∀ p, (s.wakeIf p).still = s.still := fun p => State.foldl_keeps State.still State.still_wakeTeam _ s
  unfold State.wakeAt
  split
  · dsimp only
    split
    · exact h _
    · exact h _
  · rfl

theorem State.still_ringBell (s : State) (x : Spot) (n : Nat) : (s.ringBell x n).still = s.still := by
  unfold State.ringBell
  split
  · split
    · simp only [State.still, List.map_map]
      congr 2
      funext c
      simp only [Function.comp]
      split <;> rfl
    · rfl
  · rfl

/-- Beside its bytes, a write of an agent outside the device leaves what `State.still` holds. -/
theorem State.still_outsideWrite (s : State) (x : Spot) (bs : List Byte) : (s.outsideWrite x bs).still = (s.writeSpots x bs).still := by
  unfold State.outsideWrite
  rw [State.still_ringBell, State.still_wakeAt, State.still_clearPoison]

/-! ### Bytes of physical memory, where the rest of the state does not count -/

/-- What forgets a part of the state that no byte's place or value depends on: memory, HMASK and the windows stay. -/
structure KeepsBytes (E : State → State) : Prop where
  mem : ∀ s, (E s).mem = s.mem
  hmask : ∀ s, (E s).hmask = s.hmask
  hole : ∀ s a, (E s).windowHole a = s.windowHole a
  setMem : ∀ s m, E { s with mem := m } = { E s with mem := m }

theorem KeepsBytes.cellOf {E : State → State} (e : KeepsBytes E) (s : State) (a : Nat) : (E s).cellOf a = s.cellOf a := by
  simp only [State.cellOf, e.hmask]

theorem KeepsBytes.readPa {E : State → State} (e : KeepsBytes E) (s : State) (a : Nat) : (E s).readPa a = s.readPa a := by
  simp only [State.readPa, e.hole, e.mem, e.cellOf]

theorem KeepsBytes.writePa {E : State → State} (e : KeepsBytes E) (s : State) (a : Nat) (v : Byte) :
    E (s.writePa a v) = (E s).writePa a v := by
  simp only [State.writePa, e.hole, e.mem, e.cellOf]
  split
  · rfl
  · exact e.setMem _ _

theorem KeepsBytes.writePaBytes {E : State → State} (e : KeepsBytes E) (s : State) (a : Nat) (bs : List Byte) :
    E (s.writePaBytes a bs) = (E s).writePaBytes a bs := by
  induction bs generalizing s a with
  | nil => rfl
  | cons b bs ih => exact (ih _ _).trans (by rw [e.writePa]; rfl)

theorem State.keepsBytes_still : KeepsBytes State.still where
  mem _ := rfl
  hmask _ := rfl
  hole s a := by simp [State.windowHole, State.still, List.any_map, Function.comp_def]
  setMem _ _ := rfl

theorem State.writeSpots_pa (s : State) (a : Nat) (bs : List Byte) : s.writeSpots (.pa a) bs = s.writePaBytes a bs := by
  induction bs generalizing s a with
  | nil => rfl
  | cons b bs ih => exact ih _ _

/-- A write of the device at a physical address: its bytes, and beside them nothing that `State.still` holds. -/
theorem State.still_deviceWrite (s : State) (w : Option GroupId) (a : Nat) (bs : List Byte) :
    (s.deviceWrite w (.pa a) bs).still = (s.writePaBytes a bs).still := by
  unfold State.deviceWrite State.markConflicts
  rw [State.still_outsideWrite, State.writeSpots_pa, State.keepsBytes_still.writePaBytes, State.still_noteWrite, State.still_markIf,
    ← State.keepsBytes_still.writePaBytes]

/-! ### The write-back of every line (R453 step 2) -/

/-- What `State.still` holds without the bytes of memory, the L2s, the homes and the directory: what a write-back leaves. -/
def State.calm (s : State) : State := { s.still with mem := [], l2 := [], homes := [], dir := [] }

theorem State.calm_of_still {s t : State} (h : t.still = s.still) : t.calm = s.calm := by
  unfold State.calm
  rw [h]

theorem State.calm_writePa (s : State) (a : Nat) (v : Byte) : (s.writePa a v).calm = s.calm := by
  unfold State.writePa
  split <;> rfl

theorem State.calm_writeSpots (s : State) (x : Spot) (bs : List Byte) : (s.writeSpots x bs).calm = s.calm := by
  induction bs generalizing s x with
  | nil => rfl
  | cons b bs ih =>
    refine (ih _ _).trans ?_
    cases x with
    | sh d c o => exact State.calm_of_still (s.still_modCore _ _)
    | pa a => exact s.calm_writePa a b
    | member t l o => rfl

theorem State.calm_outsideWrite (s : State) (x : Spot) (bs : List Byte) : (s.outsideWrite x bs).calm = s.calm :=
  (State.calm_of_still (s.still_outsideWrite x bs)).trans (s.calm_writeSpots x bs)

theorem State.calm_fetchPoison (s : State) (d l : Nat) : (s.fetchPoison d l).calm = s.calm := by
  unfold State.fetchPoison
  split
  · rfl
  · exact State.calm_of_still (s.still_poison _)

theorem State.calm_putL2 (s : State) (d l : Nat) (st : L2State) : (s.putL2 d l st).calm = s.calm := by
  unfold State.putL2
  split
  · dsimp only
    split
    · rfl
    · exact s.calm_fetchPoison d l
  · rfl

theorem State.calm_takeDirty (s : State) (d a : Nat) : (s.takeDirty d a).calm = s.calm := by
  unfold State.takeDirty
  split
  · dsimp only
    split
    · exact State.calm_putL2 _ _ _ _
    · exact State.calm_putL2 _ _ _ _
  · rfl

theorem State.calm_taint (s : State) (d a : Nat) : (s.taint d a).calm = s.calm := by
  unfold State.taint
  generalize (if s.inL2 d (lineOf a) then Poison.l2 d (eccAt a) else .cell (s.eccOf (.pa a))) = e
  dsimp only
  split <;> rfl

theorem State.calm_writeBackS (s : State) (c : CoreId) (p : Nat → Bool) : (s.writeBackS c p).calm = s.calm := by
  unfold State.writeBackS
  dsimp only
  split
  · rfl
  · rw [State.foldl_keeps State.calm fun s a => s.calm_taint c.die a, State.foldl_keeps State.calm fun s (x : L1Byte) => s.calm_takeDirty c.die x.pa,
      State.calm_of_still (State.still_modCore _ _ _), State.foldl_keeps State.calm fun s r => ?_]
    rw [State.calm_outsideWrite, State.calm_of_still (State.still_noteWrite _ _ _), State.calm_of_still (State.still_markIf _ _ _ _)]

theorem State.still_landPoison (s : State) (d l : Nat) : (s.landPoison d l).still = s.still := by
  unfold State.landPoison
  split
  · rfl
  · exact s.still_poison _

theorem State.calm_lines (s : State) (l : List L2Line) (h : List HomeLine) : ({ s with l2 := l, homes := h } : State).calm = s.calm := rfl

theorem State.calm_writeBackAll (s : State) : s.writeBackAll.calm = s.calm := by
  unfold State.writeBackAll
  dsimp only
  rw [State.calm_lines, State.foldl_keeps State.calm fun s (x : L2Line) => State.calm_of_still (s.still_landPoison x.die x.line),
    State.foldl_keeps State.calm fun s (k : Core) => s.calm_writeBackS k.id _]

theorem State.writeBackAll_l2_clean (s : State) : ∀ x ∈ s.writeBackAll.l2, x.state ≠ .dirty := by
  intro x hx
  obtain ⟨y, -, rfl⟩ := List.mem_map.1 hx
  split
  · simp
  · assumption

/-- What changes neither the checkpoint's course nor the event's arguments. -/
theorem State.course_of_calm {s t : State} (h : t.calm = s.calm) : t.ckpt = s.ckpt ∧ t.args = s.args ∧ t.held = s.held := by
  have hc : t.calm.ckpt = s.calm.ckpt := by rw [h]
  have ha : t.calm.args = s.calm.args := by rw [h]
  have hh : t.calm.held = s.calm.held := by rw [h]
  exact ⟨hc, ha, hh⟩

/-! ### What the images and records are made of (R453 step 3) -/

/-- What `State.still` holds without the L2s and the homes: the bytes of memory, and all that the images and records are made of. -/
def State.bare (s : State) : State := { s.still with l2 := [], homes := [] }

theorem State.keepsBytes_bare : KeepsBytes State.bare where
  mem _ := rfl
  hmask _ := rfl
  hole s a := State.keepsBytes_still.hole s a
  setMem _ _ := rfl

theorem State.bare_of_still {s t : State} (h : t.still = s.still) : t.bare = s.bare := by
  unfold State.bare
  rw [h]

theorem State.bare_poison (s : State) (l : List Poison) : ({ s with poison := l } : State).bare = s.bare := rfl

theorem State.bare_lines (s : State) (l : List L2Line) (h : List HomeLine) : ({ s with l2 := l, homes := h } : State).bare = s.bare := rfl

/-- Without a line in an L1 a core has nothing to write back. -/
theorem State.writeBackS_of_no_l1s {s : State} {c : CoreId} (h : (s.coreD c).l1s = []) (p : Nat → Bool) : s.writeBackS c p = s := by
  simp [State.writeBackS, h]

theorem State.coreD_l1s_nil {s : State} (h : ∀ k ∈ s.cores, k.l1s = []) (c : CoreId) : (s.coreD c).l1s = [] := by
  unfold State.coreD State.core?
  cases hk : s.cores.find? _ with
  | none => rfl
  | some k => exact h k (List.mem_of_find?_eq_some hk)

/-- With nothing in the L1s, a write-back of every line changes no byte of memory. -/
theorem State.bare_writeBackAll {s : State} (h : ∀ k ∈ s.cores, k.l1s = []) : s.writeBackAll.bare = s.bare := by
  have hcores : ∀ l : List Core, l.foldl (fun s k => s.writeBackS k.id fun _ => true) s = s := by
    intro l
    induction l with
    | nil => rfl
    | cons k l ih => rwa [List.foldl_cons, State.writeBackS_of_no_l1s (State.coreD_l1s_nil h k.id)]
  unfold State.writeBackAll
  rw [hcores]
  dsimp only
  rw [State.bare_lines, State.foldl_keeps State.bare fun s (x : L2Line) => State.bare_of_still (s.still_landPoison x.die x.line)]

/-- The bytes of a frame copied one by one, as `copyFrame` copies them. -/
def State.copyBytes (s : State) (src dst n : Nat) : State :=
  (List.range n).foldl (fun (s : State) i => s.writePa (dst + i) (s.readPa (src + i))) s

theorem State.copyFrame_eq_copyBytes (s : State) (src dst n : Nat) :
    ∃ l, s.copyFrame src dst n = { s.copyBytes src dst n with poison := l } := by
  unfold State.copyFrame
  change ∃ l, (if s.poison.isEmpty then s.copyBytes src dst n else _) = _
  split
  · exact ⟨(s.copyBytes src dst n).poison, rfl⟩
  · exact ⟨_, rfl⟩

theorem KeepsBytes.copyBytes {E : State → State} (e : KeepsBytes E) (s : State) (src dst n : Nat) :
    E (s.copyBytes src dst n) = (E s).copyBytes src dst n :=
  (List.foldl_hom E fun s i => by rw [e.writePa, e.readPa]).symm

theorem State.bare_copyFrame (s : State) (src dst n : Nat) : (s.copyFrame src dst n).bare = s.bare.copyFrame src dst n := by
  obtain ⟨l, hl⟩ := s.copyFrame_eq_copyBytes src dst n
  have hb : s.bare.copyFrame src dst n = s.bare.copyBytes src dst n := by
    unfold State.copyFrame
    exact if_pos rfl
  rw [hl, hb, State.bare_poison, State.keepsBytes_bare.copyBytes]

theorem State.bare_copyImage (s : State) (p : Nat) (back : Bool) : (s.copyImage p back).bare = s.bare.copyImage p back := by
  refine (List.foldl_hom State.bare fun s x => ?_).symm
  dsimp only
  split
  · exact (s.bare_copyFrame _ _ _).symm
  · exact (s.bare_copyFrame _ _ _).symm

end Sys2Proof.Machine
end

section
/-! ### The checkpoint's course (R451, R452, R453) -/

namespace Sys2Proof.Machine

theorem State.bare_ckpt (s : State) (k : Ckpt) : ({ s with ckpt := k } : State).bare = { s.bare with ckpt := k } := rfl

/-- An image's granule written with the bytes that it held at its earlier moment (R453 step 3). -/
def State.putEarly (s t : State) (x : Nat × List Byte) : State := ((s.imageOf x.1).map fun b => t.writePaBytes b x.2).getD t

theorem State.copyImages_eq (s : State) : s.copyImages =
    { s.ckpt.early.foldl s.putEarly ((s.copyImage 0 false).copyImage 1 false) with
      ckpt := { ((s.copyImage 0 false).copyImage 1 false).ckpt with early := [] } } := rfl

theorem State.bare_putEarly (s t : State) (x : Nat × List Byte) : (s.putEarly t x).bare = s.bare.putEarly t.bare x := by
  have hi : s.bare.imageOf x.1 = s.imageOf x.1 := rfl
  unfold State.putEarly
  rw [hi]
  cases s.imageOf x.1 with
  | none => rfl
  | some b => exact State.keepsBytes_bare.writePaBytes t b x.2

theorem State.bare_copyImages (s : State) : s.copyImages.bare = s.bare.copyImages := by
  have hf : (s.ckpt.early.foldl s.putEarly ((s.copyImage 0 false).copyImage 1 false)).bare =
      s.ckpt.early.foldl s.bare.putEarly ((s.copyImage 0 false).copyImage 1 false).bare :=
    (List.foldl_hom State.bare fun t x => (s.bare_putEarly t x).symm).symm
  have he : s.bare.ckpt.early = s.ckpt.early := rfl
  rw [State.copyImages_eq, State.bare_ckpt, hf, State.bare_copyImage, State.bare_copyImage, State.copyImages_eq s.bare, he,
    ← State.bare_copyImage, ← State.bare_copyImage]
  rfl

/-- Both records written past their images (R453 step 4). -/
def State.recordsMade (s : State) : State :=
  (s.deviceWrite none (.pa (s.ckptTarget 0 + s.imageSize 0)) s.ckptRecord).deviceWrite none
    (.pa (s.ckptTarget 1 + s.imageSize 1)) s.ckptRecord

/-- The bytes of both records in memory. -/
def State.recordBytes (s : State) : State :=
  (s.writePaBytes (s.ckptTarget 0 + s.imageSize 0) s.ckptRecord).writePaBytes (s.ckptTarget 1 + s.imageSize 1) s.ckptRecord

theorem State.still_recordsMade (s : State) : s.recordsMade.still = s.recordBytes.still := by
  unfold State.recordsMade State.recordBytes
  rw [State.still_deviceWrite, State.keepsBytes_still.writePaBytes, State.still_deviceWrite, ← State.keepsBytes_still.writePaBytes]

theorem State.bare_recordBytes (s : State) : s.recordBytes.bare = s.bare.recordBytes := by
  unfold State.recordBytes
  rw [State.keepsBytes_bare.writePaBytes, State.keepsBytes_bare.writePaBytes]
  rfl

/-! ### What a copy of the images leaves -/

/-- What `State.still` holds without the bytes of memory. -/
def State.rest (s : State) : State := { s.still with mem := [] }

theorem State.rest_of_still {s t : State} (h : t.still = s.still) : t.rest = s.rest := by
  unfold State.rest
  rw [h]

theorem State.rest_writePa (s : State) (a : Nat) (v : Byte) : (s.writePa a v).rest = s.rest := by
  unfold State.writePa
  split <;> rfl

theorem State.rest_writePaBytes (s : State) (a : Nat) (bs : List Byte) : (s.writePaBytes a bs).rest = s.rest := by
  induction bs generalizing s a with
  | nil => rfl
  | cons b bs ih => exact (ih _ _).trans (s.rest_writePa a b)

theorem State.rest_recordsMade (s : State) : s.recordsMade.rest = s.rest := by
  rw [State.rest_of_still s.still_recordsMade, State.recordBytes, State.rest_writePaBytes, State.rest_writePaBytes]

theorem State.rest_poison (s : State) (l : List Poison) : ({ s with poison := l } : State).rest = s.rest := rfl

theorem State.rest_ckpt (s : State) (k : Ckpt) : ({ s with ckpt := k } : State).rest = { s.rest with ckpt := k } := rfl

theorem State.rest_copyFrame (s : State) (src dst n : Nat) : (s.copyFrame src dst n).rest = s.rest := by
  obtain ⟨l, hl⟩ := s.copyFrame_eq_copyBytes src dst n
  rw [hl, State.rest_poison]
  exact State.foldl_keeps State.rest (fun s i => s.rest_writePa _ _) _ _

theorem State.rest_copyImage (s : State) (p : Nat) (back : Bool) : (s.copyImage p back).rest = s.rest := by
  refine State.foldl_keeps State.rest (fun s x => ?_) _ _
  dsimp only
  split
  · exact s.rest_copyFrame _ _ _
  · exact s.rest_copyFrame _ _ _

theorem State.rest_putEarly (s t : State) (x : Nat × List Byte) : (s.putEarly t x).rest = t.rest := by
  unfold State.putEarly
  cases s.imageOf x.1 with
  | none => rfl
  | some b => exact t.rest_writePaBytes b x.2

/-- What stands in `State.rest`: the copies of the images change none of it. -/
theorem State.kept_of_rest {s t : State} (h : t.rest = s.rest) : t.l2 = s.l2 ∧ t.ckpt = s.ckpt ∧ t.args = s.args := by
  have hl : t.rest.l2 = s.rest.l2 := by rw [h]
  have hc : t.rest.ckpt = s.rest.ckpt := by rw [h]
  have ha : t.rest.args = s.rest.args := by rw [h]
  exact ⟨hl, hc, ha⟩

theorem State.copyImage_ckpt (s : State) (p : Nat) (back : Bool) : (s.copyImage p back).ckpt = s.ckpt :=
  (State.kept_of_rest (s.rest_copyImage p back)).2.1

theorem State.rest_copyImages (s : State) : s.copyImages.rest = { s.rest with ckpt := { s.ckpt with early := [] } } := by
  rw [State.copyImages_eq, State.rest_ckpt, State.foldl_keeps State.rest s.rest_putEarly, State.rest_copyImage, State.rest_copyImage,
    State.copyImage_ckpt, State.copyImage_ckpt]

/-! ### SAVE and LOAD (R452) -/

theorem State.capsUp_iff (s : State) : s.capsUp = true ↔ ∀ i : Fin 2, s.capLink[i].state = .up := by
  simp [State.capsUp, Vector.all_eq_true, Fin.forall_iff]

theorem State.ckptSave_uncovered {s : State} (hb : s.psc.boot = .ready) (hr : s.ckpt.state ≠ .running)
    (hc : ¬ (s.imageCovered 0 = true ∧ s.imageCovered 1 = true)) :
    s.ckptSave = { s with ckpt := { s.ckpt with state := .failed, loading := false } } := by
  unfold State.ckptSave
  rw [if_neg (by simp [hb, hr]), if_pos (by simpa [imp_iff_not_or] using hc)]

theorem State.ckptSave_covered {s : State} (hb : s.psc.boot = .ready) (hr : s.ckpt.state ≠ .running)
    (hc : s.imageCovered 0 = true ∧ s.imageCovered 1 = true) (hk : ∀ k ∈ s.cores, k.retired = false) :
    s.ckptSave = State.holdAll { s with ckpt := { s.ckpt with state := .running, loading := false, early := [] } } := by
  unfold State.ckptSave
  rw [if_neg (by simp [hb, hr]), if_neg (by simpa using hc)]
  exact if_neg (by simpa [State.retiring] using hk)

theorem State.holdAll_takes (s : State) : ∀ u ∈ s.holdAll.teams, u.live ≠ 0 → u.taken = true := by
  intro u hu hl
  obtain ⟨t, -, rfl⟩ := List.mem_map.1 hu
  split at hl
  · contradiction
  · rw [if_neg ‹_›]

/-- What LOAD checks before it copies the images back. -/
def State.loadable (s : State) : Bool :=
  s.ctxs.isEmpty && s.capsUp && s.imageCovered 0 && s.imageCovered 1 && s.recordFits 0 && s.recordFits 1

theorem State.ckptLoad_of_not_loadable {s : State} (hb : s.psc.boot = .ready) (hr : s.ckpt.state ≠ .running) (hl : ¬ s.loadable = true) :
    s.ckptLoad = { s with ckpt := { s.ckpt with state := .failed, loading := true } } := by
  unfold State.ckptLoad
  rw [if_neg (by simp [hb, hr])]
  exact if_neg hl

/-- The end of a LOAD whose images are copied back. -/
def State.loadDone (s : State) : State := { s with ckpt := { s.ckpt with state := .done, loading := true } }

theorem State.loadDone_ckpt (s : State) : s.loadDone.ckpt = { s.ckpt with state := .done, loading := true } := rfl

theorem State.loadDone_mem (s : State) : s.loadDone.mem = s.mem := rfl

theorem State.ckptLoad_of_loadable {s : State} (hb : s.psc.boot = .ready) (hr : s.ckpt.state ≠ .running) (hl : s.loadable = true) :
    s.ckptLoad = ((s.copyImage 0 true).copyImage 1 true).loadDone := by
  unfold State.ckptLoad
  rw [if_neg (by simp [hb, hr])]
  exact if_pos hl

theorem exec_checkpointSave {s t : State} (h : s.ckptSave = t) : exec .checkpointSave s = .next t := h ▸ rfl

theorem exec_checkpointLoad {s t : State} (h : s.ckptLoad = t) : exec .checkpointLoad s = .next t := h ▸ rfl

/-! ### The end of a save, and the moments of its course (R453) -/

theorem State.endSave_taken (s : State) (st : CkptState) : ∀ u ∈ (s.endSave st).teams, u.taken = false := by
  intro u hu
  obtain ⟨t, -, rfl⟩ := List.mem_map.1 hu
  rfl

/-- A state without the list of invalidations that are out. -/
def State.uninvaled (s : State) : State := { s with invals := [] }

theorem State.uninvaled_claimLine (s : State) (die : Option Nat) (a : Nat) : (s.claimLine die a).uninvaled = s.uninvaled := by
  unfold State.claimLine
  split <;> rfl

theorem State.eq_of_uninvaled {s t : State} (h : t.uninvaled = s.uninvaled) : t = { s with invals := t.invals } := by
  have ht : t = { t.uninvaled with invals := t.invals } := rfl
  rw [h] at ht
  exact ht

/-- A claim of a core's dirty lines sends invalidations and changes nothing else. -/
theorem State.claimBack_eq (s : State) (c : CoreId) (p : Nat → Bool) :
    s.claimBack c p = { s with invals := (s.claimBack c p).invals } :=
  State.eq_of_uninvaled (State.foldl_keeps State.uninvaled (fun s a => s.uninvaled_claimLine _ a) _ s)

/-- The one granule at the event's address copied at its own moment (R453 step 3). -/
def State.granuleCopied (s : State) : State :=
  { s with ckpt := { s.ckpt with
      early := (lineOf s.args.pa, s.paBytes (lineOf s.args.pa) 128) :: s.ckpt.early.filter fun x => x.1 ≠ lineOf s.args.pa } }

/-- The end of a save whose images and records are made (R453 steps 4 and 5). -/
def State.saveDone (s : State) : State :=
  State.endSave { s with ckpt := { s.ckpt with elapsed := s.args.x } } .done

section
variable {s : State}

theorem execCheckpointCopyDone_fails (hr : s.ckpt.state = .running) (h : s.args.ok = false ∨ s.capsUp ≠ true) :
    exec .checkpointCopyDone s = .next (s.endSave .failed) := by
  change execCheckpointCopyDone s = _
  unfold execCheckpointCopyDone
  rw [if_neg (by simp [hr]), if_pos (by simpa using h)]

variable (hr : s.ckpt.state = .running) (ho : s.args.ok = true) (hu : s.capsUp = true) (hh : s.held = true)
include hr ho hu hh

theorem execCheckpointCopyDone_waits (hl : ∃ u ∈ s.teams, u.live ≠ 0) : exec .checkpointCopyDone s = .next s := by
  change execCheckpointCopyDone s = _
  unfold execCheckpointCopyDone
  rw [if_neg (by simp [hr]), if_neg (by simp [ho, hu]), if_neg (by simp [hh]), if_pos (by simpa using hl)]

variable (hl : ∀ u ∈ s.teams, u.live = 0)
include hl

theorem execCheckpointCopyDone_claims (hk : ∃ k ∈ s.cores, s.backable k.id (fun _ => true) = false) :
    ∃ c, exec .checkpointCopyDone s = .next (s.claimBack c fun _ => true) := by
  change ∃ c, execCheckpointCopyDone s = _
  unfold execCheckpointCopyDone
  rw [if_neg (by simp [hr]), if_neg (by simp [ho, hu]), if_neg (by simp [hh]), if_neg (by simpa using hl)]
  cases hf : s.cores.find? fun k => !s.backable k.id fun _ => true with
  | some k => exact ⟨k.id, rfl⟩
  | none =>
    obtain ⟨k, hk, hb⟩ := hk
    simpa [hb] using List.find?_eq_none.1 hf k hk

theorem execCheckpointCopyDone_copies (hk : ∀ k ∈ s.cores, s.backable k.id (fun _ => true) = true) : exec .checkpointCopyDone s =
    .next (if s.writeBackAll.args.t ≠ 0 then s.writeBackAll.granuleCopied else s.writeBackAll.copyImages.recordsMade.saveDone) := by
  have hf : (s.cores.find? fun k => !s.backable k.id fun _ => true) = none :=
    List.find?_eq_none.2 fun k hm => by simp [hk k hm]
  change execCheckpointCopyDone s = _
  unfold execCheckpointCopyDone State.granuleCopied State.saveDone State.recordsMade
  rw [if_neg (by simp [hr]), if_neg (by simp [ho, hu]), if_neg (by simp [hh]), if_neg (by simpa using hl), hf]
  dsimp only
  split
  · rfl
  · rfl

end

end Sys2Proof.Machine
end

section
namespace Sys2Proof.Machine

/-! ### A save that copies (R453) -/

theorem State.paBytes_ckpt (s : State) (k : Ckpt) (a n : Nat) : ({ s with ckpt := k } : State).paBytes a n = s.paBytes a n := by
  induction n generalizing a with
  | zero => rfl
  | succ n ih => exact congrArg _ (ih (a + 1))

theorem State.mem_of_bare {s t : State} (h : t.bare = s.bare) : t.mem = s.mem := by
  have hm : t.bare.mem = s.bare.mem := by rw [h]
  exact hm

theorem State.readPa_of_bare {s t : State} (h : t.bare = s.bare) (a : Nat) : t.readPa a = s.readPa a := by
  rw [← State.keepsBytes_bare.readPa, h, State.keepsBytes_bare.readPa]

theorem State.granuleCopied_early (s : State) : s.granuleCopied.ckpt.early =
    (s.args.pa / 128 * 128, s.granuleCopied.paBytes (s.args.pa / 128 * 128) 128) ::
      s.ckpt.early.filter fun x => x.1 ≠ s.args.pa / 128 * 128 := by
  have hb := s.paBytes_ckpt s.granuleCopied.ckpt (s.args.pa / 128 * 128) 128
  exact congrArg (fun bs => (s.args.pa / 128 * 128, bs) :: s.ckpt.early.filter fun x => x.1 ≠ s.args.pa / 128 * 128) hb.symm

theorem State.saveDone_l2 (s : State) : s.saveDone.l2 = s.l2 := rfl

theorem State.saveDone_ckpt (s : State) : s.saveDone.ckpt = { s.ckpt with elapsed := s.args.x, state := .done } := rfl

theorem State.saveDone_readPa (s : State) (a : Nat) : s.saveDone.readPa a = s.readPa a := rfl

theorem State.bare_recordsMade (s : State) : s.recordsMade.bare = s.bare.recordBytes := by
  rw [State.bare_of_still s.still_recordsMade, State.bare_recordBytes]

/-- The images and records made leave the L2s, and of the checkpoint's course they take only the granules copied early. -/
theorem State.recordsMade_copyImages_kept (s : State) : s.copyImages.recordsMade.l2 = s.l2 ∧
    s.copyImages.recordsMade.ckpt = { s.ckpt with early := [] } ∧ s.copyImages.recordsMade.args = s.args :=
  State.kept_of_rest (s := { s with ckpt := { s.ckpt with early := [] } })
    (by rw [State.rest_recordsMade, State.rest_copyImages]; rfl)

/-- The images and records of the state after the write-back, where no L1 holds a line, are those of the state before it. -/
theorem State.readPa_images_of_writeBackAll {s : State} (h : ∀ k ∈ s.cores, k.l1s = []) (a : Nat) :
    s.writeBackAll.copyImages.recordsMade.readPa a = s.copyImages.recordBytes.readPa a :=
  State.readPa_of_bare
    (by rw [State.bare_recordsMade, State.bare_copyImages, State.bare_writeBackAll h, ← State.bare_copyImages, State.bare_recordBytes]) a

end Sys2Proof.Machine

namespace Sys2Proof.Proofs
open Sys2Proof.Machine Sys2Proof.Slice0

/-! ### O52, its second half: checkpoints -/

theorem saveCopies {s : State} (hr : s.ckpt.state = .running) (hh : s.held = true) :
    let t := if s.writeBackAll.args.t ≠ 0 then s.writeBackAll.granuleCopied else s.writeBackAll.copyImages.recordsMade.saveDone
    (∀ x ∈ t.l2, x.state ≠ .dirty) ∧
    (s.args.t = 0 → (t.held = false ∧ t.ckpt.state = .done ∧ ∀ u ∈ t.teams, u.taken = false) ∧ t.ckpt.elapsed = s.args.x ∧ t.ckpt.early = [] ∧
      ((∀ k ∈ s.cores, k.l1s = []) → ∀ x, t.readPa x = s.copyImages.recordBytes.readPa x)) ∧
    (s.args.t ≠ 0 → t.ckpt.state = .running ∧ t.held = true ∧ ((∀ k ∈ s.cores, k.l1s = []) → t.mem = s.mem) ∧
      t.ckpt.early = (s.args.pa / 128 * 128, t.paBytes (s.args.pa / 128 * 128) 128) ::
        s.ckpt.early.filter fun x => x.1 ≠ s.args.pa / 128 * 128) := by
  obtain ⟨hc, ha, hd⟩ := State.course_of_calm s.calm_writeBackAll
  have hclean := s.writeBackAll_l2_clean
  intro t
  by_cases h0 : s.args.t = 0
  · have ht : t = s.writeBackAll.copyImages.recordsMade.saveDone := if_neg (by simp [ha, h0])
    obtain ⟨hl, hk, hx⟩ := s.writeBackAll.recordsMade_copyImages_kept
    have htk : t.ckpt = { s.ckpt with early := [], elapsed := s.args.x, state := .done } := by
      rw [ht, State.saveDone_ckpt, hk, hx, ha, hc]
    refine ⟨by rwa [ht, State.saveDone_l2, hl], fun _ => ⟨⟨by rw [ht]; rfl, by rw [htk], ?_⟩, by rw [htk], by rw [htk], fun h x => ?_⟩,
      fun h => (h h0).elim⟩
    · rw [ht]
      exact State.endSave_taken _ _
    · rw [ht, State.saveDone_readPa, State.readPa_images_of_writeBackAll h]
  · have ht : t = s.writeBackAll.granuleCopied := if_pos (by simp [ha, h0])
    refine ⟨by rw [ht]; exact hclean, fun h => (h0 h).elim, fun _ => ⟨?_, ?_, fun h => ?_, ?_⟩⟩
    · rw [ht]
      exact (congrArg Ckpt.state hc).trans hr
    · rw [ht]
      exact hd.trans hh
    · rw [ht]
      change s.writeBackAll.mem = s.mem
      exact State.mem_of_bare (State.bare_writeBackAll h)
    · rw [ht, State.granuleCopied_early, ha, hc]

theorem checkpointsRunTheirCourse : CheckpointsRunTheirCourse := by
  intro s hb covered up resumed
  have hup : s.capsUp = true ↔ up := s.capsUp_iff
  refine ⟨fun hr hc => ?_, fun hr hc hk => ?_, fun hr hn => ?_, fun hr hx hu hc h0 h1 => ?_, fun hr hn => ?_, fun hr ho hu hh hl => ?_,
    fun hr ho hu hh hl hk => ?_, fun hr ho hu hh hl hk => ?_⟩
  · exact exec_checkpointSave (State.ckptSave_uncovered hb hr hc)
  · exact ⟨_, exec_checkpointSave (State.ckptSave_covered hb hr hc hk), rfl, rfl, State.holdAll_takes _, rfl⟩
  · refine exec_checkpointLoad (State.ckptLoad_of_not_loadable hb hr fun hl => ?_)
    simp only [State.loadable, Bool.and_eq_true, List.isEmpty_iff, hup] at hl
    obtain ⟨⟨⟨⟨⟨hx, hu⟩, hc0⟩, hc1⟩, -⟩, -⟩ := hl
    exact hn.elim (· hx) (Or.elim · (· hu) (· ⟨hc0, hc1⟩))
  · have hl : s.loadable = true := by simp [State.loadable, hx, hup.2 hu, hc.1, hc.2, h0, h1]
    refine ⟨_, exec_checkpointLoad (State.ckptLoad_of_loadable hb hr hl), ?_, State.loadDone_mem _⟩
    rw [State.loadDone_ckpt, State.copyImage_ckpt, State.copyImage_ckpt]
  · exact ⟨_, execCheckpointCopyDone_fails hr (hn.imp_right (mt hup.1)), ⟨rfl, rfl, State.endSave_taken _ _⟩, rfl⟩
  · exact execCheckpointCopyDone_waits hr ho (hup.2 hu) hh hl
  · obtain ⟨c, hc⟩ := execCheckpointCopyDone_claims hr ho (hup.2 hu) hh hl hk
    exact ⟨_, hc, s.claimBack_eq c _⟩
  · exact ⟨_, execCheckpointCopyDone_copies hr ho (hup.2 hu) hh hl hk, saveCopies hr hh⟩

/-- Settles O52: `theDeviceIsServiced` and `checkpointsRunTheirCourse` are its two halves. A save's write-back and its records change,
beside what `State.still` forgets, only bytes of memory, lines of the caches and their poison. -/
theorem theDeviceIsServicedAndCheckpointed : Obligations.TheDeviceIsServicedAndCheckpointed :=
  ⟨theDeviceIsServiced, checkpointsRunTheirCourse⟩

end Sys2Proof.Proofs
end

section
/-! ### The state after reset (R40, R463) -/

namespace Sys2Proof.Proofs

open Sys2Proof.Machine Sys2Proof.Slice0

theorem resetState : ResetState := by
  refine ⟨rfl, rfl, rfl, rfl, rfl, rfl, rfl, rfl, fun i => ?_, fun i => ?_, fun c => ⟨rfl, rfl⟩, fun a => rfl, rfl, rfl, fun k => ?_⟩
  · simp [State.reset]
  · simp [State.reset]
  · simp [State.reset]

/-- Settles O59: each field of `State.reset` is its value, and a memory with nothing listed is canonical. -/
theorem resetHoldsTheStatedState : Obligations.ResetHoldsTheStatedState := ⟨resetState, rfl⟩

end Sys2Proof.Proofs
end

section
/-! ### What a write of the device notes of the host's lines (R447) -/

namespace Sys2Proof.Machine

/-- A fold keeps what each of its steps keeps. -/
theorem State.foldl_view {α β : Type} (E : State → β) {f : State → α → State} (h : ∀ s a, E (f s a) = E s) (l : List α) (s : State) :
    E (l.foldl f s) = E s := by
  induction l generalizing s with
  | nil => rfl
  | cons a l ih => exact (ih _).trans (h s a)

theorem State.called_wakeTeam (s : State) (t : Team) : (s.wakeTeam t).called = s.called := by
  unfold State.wakeTeam
  split
  · rfl
  · exact State.foldl_view State.called (fun s k => (rfl : (s.recomputePrio k).called = s.called)) _ _

theorem State.called_wakeAt (s : State) (x : Spot) (n : Nat) : (s.wakeAt x n).called = s.called := by
  have h : ∀ p, (s.wakeIf p).called = s.called := fun p => State.foldl_view State.called State.called_wakeTeam _ s
  unfold State.wakeAt
  split
  · dsimp only
    split
    · exact h _
    · exact h _
  · rfl

theorem State.called_writePa (s : State) (a : Nat) (v : Byte) : (s.writePa a v).called = s.called := by
  unfold State.writePa
  split <;> rfl

theorem State.called_writeSpots (s : State) (x : Spot) (bs : List Byte) : (s.writeSpots x bs).called = s.called := by
  induction bs generalizing s x with
  | nil => rfl
  | cons b bs ih =>
    refine (ih _ _).trans ?_
    cases x with
    | sh d c o => exact s.modCore_called _ _
    | pa a => exact s.called_writePa a b
    | member t l o => rfl

/-- A write of an agent outside the device notes no line. -/
theorem State.called_outsideWrite (s : State) (x : Spot) (bs : List Byte) : (s.outsideWrite x bs).called = s.called := by
  have hb : ∀ t : State, (t.ringBell x bs.length).called = t.called := by
    intro t
    unfold State.ringBell
    split
    · split <;> rfl
    · rfl
  have hp : ∀ t : State, (t.clearPoison x bs.length).called = t.called := by
    intro t
    unfold State.clearPoison
    split <;> rfl
  exact (hb _).trans ((State.called_wakeAt _ _ _).trans ((hp _).trans (s.called_writeSpots x bs)))

/-- A write's conflicts note no line and change no entry of the directory. -/
theorem State.notes_markIf (s : State) (p : GroupId → Bool) (x : Spot) (n : Nat) :
    (s.markIf p x n).called = s.called ∧ (s.markIf p x n).dir = s.dir := by
  refine ⟨?_, show (s.markIf p x n).still.dir = s.still.dir by rw [s.still_markIf]⟩
  have hd : ∀ (t : State) q, (t.disown q).called = t.called := by
    intro t q
    unfold State.disown
    split <;> rfl
  unfold State.markIf State.abortWhere
  dsimp only
  split
  · rfl
  · exact (State.foldl_view State.called (fun t c => t.modCore_called c _) _ _).trans (hd _ _)

theorem State.called_noteWrite (s : State) (a n : Nat) :
    (s.noteWrite (.pa a) n).called = s.called ++ (linesOf a n).filter fun l => (s.dirOf l).host := by
  unfold State.noteWrite
  dsimp only
  split
  next h =>
    simp only [Bool.and_eq_true, List.isEmpty_iff] at h
    rw [h.1, List.append_nil]
  · rfl

theorem State.called_deviceWrite (s : State) (w : Option GroupId) (a : Nat) (bs : List Byte) :
    (s.deviceWrite w (.pa a) bs).called = s.called ++ (linesOf a bs.length).filter fun l => (s.dirOf l).host := by
  obtain ⟨hc, hd⟩ := s.notes_markIf (fun i => decide (w ≠ some i)) (.pa a) bs.length
  unfold State.deviceWrite State.markConflicts
  rw [State.called_outsideWrite, State.called_noteWrite, hc]
  simp only [State.dirOf, hd]

/-! ### What a step answers (R15, R447) -/

theorem State.mem_invals_callBack (s : State) (l : Nat) : ∃ v ∈ (s.callBack l).invals, v.line = l ∧ v.die = none := by
  unfold State.callBack
  split
  next h =>
    simp only [State.backInval, List.findIdx?_isSome, List.any_eq_true, decide_eq_true_eq] at h
    exact h
  · exact ⟨{ line := l, die := none }, by simp, rfl, rfl⟩

theorem State.invals_subset_callBack (s : State) (l : Nat) : s.invals ⊆ (s.callBack l).invals := by
  obtain ⟨k, hk⟩ := s.callBack_eq l
  rw [hk]
  exact List.subset_append_left _ _

theorem State.callBacks_eq (s : State) (ls : List Nat) :
    ls.foldl State.callBack s = { s with invals := (ls.foldl State.callBack s).invals } := by
  induction ls generalizing s with
  | nil => rfl
  | cons l ls ih =>
    obtain ⟨k, hk⟩ := s.callBack_eq l
    have := ih (s.callBack l)
    rw [List.foldl_cons, this, hk]

theorem State.invals_subset_callBacks (s : State) (ls : List Nat) : s.invals ⊆ (ls.foldl State.callBack s).invals := by
  induction ls generalizing s with
  | nil => exact List.Subset.refl _
  | cons l ls ih => exact List.Subset.trans (s.invals_subset_callBack l) (ih _)

theorem State.mem_invals_callBacks (s : State) {ls : List Nat} {l : Nat} (h : l ∈ ls) :
    ∃ v ∈ (ls.foldl State.callBack s).invals, v.line = l ∧ v.die = none := by
  induction ls generalizing s with
  | nil => cases h
  | cons k ls ih =>
    rcases List.mem_cons.1 h with rfl | h
    · obtain ⟨v, hv, hl⟩ := s.mem_invals_callBack l
      exact ⟨v, State.invals_subset_callBacks _ ls hv, hl⟩
    · exact ih _ h

open Sys2Proof.Slice0 in
/-- A step whose next instruction, and the state in which it executes, are known. -/
theorem stepsAs_of_nextStep {s n : State} {i : Instr} (h : s.nextStep = (i, n)) (hv : n.invals = s.invals) : stepsAs s i n := by
  have hs : step s = s.behindHost i n (exec i n) := by simp only [step, h]
  refine ⟨fun t ht hl => ?_, fun t ht ho hl => ?_, fun f hf => by rw [hs, hf]; rfl, fun f hf => by rw [hs, hf]; rfl⟩
  · have : (if hostOwn i then [] else n.heldLines t).isEmpty = true := by
      rcases hl with hl | hl
      · simp [hl]
      · simp [State.heldLines, show t.called.drop n.called.length = [] from hl]
    rw [hs, ht]
    simp only [State.behindHost, this, if_true]
  · have hne : n.heldLines t ≠ [] := fun h0 => hl ((List.dedup_eq_nil _).1 h0)
    have hb : step s = .next { (n.heldLines t).foldl State.callBack n with schedule := defer s.schedule } := by
      rw [hs, ht]
      simp [State.behindHost, ho, hne]
    refine ⟨_, hb, ?_, fun d => mem_defer _ d, fun v hi => ?_, fun l hl => ?_⟩
    · rw [State.callBacks_eq]
    · exact State.invals_subset_callBacks n _ (hv ▸ hi)
    · exact State.mem_invals_callBacks n (List.mem_dedup.2 hl)

/-! ### The word that is next -/

section
theorem Group.seen_isSome_eq_false {g : Group} (hx : ∀ t, g.tx = some t → t.seen = none) : (g.tx.bind (·.seen)).isSome = false := by
  cases h : g.tx with
  | none => rfl
  | some t => simp [hx t h]

variable {s : State} {g : Group} (hr : g.status = .running) (hi : g.stage = .issuing) (hx : ∀ t, g.tx = some t → t.seen = none)
include hr hi hx

/-- A group that issues is not taken, but for one whose SPAT waits. -/
theorem State.takeable_of_issuing (hm : s.mayIssue g = true) (ht : s.takeable g = true) : ∃ r, s.rig? g.id = some r ∧ r.phase = .wait := by
  simp only [State.takeable, hr, hi, hm, Group.seen_isSome_eq_false hx] at ht
  obtain ⟨-, h⟩ : _ ∧ ∃ r, s.rig? g.id = some r ∧ r.phase = .wait := by simpa [Option.map_eq_some_iff] using ht
  exact h

theorem State.groupJob_of_issuing (hturn : g.turn = true) (hm : s.mayIssue g = true)
    (hl : g.lateMask = 0 ∨ g.lateCtrs ≠ [] ∨ g.resume ≠ none ∨ g.replay ≠ none ∨ g.restore ≠ none) (order : Option (List Byte)) :
    s.groupJob g order = (g.wordJob order, .group g.id) := by
  have hd : g.delayedDue = false := by simp [Group.delayedDue, hi]
  have hh : g.lateHere = false := by
    simp only [Group.lateHere, hr, hi]
    rcases hl with h | h | h | h | h <;> simp [h, Option.isSome_iff_ne_none]
  simp [State.groupJob, hr, hi, Group.seen_isSome_eq_false hx, hm, hd, hh, hturn]

theorem State.groupServe_of_issuing (hg : s.group? g.id = some g) (hturn : g.turn = true) (hm : s.mayIssue g = true)
    (hl : g.lateMask = 0 ∨ g.lateCtrs ≠ [] ∨ g.resume ≠ none ∨ g.replay ≠ none ∨ g.restore ≠ none)
    (hu : ∀ u r, s.team? g.task g.lin = some u → s.rig? g.id = some r → r.phase = .wait → u.taken = false)
    (order : Option (List Byte)) : s.groupServe g.id order = (g.wordJob order, .group g.id) := by
  have hj : s.saveJob g = none := by
    refine if_neg fun h => ?_
    simp only [Bool.and_eq_true, List.all_eq_true, List.mem_filter, State.teamOf] at h
    obtain ⟨htaken, hall⟩ := h
    obtain ⟨r, hrig, hw⟩ := State.takeable_of_issuing hr hi hx hm (hall g ⟨(State.group?_some hg).1, by simp⟩)
    cases ht : s.team? g.task g.lin with
    | none => simp [ht] at htaken
    | some u => simp [ht, hu u r ht hrig hw] at htaken
  have ho : s.openRigJob g = none := by simp [State.openRigJob, Group.atHeader, hi]
  simp [State.groupServe, hg, hj, ho, State.groupJob_of_issuing hr hi hx hturn hm hl]

end

theorem Group.wordJob_of_decode {g : Group} {i : Instr}
    (h : decodeWord (g.clause.words.getD g.clause.next 0) g.clause.words[g.clause.next + 1]? = .ok i) (order : Option (List Byte)) :
    g.wordJob order = (i, { groupArgs g.id with data := order }) := by
  simp only [Group.wordJob, ← List.getD_eq_getElem?_getD, Group.nextLiteral, h]

theorem operatorJob_of_decode {w : Word} {i : Instr} (h : decodeOperator w = .ok i) (j : GroupId) (n : Nat) :
    operatorJob w j n = (i, { groupArgs j with t := n }) := by simp only [operatorJob, h]

end Sys2Proof.Machine

namespace Sys2Proof.Proofs

open Sys2Proof.Machine Sys2Proof.Slice0

/-- Settles O21: each kind of step is read off `State.nextStep`; `stepsAs_of_nextStep` adds the wait for a line that the host holds. -/
theorem stepRunsDecodedWord : Obligations.StepRunsDecodedWord := by
  refine ⟨fun s g i hg hr hi hturn hx hm hl hu hw => ?_, fun s j n r b i rest hr hb hw hs => ?_, fun s i a rest hs => ?_,
    fun s w pa bs => ?_⟩
  · have hserve := State.groupServe_of_issuing hr hi hx hg hturn hm hl hu
    refine ⟨fun hs hf => stepsAs_of_nextStep ?_ rfl, fun order rest hs => stepsAs_of_nextStep ?_ rfl⟩
    · simp [State.nextStep, hs, State.served, State.standing, hf, hserve, Group.wordJob_of_decode hw, groupArgs]
    · simp [State.nextStep, hs, State.served, hserve, Group.wordJob_of_decode hw, groupArgs]
  · rw [List.getD_eq_getElem?_getD] at hw
    refine stepsAs_of_nextStep ?_ rfl
    have hj : s.laneJob j n = (i, { groupArgs j with t := n }) := by
      simp only [State.laneJob, hr, Option.bind_some, hb]
      exact operatorJob_of_decode hw j n
    simp [State.nextStep, hs, State.served, hj, groupArgs]
  · refine stepsAs_of_nextStep ?_ rfl
    simp [State.nextStep, hs, Option.isNone_iff_eq_none]
  · unfold hostLines
    rw [State.called_deviceWrite, List.drop_left]

end Sys2Proof.Proofs
end

section
/-! ### The special functions (R24, R113, R120, R121) -/

namespace Sys2Proof.Machine

open Sys2Proof.Slice0

theorem Group.issueFault_of_issues {s : State} {g : Group} {rs : List PReg} (h : issues s g rs) : g.issueFault false rs = none :=
  Group.issueFault_none.2 ⟨by simp, h.2⟩

theorem Group.counterFull_eq_false {g : Group} (h : g.dc[g.setc] ≠ 63) : g.counterFull = false := decide_eq_false h

theorem getLsbD_foldl_or {α : Type} {w : Nat} (l : List α) (f : α → BitVec w) (a : BitVec w) (k : Nat) :
    (l.foldl (fun acc x => acc ||| f x) a).getLsbD k = (a.getLsbD k || l.any fun x => (f x).getLsbD k) := by
  induction l generalizing a with
  | nil => simp
  | cons x l ih => simp [ih, Bool.or_assoc]

theorem Group.getLsbD_allFlags (g : Group) (gd : Guard) (fl : Nat → Flags) (k : Nat) :
    (g.allFlags gd fl).getLsbD k = threads.any fun t => g.on gd t && (fl t).getLsbD k := by
  simp [Group.allFlags, getLsbD_foldl_or, Group.enabled, List.any_filter]

theorem exec_specialCall {i : Instr} {n : Nat} {gd : Guard} {d : Reg} {b : BOp} (h : specialCall i = some (n, gd, d, b)) (s : State) :
    exec i s = s.specialWord n gd d b := by
  unfold specialCall at h
  split at h
  all_goals cases h
  all_goals rfl

end Sys2Proof.Machine

namespace Sys2Proof.Proofs

open Sys2Proof.Machine Sys2Proof.Slice0

theorem specialFunctionsIssue : SpecialFunctionsIssue := by
  intro i n gd d b s g hi hs hc
  have he : exec i s = _ :=
    (exec_specialCall hi s).trans (State.longWord_ok _ hs.1 (Group.counterFull_eq_false hc) (Group.issueFault_of_issues hs))
  exact ⟨_, _, he, rfl, rfl, rfl, rfl, rfl, rfl, rfl, rfl, rfl, g.getLsbD_allFlags gd _⟩

/-- The listed operands are closed words, so that the kernel computes each result: no open value of `Config.specialFn` is reached. -/
theorem specialFunctionListedResults : SpecialFunctionListedResults := by
  unfold SpecialFunctionListedResults
  decide +kernel

/-- Settles O5. -/
theorem specialFunctionsIssueAndGiveListedResults : Obligations.SpecialFunctionsIssueAndGiveListedResults :=
  ⟨specialFunctionsIssue, specialFunctionListedResults⟩

end Sys2Proof.Proofs
end

section
/-! ### The next word, and the end of a clause (R15, R20, R162, R398) -/

namespace Sys2Proof.Machine

open Sys2Proof.Slice0

theorem Group.s_restoreMask (g : Group) : g.restoreMask.s = match g.restore with
    | some m => (g.setMask m).s
    | none => g.s := by
  unfold Group.restoreMask
  cases g.restore <;> rfl

/-- The group with the mask given back that a replay keeps, and its clause ended. -/
theorem Group.ended_endClause_restoreMask (g : Group) (pc : DWord) : ended g (g.restoreMask.endClause pc) pc := by
  refine ⟨g.s_restoreMask, ?_⟩
  rw [g.restoreMask_eq]
  rfl

theorem Group.nextWord_of_more {g : Group} {n : Nat} (h : g.clause.next + n < g.clause.words.length) :
    g.nextWord n = { g.restoreMask with clause := { g.clause with next := g.clause.next + n } } := by
  simp [Group.nextWord, h]

theorem Group.nextWord_of_last {g : Group} {n : Nat} (h : g.clause.words.length ≤ g.clause.next + n) :
    g.nextWord n = g.restoreMask.endClause (Slice0.afterClause g) := by
  simp [Group.nextWord, Nat.not_lt.2 h, Group.afterClause, Slice0.afterClause]

end Sys2Proof.Machine
end

section
/-! ### How a word's form gives its checks (R13, R26, R27, R471) -/

namespace Sys2Proof.Machine

open Sys2Proof.Slice0

theorem mem_sRegs {a n : Nat} {r : PReg} : r ∈ sRegs a n ↔ ∃ k, k < n ∧ r = .s (a + k) := by
  induction n generalizing a with
  | zero => simp [sRegs]
  | succ n ih =>
    rw [sRegs, List.mem_cons, ih]
    constructor
    · rintro (rfl | ⟨k, hk, rfl⟩)
      · exact ⟨0, n.succ_pos, rfl⟩
      · exact ⟨k + 1, Nat.succ_lt_succ hk, by rw [Nat.add_right_comm, Nat.add_assoc]⟩
    · rintro ⟨_ | k, hk, rfl⟩
      · exact .inl rfl
      · exact .inr ⟨k, Nat.lt_of_succ_lt_succ hk, by rw [Nat.add_right_comm, Nat.add_assoc]⟩

/-- A word that nothing stalls and that comes to the checks of its form. It names the form's registers, in any order, and beside
them scalar ones at most. -/
def ChecksAs (s : State) (i : Instr) (f : IssueForm) : Prop :=
  ∃ (qs : List PReg) (body : Group → State), f.regs ⊆ qs ∧ (∀ r ∈ qs, (∀ n, r ≠ .s n) → r ∈ f.regs) ∧ exec i s = s.word f.priv qs body

theorem ChecksAs.of_iff {s : State} {i : Instr} {f : IssueForm} {qs : List PReg} {body : Group → State}
    (hq : ∀ r, r ∈ qs ↔ r ∈ f.regs) (h : exec i s = s.word f.priv qs body) : ChecksAs s i f :=
  ⟨qs, body, fun r hr => (hq r).2 hr, fun r hr _ => (hq r).1 hr, h⟩

theorem ChecksAs.of_word {s : State} {i : Instr} {f : IssueForm} (body : Group → State) (h : exec i s = s.word f.priv f.regs body) :
    ChecksAs s i f := .of_iff (fun _ => Iff.rfl) h

theorem ChecksAs.of_scalars {s : State} {i : Instr} {f : IssueForm} {a n m : Nat} {body : Group → State} (hf : f.regs = sRegs a m)
    (hm : m ≤ n) (h : exec i s = s.word f.priv (sRegs a n) body) : ChecksAs s i f := by
  refine ⟨_, body, ?_, fun r hr hs => ?_, h⟩
  · intro r hr
    rw [hf, mem_sRegs] at hr
    obtain ⟨k, hk, rfl⟩ := hr
    exact mem_sRegs.2 ⟨k, hk.trans_le hm, rfl⟩
  · obtain ⟨k, -, rfl⟩ := mem_sRegs.1 hr
    exact (hs _ rfl).elim

theorem Group.not_s_of_beyond {g : Group} {r : PReg} (h : g.beyond r = true) (n : Nat) : r ≠ .s n := by
  rintro rfl
  cases h

theorem Group.issueFault_budget {g : Group} {priv : Bool} {rs : List PReg} (hp : priv = true → g.pv = true)
    (h : ∃ r ∈ rs, g.beyond r = true) : g.issueFault priv rs = some cBudget := by
  have hp' : (priv && !g.pv) = false := by cases priv <;> simp_all
  simp [Group.issueFault, hp', List.any_eq_true.2 h]

theorem Group.issueFault_hazard {g : Group} {priv : Bool} {rs : List PReg} (hp : priv = true → g.pv = true)
    (hb : ∀ r ∈ rs, g.beyond r = false) (h : ∃ r ∈ rs, g.isPending r = true) : g.issueFault priv rs = some cHazard := by
  have hp' : (priv && !g.pv) = false := by cases priv <;> simp_all
  have hb' : rs.any g.beyond = false := by simpa using hb
  simp [Group.issueFault, hp', hb', List.any_eq_true.2 h]

/-- A failed check gives the group its fault at the word. -/
theorem State.word_atWord {s : State} {g : Group} {priv : Bool} {rs : List PReg} {c : Nat} (body : Group → State) (hg : s.cur = some g)
    (h : g.issueFault priv rs = some c) : s.word priv rs body = .next (s.raise g (atWord g c)) :=
  State.word_fault body hg h

theorem ChecksAs.budget {s : State} {g : Group} {i : Instr} {f : IssueForm} (w : ChecksAs s i f) (hg : s.cur = some g)
    (hp : f.priv = true → g.pv = true) (h : ∃ r ∈ f.regs, g.beyond r = true) : exec i s = .next (s.raise g (atWord g 0x12)) := by
  obtain ⟨qs, body, hq, -, he⟩ := w
  obtain ⟨r, hr, hb⟩ := h
  exact he.trans (State.word_atWord body hg (Group.issueFault_budget hp ⟨r, hq hr, hb⟩))

theorem ChecksAs.hazard {s : State} {g : Group} {i : Instr} {f : IssueForm} (w : ChecksAs s i f) (hg : s.cur = some g)
    (hp : f.priv = true → g.pv = true) (hb : ∀ r ∈ f.regs, g.beyond r = false) (h : ∃ r ∈ f.regs, g.isPending r = true) :
    exec i s = .next (s.raise g (atWord g 0x03)) := by
  obtain ⟨qs, body, hq, hs, he⟩ := w
  obtain ⟨r, hr, hp'⟩ := h
  have hb' : ∀ r ∈ qs, g.beyond r = false := fun r hr =>
    Bool.eq_false_iff.2 fun h => by simp [hb r (hs r hr (Group.not_s_of_beyond h))] at h
  exact he.trans (State.word_atWord body hg (Group.issueFault_hazard hp hb' ⟨r, hq hr, hp'⟩))

/-! ### Words that may stall -/

theorem State.stallWord_eq_word {s : State} {g : Group} {wait : Group → Bool} (priv : Bool) (rs : List PReg) (body : Group → State)
    (hg : s.cur = some g) (hw : wait g = false) : s.stallWord wait priv rs body = s.word priv rs body := by
  simp [State.stallWord, hg, hw]

theorem State.memWord_eq_word {s : State} {g : Group} {sh : Bool} (rs : List PReg) (body : Group → State → State) (hg : s.cur = some g)
    (hf : g.fence = []) (hq : sh = true → s.shFull g.id.coreId = false) : s.memWord sh rs body = s.word false rs fun g => body g s := by
  have h1 : g.fenced = false := by simp [Group.fenced, hf]
  have h2 : s.passFence g = s := by simp [State.passFence, hf]
  have h3 : s.fenceReady g = true := by simp [State.fenceReady, hf]
  have h4 : (sh && s.shFull g.id.coreId) = false := by cases sh <;> simp_all
  simp [State.memWord, hg, h1, h2, h3, h4]

theorem State.memLong_eq_word {s : State} {g : Group} {sh : Bool} (rs : List PReg) (body : Group → State → State) (hg : s.cur = some g)
    (hc : g.dc[g.setc] ≠ 63) (hf : g.fence = []) (hq : sh = true → s.shFull g.id.coreId = false) :
    s.memLong sh rs body = s.word false rs fun g => body g s := by
  rw [← State.memWord_eq_word rs body hg hf hq]
  simp [State.memLong, State.memStall, hg, Group.counterFull_eq_false hc]

theorem State.engWord_eq_word {s : State} {g : Group} {long mem : Bool} (rs : List PReg) {stalls : State → Group → Bool}
    (body : Group → State → State) (hg : s.cur = some g) (hc : long = true → g.dc[g.setc] ≠ 63) (hf : mem = true → g.fence = [])
    (ho : (g.tx.isNone && stalls s g) = false) :
    s.engWord long mem rs stalls body = s.word false rs fun g => if g.tx.isSome then s.abortTx g 7 0 else body g s := by
  have h1 : (long && g.counterFull) = false := by
    cases long
    · rfl
    · exact Group.counterFull_eq_false (hc rfl)
  cases mem with
  | false => simp_all [State.engWord]
  | true => simp_all [State.engWord, Group.fenced, State.fenceReady, State.passFence]

/-! ### The tables of words -/

theorem exec_loadForm {i : Instr} {f : LoadForm} (h : loadForm i = some f) (s : State) :
    ∃ o, f.off = o * f.size ∧ exec i s = s.load f.gd f.d f.a f.seg o f.size f.regs f.signed f.acq := by
  unfold loadForm at h
  split at h
  all_goals cases h
  case h_1 | h_2 => exact ⟨_, (Nat.mul_one _).symm, rfl⟩
  all_goals exact ⟨_, Nat.mul_comm _ _, rfl⟩

theorem exec_storeForm {i : Instr} {f : StoreForm} (h : storeForm i = some f) (s : State) :
    ∃ o, f.off = o * f.size ∧ exec i s = s.store f.gd f.d f.a f.seg o f.size f.regs f.rel := by
  unfold storeForm at h
  split at h
  all_goals cases h
  case h_1 => exact ⟨_, (Nat.mul_one _).symm, rfl⟩
  all_goals exact ⟨_, Nat.mul_comm _ _, rfl⟩

theorem exec_atomForm {i : Instr} {gd : Guard} {d a : Reg} {seg : Seg} {sc : Scope} {mo : Order} {op : AtomOp} {size n : Nat}
    (h : atomForm i = some (gd, d, a, seg, sc, mo, op, size, n)) (s : State) :
    exec i s = s.atomic gd d a seg sc mo op size n := by
  unfold atomForm at h
  split at h
  all_goals cases h
  all_goals rfl

theorem exec_recordForm {i : Instr} {gd : Guard} {d a : Reg} {seg : Seg} {kind : LLKind} {n m size : Nat}
    (h : recordForm i = some (gd, d, a, seg, kind, n, m, size)) (s : State) :
    exec i s = s.homeWord gd d a n seg kind m size := by
  unfold recordForm at h
  split at h
  all_goals cases h
  all_goals rfl

/-- One alternative of a choice among tables. -/
theorem orElse_map_eq_some {α β : Type} {o : Option α} {k : α → β} {o' : Option β} {f : β} (h : (o.map k <|> o') = some f) :
    (∃ x, o = some x ∧ k x = f) ∨ o' = some f := by
  cases o with
  | none => exact .inr h
  | some x => exact .inl ⟨x, rfl, Option.some.inj h⟩

theorem mem_compareRegs (gd : Guard) (ps xs ys : List PReg) (r : PReg) :
    r ∈ vecRegs gd ++ ps ++ xs ++ ys ↔ r ∈ maskRegs ++ ps ++ (guardRegs gd ++ xs ++ ys) := by
  simp only [vecRegs, List.mem_append]
  tauto

theorem mem_compareRegs_one (gd : Guard) (ps : List PReg) (x : PReg) (b : BOp) (r : PReg) :
    r ∈ vecRegs gd ++ ps ++ [x] ++ bRegs 1 b ↔ r ∈ maskRegs ++ ps ++ (guardRegs gd ++ [x, bReg b]) := by
  simpa only [bRegs_one, List.append_assoc, List.cons_append, List.nil_append] using mem_compareRegs gd ps [x] (bRegs 1 b) r

/-- Every word that `namedRegs` lists names just the registers given there, and nothing stalls it. -/
theorem checksAs_of_namedRegs {i : Instr} {rs : List PReg} (h : namedRegs i = some rs) (s : State) : ChecksAs s i { regs := rs } := by
  unfold namedRegs at h
  rcases orElse_map_eq_some h with ⟨x, hx, rfl⟩ | h
  · unfold intValue at hx
    split at hx
    case h_36 => cases hx; exact .of_iff (fun r => by simp only [vecRegs, guardRegs, List.mem_append, List.mem_cons]; tauto) rfl
    all_goals cases hx
    all_goals exact .of_word _ rfl
  rcases orElse_map_eq_some h with ⟨x, hx, rfl⟩ | h
  · unfold pairValue at hx
    split at hx
    case h_3 => cases hx; exact .of_iff (by simp [bRegs_one]) rfl
    all_goals cases hx
    all_goals exact .of_word _ rfl
  rcases orElse_map_eq_some h with ⟨x, hx, rfl⟩ | h
  · unfold scalarValue at hx
    split at hx
    all_goals cases hx
    all_goals exact .of_word _ rfl
  rcases orElse_map_eq_some h with ⟨x, hx, rfl⟩ | h
  · unfold intCompare at hx
    split at hx
    all_goals cases hx
    case h_1 | h_3 => exact .of_iff (mem_compareRegs_one _ _ _ _) rfl
    case h_2 | h_4 => exact .of_iff (mem_compareRegs _ _ _ _) rfl
    case h_5 | h_6 => exact .of_word _ rfl
  rcases orElse_map_eq_some h with ⟨x, hx, rfl⟩ | h
  · unfold floatValue at hx
    split at hx
    all_goals cases hx
    all_goals exact .of_word _ rfl
  rcases orElse_map_eq_some h with ⟨x, hx, rfl⟩ | h
  · unfold floatPair at hx
    split at hx
    all_goals cases hx
    all_goals exact .of_word _ rfl
  rcases orElse_map_eq_some h with ⟨x, hx, rfl⟩ | h
  · unfold convertValue at hx
    split at hx
    all_goals cases hx
    all_goals exact .of_word _ rfl
  rcases orElse_map_eq_some h with ⟨x, hx, rfl⟩ | h
  · unfold convertPair at hx
    split at hx
    all_goals cases hx
    all_goals exact .of_word _ rfl
  rcases orElse_map_eq_some h with ⟨x, hx, rfl⟩ | h
  · unfold floatCompare at hx
    split at hx
    all_goals cases hx
    all_goals exact .of_word _ rfl
  rcases orElse_map_eq_some h with ⟨x, hx, rfl⟩ | h
  · unfold shuffleFrom at hx
    split at hx
    all_goals cases hx
    all_goals exact .of_word _ rfl
  rcases orElse_map_eq_some h with ⟨x, hx, rfl⟩ | h
  · unfold keyedValue at hx
    split at hx
    all_goals cases hx
    all_goals exact .of_word _ rfl
  unfold plainWord at h
  split at h
  all_goals cases h
  all_goals exact .of_word _ rfl

section
variable {s : State} {g : Group} {i : Instr}

theorem exec_engineForm {rs : List PReg} {long mem own : Bool} (h : engineForm s g i = some (rs, long, mem, own)) :
    ∃ stalls body, exec i s = s.engWord long mem rs stalls body ∧ stalls s g = own := by
  unfold engineForm at h
  unfold exec
  split at h
  case h_8 n k => cases h; cases k <;> exact ⟨_, _, rfl, rfl⟩
  case h_9 t a b | h_10 t a b =>
    cases h
    show ∃ stalls body, s.copyWord _ t a b = s.engWord true true (sRegs a.val 5 ++ [.s b.val]) stalls body ∧ stalls s g = _
    unfold State.copyWord
    exact ⟨_, _, rfl, rfl⟩
  all_goals cases h
  all_goals exact ⟨_, _, rfl, rfl⟩

theorem checksAs_of_engineForm {rs : List PReg} {long mem own : Bool} (h : engineForm s g i = some (rs, long, mem, own))
    (hg : s.cur = some g) (hu : unstalled s g { regs := rs, long := long, mem := mem, own := g.tx.isNone && own }) :
    ChecksAs s i { regs := rs, long := long, mem := mem, own := g.tx.isNone && own } := by
  obtain ⟨stalls, body, he, rfl⟩ := exec_engineForm h
  obtain ⟨hc, hf, -, ho⟩ := hu
  exact .of_word _ (he.trans (State.engWord_eq_word _ _ hg hc hf ho))

theorem numRegs_toNat (n : BitVec 14) : numRegs n.toNat = if n = 0x04 ∨ n = 0x34 ∨ n = 0x38 then 2 else 1 := by
  simp only [numRegs, isPairNum, Bool.or_eq_true, beq_iff_eq, ← BitVec.toNat_inj, or_assoc]
  rfl

theorem swrRegs_le (n : BitVec 14) : (if n = 0x38 then 2 else 1) ≤ numRegs n.toNat := by
  rw [numRegs_toNat]
  by_cases h : n = 0x38
  · simp [h]
  · simp only [h, or_false, if_false]
    split <;> decide

theorem privNum_eq (n : Nat) : privNum n = decide (0x100 ≤ n ∧ n ≤ 0x1FF) := by
  simp only [privNum, Bool.decide_and, Nat.lt_succ_iff]

/-- The words outside the tables, one by one; of every other word `otherForm` says nothing. -/
theorem checksAs_of_otherForm {f : IssueForm} (h : otherForm s g i = some f) (hg : s.cur = some g) (hu : unstalled s g f) :
    ChecksAs s i f := by
  obtain ⟨hc, hf, hq, ho⟩ := hu
  cases i
  case movl | writel | braAny | braAll | braNone | callr | mskand | mskset | exit | trap | eret | segset | ptos | stop | plop | bar |
      bara | barw | grow | txst =>
    cases h
    exact .of_word _ rfl
  case movx gd d b k =>
    cases h
    refine .of_word (fun h => s.put ((h.vset gd d.val (h.vget (h.movIndex b k))).nextWord 1)) ?_
    change execMovx gd d b k s = _
    simp only [execMovx, hg]
    rfl
  case movy gd d b k =>
    cases h
    refine .of_word (fun h => s.put ((h.vset gd (h.movIndex b k) (h.vget d.val)).nextWord 1)) ?_
    change execMovy gd d b k s = _
    simp only [execMovy, hg]
    rfl
  case srr d n =>
    cases h
    rw [← privNum_eq, ← numRegs_toNat]
    exact .of_word _ rfl
  case swr d n =>
    cases h
    rw [← privNum_eq]
    exact .of_scalars rfl (swrRegs_le n) rfl
  case rsumk gd d a b toI =>
    cases toI <;> cases h
    exact .of_word _ rfl
  case redi gd op d b toS =>
    cases h
    cases toS <;> exact .of_iff (by simp [redRegs, vRegs, sRegs]) rfl
  case redf gd wide d b toS =>
    cases wide <;> cases h
    · cases toS <;> exact .of_iff (by simp [redRegs, bRegs_one, vRegs, sRegs]) rfl
    · exact .of_word _ rfl
  case tlbinv | ctxld =>
    cases h
    exact .of_word _ (State.stallWord_eq_word _ _ _ hg (Group.counterFull_eq_false (hc rfl)))
  case ctxsv a b =>
    cases h
    exact .of_word _ (State.stallWord_eq_word _ _ _ hg (Bool.or_eq_false_iff.2 ⟨Group.counterFull_eq_false (hc rfl), ho⟩))
  case txbeg =>
    cases h
    exact .of_word _ (State.stallWord_eq_word _ _ _ hg ho)
  case spat a =>
    cases h
    obtain ⟨body, he⟩ : ∃ body, execSpat a s = s.memWord false (sRegs a.val 2) body := by
      unfold execSpat
      rw [hg]
      exact ⟨_, if_neg (Bool.eq_false_iff.1 ho)⟩
    exact .of_word _ (he.trans (State.memWord_eq_word _ body hg (hf rfl) hq))
  case tlaunch | tsucc | publish =>
    cases h
    exact .of_word _ (State.memLong_eq_word _ _ hg (hc rfl) (hf rfl) hq)
  case redstF32 gd d a seg sc mo =>
    cases h
    obtain ⟨body, he⟩ : ∃ body, execRedstF32 gd d a seg sc mo s =
        s.memWord (decide (seg = .sh)) (vecRegs gd ++ .v d.val :: addrRegs seg a) body := ⟨_, rfl⟩
    exact .of_word _ (he.trans (State.memWord_eq_word _ body hg (hf rfl) hq))
  case pref gd lv a seg off =>
    cases h
    obtain ⟨body, he⟩ : ∃ body, execPref gd lv a seg off s = s.memWord false (vecRegs gd ++ addrRegs seg a) body := ⟨_, rfl⟩
    exact .of_word _ (he.trans (State.memWord_eq_word _ body hg (hf rfl) hq))
  all_goals cases h

/-- Every word of the tables comes to the checks of its form, where nothing stalls it. -/
theorem checksAs_of_issueForm {f : IssueForm} (h : issueForm s g i = some f) (hg : s.cur = some g) (hu : unstalled s g f) :
    ChecksAs s i f := by
  unfold issueForm at h
  rcases orElse_map_eq_some h with ⟨rs, hi, rfl⟩ | h
  · exact checksAs_of_namedRegs hi s
  rcases orElse_map_eq_some h with ⟨⟨n, gd, d, b⟩, hi, rfl⟩ | h
  · exact .of_word _ ((exec_specialCall hi s).trans (State.stallWord_eq_word _ _ _ hg (Group.counterFull_eq_false (hu.1 rfl))))
  rcases orElse_map_eq_some h with ⟨l, hi, rfl⟩ | h
  · obtain ⟨o, -, he⟩ := exec_loadForm hi s
    exact .of_word _ (he.trans (State.memLong_eq_word _ _ hg (hu.1 rfl) (hu.2.1 rfl) hu.2.2.1))
  rcases orElse_map_eq_some h with ⟨x, hi, rfl⟩ | h
  · obtain ⟨o, -, he⟩ := exec_storeForm hi s
    exact .of_word _ (he.trans (State.memWord_eq_word _ _ hg (hu.2.1 rfl) hu.2.2.1))
  rcases orElse_map_eq_some h with ⟨⟨gd, d, a, seg, sc, mo, op, size, n⟩, hi, rfl⟩ | h
  · exact .of_word _ ((exec_atomForm hi s).trans (State.memLong_eq_word _ _ hg (hu.1 rfl) (hu.2.1 rfl) hu.2.2.1))
  rcases orElse_map_eq_some h with ⟨⟨gd, d, a, seg, kind, n, m, size⟩, hi, rfl⟩ | h
  · exact .of_word _ ((exec_recordForm hi s).trans (State.memLong_eq_word _ _ hg (hu.1 rfl) (hu.2.1 rfl) hu.2.2.1))
  rcases orElse_map_eq_some h with ⟨⟨rs, long, mem, own⟩, hi, rfl⟩ | h
  · exact checksAs_of_engineForm hi hg hu
  exact checksAs_of_otherForm h hg hu

end

end Sys2Proof.Machine

namespace Sys2Proof.Proofs

open Sys2Proof.Machine Sys2Proof.Slice0

theorem wordsMoveOnToNextWordOrHeader : WordsMoveOnToNextWordOrHeader := by
  refine fun g n => ⟨fun h => ?_, fun h => ⟨?_, ?_⟩⟩
  · rw [Group.nextWord_of_last h]
    exact g.ended_endClause_restoreMask _
  · exact (g.nextWord_s n).trans g.s_restoreMask
  · rw [g.nextWord_s, Group.nextWord_of_more h, g.restoreMask_eq]

theorem budgetAndHazardTrapAtIssue : BudgetAndHazardTrapAtIssue := fun _ _ _ _ hi hg hu hp =>
  have w := checksAs_of_issueForm hi hg hu
  ⟨w.budget hg hp, w.hazard hg hp⟩

/-- Settles O9: what `Group.nextWord` does, and that every word of the tables comes to the checks of its form. -/
theorem wordsMoveOnOrTrapAtIssue : Obligations.WordsMoveOnOrTrapAtIssue := ⟨wordsMoveOnToNextWordOrHeader, budgetAndHazardTrapAtIssue⟩

end Sys2Proof.Proofs
end

section
/-! ### The return from a trap (R25, R406, R410) -/

namespace Sys2Proof.Machine

open Sys2Proof.Slice0

/-- A group that has left its handler for the header at RETPC, its mask not yet given back. -/
def Group.leftHandler (g : Group) : Group :=
  { g with inHandler := false, pc := g.retpc &&& ~~~3, stage := .header, turn := false, clause := {},
           serial := if g.isSerial then some (g.clauseSeq, g.setc) else none, yielding := g.yielding || g.yields }

theorem Group.returnFromTrap_start {g : Group} (h : g.retw.toNat % 16 = 0) :
    g.returnFromTrap = g.leftHandler.setMask (g.retmask &&& ~~~ g.x) := by
  simp [Group.returnFromTrap, field, h, Group.leftHandler]

/-- A group that has left its handler for a word inside a clause: with RP the mask keeps the faulting threads alone. -/
def Group.leftForWord (g : Group) : Group :=
  if g.retw.getLsbD 4 then g.leftHandler.setMask (g.mask &&& ~~~ g.x) else g.leftHandler

theorem Group.returnFromTrap_inside {g : Group} (h : g.retw.toNat % 16 ≠ 0) : g.returnFromTrap =
    { g.leftForWord with resume := some ⟨g.retw.toNat % 16, g.retw.getLsbD 4, g.retmask &&& ~~~ g.x⟩ } := by
  simp only [Group.returnFromTrap, field, Nat.pow_zero, Nat.div_one, h, if_false, bitOf_eq_getLsbD]
  rfl

theorem Group.leftForWord_eq (g : Group) : g.leftForWord = { g.leftHandler with s := g.leftForWord.s } := by
  unfold Group.leftForWord
  split
  · exact g.leftHandler.setMask_eq _
  · rfl

theorem Group.mask_leftForWord (g : Group) : g.leftForWord.mask = if g.retw.getLsbD 4 then g.mask &&& ~~~ g.x else g.mask := by
  unfold Group.leftForWord
  split
  · exact g.leftHandler.mask_setMask _
  · rfl

theorem Group.sget_leftForWord (g : Group) {n : Nat} (h : n < 60 ∨ n = 63) : g.leftForWord.sget n = g.sget n := by
  unfold Group.leftForWord
  split
  · exact g.leftHandler.sget_setMask _ h
  · rfl

theorem Group.mask_resume (g : Group) (r : Option Resume) : ({ g with resume := r } : Group).mask = g.mask := rfl

theorem Group.sget_resume (g : Group) (r : Option Resume) (n : Nat) : ({ g with resume := r } : Group).sget n = g.sget n := rfl

theorem Group.mask_ret (g : Group) (w : Word) (pc : DWord) : ({ g with retw := w, retpc := pc } : Group).mask = g.mask := rfl

theorem Group.sget_ret (g : Group) (w : Word) (pc : DWord) (n : Nat) : ({ g with retw := w, retpc := pc } : Group).sget n = g.sget n := rfl

/-- The return point after the clause of a port's SPAT. -/
def Group.afterSpat (g : Group) (r : Rig) : Group := { g with retw := 0, retpc := r.retpc + BitVec.ofNat 64 (4 * (r.widx + 1)) }

/-- The group that a port's record leaves goes on after the SPAT clause, with the mask of its return point. -/
theorem Group.leavePort_eq (g : Group) (r : Rig) : g.leavePort r =
    { (g.afterSpat r).leftHandler.setMask (g.retmask &&& ~~~ g.x) with retw := g.retw, retpc := g.retpc } := by
  have h : (g.afterSpat r).returnFromTrap = (g.afterSpat r).leftHandler.setMask (g.retmask &&& ~~~ g.x) :=
    Group.returnFromTrap_start rfl
  rw [← h]
  rfl

theorem Group.mask_leavePort (g : Group) (r : Rig) : (g.leavePort r).mask = g.retmask &&& ~~~ g.x := by
  rw [g.leavePort_eq, Group.mask_ret, Group.mask_setMask]

theorem Group.sget_leavePort (g : Group) (r : Rig) {n : Nat} (h : n < 60 ∨ n = 63) : (g.leavePort r).sget n = g.sget n := by
  rw [g.leavePort_eq, Group.sget_ret, Group.sget_setMask _ _ h]
  rfl

theorem Group.leavePort_left (g : Group) (r : Rig) : (g.leavePort r).inHandler = false ∧ (g.leavePort r).stage = .header ∧
    (g.leavePort r).pc = (r.retpc + BitVec.ofNat 64 (4 * (r.widx + 1))) &&& ~~~3 := by
  rw [g.leavePort_eq]
  exact ⟨rfl, rfl, rfl⟩

/-- A group that waits at a SPAT again. -/
def Group.atSpat (g : Group) (r : Rig) : Group := { g with status := .spat, stage := .issuing, clause := ⟨r.retpc, [], r.widx⟩ }

theorem Group.mask_atSpat (g : Group) (r : Rig) : (g.atSpat r).mask = g.mask := rfl

theorem Group.sget_atSpat (g : Group) (r : Rig) (n : Nat) : (g.atSpat r).sget n = g.sget n := rfl

theorem State.returnFromPort_on {s : State} {g : Group} (r : Rig) (h : g.retw.getLsbD 4 = false) :
    s.returnFromPort g r = (s.dropRig g.id).put (g.leavePort r) := by
  unfold State.returnFromPort
  rw [bitOf_eq_getLsbD, h]
  rfl

theorem State.returnFromPort_wait {s : State} {g : Group} {r : Rig} (h : g.retw.getLsbD 4 = true) (ht : r.recs.tail = []) :
    s.returnFromPort g r = (s.put ((g.leavePort r).atSpat r)).putRig { r with recs := [], open_ := false } := by
  unfold State.returnFromPort
  rw [bitOf_eq_getLsbD, h]
  dsimp only
  rw [ht]
  rfl

section
variable {s : State} {g : Group} (hs : issues s g maskRegs)
include hs

theorem exec_eret_outside (h : g.inHandler = false) : exec .eret s = .next (s.raise g (atWord g 0x01)) := by
  refine (State.word_ok _ hs.1 (Group.issueFault_of_issues hs)).trans ?_
  simp only [h]
  rfl

theorem exec_eret_trap (h : g.inHandler = true)
    (hr : (s.coreD g.id.coreId).rigs.find? (fun r => decide (r.group = g.id) && r.open_) = none) :
    exec .eret s = .next (s.put g.returnFromTrap) := by
  refine (State.word_ok _ hs.1 (Group.issueFault_of_issues hs)).trans ?_
  simp [h, hr]

theorem exec_eret_port (h : g.inHandler = true) {r : Rig}
    (hr : (s.coreD g.id.coreId).rigs.find? (fun r => decide (r.group = g.id) && r.open_) = some r) :
    exec .eret s = .next (s.returnFromPort g r) := by
  refine (State.word_ok _ hs.1 (Group.issueFault_of_issues hs)).trans ?_
  simp [h, hr]

end

end Sys2Proof.Machine

namespace Sys2Proof.Proofs

open Sys2Proof.Machine Sys2Proof.Slice0

/-- Settles O11: outside a handler, from a trap, and from a port's record. -/
theorem eretReturnsToTheReturnPoint : Obligations.EretReturnsToTheReturnPoint := by
  intro s g hs
  refine ⟨exec_eret_outside hs, fun hh hr => ?_, fun hh r hr => ⟨fun hp => ?_, fun hp ht => ?_⟩⟩
  · have hnone : (s.coreD g.id.coreId).rigs.find? (fun r => decide (r.group = g.id) && r.open_) = none := by
      simpa using fun r hm hg => hr r hm hg
    refine ⟨_, exec_eret_trap hs hh hnone, ?_⟩
    by_cases hw : g.retw.toNat % 16 = 0
    · rw [Group.returnFromTrap_start hw]
      exact ⟨rfl, rfl, rfl, rfl, rfl, fun _ => ⟨Group.mask_setMask _ _, rfl⟩, fun h => (h hw).elim, rfl,
        fun n hn => Group.sget_setMask _ _ hn⟩
    · rw [Group.returnFromTrap_inside hw]
      have hm := (g.leftForWord.mask_resume (some ⟨g.retw.toNat % 16, g.retw.getLsbD 4, g.retmask &&& ~~~ g.x⟩)).trans g.mask_leftForWord
      rw [g.leftForWord_eq] at hm ⊢
      refine ⟨rfl, rfl, rfl, rfl, rfl, fun h => (hw h).elim, fun _ => ⟨hm, rfl⟩, rfl, fun n hn => ?_⟩
      rw [← g.leftForWord_eq, Group.sget_resume, g.sget_leftForWord hn]
  · have he := exec_eret_port hs hh hr
    rw [State.returnFromPort_on r hp] at he
    obtain ⟨hi, hst, hpc⟩ := g.leavePort_left r
    exact ⟨_, he, hi, hpc, hst, g.mask_leavePort r, fun n hn => g.sget_leavePort r hn⟩
  · have he := exec_eret_port hs hh hr
    rw [State.returnFromPort_wait hp ht] at he
    refine ⟨_, he, (g.leavePort_left r).1, rfl, rfl, rfl, ?_, fun n hn => ?_⟩
    · rw [Group.mask_atSpat, g.mask_leavePort]
    · rw [Group.sget_atSpat, g.sget_leavePort r hn]

end Sys2Proof.Proofs
end

section
/-! ### Special registers read (R35, R143, R403, R429) -/

namespace Sys2Proof.Machine

open Sys2Proof.Slice0

theorem getLsbD_bits (f : Nat → Bool) {i : Nat} (h : i < 32) : (bits f).getLsbD i = f i := by
  simp [bits, h]

/-- A word given by its 32 bits. -/
theorem eq_bits {w : Word} {f : Nat → Bool} (h : ∀ i, i < 32 → w.getLsbD i = f i) : w = bits f :=
  BitVec.eq_of_getLsbD_eq fun i hi => (h i hi).trans (getLsbD_bits f hi).symm

theorem maskWord_eq_bits (m : Mask) (i : Nat) : maskWord m i = bits fun k => maskBit m (32 * i + k) :=
  eq_bits fun _ hk => getLsbD_maskWord m i hk

theorem loWord_eq (x : DWord) : loWord x = x.extractLsb' 0 32 := by
  simp [loWord, BitVec.extractLsb']

theorem hiWord_eq (x : DWord) : hiWord x = x.extractLsb' 32 32 := by
  simp [hiWord, BitVec.extractLsb', Nat.shiftRight_eq_div_pow]

/-- The links that are up, as the bits of a number (R429). -/
def upBits : List Link → Nat
  | [] => 0
  | l :: ls => (decide (l.state = .up)).toNat + 2 * upBits ls

theorem sum_zipIdx_upBits (ls : List Link) (k : Nat) :
    ((ls.zipIdx k).map fun x => if x.1.state = .up then 2 ^ x.2 else 0).sum = 2 ^ k * upBits ls := by
  induction ls generalizing k with
  | nil => rfl
  | cons l ls ih =>
    rw [List.zipIdx_cons, List.map_cons, List.sum_cons, ih, upBits, Nat.pow_succ]
    by_cases h : l.state = .up <;> simp [h] <;> ring

theorem upBits_append (as bs : List Link) : upBits (as ++ bs) = upBits as + 2 ^ as.length * upBits bs := by
  induction as with
  | nil => simp [upBits]
  | cons a as ih =>
    rw [List.cons_append, upBits, ih, upBits, List.length_cons, Nat.pow_succ]
    ring

theorem testBit_upBits (ls : List Link) (i : Nat) : (upBits ls).testBit i = decide (ls[i]?.map Link.state = some .up) := by
  induction ls generalizing i with
  | nil => simp [upBits]
  | cons l ls ih =>
    cases i with
    | zero => by_cases h : l.state = .up <;> simp [upBits, h]
    | succ i =>
      have hd : ((decide (l.state = .up)).toNat + 2 * upBits ls) / 2 = upBits ls := by
        have := Bool.toNat_lt (decide (l.state = .up))
        omega
      rw [upBits, Nat.testBit_succ, hd, ih, List.getElem?_cons_succ]

theorem State.capWord_links (s : State) : s.capWord 9 = bits fun i =>
    if i < 16 then decide (s.ua[i]?.map Link.state = some .up)
    else if i = 16 then decide (s.hostLink.state = .up) else decide (s.capLink[i - 17]?.map Link.state = some .up) := by
  have hn : s.capWord 9 = BitVec.ofNat 32 (upBits (s.ua.toList ++ s.hostLink :: s.capLink.toList)) := by
    simp only [State.capWord, sum_zipIdx_upBits, upBits_append, upBits, Vector.length_toList]
    congr 1
    simp only [Nat.reduceLT, Nat.reduceEqDiff, if_false, if_true, Nat.pow_zero, Nat.one_mul]
    ring
  rw [hn]
  refine eq_bits fun i hi => ?_
  rw [BitVec.getLsbD_ofNat, testBit_upBits, decide_eq_true hi, Bool.true_and]
  by_cases h : i < 16
  · rw [if_pos h, List.getElem?_append_left (by simpa using h)]
    simp
  · rw [if_neg h, List.getElem?_append_right (by simpa using h), Vector.length_toList]
    by_cases h6 : i = 16
    · simp [h6]
    · rw [if_neg h6, show i - 16 = i - 17 + 1 by omega, List.getElem?_cons_succ]
      simp

/-- What SRR reads is what the rules list for the register's number. -/
theorem State.special_eq {s : State} {g : Group} {n : Nat} {ws : List Word} (h : srrValue s g n = some ws) :
    s.special g n = ws := by
  unfold srrValue at h
  dsimp only at h
  split at h
  case h_5 | h_14 | h_17 =>
    cases h
    simp only [State.special, Nat.reduceEqDiff, Nat.reduceLT, if_false, if_true, loWord_eq, hiWord_eq]
  case h_9 =>
    obtain ⟨u, hu, rfl⟩ := Option.map_eq_some_iff.1 h
    simp [State.special, hu]
  case h_10 | h_11 | h_12 | h_19 | h_20 | h_21 =>
    cases h
    simp [State.special, maskWord_eq_bits]
  case h_15 =>
    obtain ⟨c, hc, rfl⟩ := Option.map_eq_some_iff.1 h
    simp [State.special, State.depth, hc]
  case h_30 =>
    cases h
    simp [State.special, State.capWord]
  case h_31 =>
    cases h
    simp only [State.special, Nat.reduceEqDiff, Nat.reduceLT, Nat.reduceSub, if_false, if_true, State.capWord_links]
  case h_35 =>
    split at h
    · obtain ⟨w, hw, rfl⟩ := Option.map_eq_some_iff.1 h
      simp (disch := omega) only [State.special, if_neg, if_pos, hw, Option.getD_some]
    split at h
    · cases h
      simp (disch := omega) only [State.special, State.capWord, if_neg, if_pos]
      rfl
    split at h
    · obtain ⟨w, hw, rfl⟩ := Option.map_eq_some_iff.1 h
      obtain ⟨v, hv, hi⟩ := Option.bind_eq_some_iff.1 hw
      have hn := (Vector.getElem?_eq_some_iff.1 hv).1
      simp (disch := omega) only [State.special, State.hmaskAt, if_neg, if_pos, hv, hi, Option.getD_some]
    · cases h
  all_goals
    cases h
    simp [State.special, idOf, locWord, GroupId.coreId, State.capWord, Group.ctx, ctxOf]

theorem length_srrValue {s : State} {g : Group} {n : Nat} {ws : List Word} (h : srrValue s g n = some ws) :
    ws.length = numRegs n := by
  unfold srrValue at h
  dsimp only at h
  split at h
  case h_9 | h_15 =>
    obtain ⟨x, -, rfl⟩ := Option.map_eq_some_iff.1 h
    rfl
  case h_35 =>
    have hp : isPairNum n = false := by
      simp only [isPairNum, Bool.or_eq_false_iff, beq_eq_false_iff_ne]
      exact ⟨⟨‹_›, ‹_›⟩, ‹_›⟩
    rw [numRegs, hp]
    split at h
    · obtain ⟨w, -, rfl⟩ := Option.map_eq_some_iff.1 h
      rfl
    split at h
    · cases h
      rfl
    split at h
    · obtain ⟨w, -, rfl⟩ := Option.map_eq_some_iff.1 h
      rfl
    · cases h
  all_goals
    cases h
    rfl

/-- Words written to successive scalar registers. -/
def Group.ssetAll (g : Group) (d : Nat) (ws : List Word) : Group :=
  ws.zipIdx.foldl (fun (h : Group) x => h.sset (d + x.2) x.1) g

theorem Group.ssetAll_frame (g : Group) (d : Nat) (ws : List Word) : g.ssetAll d ws = { g with s := (g.ssetAll d ws).s } := by
  unfold Group.ssetAll
  generalize ws.zipIdx = l
  induction l generalizing g with
  | nil => rfl
  | cons x l ih =>
    rw [List.foldl_cons, ih]
    rfl

theorem Group.sget_ssetAll (g : Group) (d : Nat) (ws : List Word) {k : Nat} (hk : k < 64) :
    (g.ssetAll d ws).sget k = if d ≤ k ∧ k < d + ws.length then ws.getD (k - d) 0 else g.sget k := by
  unfold Group.ssetAll
  suffices ∀ n (h : Group), ((ws.zipIdx n).foldl (fun (h : Group) x => h.sset (d + x.2) x.1) h).sget k =
      if d + n ≤ k ∧ k < d + n + ws.length then ws.getD (k - (d + n)) 0 else h.sget k from this 0 g
  induction ws with
  | nil => intro n h; simp
  | cons w ws ih =>
    intro n h
    rw [List.zipIdx_cons, List.foldl_cons, ih, Group.sget_sset, List.length_cons]
    rcases Nat.lt_trichotomy k (d + n) with hlt | rfl | hgt
    · rw [if_neg (by omega), if_neg (by omega), if_neg (by omega)]
    · rw [if_neg (by omega), if_pos ⟨rfl, hk⟩, if_pos (by omega), Nat.sub_self]
      rfl
    · rw [show k - (d + n) = k - (d + (n + 1)) + 1 by omega, List.getD_cons_succ]
      by_cases hl : k < d + (n + 1) + ws.length
      · rw [if_pos (by omega), if_pos (by omega)]
      · rw [if_neg (by omega), if_neg (by dsimp only; omega), if_neg (by omega)]

theorem exec_srr {d : Reg} {n : BitVec 14} {s : State} {g : Group} (hg : s.cur = some g)
    (hf : g.issueFault (privNum n.toNat) (sRegs d.val (numRegs n.toNat)) = none) :
    exec (.srr d n) s = .next (s.put ((g.ssetAll d.val (s.special g n.toNat)).nextWord 1)) :=
  State.word_ok _ hg hf

/-! ### Special registers written (R143, R298, R395, R403, R424, R425) -/

theorem maskWord_eq_extract (m : Mask) (i : Nat) : maskWord m i = m.extractLsb' (32 * i) 32 := by
  simp [maskWord, BitVec.extractLsb', Nat.shiftRight_eq_div_pow]

theorem setMaskWord_low (m : Mask) (w : Word) : setMaskWord m 0 w = m.extractLsb' 32 64 ++ w := by
  have h : m.extractLsb' 64 32 ++ m.extractLsb' 32 32 = m.extractLsb' 32 64 := BitVec.extractLsb'_append_extractLsb'_eq_extractLsb' rfl
  simp [setMaskWord, maskOfWords, maskWord_eq_extract, h]

theorem setMaskWord_mid (m : Mask) (w : Word) : setMaskWord m 1 w = m.extractLsb' 64 32 ++ w ++ m.extractLsb' 0 32 := by
  simp [setMaskWord, maskOfWords, maskWord_eq_extract]

theorem setMaskWord_high (m : Mask) (w : Word) : setMaskWord m 2 w = w ++ m.extractLsb' 0 64 := by
  have h : m.extractLsb' 32 32 ++ m.extractLsb' 0 32 = m.extractLsb' 0 64 := BitVec.extractLsb'_append_extractLsb'_eq_extractLsb' rfl
  simp only [setMaskWord, maskOfWords, maskWord_eq_extract, Nat.reduceEqDiff, if_false, if_true, Nat.reduceMul]
  rw [BitVec.append_assoc, h]
  rfl

theorem Group.setSpecial_eq {g h : Group} {n : Nat} {w : Word} {x : DWord} (e : swrGroup g n w x = some h) :
    g.setSpecial n w x = h := by
  unfold swrGroup at e
  split at e
  case h_5 => cases e; simp [Group.setSpecial, setMaskWord_low]
  case h_6 => cases e; simp [Group.setSpecial, setMaskWord_mid]
  case h_7 => cases e; simp [Group.setSpecial, setMaskWord_high]
  case h_8 => cases e; simp [Group.setSpecial]; exact setIfInBounds_eq_set _ (0 : Fin 4) _
  case h_9 => cases e; simp [Group.setSpecial]; exact setIfInBounds_eq_set _ (1 : Fin 4) _
  case h_10 => cases e; simp [Group.setSpecial]; exact setIfInBounds_eq_set _ (2 : Fin 4) _
  case h_11 => cases e; simp [Group.setSpecial]; exact setIfInBounds_eq_set _ (3 : Fin 4) _
  all_goals
    cases e
  all_goals rfl

theorem swr_number {g h : Group} {n : Nat} {w : Word} {x : DWord} (e : swrGroup g n w x = some h) :
    n < 0x100 ∧ numRegs n = if n = 0x38 then 2 else 1 := by
  unfold swrGroup at e
  split at e
  all_goals cases e
  all_goals decide

section
variable {d : Reg} {n : BitVec 14} {s : State} {g : Group} (hg : s.cur = some g)
  (hf : g.issueFault (privNum n.toNat) (sRegs d.val (numRegs n.toNat)) = none)
include hg hf

theorem exec_swr_own (hn : n.toNat < 0x100) :
    exec (.swr d n) s = .next (s.put ((g.setSpecial n.toNat (g.sget d.val) (g.spair d.val)).nextWord 1)) := by
  refine (State.word_ok _ hg hf).trans ?_
  simp only [hn, if_true]

theorem exec_swr_hmask (h1 : 0x100 ≤ n.toNat) (h2 : n.toNat < 0x160) : exec (.swr d n) s = .next
    { s.put (g.hold .hmask 0) with
      hmaskQ := s.hmaskQ ++ [⟨(n.toNat - 0x100) / 8, n.toNat % 8, (g.sget d.val).truncate 23, some g.id⟩] } := by
  refine (State.word_ok _ hg hf).trans ?_
  simp only [Nat.not_lt.2 h1, h2, if_true, if_false]
  rfl

end

section
variable {d : Reg} {s : State} {g : Group} (hpv : g.pv = true) (hs : issues s g [.s d.val])
include hpv hs

theorem issueFault_swr {n : BitVec 14} (hn : isPairNum n.toNat = false) :
    g.issueFault (privNum n.toNat) (sRegs d.val (numRegs n.toNat)) = none := by
  rw [numRegs, hn]
  exact Group.issueFault_none.2 ⟨fun _ => hpv, hs.2⟩

theorem exec_swr_kill_own (hk : keyOf g.ctx (g.sget d.val) = g.task) :
    exec (.swr d 0x160) s = .next (s.raise g (atWord g 0x01)) := by
  change _ = Host.Outcome.next (s.groupFault g cIllegal)
  refine (State.word_ok _ hs.1 (issueFault_swr hpv hs rfl)).trans ?_
  simp [hk]

theorem exec_swr_kill (hk : keyOf g.ctx (g.sget d.val) ≠ g.task) : exec (.swr d 0x160) s =
    .next ((s.killTask g.ctx (g.sget d.val) (locWord g.id.coreId) (s.depth g.id.coreId)).goOn g.id) := by
  refine (State.word_ok _ hs.1 (issueFault_swr hpv hs rfl)).trans ?_
  simp [hk]

theorem exec_swr_reclaim : exec (.swr d 0x161) s = .next ((s.reclaim g.ctx (g.sget d.val)).goOn g.id) :=
  State.word_ok _ hs.1 (issueFault_swr hpv hs rfl)

theorem exec_swr_retire : exec (.swr d 0x162) s = .next ((s.retireCore (coreOfWord (g.sget d.val))).goOn g.id) :=
  State.word_ok _ hs.1 (issueFault_swr hpv hs rfl)

end

theorem keyOf_ctx (g : Group) (w : Word) : keyOf g.ctx w = g.task / 2 ^ 32 * 2 ^ 32 + w.toNat := rfl

theorem coreOfWord_eq (w : Word) : coreOfWord w = ⟨w.toNat / 2 ^ 16 % 8, w.toNat % 512⟩ := by
  simp [coreOfWord, field]

end Sys2Proof.Machine

namespace Sys2Proof.Proofs

open Sys2Proof.Machine Sys2Proof.Slice0

theorem srrReadsSpecialRegisters : SrrReadsSpecialRegisters := by
  intro d n ws s g hw _ hpv hs
  rw [length_srrValue hw] at hs
  have hf : g.issueFault (privNum n.toNat) (sRegs d.val (numRegs n.toNat)) = none :=
    Group.issueFault_none.2 ⟨fun h => hpv (by simp [privNum] at h; exact h.1), hs.2⟩
  have he := exec_srr hs.1 hf
  rw [State.special_eq hw] at he
  exact ⟨_, he, g.ssetAll_frame _ _, fun k hk => g.sget_ssetAll _ _ hk⟩

theorem swrWritesGroupRegisters : SwrWritesGroupRegisters := by
  intro d n h s g he _ hs
  obtain ⟨hn, hr⟩ := swr_number he
  rw [← hr] at hs
  have hp : privNum n.toNat = false := by simp [privNum, hn]
  rw [exec_swr_own hs.1 (hp ▸ Group.issueFault_of_issues hs) hn, Group.setSpecial_eq he]

theorem swrPrivilegedRegistersAct : SwrPrivilegedRegistersAct := by
  intro d st i s g hpv hs w
  refine ⟨fun hst hi => ⟨_, ?_, rfl⟩, fun h => ?_, fun h => ?_, exec_swr_reclaim hpv hs, ?_⟩
  · have hn : (BitVec.ofNat 14 (0x100 + 8 * st + i)).toNat = 0x100 + 8 * st + i := by
      rw [BitVec.toNat_ofNat]
      omega
    have hp : isPairNum (BitVec.ofNat 14 (0x100 + 8 * st + i)).toNat = false := by
      simp only [hn, isPairNum, Bool.or_eq_false_iff, beq_eq_false_iff_ne]
      omega
    rw [exec_swr_hmask hs.1 (issueFault_swr hpv hs hp) (by omega) (by omega), hn,
      show (0x100 + 8 * st + i - 0x100) / 8 = st by omega, show (0x100 + 8 * st + i) % 8 = i by omega]
    rfl
  · exact exec_swr_kill_own hpv hs ((keyOf_ctx g w).trans h)
  · exact exec_swr_kill hpv hs fun e => h ((keyOf_ctx g w).symm.trans e)
  · rw [exec_swr_retire hpv hs, coreOfWord_eq]

/-- Settles O15. -/
theorem specialRegistersAreReadAndWritten : Obligations.SpecialRegistersAreReadAndWritten :=
  ⟨srrReadsSpecialRegisters, swrWritesGroupRegisters, swrPrivilegedRegistersAct⟩

end Sys2Proof.Proofs
end

section
/-! ### SEGSET, TLBINV, CTXSV and CTXLD outside a transaction (R144, R146, R148, R149) -/

namespace Sys2Proof.Machine

open Sys2Proof.Slice0

theorem Group.issueFault_priv {s : State} {g : Group} {rs : List PReg} (hpv : g.pv = true) (h : issues s g rs) :
    g.issueFault true rs = none := Group.issueFault_none.2 ⟨fun _ => hpv, h.2⟩

section
variable {s : State} {g : Group} (hpv : g.pv = true) (htx : g.tx = none)
include hpv htx

theorem exec_segset_bad {k : Fin 4} {a : Reg} (hs : issues s g (sRegs a.val 4)) (hk : k = 1)
    (hb : (g.spair a.val).toNat % 16 ≠ 0 ∨ 524288 < (g.spair a.val).toNat + (g.spair (a.val + 2)).toNat) :
    exec (.segset k a) s = .next (s.raise g (atWord g 0x05)) := by
  change _ = Host.Outcome.next (s.groupFault g cSegment)
  refine (State.word_ok _ hs.1 (Group.issueFault_priv hpv hs)).trans ?_
  simp only [htx, Option.isSome_none, Bool.false_eq_true, if_false, if_pos (And.intro hk hb)]

theorem exec_segset {k : Fin 4} {a : Reg} (hs : issues s g (sRegs a.val 4))
    (hb : ¬ (k = 1 ∧ ((g.spair a.val).toNat % 16 ≠ 0 ∨ 524288 < (g.spair a.val).toNat + (g.spair (a.val + 2)).toNat))) :
    exec (.segset k a) s = .next (s.put ({ g with seg := g.seg.set k ⟨g.spair a.val, g.spair (a.val + 2)⟩ }.nextWord 1)) := by
  refine (State.word_ok _ hs.1 (Group.issueFault_priv hpv hs)).trans ?_
  simp only [htx, Option.isSome_none, Bool.false_eq_true, if_false, if_neg hb]

theorem exec_tlbinv {sc : Scope} {all : Bool} {a : Reg} (hs : issues s g (if all then [] else sRegs a.val 2)) (hc : g.dc[g.setc] ≠ 63) :
    exec (.tlbinv sc all a) s =
      .next (s.put ((g.issueLong { seq := 0, ctr := 0, kind := .tlbinv sc all (g.spair a.val), ready := false }).nextWord 1)) := by
  refine (State.longWord_ok _ hs.1 (Group.counterFull_eq_false hc) (Group.issueFault_priv hpv hs)).trans ?_
  simp only [htx, Option.isSome_none, Bool.false_eq_true, if_false]

section
variable {a b : Reg} (hs : issues s g (sRegs a.val 2 ++ [.s b.val])) (hc : g.dc[g.setc] ≠ 63)
include hs

omit hpv in
theorem exec_ctxsv_stalls (hb : s.targetBusy g (g.sget b.val) = true) : exec (.ctxsv a b) s = .next (s.put { g with turn := false }) := by
  change execCtxsv a b s = _
  unfold execCtxsv State.stallWord
  rw [hs.1]
  exact if_pos (by simp [hb, htx])

include hc

theorem exec_ctxsv_none (hb : s.targetBusy g (g.sget b.val) = false) (ht : s.ctxTarget g (g.sget b.val) = none) :
    exec (.ctxsv a b) s = .next (s.raise g (atWord g 0x01)) := by
  change _ = Host.Outcome.next (s.groupFault g cIllegal)
  refine (State.stallWord_ok _ hs.1 ?_ (Group.issueFault_priv hpv hs)).trans ?_
  · simp [hb, Group.counterFull_eq_false hc]
  · simp only [htx, Option.isSome_none, Bool.false_eq_true, if_false, ht]

theorem exec_ctxsv_saves {h g' : Group} {ps : List Piece} {t : State} (hb : s.targetBusy g (g.sget b.val) = false)
    (ht : s.ctxTarget g (g.sget b.val) = some h) (ha : s.areaAccess g (g.spair a.val) (areaSize h.v.length) 1024 .store = (.ok ps, t))
    (hg : ((t.dropRig h.id).vacate h.id).group? g.id = some g') :
    exec (.ctxsv a b) s = .next (((t.dropRig h.id).vacate h.id).put ((g'.issueArea (addr64 (g.seg[0].base.toNat + (g.spair a.val).toNat)) ps
      (((h.seeAbort 12 0).suspend).area ((h.seeAbort 12 0).suspend).standsAt ((h.seeAbort 12 0).suspend).sat)).nextWord 1)) := by
  refine (State.stallWord_ok _ hs.1 ?_ (Group.issueFault_priv hpv hs)).trans ?_
  · simp [hb, Group.counterFull_eq_false hc]
  · simp only [htx, Option.isSome_none, Bool.false_eq_true, if_false, ht, ha, hg]

theorem exec_ctxld {hd bs : List Byte} {ps qs : List Piece} {t u : State}
    (ha : s.areaAccess g (g.spair a.val) 1024 1024 .load = (.ok ps, t)) (hr : t.readArea g ps = some hd) (hbad : areaBad hd = false)
    (ha' : t.areaAccess g (g.spair a.val) (areaSize (areaWord hd 8).toNat) 1024 .load = (.ok qs, u)) (hr' : u.readArea g qs = some bs) :
    exec (.ctxld b a) s = .next ((u.put (g.hold (.grow (g.restored (u.freeIndex g) bs).v.length) 0)).modCore g.id.coreId fun c =>
      { c with pool := c.pool ++ [.ctxld g.id b.val (g.restored (u.freeIndex g) bs)] }) := by
  refine (State.longWord_ok _ hs.1 (Group.counterFull_eq_false hc) (Group.issueFault_priv hpv hs)).trans ?_
  simp only [htx, Option.isSome_none, Bool.false_eq_true, if_false, ha, hr, hbad, ha', hr']

end

end

end Sys2Proof.Machine

namespace Sys2Proof.Proofs

open Sys2Proof.Machine Sys2Proof.Slice0

theorem segsetWritesASegment : SegsetWritesASegment := by
  intro k a s g _ hpv htx hs base limit bad
  refine ⟨fun hk hb => exec_segset_bad hpv htx hs hk hb, fun h => exec_segset hpv htx hs fun hb => ?_⟩
  exact h.elim (· hb.1) (· hb.2)

theorem contextAndTlbWordsAct : ContextAndTlbWordsAct := by
  intro sc all a b s g hpv htx hc
  refine ⟨fun hs => exec_tlbinv hpv htx hs hc, fun hs => ⟨exec_ctxsv_stalls htx hs, exec_ctxsv_none hpv htx hs hc,
    ?_, fun hd bs ps qs t u ha hr hbad ha' hr' => exec_ctxld hpv htx hs hc ha hr hbad ha' hr'⟩⟩
  intro h g' ps t ht hb ha j k va hg
  have hva : va.toNat = addr64 (g.seg[0].base.toNat + (g.spair a.val).toNat) := BitVec.toNat_ofNat _ _
  rw [hva]
  exact exec_ctxsv_saves hpv htx hs hc hb ht ha hg

/-- Settles O16. -/
theorem segmentContextAndTlbWordsAct : Obligations.SegmentContextAndTlbWordsAct := ⟨segsetWritesASegment, contextAndTlbWordsAct⟩

end Sys2Proof.Proofs
end

section
/-! ### Memory words whose threads are checked (R24, R28, R31, R138, R331) -/

namespace Sys2Proof.Machine

open Sys2Proof.Slice0

theorem maskBit_maskOfList (ts : List Nat) {t : Nat} (h : t < 96) : maskBit (maskOfList ts) t = true ↔ t ∈ ts := by
  have hb : ∀ x, (BitVec.ofNat 96 (2 ^ x)).getLsbD t = decide (x = t) := fun x => by
    rw [BitVec.getLsbD_ofNat, Nat.testBit_two_pow, decide_eq_true h, Bool.true_and]
  rw [maskBit, maskOfList, getLsbD_foldl_or, show (0 : BitVec 96).getLsbD t = false from BitVec.getLsbD_zero]
  simp only [hb, Bool.false_or, List.any_eq_true, decide_eq_true_eq, exists_eq_right]

/-! ### Failing threads -/

theorem State.migrateFailed_of_faults (s : State) (ctx : Nat) (write : Bool) (w : Migration → Migration) {fs : List Failed}
    (h : ∀ y ∈ fs, ∃ c a, y.why = .fault c a) : s.migrateFailed ctx write w fs = (fs, s) := by
  induction fs with
  | nil => rfl
  | cons f fs ih =>
    obtain ⟨c, a, hf⟩ := h f List.mem_cons_self
    simp only [State.migrateFailed, hf, ih fun y hy => h y (List.mem_cons_of_mem f hy)]

/-- The fault of a word some of whose threads fail (R138, R470). -/
def Group.failRec (g : Group) (write : Bool) (x : Failed) (xs : List Failed) (code addr : Nat) : FaultRec :=
  { atWord g code with mask := maskOfList ((x :: xs).map (·.thread)), addr := BitVec.ofNat 64 addr, write := write, who := x.thread }

theorem State.failThreads_of_faults {u : State} {x : Failed} {xs : List Failed} {code addr : Nat} (h : Group) (own : Nat) (write : Bool)
    (hx : x.why = .fault code addr) (hxs : ∀ y ∈ xs, ∃ c a, y.why = .fault c a) (hm : u.migrations = []) :
    u.failThreads h own write (x :: xs) = u.raise h (h.failRec write x xs code addr) := by
  have hall : ∀ y ∈ x :: xs, ∃ c a, y.why = .fault c a := by
    rintro y hy
    rcases List.mem_cons.1 hy with rfl | hy
    · exact ⟨code, addr, hx⟩
    · exact hxs y hy
  have hu : ({ u with migrations := [] } : State) = u := by rw [← hm]
  simp only [State.failThreads, State.migrateFailed_of_faults u _ _ _ hall, hm, List.map_nil, hx]
  rw [hu]
  rfl

theorem Group.failRec_meets (g : Group) (write : Bool) (x : Failed) (xs : List Failed) (code addr : Nat) :
    g.failRec write x xs code addr =
      { atWord g code with mask := (g.failRec write x xs code addr).mask, addr := BitVec.ofNat 64 addr, write := write, who := x.thread } ∧
    ∀ t, t < 96 → (maskBit (g.failRec write x xs code addr).mask t = true ↔ t ∈ (x :: xs).map Failed.thread) :=
  ⟨rfl, fun _ ht => maskBit_maskOfList _ ht⟩

/-! ### What each kind of word runs outside a transaction -/

theorem segOrder_releases (seg : Seg) (mo : Order) : (segOrder seg mo).releases = true ↔ mo.releases = true ∧ seg ≠ .lo := by
  unfold segOrder
  by_cases h : seg = .lo
  · simp [h, Order.releases]
  · simp [h]

theorem Group.issued_issueLong (g : Group) (o : Outst) : issued g (g.issueLong o) o := rfl

section
variable {i : Instr} {s u : State} {g : Group} {ts : List Target} {fs : List Failed} (hf : g.fence = []) (htx : g.tx = none)
include hf htx

theorem exec_load_checked {f : LoadForm} (hi : loadForm i = some f)
    (hs : issues s g (vecRegs f.gd ++ vRegs f.d.val f.regs ++ addrRegs f.seg f.a)) (hc : g.dc[g.setc] ≠ 63) (hq : queueFree s g f.seg)
    (ht : checkThreads (plainCheck g f.seg f.a f.off f.size .load fun _ => []) (g.enabled f.gd) s = (ts, fs, u)) :
    exec i s = .next (u.endMem (g.issueLong
      { seq := 0, ctr := 0, kind := .load f.size f.signed f.acq, d := f.d.val, dst := vRegs f.d.val f.regs, todo := ts }) g.seq false fs) := by
  obtain ⟨o, ho, he⟩ := exec_loadForm hi s
  rw [ho] at ht
  rw [he, State.load, State.memLong_eq_word _ _ hs.1 hc hf (fun h => hq (of_decide_eq_true h)),
    State.word_ok _ hs.1 (Group.issueFault_of_issues hs)]
  simp only [htx, ht]

theorem exec_store_checked {f : StoreForm} (hi : storeForm i = some f)
    (hs : issues s g (vecRegs f.gd ++ vRegs f.d.val f.regs ++ addrRegs f.seg f.a)) (hq : queueFree s g f.seg)
    (ht : checkThreads (plainCheck g f.seg f.a f.off f.size .store (Slice0.dataWords g f.d.val f.regs)) (g.enabled f.gd) s = (ts, fs, u)) :
    exec i s = .next (u.endMem (g.issueStores ts f.size f.rel false) g.seq true fs) := by
  obtain ⟨o, ho, he⟩ := exec_storeForm hi s
  rw [ho] at ht
  rw [he, State.store, State.memWord_eq_word _ _ hs.1 hf (fun h => hq (of_decide_eq_true h)),
    State.word_ok _ hs.1 (Group.issueFault_of_issues hs)]
  replace ht : checkThreads (plainCheck g f.seg f.a (o * f.size) f.size .store (g.dataWords f.d.val f.regs)) (g.enabled f.gd) s = _ := ht
  simp only [htx, ht]

theorem exec_atomic_checked {gd : Guard} {d a : Reg} {seg : Seg} {sc : Scope} {mo : Order} {op : AtomOp} {size n : Nat}
    (hi : atomForm i = some (gd, d, a, seg, sc, mo, op, size, n)) (hs : issues s g (vecRegs gd ++ vRegs d.val n ++ addrRegs seg a))
    (hc : g.dc[g.setc] ≠ 63) (hq : queueFree s g seg)
    (ht : checkThreads (atomCheck g seg a op size (Slice0.dataWords g d.val n)) (g.enabled gd) s = (ts, fs, u)) :
    exec i s = .next (u.endMem (g.issueLong
      { seq := 0, ctr := 0, kind := .atomic op size sc (if seg = .lo then .rlx else mo), d := d.val, dst := vRegs d.val (size / 4),
        todo := ts }) g.seq true fs) := by
  rw [exec_atomForm hi, State.atomic, State.memLong_eq_word _ _ hs.1 hc hf (fun h => hq (of_decide_eq_true h)),
    State.word_ok _ hs.1 (Group.issueFault_of_issues hs)]
  replace ht : checkThreads (atomCheck g seg a op size (g.dataWords d.val n)) (g.enabled gd) s = _ := ht
  simp only [htx, ht]
  rfl

theorem exec_redst_checked {gd : Guard} {d a : Reg} {seg : Seg} {sc : Scope} {mo : Order}
    (hs : issues s g (vecRegs gd ++ .v d.val :: addrRegs seg a)) (hq : queueFree s g seg)
    (ht : checkThreads (atomCheck g seg a .addF32 4 (Slice0.dataWords g d.val 1)) (g.enabled gd) s = (ts, fs, u)) :
    exec (.redstF32 gd d a seg sc mo) s =
      .next (u.endMem (g.issueStores ts 4 (if mo.releases = true ∧ seg ≠ .lo then some sc else none) true) g.seq true fs) := by
  change execRedstF32 gd d a seg sc mo s = _
  rw [execRedstF32, State.memWord_eq_word _ _ hs.1 hf (fun h => hq (of_decide_eq_true h)),
    State.word_ok _ hs.1 (Group.issueFault_of_issues hs)]
  replace ht : checkThreads (atomCheck g seg a .addF32 4 (g.dataWords d.val 1)) (g.enabled gd) s = _ := ht
  simp only [htx, ht, segOrder_releases]

theorem exec_record_runs {gd : Guard} {d a : Reg} {seg : Seg} {kind : LLKind} {n m size : Nat}
    (hi : recordForm i = some (gd, d, a, seg, kind, n, m, size)) (hs : issues s g (vecRegs gd ++ vRegs d.val n ++ addrRegs seg a))
    (hc : g.dc[g.setc] ≠ 63)
    (ht : checkThreads (homeCheck g seg a size true (Slice0.dataWords g d.val n)) (g.unsatisfied gd kind) s = (ts, fs, u)) :
    let h := (g.takeSat kind).issueLong { seq := 0, ctr := 0, kind := kind, d := d.val, dst := vRegs d.val m, todo := ts }
    exec i s = .next (if fs.isEmpty then u.put (h.hold (.object g.seq) (g.satFor kind)) else u.failThreads h g.seq true fs) := by
  intro h
  rw [exec_recordForm hi, State.homeWord, State.memLong_eq_word (sh := false) _ _ hs.1 hc hf (fun h => by cases h),
    State.word_ok _ hs.1 (Group.issueFault_of_issues hs)]
  replace ht : checkThreads (homeCheck g seg a size true (g.dataWords d.val n)) (g.unsatisfied gd kind) s = _ := ht
  simp only [htx, ht, Option.isSome_none, Bool.false_eq_true, if_false]
  rfl

end

/-- A record word of a group with no satisfied set takes none. -/
theorem Group.takeSat_of_none {g : Group} (kind : LLKind) (h : g.sat = 0) (h' : g.hsat = 0) : g.takeSat kind = g := by
  unfold Group.takeSat
  split
  · rfl
  split
  · rw [← h']
  · rw [← h]

theorem Group.unsatisfied_of_none {g : Group} (gd : Guard) (kind : LLKind) (h : g.sat = 0) (h' : g.hsat = 0) :
    g.unsatisfied gd kind = g.enabled gd := by
  have hs : g.satFor kind = 0 := by simp [Group.satFor, h, h']
  simp [Group.unsatisfied, hs, maskBit]

theorem State.endMem_nil (s : State) (g : Group) (own : Nat) (write : Bool) : s.endMem g own write [] = s.put (g.nextWord 1) := rfl

theorem State.endMem_cons (s : State) (g : Group) (own : Nat) (write : Bool) (x : Failed) (xs : List Failed) :
    s.endMem g own write (x :: xs) = s.failThreads g own write (x :: xs) := rfl

/-- What a word of the form has made of its group for the threads that pass, and how it deals with those that fail (R31, R138). -/
theorem exec_accessForm_fails {i : Instr} {gd : Guard} {f : AccessForm} {s u : State} {g : Group} {ts : List Target} {x : Failed}
    {xs : List Failed} (hi : accessForm g i = some (gd, f)) (hs : issues s g f.regs) (hc : f.long = true → g.dc[g.setc] ≠ 63)
    (hq : queueFree s g f.seg) (hf : g.fence = []) (htx : g.tx = none) (hsat : g.sat = 0) (hhsat : g.hsat = 0)
    (ht : checkThreads f.check (g.enabled gd) s = (ts, x :: xs, u)) :
    ∃ h : Group, exec i s = .next (u.failThreads h g.seq f.write (x :: xs)) ∧ f.after ts h ∧ h.clause = g.clause := by
  unfold accessForm at hi
  rcases orElse_map_eq_some hi with ⟨l, hl, e⟩ | hi
  · cases e
    exact ⟨_, exec_load_checked hf htx hl hs (hc rfl) hq ht, g.issued_issueLong _, rfl⟩
  rcases orElse_map_eq_some hi with ⟨l, hl, e⟩ | hi
  · cases e
    exact ⟨_, exec_store_checked hf htx hl hs hq ht, rfl, rfl⟩
  rcases orElse_map_eq_some hi with ⟨⟨gd, d, a, seg, sc, mo, op, size, n⟩, hl, e⟩ | hi
  · cases e
    exact ⟨_, exec_atomic_checked hf htx hl hs (hc rfl) hq ht, g.issued_issueLong _, rfl⟩
  rcases orElse_map_eq_some hi with ⟨⟨gd, d, a, seg, kind, n, m, size⟩, hl, e⟩ | hi
  · cases e
    have he := exec_record_runs hf htx hl hs (hc rfl) ((Group.unsatisfied_of_none gd kind hsat hhsat).symm ▸ ht)
    rw [Group.takeSat_of_none kind hsat hhsat] at he
    exact ⟨_, he, g.issued_issueLong _, rfl⟩
  split at hi
  · cases hi
    exact ⟨_, exec_redst_checked hf htx hs hq ht, rfl, rfl⟩
  · cases hi

end Sys2Proof.Machine

namespace Sys2Proof.Proofs

open Sys2Proof.Machine Sys2Proof.Slice0

theorem loadsIssue : LoadsIssue := fun _ _ _ _ g _ hi hs hc hq hf htx ht =>
  ⟨_, exec_load_checked hf htx hi hs hc hq ht, g.issued_issueLong _⟩

theorem storesIssue : StoresIssue := fun _ _ _ _ _ _ hi hs hq hf htx ht => exec_store_checked hf htx hi hs hq ht

theorem failingThreadsTrapTogether : FailingThreadsTrapTogether := by
  intro i gd f s u g ts x xs code addr hi hs hc hq hf htx hsat hhsat ht hx hxs hm
  obtain ⟨h, he, ha, -⟩ := exec_accessForm_fails hi hs hc hq hf htx hsat hhsat ht
  rw [State.failThreads_of_faults h g.seq f.write hx hxs hm] at he
  exact ⟨h, _, he, ha, h.failRec_meets f.write x xs code addr⟩

/-- Settles O18. -/
theorem loadsAndStoresIssue : Obligations.LoadsAndStoresIssue := ⟨loadsIssue, failingThreadsTrapTogether, storesIssue⟩

end Sys2Proof.Proofs
end

section
/-! ### What bringing lines into caches leaves as it was (R271, R282, R286) -/

namespace Sys2Proof.Machine

open Sys2Proof.Slice0

/-! ### Groups that stand as they stood -/

/-- A group at the same place with the same registers: at most the loads it has in flight have read their bytes. -/
structure Group.Steady (g h : Group) : Prop where
  id : h.id = g.id
  pc : h.pc = g.pc
  clause : h.clause = g.clause
  v : h.v = g.v
  s : h.s = g.s
  p : h.p = g.p
  stores : sameStores h.stores g.stores

theorem Group.Steady.refl (g : Group) : g.Steady g := ⟨rfl, rfl, rfl, rfl, rfl, rfl, rfl⟩

theorem Group.Steady.trans {g h k : Group} (a : g.Steady h) (b : h.Steady k) : g.Steady k :=
  ⟨b.id.trans a.id, b.pc.trans a.pc, b.clause.trans a.clause, b.v.trans a.v, b.s.trans a.s, b.p.trans a.p, b.stores.trans a.stores⟩

theorem Group.Steady.foldl {α : Type} {f : Group → α → Group} (hf : ∀ (g : Group) a, g.Steady (f g a)) (l : List α) (g : Group) :
    g.Steady (l.foldl f g) := by
  induction l generalizing g with
  | nil => exact .refl g
  | cons a l ih => exact (hf g a).trans (ih _)

theorem Group.steady_readBy (g : Group) (seq t : Nat) (ps : List Piece) : g.Steady (g.readBy seq t ps) := by
  unfold Group.readBy
  dsimp only
  split
  · refine ⟨rfl, rfl, rfl, rfl, rfl, rfl, ?_⟩
    simp only [sameStores, List.map_map]
    refine List.map_congr_left fun st _ => ?_
    simp only [Function.comp_apply]
    split <;> rfl
  · exact .refl g

theorem Group.steady_putOut (g : Group) (o : Outst) : g.Steady (g.putOut o) := ⟨rfl, rfl, rfl, rfl, rfl, rfl, rfl⟩

theorem State.steady_readInto (s : State) (g : Group) (o : Outst) (t : Target) : g.Steady (s.readInto g o t) := by
  unfold State.readInto
  split
  · split
    · exact (g.steady_readBy _ _ _).trans (Group.steady_putOut _ _)
    · exact g.steady_putOut _
  · exact .refl g

theorem State.steady_settleLoads (s : State) (p : Outst → Target → Bool) (g : Group) : g.Steady (s.settleLoads p g) := by
  refine Group.Steady.foldl (fun g o => Group.Steady.foldl (fun g t => ?_) _ g) _ g
  split
  · exact s.steady_readInto _ _ _
  · exact .refl g

theorem Group.steady_seeAbort (g : Group) (cause code : Nat) : g.Steady (g.seeAbort cause code) := by
  unfold Group.seeAbort
  split
  · exact ⟨rfl, rfl, rfl, rfl, rfl, rfl, rfl⟩
  · exact .refl g

/-- A steady group that stands unchanged unless it has a transaction. -/
structure Group.Quiet (g h : Group) : Prop extends Group.Steady g h where
  same : g.tx = none → h = g

theorem Group.Quiet.refl (g : Group) : g.Quiet g := ⟨.refl g, fun _ => rfl⟩

theorem Group.Quiet.trans {g h k : Group} (a : g.Quiet h) (b : h.Quiet k) : g.Quiet k := by
  refine ⟨a.toSteady.trans b.toSteady, fun ht => ?_⟩
  have h1 := a.same ht
  subst h1
  exact b.same ht

/-- Every group of the one state stands in the other, as the relation says. -/
def State.GroupsBy (R : Group → Group → Prop) (s t : State) : Prop := ∀ i g, s.group? i = some g → ∃ h, t.group? i = some h ∧ R g h

theorem State.GroupsBy.of_eq {R : Group → Group → Prop} (hr : ∀ g, R g g) {s t : State} (h : t.groups = s.groups) : s.GroupsBy R t :=
  fun i g hg => ⟨g, by rw [State.group?, h]; exact hg, hr g⟩

theorem State.GroupsBy.trans {R : Group → Group → Prop} (hr : ∀ g h k, R g h → R h k → R g k) {s t u : State} (a : s.GroupsBy R t)
    (b : t.GroupsBy R u) : s.GroupsBy R u := fun i g hg =>
  let ⟨h, ht, hgh⟩ := a i g hg
  let ⟨k, hu, hhk⟩ := b i h ht
  ⟨k, hu, hr _ _ _ hgh hhk⟩

theorem State.group?_mapGroups (s : State) {f : Group → Group} (hf : ∀ g, (f g).id = g.id) (i : GroupId) :
    (s.mapGroups f).group? i = (s.group? i).map f := by
  simp only [State.group?, State.mapGroups, List.find?_map, Function.comp_def, hf]

theorem State.GroupsBy.mapGroups {R : Group → Group → Prop} (s : State) {f : Group → Group} (hf : ∀ g, (f g).id = g.id)
    (hr : ∀ g, R g (f g)) : s.GroupsBy R (s.mapGroups f) := fun i g hg => ⟨f g, by rw [s.group?_mapGroups hf, hg]; rfl, hr g⟩

/-! ### States whose caches alone have moved -/

/-- A state without what a fetch of lines moves: caches, directories and what hangs on them. -/
def State.uncached (s : State) : State := { s.bare with dir := [] }

theorem State.keepsBytes_uncached : KeepsBytes State.uncached where
  mem _ := rfl
  hmask _ := rfl
  hole s a := State.keepsBytes_bare.hole s a
  setMem _ _ := rfl

/-- The one state is the other but for its caches, and every group stands quiet. -/
structure State.Fetched (s t : State) : Prop where
  groups : s.GroupsBy Group.Quiet t
  rest : t.uncached = s.uncached

theorem State.Fetched.of_eq {s t : State} (hg : t.groups = s.groups) (h : t.uncached = s.uncached) : s.Fetched t :=
  ⟨.of_eq Group.Quiet.refl hg, h⟩

theorem State.Fetched.refl (s : State) : s.Fetched s := .of_eq rfl rfl

theorem State.Fetched.trans {s t u : State} (a : s.Fetched t) (b : t.Fetched u) : s.Fetched u :=
  ⟨State.GroupsBy.trans (R := Group.Quiet) (fun _ _ _ => Group.Quiet.trans) a.groups b.groups, b.rest.trans a.rest⟩

theorem State.Fetched.foldl {α : Type} {f : State → α → State} (hf : ∀ (s : State) a, s.Fetched (f s a)) (l : List α) (s : State) :
    s.Fetched (l.foldl f s) := by
  induction l generalizing s with
  | nil => exact .refl s
  | cons a l ih => exact (hf s a).trans (ih _)

theorem State.Fetched.readPa {s t : State} (h : s.Fetched t) (a : Nat) : t.readPa a = s.readPa a := by
  rw [← State.keepsBytes_uncached.readPa, h.rest, State.keepsBytes_uncached.readPa]

theorem State.fetched_modCore (s : State) (c : CoreId) (f : Core → Core) : s.Fetched (s.modCore c f) :=
  .of_eq (s.modCore_groups c f) (by rw [State.uncached, State.bare, s.still_modCore]; rfl)

theorem State.fetched_poison (s : State) (l : List Poison) : s.Fetched { s with poison := l } := .of_eq rfl rfl

theorem State.fetched_fetchPoison (s : State) (d l : Nat) : s.Fetched (s.fetchPoison d l) := by
  unfold State.fetchPoison
  split
  · exact .refl s
  · exact s.fetched_poison _

theorem State.fetched_disown (s : State) (p : Nat → Bool) : s.Fetched (s.disown p) := by
  unfold State.disown
  split
  · exact .of_eq rfl rfl
  · exact .refl s

theorem Group.quiet_abort (s : State) (g : Group) (cause : Nat) (h : g.tx.isSome) : g.Quiet ((s.settleReads g).seeAbort cause 0) := by
  refine ⟨(s.steady_settleLoads _ g).trans (Group.steady_seeAbort _ _ _), fun hn => ?_⟩
  rw [hn] at h
  cases h

theorem State.fetched_abortWhere (s : State) (p : Group → Tx → Bool) (cause : Nat) : s.Fetched (s.abortWhere p cause) := by
  have htx : ∀ {α : Type} {o : Option α} {f : α → Bool}, (o.map f).getD false = true → o.isSome = true := by
    rintro α (_ | _) f h
    · cases h
    · rfl
  unfold State.abortWhere
  dsimp only
  split
  · exact .refl s
  refine .trans ?_ (.foldl (fun t c => t.fetched_modCore c _) _ _)
  refine .trans ?_ (State.fetched_disown _ _)
  have hq : ∀ (q : Group → Bool) (cs : List CoreId) (g : Group), (∀ h, q h = true → h.tx.isSome = true) →
      g.Quiet (if q g then (s.settleReads g).seeAbort cause 0
        else if cs.contains g.id.coreId && s.losesToAcquire g then (s.settleReads g).seeAbort 2 0 else g) := by
    intro q cs g hq
    split
    next h => exact g.quiet_abort s cause (hq g h)
    split
    next h => exact g.quiet_abort s 2 (htx ((Bool.and_eq_true _ _).mp h).2)
    · exact .refl g
  exact ⟨.mapGroups s (fun g => (hq _ _ g fun _ => htx).id) fun g => hq _ _ g fun _ => htx, rfl⟩

/-! ### The ways a line comes into a cache -/

theorem State.fetched_holdHome (s : State) (line : Nat) (dirty u : Bool) : s.Fetched (s.holdHome line dirty u) := by
  unfold State.holdHome
  split
  · exact .of_eq rfl rfl
  · exact .refl s

theorem State.fetched_holdRun (s : State) (a n : Nat) (dirty u : Bool) : s.Fetched (s.holdRun a n dirty u) :=
  .foldl (fun s l => s.fetched_holdHome l dirty u) _ s

theorem State.fetched_putDir (s : State) (e : DirEntry) : s.Fetched (s.putDir e) := .of_eq rfl rfl

theorem State.fetched_l2 (s : State) (l : List L2Line) : s.Fetched { s with l2 := l } := .of_eq rfl rfl

theorem State.fetched_putL2 (s : State) (d l : Nat) (st : L2State) : s.Fetched (s.putL2 d l st) := by
  unfold State.putL2
  dsimp only
  split
  · refine .trans ?_ (State.fetched_l2 _ _)
    split
    · exact .refl s
    · exact s.fetched_fetchPoison d l
  · exact .refl s

end Sys2Proof.Machine
end

section
/-! ### PREF in a replay (R162, R347, R406) -/

namespace Sys2Proof.Proofs

open Sys2Proof.Machine Sys2Proof.Slice0

/-- A group at a word that it replays for no thread, after which it gets its mask, of thread 0, back (R162, R406). -/
def replayedGroup : Machine.Group :=
  { id := ⟨0, 0, 0⟩, stage := .issuing, turn := true, v := [Vector.replicate 96 0], restore := some 1 }

/-- The state after reset with that group in focus. -/
def replayedState : State := { State.reset with groups := [replayedGroup], focus := .group replayedGroup.id }

/-- The mask that the group gets back after the word stands in s60 to s62. -/
theorem s_nextWord_replayedGroup : (replayedGroup.nextWord 1).s ≠ replayedGroup.s := by decide

/-- Refutes O19: a PREF that is replayed (R162, R406) gives its group the mask back that the replay keeps, in s60 to s62, where the
statement has PREF change no scalar register; it asks no word for `restore = none`. -/
theorem not_atomicsRecordsAndOrderingWordsIssue : ¬ Obligations.AtomicsRecordsAndOrderingWordsIssue := by
  unfold Obligations.AtomicsRecordsAndOrderingWordsIssue
  rintro ⟨-, -, h⟩
  obtain ⟨-, -, hpref⟩ := h .always 0 0 .core .rlx .l1 .lo 0 replayedState replayedGroup
  obtain ⟨t, k, -, -, hk, -, -, -, hs, -⟩ := hpref ⟨rfl, by decide⟩ rfl
  exact s_nextWord_replayedGroup (hk rfl ▸ hs)

end Sys2Proof.Proofs
end

section
/-! ### Clauses fetched and decoded (R16 to R19, R68, R70) -/

namespace Sys2Proof.Machine

open Sys2Proof.Slice0

/-! ### The fetch of a clause -/

/-- The words that stand from an address on, as fetches that change nothing read them. -/
def State.Fetches (s : State) (g : Group) (va : DWord) (ws : List Word) : Prop :=
  ∀ k w, ws[k]? = some w → s.fetchWord g (va + BitVec.ofNat 64 (4 * k)) = (.ok w, s)

theorem va_succ (va : DWord) (k : Nat) : va + BitVec.ofNat 64 (4 * (k + 1)) = va + 4 + BitVec.ofNat 64 (4 * k) := by
  rw [Nat.mul_add, Nat.add_comm (4 * k), BitVec.ofNat_add, BitVec.add_assoc]
  rfl

theorem State.Fetches.head {s : State} {g : Group} {va : DWord} {w : Word} {ws : List Word} (h : s.Fetches g va (w :: ws)) :
    s.fetchWord g va = (.ok w, s) := by
  have := h 0 w rfl
  rwa [Nat.mul_zero, BitVec.add_zero] at this

theorem State.Fetches.tail {s : State} {g : Group} {va : DWord} {w : Word} {ws : List Word} (h : s.Fetches g va (w :: ws)) :
    s.Fetches g (va + 4) ws := fun k x hx => va_succ va k ▸ h (k + 1) x hx

theorem State.fetchWords_ok {s : State} {g : Group} {va : DWord} {ws : List Word} (i : Nat) (h : s.Fetches g va ws) :
    s.fetchWords g va i ws.length = (.ok ws, s) := by
  induction ws generalizing va i with
  | nil => rfl
  | cons w ws ih => simp only [List.length_cons, State.fetchWords, h.head, ih (i + 1) h.tail]

theorem State.fetchWords_error {s : State} {g : Group} {va : DWord} {ws : List Word} {n : Nat} {e : TFail} (i : Nat)
    (h : s.Fetches g va ws) (hn : ws.length < n) (he : s.fetchWord g (va + BitVec.ofNat 64 (4 * ws.length)) = (.error e, s)) :
    s.fetchWords g va i n = (.error (i + ws.length, e), s) := by
  induction ws generalizing va i n with
  | nil =>
    obtain ⟨n, rfl⟩ := Nat.exists_eq_add_of_lt hn
    rw [List.length_nil, Nat.mul_zero, BitVec.add_zero] at he
    simp only [State.fetchWords, he, List.length_nil, Nat.add_zero]
  | cons w ws ih =>
    obtain ⟨n, rfl⟩ := Nat.exists_eq_succ_of_ne_zero (Nat.ne_of_gt (Nat.zero_lt_of_lt hn))
    rw [List.length_cons, va_succ] at he
    simp only [State.fetchWords, h.head, ih (i + 1) h.tail (Nat.lt_of_succ_lt_succ hn) he, List.length_cons]
    rw [Nat.add_right_comm, Nat.add_assoc]

theorem field_words (h : Word) : field h.toNat 28 16 = h.toNat / 2 ^ 28 := by
  have := h.isLt
  simp only [field]
  omega

theorem State.fetchClause_ok {s : State} {g : Group} {h : Word} {ws : List Word} (hn : ws.length = h.toNat / 2 ^ 28)
    (hr : s.Fetches g g.pc (h :: ws)) : s.fetchClause g = (.ok (h :: ws), s) := by
  simp only [State.fetchClause, hr.head, field_words, ← hn, State.fetchWords_ok 1 hr.tail]

theorem State.fetchClause_error {s : State} {g : Group} {ws : List Word} {e : TFail}
    (hn : ws = [] ∨ ws.length ≤ (ws.headD 0).toNat / 2 ^ 28) (hr : s.Fetches g g.pc ws)
    (he : s.fetchWord g (g.pc + BitVec.ofNat 64 (4 * ws.length)) = (.error e, s)) :
    s.fetchClause g = (.error (ws.length, e), s) := by
  cases ws with
  | nil =>
    rw [List.length_nil, Nat.mul_zero, BitVec.add_zero] at he
    simp only [State.fetchClause, he, List.length_nil]
  | cons h ws =>
    have hlen : ws.length < field h.toNat 28 16 := by
      rw [field_words]
      exact (hn.resolve_left (List.cons_ne_nil h ws))
    rw [List.length_cons, va_succ] at he
    simp only [State.fetchClause, hr.head, State.fetchWords_error 1 hr.tail hlen he, List.length_cons, Nat.add_comm]

/-- CLAUSE_FETCH of a group at a header is the fetch of its clause (R17). -/
theorem exec_clauseFetch {s : State} {g : Group} (hg : s.group? s.args.group = some g) (hst : g.status = .running)
    (hsg : g.stage = .header) (htx : g.tx = none) (hd : g.delayed = []) (hm : s.mayStart g = true) {r : Except (Nat × TFail) (List Word)}
    (hr : s.fetchClause g = (r, s)) :
    exec .clauseFetch s = match r with
      | .ok ws => .next (s.put { g with stage := .fetched, clause := { addr := g.pc, words := ws, next := 1 } })
      | .error (i, e) => .next (s.fetchFails g i e) := by
  have hat : g.atHeader = true := by simp [Group.atHeader, Group.delayedDue, hst, hsg, htx, hd]
  have hid : s.group? g.id = some g := by rw [(State.group?_some hg).2]; exact hg
  change execClauseFetch s = _
  simp only [execClauseFetch, hg, hat, hm, hr, hid, Bool.not_true, Bool.or_self, Bool.false_eq_true, if_false]
  rcases r with ⟨i, e⟩ | ws <;> rfl

/-! ### The checks of a clause's words -/

/-- A word that passes its checks and takes no literal. -/
def PlainWord (c : Cls) (w : Word) (l : Option Word) : Prop :=
  ∃ i, decodeWord w l = .ok i ∧ i.literals = 0 ∧ i.endsClause = false ∧ (i.isNop = true ∨ i.cls = some c)

/-- A word that fails its checks, of which `last` says whether it is the clause's last (R17 to R19). -/
def FailingWord (c : Cls) (w : Word) (l : Option Word) : Prop :=
  (∃ e, decodeWord w l = .error e) ∨
    ∃ i, decodeWord w l = .ok i ∧ ((i.isNop = false ∧ i.cls ≠ some c) ∨ (i.literals = 0 ∧ i.endsClause = true ∧ l ≠ none))

theorem rightClass {i : Instr} {c : Cls} (h : i.isNop = true ∨ i.cls = some c) : (!i.isNop && decide (i.cls ≠ some c)) = false := by
  rcases h with h | h <;> simp [h]

theorem badWord_cons_of_plain {c : Cls} {w : Word} {ws : List Word} (i : Nat) (h : PlainWord c w ws.head?) :
    badWord c (w :: ws) i = badWord c ws (i + 1) := by
  obtain ⟨x, hx, hl, he, hc⟩ := h
  conv_lhs => unfold badWord
  simp only [hx, rightClass hc, hl, he, Bool.false_and, Bool.false_eq_true, if_false, Nat.zero_ne_one]

theorem badWord_cons_of_failing {c : Cls} {w : Word} {ws : List Word} (i : Nat) (h : FailingWord c w ws.head?) :
    badWord c (w :: ws) i = some i := by
  rcases h with ⟨e, he⟩ | ⟨x, hx, ⟨hn, hc⟩ | ⟨hl, he, hlast⟩⟩
  · unfold badWord
    simp only [he]
  · unfold badWord
    simp only [hx, hn, hc, Bool.not_false, ne_eq, not_false_eq_true, decide_true, Bool.and_self, if_true]
  · have hne : ws.isEmpty = false := by
      cases ws with
      | nil => exact absurd rfl hlast
      | cons _ _ => rfl
    unfold badWord
    simp [hx, hl, he, hne]

/-- Words that pass their checks hold no failing word. -/
theorem badWord_of_good {c : Cls} : ∀ {ws : List Word} (i : Nat), goodWords c ws → badWord c ws i = none
  | [], _, _ => rfl
  | [w], i, ⟨x, hx, hl, hc⟩ => by
    unfold badWord
    simp only [List.head?_nil, hx, rightClass hc, hl, Bool.false_eq_true, if_false, Nat.zero_ne_one, List.isEmpty_nil,
      Bool.not_true, Bool.and_false]
    rfl
  | w :: l :: ws, i, ⟨x, hx, hc, h⟩ => by
    rcases h with ⟨hl, h⟩ | ⟨hl, he, h⟩
    · unfold badWord
      simp only [List.head?_cons, hx, rightClass hc, hl, Bool.false_eq_true, if_false, if_true]
      exact badWord_of_good (i + 2) h
    · rw [badWord_cons_of_plain i ⟨x, hx, hl, he, hc⟩]
      exact badWord_of_good (i + 1) h

/-- The first failing word after words without a literal is the one that the check names. -/
theorem badWord_of_first {c : Cls} {ws : List Word} {k : Nat} (i : Nat) (hk : k < ws.length)
    (hp : ∀ j, j < k → PlainWord c (ws.getD j 0) ws[j + 1]?) (hf : FailingWord c (ws.getD k 0) ws[k + 1]?) :
    badWord c ws i = some (i + k) := by
  induction k generalizing ws i with
  | zero =>
    obtain ⟨w, ws, rfl⟩ := List.exists_cons_of_length_pos hk
    rw [Nat.add_zero]
    refine badWord_cons_of_failing i ?_
    rw [List.head?_eq_getElem?]
    exact hf
  | succ k ih =>
    obtain ⟨w, ws, rfl⟩ := List.exists_cons_of_length_pos (Nat.zero_lt_of_lt hk)
    have h0 := hp 0 (Nat.succ_pos k)
    rw [badWord_cons_of_plain i (by rw [List.head?_eq_getElem?]; exact h0),
      ih (i + 1) (Nat.lt_of_succ_lt_succ hk) (fun j hj => hp (j + 1) (Nat.succ_lt_succ hj)) hf, Nat.add_right_comm, Nat.add_assoc]

/-- CLAUSE_DECODE of a fetched clause is its check (R17). -/
theorem exec_clauseDecode {s : State} {g : Group} (hg : s.group? s.args.group = some g) (hst : g.status = .running)
    (hsg : g.stage = .fetched) (hr : g.resume = none) :
    exec .clauseDecode s = match badClause g.clause.words with
      | some k => .next (s.raise g (illegalAt g k))
      | none => .next (s.put { g with stage := .decoded }) := by
  change execClauseDecode s = _
  simp only [execClauseDecode, hg, hst, hsg, hr, ne_eq, not_true_eq_false, or_self, if_false]
  cases badClause g.clause.words <;> rfl

end Sys2Proof.Machine

namespace Sys2Proof.Proofs

open Sys2Proof.Machine Sys2Proof.Slice0

theorem clausesAreFetchedWordByWord : ClausesAreFetchedWordByWord := by
  intro s g hg hst hsg htx hd hm reads
  exact ⟨fun h ws hn hr => exec_clauseFetch hg hst hsg htx hd hm (State.fetchClause_ok hn hr),
    fun ws code addr hn hr he => exec_clauseFetch hg hst hsg htx hd hm (State.fetchClause_error hn hr he)⟩

theorem clausesAreCheckedAtDecode : ClausesAreCheckedAtDecode := by
  intro s g h ws hg hst hsg hr hw
  rw [exec_clauseDecode hg hst hsg hr, hw]
  refine ⟨fun x hx hgood => ?_, fun e he => ?_, fun x k hx hk hp hf => ?_⟩
  · simp only [badClause, hx, badWord_of_good 1 hgood]
  · simp only [badClause, he]
  · have hlast : k + 1 < ws.length ↔ ws[k + 1]? ≠ none := by simp
    rw [hlast] at hf
    simp only [badClause, hx, badWord_of_first 1 hk hp hf, Nat.add_comm]

/-- Settles O22. -/
theorem clausesAreFetchedAndChecked : Obligations.ClausesAreFetchedAndChecked := ⟨clausesAreFetchedWordByWord, clausesAreCheckedAtDecode⟩

end Sys2Proof.Proofs
end

section
/-! ### Clauses started and groups selected (R23, R25, R159, R161, R399, R406) -/

namespace Sys2Proof.Machine

open Sys2Proof.Slice0

/-! ### What a start asks for -/

theorem Group.inSerial_eq_false {g : Group} {n : Nat} : g.inSerial n = false ↔ ∀ k, g.serial = some k → n < k.1 := by
  unfold Group.inSerial
  cases g.serial <;> simp

theorem Group.serialMet_iff {g : Group} : g.serialMet = true ↔ ∀ k, g.serial = some k → ∀ o ∈ g.out, o.seq < k.1 := by
  have h : g.serialMet = true ↔ ∀ o ∈ g.out, g.inSerial o.seq = false := by simp [Group.serialMet]
  simp only [h, Group.inSerial_eq_false]
  exact ⟨fun h k hk o ho => h o ho k hk, fun h o ho k hk => h k hk o ho⟩

theorem Group.waitMet_iff {g : Group} : g.waitMet = true ↔ ∀ c : Fin 8, g.waitMask.getLsbD c.val = true → g.dc[c] = 0 := by
  simp only [Group.waitMet, List.all_eq_true, List.mem_finRange, true_imp_iff, Bool.or_eq_true, Bool.not_eq_true', decide_eq_true_eq]
  refine forall_congr' fun c => ?_
  cases g.waitMask.getLsbD c.val <;> simp

theorem Group.mem_clearSerial {g : Group} {x : Pend} :
    x ∈ g.clearSerial.pending ↔ x ∈ g.pending ∧ ∀ k, g.serial = some k → x.seq < k.1 := by
  simp [Group.clearSerial, Group.inSerial_eq_false]

theorem Group.mem_clearPending {g : Group} {x : Pend} :
    x ∈ g.clearPending.pending ↔
      x ∈ g.pending ∧ g.waitMask.getLsbD x.ctr.val = false ∧ ∀ k, g.serial = some k → x.seq < k.1 := by
  simp [Group.clearPending, Group.inSerial_eq_false]

theorem Group.lateRecord_some {g : Group} {c : Nat} {a : DWord} (h : g.lateRec = some (c, a)) : g.lateRecord =
    { code := c % 256, write := c.testBit 15, mask := g.lateMask, addr := a, late := true, widx := 0, retpc := g.pc, retw := 0, rp := false } := by
  have hb : bitOf c 15 = c.testBit 15 := by
    rw [Nat.testBit_eq_decide_div_mod_eq, bitOf, beq_eq_decide]
  simp only [Group.lateRecord, h, hb]

theorem Group.lateRecord_none {g : Group} (h : g.lateRec = none) : g.lateRecord =
    { code := g.faultCode.toNat % 256, mask := g.lateMask, addr := g.faultAddr, late := true, widx := 0, retpc := g.pc, retw := 0,
      rp := false, raw := some g.faultCode } := by
  simp only [Group.lateRecord, h]

theorem Group.lateDue_of {g : Group} (hm : g.lateMask ≠ 0)
    (h : (∃ k ∈ g.lateCtrs, g.waitMask.getLsbD k.val = true) ∨ g.lateCtrs = []) : g.lateDue = true := by
  unfold Group.lateDue
  rcases h with ⟨k, hk, hw⟩ | h
  · have : (g.lateCtrs.any fun c => g.waitMask.getLsbD c.val || (g.serial.map fun k => decide (k.2 = c)).getD false) = true :=
      List.any_eq_true.mpr ⟨k, hk, by rw [hw, Bool.true_or]⟩
    rw [this, decide_eq_true hm, Bool.or_true, Bool.and_self]
  · rw [decide_eq_true hm, h]
    rfl

/-- What the CLAUSE_START of a group that stands before its first word does (R23, R399, R406). -/
theorem exec_clauseStart {s : State} {g : Group} (hg : s.group? s.args.group = some g) (hst : g.status = .running)
    (hsg : g.stage = .decoded) (ht : g.turn = true) (hm : s.mayStart g = true)
    (hd : (∀ d ∈ g.delayed, g.inHandler = true ∧ d.handler = false) ∨ g.resume ≠ none) :
    exec .clauseStart s = match g.resume with
      | some r => .next (if g.serialMet then s.put (g.clearSerial.continueAt r) else s)
      | none =>
        if !(g.waitMet && g.serialMet) then .next s
        else if g.lateDue then .next (s.raise g g.lateRecord)
        else
          let acq := g.acqCtrs.any fun c => g.waitMask.getLsbD c.val
          let s := s.put { g.clearPending with
            stage := .issuing, acqCtrs := g.acqCtrs.filter fun c => !g.waitMask.getLsbD c.val }
          .next (if acq then s.acquireL1 g.id.coreId .core else s) := by
  have hdue : g.delayedDue = false := by
    rcases hd with hd | hd
    · have : g.delayed.any g.delayedHere = false := by
        rw [List.any_eq_false]
        intro d hmem
        obtain ⟨h1, h2⟩ := hd d hmem
        simp [Group.delayedHere, h1, h2]
      simp [Group.delayedDue, this]
    · have : g.resume.isNone = false := by
        cases h : g.resume with
        | none => exact absurd h hd
        | some r => rfl
      simp [Group.delayedDue, this]
  change execClauseStart s = _
  simp only [execClauseStart, hg, hst, hsg, ht, hm, hdue]
  rfl

/-! ### The selection's order -/

/-- The element that stands first by its measure among those a test takes is the one found in a list in that order. -/
theorem find?_of_pairwise {α : Type} {m : α → Nat} {p : α → Bool} {l : List α} {x : α} (hl : l.Pairwise fun a b => m a ≤ m b)
    (hx : x ∈ l) (hp : p x = true) (hmin : ∀ y ∈ l, p y = true → y ≠ x → m x < m y) : l.find? p = some x := by
  induction l with
  | nil => cases hx
  | cons a l ih =>
    rw [List.pairwise_cons] at hl
    by_cases ha : p a = true
    · rw [List.find?_cons_of_pos ha]
      by_contra hne
      have hax : a ≠ x := fun h => hne (h ▸ rfl)
      have h1 := hmin a List.mem_cons_self ha hax
      have h2 := hl.1 x ((List.mem_cons.mp hx).resolve_left (Ne.symm hax))
      omega
    · rw [List.find?_cons_of_neg ha]
      refine ih hl.2 ((List.mem_cons.mp hx).resolve_left ?_) fun y hy => hmin y (List.mem_cons_of_mem a hy)
      rintro rfl
      exact ha hp

theorem State.mem_cyclic {s : State} {c : CoreId} {q cur : Nat} {g : Group} :
    g ∈ s.cyclic c q cur ↔ g ∈ s.groups ∧ g.id.coreId = c ∧ g.id.quad = q := by
  have hlt : g.place cur < 16 := Nat.mod_lt _ (by decide)
  simp [State.cyclic, hlt]

theorem State.cyclic_pairwise (s : State) (c : CoreId) (q cur : Nat) :
    (s.cyclic c q cur).Pairwise fun a b => a.place cur ≤ b.place cur := by
  unfold State.cyclic
  rw [List.pairwise_flatMap]
  refine ⟨fun i _ => ?_, ?_⟩
  · rw [List.pairwise_iff_forall_sublist]
    intro a b hab
    have ha := hab.subset (List.mem_cons_self (a := a))
    have hb := hab.subset (List.mem_cons_of_mem a (List.mem_cons_self (a := b)))
    simp only [List.mem_filter, decide_eq_true_eq] at ha hb
    exact (ha.2.trans hb.2.symm).le
  · refine List.pairwise_lt_range.imp fun {i j} hij a ha b hb => ?_
    simp only [List.mem_filter, decide_eq_true_eq] at ha hb
    omega

theorem eq_of_id_eq {s : State} {g h : Group} (hn : (s.groups.map (·.id)).Nodup) (hg : g ∈ s.groups) (hh : h ∈ s.groups) (hid : h.id = g.id) :
    h = g := List.inj_on_of_nodup_map hn hh hg hid

theorem State.group?_of_mem {s : State} {g : Group} (hn : (s.groups.map (·.id)).Nodup) (hg : g ∈ s.groups) : s.group? g.id = some g := by
  cases h : s.group? g.id with
  | none => exact absurd (List.find?_eq_none.mp h g hg) (by simp)
  | some k =>
    obtain ⟨hk, hid⟩ := State.group?_some h
    rw [eq_of_id_eq hn hg hk hid]

/-- What a selection makes of each group of the quadrant (R161, R162). -/
def Group.selected (g h : Group) (c : CoreId) (q cur : Nat) : Group :=
  if h.id = g.id then { h with turn := true, yielding := false }
  else if h.id.coreId = c ∧ h.id.quad = q then { h with turn := false, yielding := h.yielding && !decide (h.place cur < g.place cur) }
  else h

theorem Group.selected_id (g h : Group) (c : CoreId) (q cur : Nat) : (g.selected h c q cur).id = h.id := by
  unfold Group.selected
  split
  · rfl
  split <;> rfl

/-- A quadrant's current slot set. -/
def Core.select (q slot : Nat) (k : Core) : Core := { k with cur := k.cur.setIfInBounds q (slot % 64) }

/-- ISSUE_SELECT gives the turn to the first eligible group in cyclic order that does not yield (R161, R162). -/
theorem exec_issueSelect {s : State} {g : Group} (hn : s.args.n < 4) :
    let c := s.args.core
    let q := s.args.n
    let cur := (s.coreD c).cur[q]?.getD 0
    let elig := (s.cyclic c q cur).filter s.eligible
    (∀ h ∈ elig, h.turn = false) → elig.find? (fun h => !h.yielding) = some g →
    exec .issueSelect s =
      .next ((s.mapGroups fun h => g.selected h c q cur).modCore c (Core.select q g.id.slot)) := by
  intro c q cur elig ht hf
  have hq : s.args.n % 4 = s.args.n := Nat.mod_eq_of_lt hn
  have hturn : (elig.any fun g => g.turn) = false := by
    rw [List.any_eq_false]
    exact fun h hh => by simp [ht h hh]
  change execIssueSelect s = _
  unfold execIssueSelect
  simp only [hq]
  rw [if_neg (by rw [hturn]; exact Bool.false_ne_true), hf]
  rfl

end Sys2Proof.Machine

namespace Sys2Proof.Proofs

open Sys2Proof.Machine Sys2Proof.Slice0

theorem clausesStartWhenTheirWaitIsMet : ClausesStartWhenTheirWaitIsMet := by
  intro s g hg hst hsg ht hm hd done met cleared
  have hdone : g.serialMet = true ↔ done := Group.serialMet_iff
  have hmet : (g.waitMet && g.serialMet) = true ↔ met := by rw [Bool.and_eq_true, Group.waitMet_iff, hdone]
  rw [exec_clauseStart hg hst hsg ht hm hd]
  refine ⟨fun hr hn => ?_, fun hr hy hl => ?_, fun c a hr hy hl hlc hrec => ?_, fun hr hy hl hlc hrec => ?_, fun w m hr hdn => ?_,
    fun w m i hr hdn hi => ?_⟩
  · simp only [hr, eq_false_of_ne_true (fun h => hn (hmet.mp h))]
    rfl
  · have hdue : g.lateDue = false := by simp [Group.lateDue, hl]
    refine ⟨{ g.clearPending with stage := .issuing, acqCtrs := g.acqCtrs.filter fun c => !g.waitMask.getLsbD c.val }, ?_, rfl,
      fun c => by simp, fun x => Group.mem_clearPending⟩
    simp only [hr, hmet.mpr hy, hdue, List.any_eq_true, Bool.not_true, Bool.false_eq_true, if_false]
  · simp only [hr, hmet.mpr hy, Group.lateDue_of hl hlc, Group.lateRecord_some hrec]
    rfl
  · simp only [hr, hmet.mpr hy, Group.lateDue_of hl (.inr hlc), Group.lateRecord_none hrec]
    rfl
  · refine ⟨g.clearSerial.continueAt ⟨w, true, m⟩, ?_, fun x => Group.mem_clearSerial, rfl⟩
    simp only [hr, hdone.mpr hdn, if_true]
  · refine ⟨{ g.clearSerial with
        resume := none, stage := .issuing, clauseSeq := g.seq, clause := { g.clause with next := w } }, ?_,
      fun x => Group.mem_clearSerial, rfl⟩
    simp only [hr, hdone.mpr hdn, if_true]
    have hword : decodeWord (g.clearSerial.clause.words[w]?.getD 0) g.clearSerial.clause.words[w + 1]? = .ok i := hi
    simp only [Group.continueAt, hword]
    rfl

theorem selectionTakesTheNextEligibleGroup : SelectionTakesTheNextEligibleGroup := by
  intro s g hg hnd hc hq hn he hy here after hturn hmin
  obtain ⟨cur, hcur⟩ : ∃ cur, (s.coreD s.args.core).cur[s.args.n]?.getD 0 = cur := ⟨_, rfl⟩
  have hafter : ∀ h, after h = h.place cur := fun h => by
    simp only [after, hcur]
    rfl
  have hgc : g ∈ (s.cyclic s.args.core s.args.n cur).filter s.eligible := List.mem_filter.mpr ⟨State.mem_cyclic.mpr ⟨hg, hc, hq⟩, he⟩
  have hmem : ∀ h ∈ (s.cyclic s.args.core s.args.n cur).filter s.eligible, h ∈ s.groups ∧ here h ∧ s.eligible h = true := fun h hh => by
    rw [List.mem_filter, State.mem_cyclic] at hh
    exact ⟨hh.1.1, hh.1.2, hh.2⟩
  have hfind : ((s.cyclic s.args.core s.args.n cur).filter s.eligible).find? (fun h => !h.yielding) = some g := by
    refine find?_of_pairwise (m := fun h => h.place cur) (.sublist List.filter_sublist (s.cyclic_pairwise _ _ _)) hgc (by rw [hy]; rfl)
      fun h hh hhy hne => ?_
    obtain ⟨hm, hhere, hhe⟩ := hmem h hh
    rw [← hafter, ← hafter]
    exact hmin h hm hhere hhe (by simpa using hhy) fun hid => hne (eq_of_id_eq hnd hg hm hid)
  have hx := exec_issueSelect (s := s) (g := g) hn
  simp only [hcur] at hx
  have hgroup : ∀ i, (State.modCore (s.mapGroups fun h => g.selected h s.args.core s.args.n cur) s.args.core
      (Core.select s.args.n g.id.slot)).group? i =
      (s.group? i).map fun h => g.selected h s.args.core s.args.n cur := fun i => by
    rw [State.group?, State.modCore_groups]
    exact s.group?_mapGroups (fun h => g.selected_id h _ _ _) i
  refine ⟨_, hx (fun h hh => ?_) hfind, ?_, ?_, fun h hh hno => ?_, fun h hh hho hne => ?_⟩
  · obtain ⟨hm, hhere, hhe⟩ := hmem h hh
    exact hturn h hm hhere hhe
  · rw [hgroup, State.group?_of_mem hnd hg]
    simp [Group.selected, ← hy]
  · rw [State.coreD_modCore _ _ _ (Core.select s.args.n g.id.slot) fun _ => rfl, if_pos rfl, Core.select, Vector.getElem?_setIfInBounds_self_of_lt hn]
    rfl
  · rw [hgroup, State.group?_of_mem hnd hh]
    have hne : h.id ≠ g.id := fun hid => hno (by rw [eq_of_id_eq hnd hg hh hid]; exact ⟨hc, hq⟩)
    exact congrArg some ((if_neg hne).trans (if_neg hno))
  · rw [hgroup, State.group?_of_mem hnd hh]
    exact ⟨_, congrArg some ((if_neg hne).trans (if_pos hho)), rfl⟩

/-- Settles O23. -/
theorem clausesStartAndGroupsAreSelected : Obligations.ClausesStartAndGroupsAreSelected :=
  ⟨clausesStartWhenTheirWaitIsMet, selectionTakesTheNextEligibleGroup⟩

end Sys2Proof.Proofs
end

section
/-! ### Results written back and groups that end (R24, R132, R135, R173, R399) -/

namespace Sys2Proof.Machine

open Sys2Proof.Slice0

/-! ### A result's words -/

/-- A group whose vector registers alone may differ. -/
structure Group.OnlyV (g h : Group) : Prop where
  rest : h = { g with v := h.v }
  length : h.v.length = g.v.length

theorem Group.OnlyV.refl (g : Group) : g.OnlyV g := ⟨rfl, rfl⟩

theorem Group.OnlyV.trans {g h k : Group} (a : g.OnlyV h) (b : h.OnlyV k) : g.OnlyV k := by
  refine ⟨?_, b.length.trans a.length⟩
  have := b.rest
  rw [a.rest] at this
  exact this

theorem Group.onlyV_vput (g : Group) (d t : Nat) (x : Word) : g.OnlyV (g.vput d t x) := ⟨rfl, List.length_modify ..⟩

theorem Group.vget_vput (g : Group) {d t : Nat} (x : Word) (k : Nat) {u : Nat} (hd : d < g.v.length) (hu : u < 96) :
    (g.vput d t x).vget k u = if k = d ∧ u = t then x else g.vget k u := by
  unfold Group.vput Group.vget
  simp only [List.getElem?_modify]
  by_cases hk : k = d
  · subst hk
    rw [List.getElem?_eq_getElem hd]
    by_cases he : u = t
    · subst he
      simp [Vector.getElem?_setIfInBounds_self_of_lt hu]
    · simp [he, Vector.getElem?_setIfInBounds_ne (Ne.symm he)]
  · simp [hk, Ne.symm hk]

theorem Group.onlyV_writeResult (g : Group) (d n t : Nat) (ws : List Word) : g.OnlyV (g.writeResult (vRegs d n) (t, ws)) := by
  unfold Group.writeResult
  induction n generalizing g d ws with
  | zero => exact .refl g
  | succ n ih =>
    cases ws with
    | nil => exact .refl g
    | cons w ws => exact (g.onlyV_vput d t w).trans (ih _ (d + 1) ws)

/-- One thread's result: its words stand in its registers from v(d) on. -/
theorem Group.vget_writeResult (g : Group) {d n t : Nat} {ws : List Word} (k : Nat) {u : Nat} (hu : u < 96) (hn : ws.length = n)
    (hd : d + n ≤ g.v.length) :
    (g.writeResult (vRegs d n) (t, ws)).vget k u = if u = t ∧ d ≤ k ∧ k < d + n then ws.getD (k - d) 0 else g.vget k u := by
  subst hn
  induction ws generalizing g d with
  | nil =>
    rw [if_neg (by simp only [List.length_nil]; omega)]
    rfl
  | cons w ws ih =>
    rw [List.length_cons] at hd ⊢
    have hs : (g.vput d t w).v.length = g.v.length := (g.onlyV_vput d t w).length
    have hstep : g.writeResult (vRegs d (ws.length + 1)) (t, w :: ws) = (g.vput d t w).writeResult (vRegs (d + 1) ws.length) (t, ws) := rfl
    rw [hstep, ih (g.vput d t w) (by omega), g.vget_vput w k (by omega) hu]
    by_cases hut : u = t
    · by_cases hk : k = d
      · subst hk
        rw [if_neg (by omega), if_pos ⟨rfl, hut⟩, if_pos (by omega), Nat.sub_self]
        rfl
      · by_cases hr : d + 1 ≤ k ∧ k < d + 1 + ws.length
        · rw [if_pos ⟨hut, hr⟩, if_pos (by omega), show k - d = k - (d + 1) + 1 by omega]
          rfl
        · rw [if_neg (by tauto), if_neg (by tauto), if_neg (by omega)]
    · simp only [hut, false_and, and_false, if_false]

theorem Group.onlyV_writeResults (g : Group) (d n : Nat) (res : List (Nat × List Word)) :
    g.OnlyV (res.foldl (fun g r => g.writeResult (vRegs d n) r) g) := by
  induction res generalizing g with
  | nil => exact .refl g
  | cons r res ih => exact (g.onlyV_writeResult d n r.1 r.2).trans (ih _)

/-- The results of an instruction, each thread's in its own registers (R135). -/
theorem Group.vget_writeResults (g : Group) {d n : Nat} {res : List (Nat × List Word)} (k : Nat) {t : Nat} (ht : t < 96)
    (hnd : (res.map Prod.fst).Nodup) (hlen : ∀ r ∈ res, r.2.length = n) (hd : d + n ≤ g.v.length) :
    (res.foldl (fun g r => g.writeResult (vRegs d n) r) g).vget k t =
      match res.find? fun r => r.1 = t with
      | some r => if d ≤ k ∧ k < d + n then r.2.getD (k - d) 0 else g.vget k t
      | none => g.vget k t := by
  induction res generalizing g with
  | nil => rfl
  | cons r res ih =>
    obtain ⟨u, ws⟩ := r
    rw [List.map_cons, List.nodup_cons] at hnd
    have hrest := ih (g.writeResult (vRegs d n) (u, ws)) hnd.2 (fun r hr => hlen r (List.mem_cons_of_mem _ hr))
      ((g.onlyV_writeResult d n u ws).length ▸ hd)
    rw [List.foldl_cons, hrest]
    have hws : ws.length = n := hlen (u, ws) List.mem_cons_self
    by_cases hu : u = t
    · subst hu
      have hnone : res.find? (fun r => decide (r.1 = u)) = none := by
        rw [List.find?_eq_none]
        intro r hr he
        exact hnd.1 (List.mem_map.mpr ⟨r, hr, of_decide_eq_true he⟩)
      simp only [hnone, List.find?_cons, decide_true, g.vget_writeResult k ht hws hd, true_and]
    · have hsame : (g.writeResult (vRegs d n) (u, ws)).vget k t = g.vget k t := by
        rw [g.vget_writeResult k ht hws hd, if_neg fun h => hu h.1.symm]
      simp only [List.find?_cons, hu, decide_false, hsame]

/-! ### Late faults -/

/-- A group that late faults were noted in: its late mask and what reports them alone may differ. -/
def Group.OnlyLate (g h : Group) : Prop :=
  h = { g with lateMask := h.lateMask, lateCtrs := h.lateCtrs, lateRec := h.lateRec, faultCode := h.faultCode, faultAddr := h.faultAddr }

theorem Group.OnlyLate.trans {g h k : Group} (a : g.OnlyLate h) (b : h.OnlyLate k) : g.OnlyLate k := by
  unfold Group.OnlyLate at *
  rw [a] at b
  exact b

theorem Group.onlyLate_noteLate (g : Group) (c : Fin 8) (f : Nat × Nat × Nat) :
    g.OnlyLate (g.noteLate c f) ∧ (g.noteLate c f).lateMask = g.lateMask ||| BitVec.ofNat 96 (2 ^ f.1) := by
  unfold Group.noteLate Group.OnlyLate
  dsimp only
  split <;> exact ⟨rfl, rfl⟩

theorem maskBit_two_pow (x : Nat) {t : Nat} (h : t < 96) : maskBit (BitVec.ofNat 96 (2 ^ x)) t = decide (x = t) := by
  rw [maskBit, BitVec.getLsbD_ofNat, Nat.testBit_two_pow, decide_eq_true h, Bool.true_and]

theorem Group.onlyLate_noteLates (g : Group) (c : Fin 8) (code : Nat → Nat) (l : List (Nat × Nat × Nat)) :
    g.OnlyLate (l.foldl (fun h l => h.noteLate c (l.1, code l.2.1, l.2.2)) g) ∧
    ∀ t, t < 96 → maskBit (l.foldl (fun h l => h.noteLate c (l.1, code l.2.1, l.2.2)) g).lateMask t =
      (maskBit g.lateMask t || l.any fun l => l.1 = t) := by
  induction l generalizing g with
  | nil => exact ⟨rfl, fun t _ => by simp⟩
  | cons x l ih =>
    obtain ⟨h1, h2⟩ := g.onlyLate_noteLate c (x.1, code x.2.1, x.2.2)
    obtain ⟨h3, h4⟩ := ih (g.noteLate c (x.1, code x.2.1, x.2.2))
    refine ⟨h1.trans h3, fun t ht => (h4 t ht).trans ?_⟩
    have hor : ∀ a b : Mask, maskBit (a ||| b) t = (maskBit a t || maskBit b t) := fun a b => BitVec.getLsbD_or
    rw [h2, hor, maskBit_two_pow _ ht, List.any_cons, Bool.or_assoc]

/-! ### Writeback -/

theorem State.releasing_of_no_s {s : State} {c : CoreId} {sc : Scope} (f : State → State) (h : (s.coreD c).l1s = []) :
    s.releasing c sc f = f s := by
  have hd : s.dirtyS c (fun _ => true) = [] := by simp [State.dirtyS, h]
  have hb : s.releasable c sc = true := by simp [State.releasable, State.backable, hd, State.ownableAll]
  have hr : s.releaseL1 c sc = s := by simp [State.releaseL1, State.writeBackS, h]
  rw [State.releasing, hb, hr]
  rfl

theorem Group.noteAcquire_eq (g : Group) (o : Outst) : ∃ acq, g.noteAcquire o = { g with acqCtrs := acq } := by
  have hif : ∀ (b : Bool) (l : List (Fin 8)), ∃ acq, (if b then { g with acqCtrs := l } else g) = { g with acqCtrs := acq } := by
    intro b l
    cases b
    · exact ⟨g.acqCtrs, rfl⟩
    · exact ⟨l, rfl⟩
  exact hif _ _

/-- The group whose instruction has come back, with the vector registers and acquiring counters given. -/
def Group.doneWith (g : Group) (o : Outst) (v : List VReg) (acq : List (Fin 8)) : Group :=
  { g with v := v, fpsr := g.fpsr ||| BitVec.ofNat 32 o.flags.toNat, dc := g.dc.set o.ctr (g.dc[o.ctr] - 1),
           out := g.out.filter fun x => x.seq ≠ o.seq, acqCtrs := acq }

theorem Group.doneWith_of_onlyV {g k : Group} (h : g.OnlyV k) (o : Outst) (acq : List (Fin 8)) :
    ({ (k.raiseFlags o.flags).retireLong o with acqCtrs := acq } : Group) = g.doneWith o k.v acq := by
  rw [h.rest]
  rfl

/-- What a returned instruction makes of its group, before and after its late faults are noted (R24, R135, R399). -/
theorem Group.takeOut_back (g : Group) (o : Outst) {d n : Nat} (ho : o.dst = vRegs d n) (hl : ∀ l ∈ o.late, preciseCode l.2.1 = false) :
    ∃ acq, let k := g.doneWith o (o.res.foldl (fun g r => g.writeResult (vRegs d n) r) g).v acq
      k.OnlyLate (g.takeOut o) ∧
      ∀ t, t < 96 → maskBit (g.takeOut o).lateMask t = (maskBit g.lateMask t || o.late.any fun l => l.1 = t) := by
  have hkeep : (o.late.filter fun l => !preciseCode l.2.1) = o.late :=
    List.filter_eq_self.mpr fun l h => by rw [hl l h]; rfl
  obtain ⟨acq, hacq⟩ := Group.noteAcquire_eq ((g.writeOut o).retireLong o) o
  have hw : g.writeOut o = (o.res.foldl (fun g r => g.writeResult (vRegs d n) r) g).raiseFlags o.flags := by rw [Group.writeOut, ho]
  rw [hw, Group.doneWith_of_onlyV (g.onlyV_writeResults d n o.res) o acq, ← hw] at hacq
  refine ⟨acq, ?_⟩
  rw [Group.takeOut, hkeep]
  dsimp only
  rw [hacq]
  exact Group.onlyLate_noteLates _ o.ctr (fun c => if o.kind.writes then writeCode c else c) o.late

theorem State.wordDone_of_running {s : State} {g : Group} {o : Outst} (hg : s.group? g.id = some g) (hk : (g.takeOut o).status = .running) (hl : ∀ l ∈ o.late, preciseCode l.2.1 = false) : s.wordDone g.id o = s.put (g.takeOut o) := by
  have hnone : (o.late.filter fun l => preciseCode l.2.1) = [] := by
    rw [List.filter_eq_nil_iff]
    exact fun l hl' => by rw [hl l hl']; exact Bool.false_ne_true
  simp only [State.wordDone, hg, hnone, hk]
  rfl

/-! ### A group that has left its team (R132, R173) -/

theorem State.team?_some {s : State} {k : TaskKey} {lin : Nat} {u : Team} (h : s.team? k lin = some u) :
    u ∈ s.teams ∧ u.task = k ∧ u.lin = lin := by
  refine ⟨List.mem_of_find?_eq_some h, ?_⟩
  simpa using List.find?_some h

/-- No group stands in the slot, and the team stands on the core with the live groups given. -/
structure State.Left (i : GroupId) (k : TaskKey) (lin : Nat) (c : CoreId) (live : BitVec 16) (s : State) : Prop where
  gone : ∀ g ∈ s.groups, g.id ≠ i
  here : ∃ u ∈ s.teams, u.task = k ∧ u.lin = lin
  same : ∀ u ∈ s.teams, u.task = k → u.lin = lin → u.core = c ∧ u.live = live

section
variable {i : GroupId} {k : TaskKey} {lin : Nat} {c : CoreId} {live : BitVec 16}

theorem State.Left.group?_eq_none {s : State} (h : s.Left i k lin c live) : s.group? i = none :=
  List.find?_eq_none.mpr fun g hg => by simpa using h.gone g hg

theorem State.Left.team? {s : State} (h : s.Left i k lin c live) : ∃ u, s.team? k lin = some u ∧ u.core = c ∧ u.live = live := by
  obtain ⟨u, hu, hk⟩ := h.here
  have hsome : (s.team? k lin).isSome := List.find?_isSome.mpr ⟨u, hu, by simpa using hk⟩
  obtain ⟨v, hv⟩ := Option.isSome_iff_exists.mp hsome
  obtain ⟨hmem, hkey⟩ := State.team?_some hv
  exact ⟨v, hv, h.same v hmem hkey.1 hkey.2⟩

theorem State.Left.of_teams {s t : State} (h : s.Left i k lin c live) (ht : t.teams = s.teams)
    (hg : ∀ g ∈ t.groups, ∃ h ∈ s.groups, g.id = h.id) : t.Left i k lin c live where
  gone g hm := by
    obtain ⟨h', hm', he⟩ := hg g hm
    exact he ▸ h.gone h' hm'
  here := by rw [ht]; exact h.here
  same := by rw [ht]; exact h.same

theorem State.Left.of_map {s t : State} {f : Group → Group} (h : s.Left i k lin c live) (ht : t.teams = s.teams)
    (hg : t.groups = s.groups.map f) (hf : ∀ g, (f g).id = g.id) : t.Left i k lin c live :=
  h.of_teams ht fun g hm => by
    rw [hg] at hm
    obtain ⟨h', hm', rfl⟩ := List.mem_map.mp hm
    exact ⟨h', hm', hf h'⟩

theorem State.Left.of_eq {s t : State} (h : s.Left i k lin c live) (ht : t.teams = s.teams) (hg : t.groups = s.groups) :
    t.Left i k lin c live := h.of_teams ht fun g hm => ⟨g, hg ▸ hm, rfl⟩

/-- The team's own entry, put back, tells the same of it. -/
theorem State.Left.putTeam {s : State} {u : Team} (h : s.Left i k lin c live)
    (hu : u.task = k → u.lin = lin → u.core = c ∧ u.live = live) : (s.putTeam u).Left i k lin c live where
  gone := h.gone
  here := by
    obtain ⟨v, hv, hk⟩ := h.here
    refine ⟨_, List.mem_map.mpr ⟨v, hv, rfl⟩, ?_⟩
    split
    next he => exact ⟨he.1.symm.trans hk.1, he.2.symm.trans hk.2⟩
    · exact hk
  same := by
    intro v hv
    obtain ⟨w, hw, rfl⟩ := List.mem_map.mp hv
    split
    · exact hu
    · exact h.same w hw

theorem State.Left.foldl {α : Type} {f : State → α → State} {l : List α}
    (hf : ∀ s, ∀ a ∈ l, s.Left i k lin c live → (f s a).Left i k lin c live) {s : State} (h : s.Left i k lin c live) :
    (l.foldl f s).Left i k lin c live := by
  induction l generalizing s with
  | nil => exact h
  | cons a l ih => exact ih (fun s b hb => hf s b (List.mem_cons_of_mem a hb)) (hf s a List.mem_cons_self h)

theorem State.Left.wakeTeam {s : State} {u : Team} (h : s.Left i k lin c live)
    (hu : u.task = k → u.lin = lin → u.core = c ∧ u.live = live) : (s.wakeTeam u).Left i k lin c live := by
  unfold State.wakeTeam
  split
  · exact h
  · dsimp only
    refine State.Left.foldl (f := State.recomputePrio) (fun s a _ hs => hs.of_eq rfl rfl) ?_
    have hw : ((s.putTeam { u with sleep := none }).setWaiton u.task 0).Left i k lin c live := 
      (h.putTeam (u := { u with sleep := none }) hu).of_eq rfl rfl
    refine hw.of_map rfl rfl fun g => ?_
    split <;> rfl

theorem State.Left.wakeIf {s : State} (h : s.Left i k lin c live) (p : Team → Sleep → Bool) : (s.wakeIf p).Left i k lin c live :=
  .foldl (fun _ u hu hs => hs.wakeTeam (h.same u (List.mem_filter.mp hu).1)) h

theorem State.Left.forgetArrivals {s : State} (h : s.Left i k lin c live) (lv : BarLevel) (n : Nat) (p : Group → Bool) :
    (s.forgetArrivals lv n p).Left i k lin c live :=
  h.of_map rfl rfl fun g => by split <;> rfl

theorem State.Left.settleTeam {s : State} {u : Team} (h : s.Left i k lin c live)
    (hu : u.task = k → u.lin = lin → u.core = c ∧ u.live = live) (n : Fin 16) : (s.settleTeam u n).Left i k lin c live := by
  unfold State.settleTeam
  dsimp only
  split
  · exact (h.putTeam (u := { u with bars := u.bars.set n u.bars[n].complete }) hu).forgetArrivals _ _ _
  · exact h.putTeam hu

theorem State.Left.settleWide {s : State} (h : s.Left i k lin c live) (t : Task) (w : WideBar) : (s.settleWide t w).Left i k lin c live := by
  unfold State.settleWide
  dsimp only
  split
  · exact ((h.of_eq (t := State.putWide s _) rfl rfl).forgetArrivals _ _ _).wakeIf _
  · exact h.of_eq rfl rfl

theorem State.Left.settleAll {s : State} (h : s.Left i k lin c live) : (s.settleAll k lin).Left i k lin c live := by
  have hteams : ((List.finRange 16).foldl (fun s n =>
      match s.team? k lin with
      | some u => s.settleTeam u n
      | none => s) s).Left i k lin c live := by
    refine .foldl (fun s n _ hs => ?_) h
    split
    next u hu => exact hs.settleTeam (hs.same u (State.team?_some hu).1) n
    · exact hs
  unfold State.settleAll
  dsimp only
  split
  next t _ => exact .foldl (fun s w _ hs => hs.settleWide t _) hteams
  · exact hteams

end

theorem getLsbD_clearBit (live : BitVec 16) {n j : Nat} (hj : j < 16) :
    (live &&& ~~~ (BitVec.ofNat 16 (2 ^ n))).getLsbD j = (live.getLsbD j && !decide (j = n)) := by
  rw [BitVec.getLsbD_and, BitVec.getLsbD_not, BitVec.getLsbD_ofNat, Nat.testBit_two_pow, decide_eq_true hj, Bool.true_and,
    Bool.true_and, decide_eq_decide.mpr eq_comm]

/-- A group that is not its team's last leaves: its slot is free and its bit is off (R132, R170). -/
theorem State.left_removeGroup {s : State} {g : Group} {u : Team} (hu : s.team? g.task g.lin = some u)
    (hl : u.live &&& ~~~ (BitVec.ofNat 16 (2 ^ g.gidx)) ≠ 0) :
    (s.removeGroup g).Left g.id g.task g.lin u.core (u.live &&& ~~~ (BitVec.ofNat 16 (2 ^ g.gidx))) := by
  obtain ⟨hmem, htask, hlin⟩ := State.team?_some hu
  have hu' : State.team? { s with groups := s.groups.filter fun h => h.id ≠ g.id } g.task g.lin = some u := hu
  simp only [State.removeGroup, hu', if_neg hl]
  rw [htask, hlin]
  refine State.Left.settleAll ⟨fun h hh => ?_, ?_, ?_⟩
  · exact of_decide_eq_true (List.mem_filter.mp hh).2
  · refine ⟨_, List.mem_map.mpr ⟨u, hmem, rfl⟩, ?_⟩
    simp [htask, hlin]
  · intro v hv
    obtain ⟨w, hw, rfl⟩ := List.mem_map.mp hv
    split
    · exact fun _ _ => ⟨rfl, rfl⟩
    next he => exact fun hk hln => absurd ⟨hk, hln⟩ he

theorem exec_groupEnd {s : State} {g : Group} (hg : s.group? s.args.group = some g) (hst : g.status = .ending) (hq : g.quiet = true)
    (hl : g.lateMask = 0) (hs : (s.coreD g.id.coreId).l1s = []) : exec .groupEnd s = .next (s.removeGroup g) := by
  change execGroupEnd s = _
  simp only [execGroupEnd, hg, hst, hq, hl, State.releasing_of_no_s _ hs]
  rfl

theorem exec_resultWriteback {s : State} {g : Group} {o : Outst} (hg : s.group? s.args.group = some g)
    (ho : g.out.find? (fun x => x.seq = s.args.k ∧ x.ready = true ∧ x.todo = [] ∧ x.held = []) = some o)
    (hc : o.kind = .ctxsv → (s.coreD g.id.coreId).l1s = []) : exec .resultWriteback s = .next (s.wordDone g.id o) := by
  change execResultWriteback s = _
  simp only [execResultWriteback, hg, ho]
  split
  next h => rw [State.releasing_of_no_s _ (hc h)]
  · rfl

end Sys2Proof.Machine

namespace Sys2Proof.Proofs

open Sys2Proof.Machine Sys2Proof.Slice0

theorem resultsAreWrittenForTheirThreads : ResultsAreWrittenForTheirThreads := by
  intro s g o n hg hst hfind hdst hctx hnd hlen hlate hd
  have hid : s.group? g.id = some g := by rw [(State.group?_some hg).2]; exact hg
  have hprec : ∀ l ∈ o.late, preciseCode l.2.1 = false := fun l hl => by
    obtain ⟨h1, h2⟩ := hlate l hl
    simp [preciseCode, cCell, cLaunch, h1, h2]
  obtain ⟨acq, honly, hmask⟩ := g.takeOut_back o hdst hprec
  have hdone : s.wordDone g.id o = s.put (g.takeOut o) := State.wordDone_of_running hid (by rw [honly]; exact hst) hprec
  refine ⟨g.takeOut o, ?_, fun k t ht => ?_, ?_, ?_, ?_, hmask, ?_, ?_⟩
  · rw [exec_resultWriteback hg hfind hctx, hdone]
  · have hv : (g.takeOut o).vget k t = (o.res.foldl (fun g r => g.writeResult (vRegs o.d n) r) g).vget k t := by
      rw [honly]
      rfl
    exact hv.trans (g.vget_writeResults k ht hnd hlen hd)
  all_goals rw [honly]
  · rfl
  · rfl
  · rfl
  · exact congrArg (g.fpsr ||| ·) (BitVec.ofNat_toNat 32 o.flags)
  · rfl

theorem groupEndGivesTheSlotBack : GroupEndGivesTheSlotBack := by
  intro s g u hg hst hout hstores hposts hsets hlate hs hu hgi hnd hex
  obtain ⟨i, hi, hne, hlive⟩ := hex
  have hq : g.quiet = true := by simp [Group.quiet, hout, hstores, hposts, hsets]
  have hl : u.live &&& ~~~ (BitVec.ofNat 16 (2 ^ g.gidx)) ≠ 0 := fun h => by
    have hbit := getLsbD_clearBit u.live (n := g.gidx) hi
    rw [h, hlive] at hbit
    simp [hne] at hbit
  have hleft := State.left_removeGroup hu hl
  obtain ⟨v, hv, hc, hvl⟩ := hleft.team?
  exact ⟨_, v, exec_groupEnd hg hst hq hlate hs, hleft.group?_eq_none, hv, hc, fun j hj => by rw [hvl, getLsbD_clearBit _ hj]⟩

/-- Settles O24. -/
theorem resultsAreWrittenAndEndedGroupsLeave : Obligations.ResultsAreWrittenAndEndedGroupsLeave :=
  ⟨resultsAreWrittenForTheirThreads, groupEndGivesTheSlotBack⟩

end Sys2Proof.Proofs
end

section
/-! ### Accesses and their checks (R30 to R32, R77, R134, R137, R278, R389 to R391) -/

namespace Sys2Proof.Machine

open Sys2Proof.Slice0

/-! ### Shared, global and record addresses -/

theorem State.access_sh_segment {s : State} {g : Group} {o size : Nat} (t : Nat) (need : Need)
    (h : 2 ^ 24 ≤ o ∨ s.clusterSize g ≤ o / 524288 ∨ g.seg[1].limit.toNat < o % 524288 + size) :
    s.access g .sh o size t need = (.error (.fault 0x05 ((g.seg[1].base.toNat + o % 524288) % 2 ^ 64)), s) := by
  have hbad : 2 ^ 24 ≤ o ∨ s.clusterSize g ≤ field o 19 32 ∨ g.seg[1].limit.toNat < o % 524288 + size := by
    simp only [field]
    omega
  exact if_pos hbad

theorem State.access_sh {s : State} {g : Group} {o size : Nat} (t : Nat) (need : Need) (ho : o < 2 ^ 24)
    (hk : o / 524288 < s.clusterSize g) (hl : o % 524288 + size ≤ g.seg[1].limit.toNat) :
    let x := g.seg[1].base.toNat + o % 524288
    let k := s.clusterSize g
    s.access g .sh o size t need = if o % size ≠ 0 then (.error (.fault 0x04 x), s) else
      (.ok (x, [⟨if o / 524288 = g.lin % k then .sh g.id.die g.id.core x else .member g.task (g.lin / k * k + o / 524288) x, size, .d, none⟩]), s) := by
  have hm : field o 19 32 = o / 524288 := by
    simp only [field]
    omega
  have hok : ¬ (2 ^ 24 ≤ o ∨ s.clusterSize g ≤ field o 19 32 ∨ g.seg[1].limit.toNat < o % 524288 + size) := by
    rw [hm]
    omega
  intro x k
  refine (if_neg hok).trans ?_
  rw [hm]
  rfl

theorem State.access_gl_segment {s : State} {g : Group} {o size : Nat} (t : Nat) (need : Need)
    (h : 2 ^ 64 ≤ o ∨ g.seg[0].limit.toNat < o + size ∨ canonical (g.seg[0].base.toNat + o) = false) :
    s.access g .gl o size t need = (.error (.fault 0x05 ((g.seg[0].base.toNat + o) % 2 ^ 64)), s) := if_pos h

theorem State.access_cn_writes {s : State} {g : Group} {need : Need} (o size t : Nat) (h : need.writes = true) :
    s.access g .cn o size t need = (.error (.fault 0x05 ((g.seg[2].base.toNat + o) % 2 ^ 64)), s) := if_pos (.inl h)

/-- A translated access of one piece, or the fault of its page. -/
def pieceAt (va : Nat) (r : Except TFail Piece × State) : Except TFail (Nat × List Piece) × State :=
  match r with
  | (.ok p, s) => (.ok (va, [p]), s)
  | (.error e, s) => (.error e, s)

/-- An access of gl or cn that passes the checks before translation: what its page gives. -/
theorem State.access_mapped {s : State} {g : Group} {seg : Seg} {o size : Nat} (t : Nat) {need : Need}
    (hseg : (seg = .gl ∧ o < 2 ^ 64) ∨ (seg = .cn ∧ o < 2 ^ 32 ∧ need.writes = false)) :
    let r := if seg = .gl then g.seg[0] else g.seg[2]
    let va := r.base.toNat + o
    o + size ≤ r.limit.toNat → canonical va = true →
    s.access g seg o size t need =
      if va % size ≠ 0 then (.error (.fault 0x04 va), s) else pieceAt va (s.xlatPiece g va size need) := by
  intro r va hl hc
  rcases hseg with ⟨rfl, ho⟩ | ⟨rfl, ho, hw⟩
  · have hok : ¬ (2 ^ 64 ≤ o ∨ g.seg[0].limit.toNat < o + size ∨ canonical va = false) := by
      rw [hc]
      rintro (h | h | h)
      · exact absurd h (Nat.not_le.mpr ho)
      · exact absurd h (Nat.not_lt.mpr hl)
      · cases h
    exact if_neg hok
  · have hok : ¬ (need.writes = true ∨ 2 ^ 32 ≤ o ∨ g.seg[2].limit.toNat < o + size ∨ canonical va = false) := by
      rw [hc, hw]
      rintro (h | h | h | h)
      · cases h
      · exact absurd h (Nat.not_le.mpr ho)
      · exact absurd h (Nat.not_lt.mpr hl)
      · cases h
    exact if_neg hok

/-! ### What a cached page gives -/

theorem grants_iff {pte : DWord} {need : Need} : grants pte need = true ↔ permits pte need := by
  cases need <;> simp [grants, permits, bitOf_eq_getLsbD]

theorem acDt_eq (need : Need) : BitVec.ofNat 64 (acDt need) = leafMarks need := by
  cases need <;> rfl

theorem pteFrame_eq (pte : DWord) : pteFrame pte = pte.toNat % 2 ^ 40 * 4096 := by
  simp only [pteFrame, field, Nat.pow_zero, Nat.div_one]

theorem pteClass_eq (pte : DWord) :
    pteClass pte = if pte.toNat / 2 ^ 60 % 4 = 0 then .d else if pte.toNat / 2 ^ 60 % 4 = 1 then .s else .u := by
  unfold pteClass field
  split
  next h => rw [if_pos h]
  next h => rw [if_neg (by omega), if_pos h]
  next h0 h1 => rw [if_neg h0, if_neg h1]

/-- A page that serves an access gives it the bytes of its frame. -/
theorem State.pageCheck_of_serves {s : State} {p : Page} {va : Nat} {need : Need} (h : pageServes s p va need) :
    s.pageCheck p va need = .ok (p.at va) ∧
    ∀ n, (⟨.pa (p.at va).pa, n, (p.at va).cls, (p.at va).sparse⟩ : Piece) = pagePiece p va n := by
  obtain ⟨hs, hp, hl⟩ := h
  have hb : bitOf p.pte.toNat 57 = false := by rw [bitOf_eq_getLsbD, hs]
  have hpa : (p.at va).pa = p.pte.toNat % 2 ^ 40 * 4096 + (va - p.base) := by
    simp only [Page.at, hb, Bool.false_eq_true, if_false, pteFrame_eq]
  have hsp : (p.at va).sparse = none := by simp only [Page.at, hb, Bool.false_eq_true, if_false]
  refine ⟨?_, fun n => ?_⟩
  · unfold State.pageCheck
    dsimp only
    rw [grants_iff.mpr hp, hsp, hpa, hl]
    rfl
  · rw [hpa, hsp, pagePiece, ← pteClass_eq]
    rfl

theorem State.pageCheck_protection {s : State} {p : Page} (va : Nat) {need : Need} (h : ¬ permits p.pte need) :
    s.pageCheck p va need = .error .protection := by
  have hg : grants p.pte need = false := Bool.eq_false_iff.mpr fun hg => h (grants_iff.mp hg)
  simp [State.pageCheck, hg]

theorem State.pageCheck_linkLost {s : State} {p : Page} {va : Nat} {need : Need} (h : permits p.pte need) (hs : p.pte.getLsbD 57 = false)
    (hl : s.linkUp (p.pte.toNat % 2 ^ 40 * 4096 + (va - p.base)) = false) : s.pageCheck p va need = .error .linkLost := by
  have hb : bitOf p.pte.toNat 57 = false := by rw [bitOf_eq_getLsbD, hs]
  have hpa : (p.at va).pa = p.pte.toNat % 2 ^ 40 * 4096 + (va - p.base) := by
    simp only [Page.at, hb, Bool.false_eq_true, if_false, pteFrame_eq]
  have hsp : (p.at va).sparse = none := by simp only [Page.at, hb, Bool.false_eq_true, if_false]
  unfold State.pageCheck
  dsimp only
  rw [grants_iff.mpr h, hsp, hpa, hl]
  rfl

section
variable {s : State} {g : Group} {p : Page} {va : Nat} {need : Need}

theorem State.xlatPiece_of_ready (n : Nat) (h : tlbReady s g p va need) : s.xlatPiece g va n need = (.ok (pagePiece p va n), s) := by
  obtain ⟨hc, hserve, hmark⟩ := h
  obtain ⟨hok, hpiece⟩ := State.pageCheck_of_serves hserve
  simp only [State.xlatPiece, State.translate, State.translateBy, hc, hok, acDt_eq, hmark, if_true, hpiece]

theorem State.xlatPiece_protection (n : Nat) (hc : s.cached g.id.coreId g.ctx va = some p) (h : ¬ permits p.pte need) :
    s.xlatPiece g va n need = (.error (.fault 0x07 va), s) := by
  simp only [State.xlatPiece, State.translate, State.translateBy, hc, State.pageCheck_protection va h]
  rfl

theorem State.xlatPiece_linkLost (n : Nat) (hc : s.cached g.id.coreId g.ctx va = some p) (h : permits p.pte need)
    (hs : p.pte.getLsbD 57 = false) (hl : s.linkUp (p.pte.toNat % 2 ^ 40 * 4096 + (va - p.base)) = false) :
    s.xlatPiece g va n need = (.error (.fault 0x09 va), s) := by
  simp only [State.xlatPiece, State.translate, State.translateBy, hc, State.pageCheck_linkLost h hs hl]
  rfl

end

/-! ### The bytes of a number -/

theorem bytesToNat_lt (bs : List Byte) : bytesToNat bs < 256 ^ bs.length := by
  induction bs with
  | nil => exact Nat.one_pos
  | cons b bs ih =>
    have := b.isLt
    rw [bytesToNat, List.length_cons, Nat.pow_succ]
    omega

theorem natToBytes_bytesToNat (bs : List Byte) : natToBytes bs.length (bytesToNat bs) = bs := by
  induction bs with
  | nil => rfl
  | cons b bs ih =>
    have hb := b.isLt
    have hd : (b.toNat + 256 * bytesToNat bs) / 256 = bytesToNat bs := by omega
    have hm : BitVec.ofNat 8 (b.toNat + 256 * bytesToNat bs) = b := by
      apply BitVec.eq_of_toNat_eq
      rw [BitVec.toNat_ofNat]
      omega
    rw [bytesToNat, List.length_cons, natToBytes, hd, hm, ih]

theorem natToBytes_paNat (s : State) (a : Nat) : natToBytes 8 (BitVec.ofNat 64 (s.paNat a 8)).toNat = s.paBytes a 8 := by
  have hl : (s.paBytes a 8).length = 8 := by simp [State.paBytes]
  have hlt := bytesToNat_lt (s.paBytes a 8)
  rw [hl] at hlt
  have h := natToBytes_bytesToNat (s.paBytes a 8)
  rw [hl] at h
  rw [BitVec.toNat_ofNat, State.paNat, Nat.mod_eq_of_lt (by simpa using hlt), h]

/-- A byte written over itself changes nothing that is read. -/
theorem State.readPa_writePa_same {s : State} (h : s.mem.wf = true) (a x : Nat) : (s.writePa a (s.readPa a)).readPa x = s.readPa x := by
  unfold State.writePa
  split
  · rfl
  next hole =>
    have ha : s.readPa a = s.mem.read (s.cellOf a) := if_neg hole
    have hmem : (s.mem.write (s.cellOf a) (s.readPa a)).read (s.cellOf x) = s.mem.read (s.cellOf x) := by
      rw [Memory.read_write h, ha]
      split
      next he => rw [he]
      · rfl
    unfold State.readPa at hmem ⊢
    exact congrArg (fun b => if s.windowHole x then 0 else b) hmem

theorem State.writePa_wf {s : State} (h : s.mem.wf = true) (a : Nat) (v : Byte) : (s.writePa a v).mem.wf = true := by
  unfold State.writePa
  split
  · exact h
  · exact Memory.write_wf h _ _

theorem State.readPa_writePaBytes_same {s : State} (h : s.mem.wf = true) (a x : Nat) (bs : List Byte)
    (hb : ∀ i b, bs[i]? = some b → s.readPa (a + i) = b) : (s.writePaBytes a bs).readPa x = s.readPa x := by
  induction bs generalizing s a with
  | nil => rfl
  | cons b bs ih =>
    have h0 : s.readPa a = b := hb 0 b rfl
    have hsame : ∀ y, (s.writePa a b).readPa y = s.readPa y := fun y => h0 ▸ State.readPa_writePa_same h a y
    refine (ih (State.writePa_wf h a b) (a + 1) fun i c hc => ?_).trans (hsame x)
    rw [hsame, Nat.add_assoc, Nat.add_comm 1]
    exact hb (i + 1) c hc

theorem State.getElem?_paBytes {s : State} {a n i : Nat} {b : Byte} (h : (s.paBytes a n)[i]? = some b) : s.readPa (a + i) = b := by
  induction n generalizing a i with
  | zero => cases h
  | succ n ih =>
    cases i with
    | zero => exact Option.some.inj h
    | succ i =>
      rw [Nat.add_comm i, ← Nat.add_assoc]
      exact ih h

theorem State.readPa_writePaBytes_paBytes {s : State} (h : s.mem.wf = true) (a n x : Nat) :
    (s.writePaBytes a (s.paBytes a n)).readPa x = s.readPa x :=
  State.readPa_writePaBytes_same h a x _ fun _ _ => State.getElem?_paBytes

/-! ### A walk -/

/-- A state without what translations and their marks move beside memory. -/
def State.untranslated (s : State) : State := { s.still with dieTlb := Vector.replicate 8 [] }

theorem State.keepsBytes_untranslated : KeepsBytes State.untranslated where
  mem _ := rfl
  hmask _ := rfl
  hole s a := State.keepsBytes_still.hole s a
  setMem _ _ := rfl

theorem State.untranslated_tlbFill (s : State) (c : CoreId) (ctx : Nat) (p : Page) :
    (s.tlbFill c ctx p).untranslated = s.untranslated := by
  change ({ (s.modCore c fun k => { k with tlb := tlbPut coreTlbSize k.tlb ctx p }).still with dieTlb := _ } : State) = _
  rw [s.still_modCore]
  rfl

/-- A walk that ends at a page has read the page's entry in memory (R388). -/
theorem State.pte_of_walkFrom {s : State} {va : Nat} {p : Page} {ls : List (Nat × Nat × Option Nat)} {table : Nat}
    (h : s.walkFrom va ls table = .page p) : p.pte = BitVec.ofNat 64 (s.paNat p.entry 8) := by
  induction ls generalizing table with
  | nil => cases h
  | cons l ls ih =>
    obtain ⟨lo, n, leaf⟩ := l
    simp only [State.walkFrom] at h
    split at h
    · cases h
    split at h
    · split at h
      · split at h
        · cases h
        · cases h
          rfl
      · cases h
    split at h
    · cases h
    · exact ih h

theorem State.pte_of_walk {s : State} {ctx va : Nat} {p : Page} (h : s.walk ctx va = .page p) :
    p.pte = BitVec.ofNat 64 (s.paNat p.entry 8) := by
  unfold State.walk at h
  split at h
  · exact State.pte_of_walkFrom h
  · cases h

theorem State.untranslated_of_still {s t : State} (h : t.still = s.still) : t.untranslated = s.untranslated := by
  unfold State.untranslated
  rw [h]

theorem State.linkUp_tlbFill (s : State) (c : CoreId) (ctx : Nat) (p : Page) (a : Nat) : (s.tlbFill c ctx p).linkUp a = s.linkUp a := by
  simp [State.tlbFill, State.linkUp, State.anyUa]

theorem State.readPa_of_untranslated {s t : State} (h : t.untranslated = s.untranslated) (x : Nat) : t.readPa x = s.readPa x := by
  rw [← State.keepsBytes_untranslated.readPa, h, State.keepsBytes_untranslated.readPa]

theorem State.paNat_of_untranslated {s t : State} (h : t.untranslated = s.untranslated) (a n : Nat) : t.paNat a n = s.paNat a n := by
  have hb : ∀ a, t.paBytes a n = s.paBytes a n := by
    induction n with
    | zero => exact fun a => rfl
    | succ n ih => exact fun a => by rw [State.paBytes, State.readPa_of_untranslated h, ih]; rfl
  rw [State.paNat, hb, State.paNat]

theorem State.markLeaf_eq {s : State} {p : Page} (need : Need) (h : p.pte = BitVec.ofNat 64 (s.paNat p.entry 8)) :
    s.markLeaf p need = if p.pte ||| leafMarks need = p.pte then s else
      s.deviceWrite none (.pa p.entry) (natToBytes 8 (p.pte ||| leafMarks need).toNat) := by
  unfold State.markLeaf
  rw [← h, acDt_eq]
  exact if_congr eq_comm rfl rfl

/-- A walk to a page that serves an access marks its leaf and fills the translation caches, and no other byte changes. -/
theorem State.xlatPiece_of_walked {s : State} {g : Group} {p : Page} {va : Nat} {need : Need} (n : Nat) (h : walkedTo s g p va)
    (hserve : pageServes s p va need) (hw : s.mem.wf = true) :
    ∃ u, s.xlatPiece g va n need = (.ok (pagePiece p va n), u) ∧
      wroteBytes s u p.entry (some (natToBytes 8 (p.pte ||| leafMarks need).toNat)) := by
  obtain ⟨hc, hwalk⟩ := h
  have hpte := State.pte_of_walk hwalk
  have hfill := s.untranslated_tlbFill g.id.coreId g.ctx p
  generalize ht : s.tlbFill g.id.coreId g.ctx p = t at hfill
  have hserve' : pageServes t p va need := ⟨hserve.1, hserve.2.1, by rw [← ht, State.linkUp_tlbFill]; exact hserve.2.2⟩
  obtain ⟨hok, hpiece⟩ := State.pageCheck_of_serves hserve'
  have hmark := State.markLeaf_eq (s := t) (p := p) need (by rw [State.paNat_of_untranslated hfill]; exact hpte)
  by_cases hold : p.pte ||| leafMarks need = p.pte
  · refine ⟨t, ?_, fun x => ?_⟩
    · simp only [State.xlatPiece, State.translate, State.translateBy, hc, hwalk, ht, hok, acDt_eq, hold, if_true, hpiece]
    · rw [hold, hpte, natToBytes_paNat, State.readPa_of_untranslated hfill]
      exact (State.readPa_writePaBytes_paBytes hw p.entry 8 x).symm
  · rw [if_neg hold] at hmark
    refine ⟨(t.deviceWrite none (.pa p.entry) (natToBytes 8 (p.pte ||| leafMarks need).toNat)).tlbFill g.id.coreId g.ctx
      { p with pte := p.pte ||| leafMarks need }, ?_, fun x => ?_⟩
    · simp only [State.xlatPiece, State.translate, State.translateBy, hc, hwalk, ht, hok, acDt_eq, hold, if_true, if_false, hpiece, hmark]
    · have e := State.keepsBytes_untranslated
      rw [State.readPa_of_untranslated ((State.untranslated_tlbFill _ _ _ _).trans (State.untranslated_of_still (t.still_deviceWrite _ _ _))),
        ← e.readPa, e.writePaBytes, hfill, ← e.writePaBytes, e.readPa]

/-! ### Local accesses -/

theorem State.xlatPieces_of_ready {s : State} {g : Group} {need : Need} (n : Nat) {ps : Nat → Page} {word : Nat → Nat} (is : List Nat)
    (h : ∀ i ∈ is, tlbReady s g (ps i) (word i) need) :
    s.xlatPieces g n need (is.map word) = (.ok (is.map fun i => pagePiece (ps i) (word i) n), s) := by
  induction is with
  | nil => rfl
  | cons i is ih =>
    simp only [List.map_cons, State.xlatPieces, State.xlatPiece_of_ready n (h i List.mem_cons_self),
      ih fun j hj => h j (List.mem_cons_of_mem i hj)]

/-- The first word that its page does not give is the fault of the access. -/
theorem State.xlatPieces_error {s : State} {g : Group} {need : Need} (n : Nat) {ps : Nat → Page} {word : Nat → Nat} (is js : List Nat)
    {k : Nat} {e : TFail} (h : ∀ i ∈ is, tlbReady s g (ps i) (word i) need) (he : s.xlatPiece g (word k) n need = (.error e, s)) :
    s.xlatPieces g n need ((is ++ k :: js).map word) = (.error e, s) := by
  induction is with
  | nil => simp only [List.nil_append, List.map_cons, State.xlatPieces, he]
  | cons i is ih =>
    simp only [List.cons_append, List.map_cons, State.xlatPieces, State.xlatPiece_of_ready n (h i List.mem_cons_self),
      ih fun j hj => h j (List.mem_cons_of_mem i hj)]

/-- A translated access of several pieces, or the fault of the first page that gives none. -/
def piecesAt (va : Nat) (r : Except TFail (List Piece) × State) : Except TFail (Nat × List Piece) × State :=
  match r with
  | (.ok ps, s) => (.ok (va, ps), s)
  | (.error e, s) => (.error e, s)

/-- The 4-byte words of an access, or the one that is its part. -/
def wordCount (size : Nat) : Nat := if size ≤ 4 then 1 else size / 4

theorem wordCount_eq (size : Nat) : max 1 (size / 4) = wordCount size := by
  unfold wordCount
  split <;> omega

/-- The addresses of a local access's words (R32). -/
def loWords (g : Group) (o t i : Nat) : Nat := loAddr g.seg[3].base.toNat (o + 4 * i) t

section
variable {s : State} {g : Group} {o size t : Nat} {need : Need}

theorem all_canonical_loWords : ((List.range (max 1 (size / 4))).map fun i => loAddr g.seg[3].base.toNat (o + 4 * i) t).all canonical = false ↔
    ∃ i, i < wordCount size ∧ canonical (loWords g o t i) = false := by
  rw [wordCount_eq]
  simp [loWords]

theorem State.access_lo_segment
    (h : 2 ^ 32 ≤ o ∨ g.seg[3].limit.toNat < o + size ∨ ∃ i, i < wordCount size ∧ canonical (loWords g o t i) = false) :
    s.access g .lo o size t need = (.error (.fault 0x05 (loWords g o t 0 % 2 ^ 64)), s) :=
  if_pos (h.imp_right fun h => h.imp_right all_canonical_loWords.mpr)

theorem State.access_lo (ho : o < 2 ^ 32) (hl : o + size ≤ g.seg[3].limit.toNat)
    (hc : ∀ i, i < wordCount size → canonical (loWords g o t i) = true) :
    s.access g .lo o size t need = if o % size ≠ 0 then (.error (.fault 0x04 (loWords g o t 0)), s) else
      piecesAt (loWords g o t 0) (s.xlatPieces g (min size 4) need ((List.range (wordCount size)).map (loWords g o t))) := by
  have hok : ¬ (2 ^ 32 ≤ o ∨ g.seg[3].limit.toNat < o + size ∨
      ((List.range (max 1 (size / 4))).map fun i => loAddr g.seg[3].base.toNat (o + 4 * i) t).all canonical = false) := by
    rw [all_canonical_loWords]
    rintro (h | h | ⟨i, hi, h⟩)
    · exact absurd h (Nat.not_le.mpr ho)
    · exact absurd h (Nat.not_lt.mpr hl)
    · rw [hc i hi] at h
      cases h
  refine (if_neg hok).trans ?_
  rw [wordCount_eq]
  rfl

end

end Sys2Proof.Machine

namespace Sys2Proof.Proofs

open Sys2Proof.Machine Sys2Proof.Slice0

theorem sharedAccessesAreChecked : SharedAccessesAreChecked := by
  intro s g o size t need _ base limit x
  refine ⟨State.access_sh_segment t need, fun ho hk hl => ⟨fun hm => ?_, fun hm hown => ?_, fun hm hown => ?_⟩⟩
  all_goals rw [State.access_sh t need ho hk hl]
  · exact if_pos hm
  · rw [if_neg (not_not.mpr hm), if_pos hown]
  · rw [if_neg (not_not.mpr hm), if_neg hown]

theorem globalAccessesAreChecked : GlobalAccessesAreChecked := by
  intro s g o size t need va
  refine ⟨State.access_gl_segment t need, fun ho hl hc hm => ?_, State.access_cn_writes o size t⟩
  exact (State.access_mapped t (.inl ⟨rfl, ho⟩) hl hc).trans (if_pos hm)

theorem mappedAccessesReachTheirBytes : MappedAccessesReachTheirBytes := by
  intro s g o size t need _
  refine ⟨?_, ?_⟩
  · intro seg hseg r va hl hc hm p
    rw [State.access_mapped t hseg hl hc, if_neg (not_not.mpr hm)]
    refine ⟨fun h => ?_, fun h hserve hw => ?_, fun hcached h => ?_, fun hcached h hs hlink => ?_⟩
    · rw [State.xlatPiece_of_ready size h]
      rfl
    · obtain ⟨u, hu, hwrote⟩ := State.xlatPiece_of_walked size h hserve hw
      exact ⟨u, by rw [hu]; rfl, hwrote⟩
    · rw [State.xlatPiece_protection size hcached h]
      rfl
    · rw [State.xlatPiece_linkLost size hcached h hs hlink]
      rfl
  intro base word n
  refine ⟨State.access_lo_segment, fun ho hl hc => ?_⟩
  rw [State.access_lo ho hl hc]
  refine ⟨fun hm => if_pos hm, fun hm ps => ?_⟩
  rw [if_neg (not_not.mpr hm)]
  refine ⟨fun h => ?_, fun k hk h hcached hp => ?_⟩
  · rw [State.xlatPieces_of_ready (word := loWords g o t) (min size 4) (List.range (wordCount size)) fun i hi => h i (List.mem_range.mp hi)]
    rfl
  · obtain ⟨m, hm⟩ := Nat.exists_eq_add_of_lt hk
    have hrange : List.range (wordCount size) = List.range k ++ k :: (List.range m).map fun j => k + (j + 1) := by
      rw [show wordCount size = k + (m + 1) from hm, List.range_add, List.range_succ_eq_map, List.map_cons, List.map_map]
      rfl
    rw [hrange, State.xlatPieces_error (word := loWords g o t) (min size 4) _ _ (fun i hi => h i (List.mem_range.mp hi))
      (State.xlatPiece_protection (min size 4) hcached hp)]
    rfl

theorem recordAddressesAreChecked : RecordAddressesAreChecked := by
  intro s u g seg a size t cells args o va
  refine ⟨fun hseg => ?_, fun hseg ho hl hc => ?_⟩
  · cases seg with
    | gl => exact absurd rfl hseg
    | sh => rfl
    | cn => rfl
    | lo => rfl
  subst hseg
  have hacc := State.access_mapped (s := s) (g := g) t (need := .both) (.inl ⟨rfl, ho⟩) hl hc
  refine ⟨fun hm => ?_, fun p hm hx => ?_⟩
  · have herr : s.access g .gl (g.offset .gl a t 0) size t .both = (.error (.fault 0x04 va), s) := hacc.trans (if_pos hm)
    simp only [homeCheck, herr]
  have hok : s.access g .gl o size t .both = (.ok (va, [p]), u) := by
    refine (hacc.trans (if_neg (not_not.mpr hm))).trans ?_
    change pieceAt va (s.xlatPiece g va size .both) = _
    rw [hx]
    rfl
  replace hok : s.access g .gl (g.offset .gl a t 0) size t .both = (.ok (va, [p]), u) := hok
  refine ⟨fun x hp hfar => ?_, fun x y z hp hh hcap hy => ?_⟩
  · have hany : (isHost x || isCap x) = true := (Bool.or_eq_true _ _).mpr hfar
    simp only [homeCheck, hok, List.any_cons, hp, hany]
    rfl
  · simp only [homeCheck, hok, List.any_cons, List.any_nil, hp, hh, hcap, hy]
    cases cells <;> cases y.cells <;> rfl

/-- Settles O17. -/
theorem accessesAreChecked : Obligations.AccessesAreChecked :=
  ⟨sharedAccessesAreChecked, globalAccessesAreChecked, mappedAccessesReachTheirBytes, recordAddressesAreChecked⟩

end Sys2Proof.Proofs
end

section
/-! ### What a write of the device's memory leaves as it was (R240, R276, R282, R325) -/

namespace Sys2Proof.Machine

open Sys2Proof.Slice0

/-- Groups stand steady, shared stores as they were, and of the L1s' S bytes at most clean ones have left. -/
structure State.Mild (s t : State) : Prop where
  groups : s.GroupsBy Group.Steady t
  shared : ∀ c, (t.coreD c).shared = (s.coreD c).shared
  l1s : ∀ c, (t.coreD c).l1s ⊆ (s.coreD c).l1s
  dirty : ∀ c, ∀ y ∈ (s.coreD c).l1s, y.dirty = true → y ∈ (t.coreD c).l1s

theorem State.coreD_of_cores {s t : State} (h : t.cores = s.cores) (c : CoreId) : t.coreD c = s.coreD c := by
  rw [State.coreD, State.core?, h]
  rfl

theorem State.Mild.of_groups {s t : State} (hg : s.GroupsBy Group.Steady t) (hc : t.cores = s.cores) : s.Mild t := by
  refine ⟨hg, fun c => ?_, fun c => ?_, fun c y hy _ => ?_⟩
  · rw [State.coreD_of_cores hc]
  · rw [State.coreD_of_cores hc]
    exact fun y hy => hy
  · rwa [State.coreD_of_cores hc]

theorem State.Mild.of_eq {s t : State} (hg : t.groups = s.groups) (hc : t.cores = s.cores) : s.Mild t :=
  .of_groups (.of_eq Group.Steady.refl hg) hc

theorem State.Mild.refl (s : State) : s.Mild s := .of_eq rfl rfl

theorem State.Mild.trans {s t u : State} (a : s.Mild t) (b : t.Mild u) : s.Mild u where
  groups := State.GroupsBy.trans (R := Group.Steady) (fun _ _ _ => Group.Steady.trans) a.groups b.groups
  shared c := (b.shared c).trans (a.shared c)
  l1s c := fun _ hy => a.l1s c (b.l1s c hy)
  dirty c := fun y hy hd => b.dirty c y (a.dirty c y hy hd) hd

theorem State.Mild.foldl {α : Type} {f : State → α → State} (hf : ∀ (s : State) a, s.Mild (f s a)) (l : List α) (s : State) :
    s.Mild (l.foldl f s) := by
  induction l generalizing s with
  | nil => exact .refl s
  | cons a l ih => exact (hf s a).trans (ih _)

theorem State.Mild.mapGroups (s : State) {f : Group → Group} (hf : ∀ g : Group, g.Steady (f g)) : s.Mild (s.mapGroups f) :=
  .of_groups (.mapGroups s (fun g => (hf g).id) hf) rfl

theorem State.mild_dropClean (s : State) (c : CoreId) (p : Nat → Bool) : s.Mild (s.modCore c (Core.dropClean p)) := by
  have hc : ∀ k, (s.modCore c (Core.dropClean p)).coreD k = if k = c then (s.coreD c).dropClean p else s.coreD k :=
    fun k => s.coreD_modCore c k (Core.dropClean p) fun _ => rfl
  refine ⟨.of_eq Group.Steady.refl (s.modCore_groups c _), fun k => ?_, fun k => ?_, fun k y hy hd => ?_⟩
  all_goals rw [hc k]
  all_goals split
  · next h => rw [h]; rfl
  · rfl
  · next h => rw [h]; exact fun y hy => (List.mem_filter.mp hy).1
  · exact fun y hy => hy
  · next h => exact List.mem_filter.mpr ⟨h ▸ hy, by rw [hd]; rfl⟩
  · exact hy

theorem State.mild_disown (s : State) (p : Nat → Bool) : s.Mild (s.disown p) := by
  unfold State.disown
  split
  · exact .of_eq rfl rfl
  · exact .refl s

theorem State.mild_abortWhere (s : State) (p : Group → Tx → Bool) (cause : Nat) : s.Mild (s.abortWhere p cause) := by
  unfold State.abortWhere
  dsimp only
  split
  · exact .refl s
  refine .trans (.trans (.mapGroups s fun g => ?_) (State.mild_disown _ _)) (.foldl (fun t c => t.mild_dropClean c _) _ _)
  have hs : ∀ cause, g.Steady ((s.settleReads g).seeAbort cause 0) := fun c =>
    (s.steady_settleLoads _ g).trans (Group.steady_seeAbort _ c 0)
  split
  · exact hs _
  split
  · exact hs _
  · exact .refl g

theorem State.mild_markConflicts (s : State) (w : Option GroupId) (x : Spot) (n : Nat) : s.Mild (s.markConflicts w x n) :=
  s.mild_abortWhere _ _

theorem State.mild_noteWrite (s : State) (x : Spot) (n : Nat) : s.Mild (s.noteWrite x n) := by
  unfold State.noteWrite
  split
  · dsimp only
    split
    · exact .refl s
    · exact .of_eq rfl rfl
  · exact .refl s

theorem State.mild_writePaBytes (s : State) (a : Nat) (bs : List Byte) : s.Mild (s.writePaBytes a bs) := by
  induction bs generalizing s a with
  | nil => exact .refl s
  | cons b bs ih =>
    refine State.Mild.trans ?_ (ih (s.writePa a b) (a + 1))
    unfold State.writePa
    split
    · exact .refl s
    · exact .of_eq rfl rfl

theorem State.mild_clearPoison (s : State) (x : Spot) (n : Nat) : s.Mild (s.clearPoison x n) := by
  unfold State.clearPoison
  split
  · exact .refl s
  · exact .of_eq rfl rfl

theorem State.mild_wakeTeam (s : State) (u : Team) : s.Mild (s.wakeTeam u) := by
  unfold State.wakeTeam
  split
  · exact .refl s
  dsimp only
  refine .trans ?_ (State.Mild.foldl (f := State.recomputePrio) (fun s k => .of_eq rfl rfl) _ _)
  refine .trans (.of_eq (t := (s.putTeam { u with sleep := none }).setWaiton u.task 0) rfl rfl) (.mapGroups _ fun g => ?_)
  split
  · exact ⟨rfl, rfl, rfl, rfl, rfl, rfl, rfl⟩
  · exact .refl g

theorem State.mild_wakeIf (s : State) (p : Team → Sleep → Bool) : s.Mild (s.wakeIf p) := .foldl State.mild_wakeTeam _ s

theorem State.mild_mapOut (s : State) (f : Outst → Outst) : s.Mild (s.mapGroups fun g => { g with out := g.out.map f }) :=
  .mapGroups s fun _ => ⟨rfl, rfl, rfl, rfl, rfl, rfl, rfl⟩

theorem State.mild_wakeAt (s : State) (x : Spot) (n : Nat) : s.Mild (s.wakeAt x n) := by
  unfold State.wakeAt
  split
  · dsimp only
    split
    · exact (s.mild_wakeIf _).trans (State.mild_mapOut _ _)
    · exact ((s.mild_wakeIf _).trans (State.mild_mapOut _ _)).trans (.of_eq rfl rfl)
  · exact .refl s

theorem State.mild_ringBell (s : State) (x : Spot) (n : Nat) : s.Mild (s.ringBell x n) := by
  unfold State.ringBell
  split
  · split
    · exact .of_eq rfl rfl
    · exact .refl s
  · exact .refl s

/-- A write of the device's memory touches no register, no shared store and no dirty S byte. -/
theorem State.mild_deviceWrite (s : State) (w : Option GroupId) (a : Nat) (bs : List Byte) : s.Mild (s.deviceWrite w (.pa a) bs) := by
  unfold State.deviceWrite State.outsideWrite
  rw [State.writeSpots_pa]
  exact ((((((s.mild_markConflicts w _ _).trans (State.mild_noteWrite _ _ _)).trans (State.mild_writePaBytes _ a bs)).trans
    (State.mild_clearPoison _ _ _)).trans (State.mild_wakeAt _ _ _)).trans (State.mild_ringBell _ _ _))

theorem State.mild_holdRun (s : State) (a n : Nat) (dirty u : Bool) : s.Mild (s.holdRun a n dirty u) := by
  refine .foldl (fun s l => ?_) _ s
  unfold State.holdHome
  split
  · exact .of_eq rfl rfl
  · exact .refl s

theorem State.mild_putL2 (s : State) (d l : Nat) (st : L2State) : s.Mild (s.putL2 d l st) := by
  unfold State.putL2
  dsimp only
  split
  · split
    · exact .of_eq rfl rfl
    · unfold State.fetchPoison
      split <;> exact .of_eq rfl rfl
  · exact .refl s

theorem State.mild_takeDirty (s : State) (d a : Nat) : s.Mild (s.takeDirty d a) := by
  unfold State.takeDirty
  dsimp only
  split
  · refine .trans ?_ (State.mild_putL2 _ d (lineOf a) .dirty)
    split
    · exact .refl s
    · exact .of_eq rfl rfl
  · exact .refl s

theorem State.fetched_takeDirty (s : State) (d a : Nat) : s.Fetched (s.takeDirty d a) := by
  unfold State.takeDirty
  dsimp only
  split
  · refine .trans ?_ (State.fetched_putL2 _ d (lineOf a) .dirty)
    split
    · exact .refl s
    · exact s.fetched_putDir _
  · exact .refl s

theorem State.mild_storePoison (s : State) (c : CoreId) (a n : Nat) : s.Mild (s.storePoison c a n) := by
  unfold State.storePoison
  split
  · exact .refl s
  · exact .of_eq rfl rfl

/-! ### Bytes written -/

theorem State.readPa_deviceWrite (s : State) (w : Option GroupId) (a : Nat) (bs : List Byte) (x : Nat) :
    (s.deviceWrite w (.pa a) bs).readPa x = (s.writePaBytes a bs).readPa x := by
  rw [← State.keepsBytes_still.readPa, State.still_deviceWrite, State.keepsBytes_still.readPa]

theorem State.readPa_writePa {s : State} (h : s.mem.wf = true) (a : Nat) (b : Byte) (x : Nat) :
    (s.writePa a b).readPa x = if x = a then (if s.windowHole a then 0 else b) else s.readPa x := by
  unfold State.writePa
  split
  next hole =>
    split
    next he => rw [he, State.readPa, if_pos hole]
    · rfl
  next hole =>
    have hx : State.readPa { s with mem := s.mem.write (s.cellOf a) b } x =
      if s.windowHole x then 0 else (s.mem.write (s.cellOf a) b).read (s.cellOf x) := rfl
    rw [hx, Memory.read_write h]
    by_cases he : x = a
    · rw [if_pos he, if_pos (congrArg s.cellOf he), he, if_neg hole]
    · rw [if_neg he, if_neg fun e => he (s.cellOf_inj e)]
      rfl

/-- Bytes laid from an address on, the first of them first. -/
theorem laid_cons {α β : Type} (f : α → β) (b d : α) (old : β) (bs : List α) (a x : Nat) :
    (if a + 1 ≤ x ∧ x < a + 1 + bs.length then f (bs.getD (x - (a + 1)) d) else if x = a then f b else old) =
      if a ≤ x ∧ x < a + (b :: bs).length then f ((b :: bs).getD (x - a) d) else old := by
  rw [List.length_cons]
  by_cases he : x = a
  · subst he
    have hin : x ≤ x ∧ x < x + (bs.length + 1) := by omega
    rw [if_neg (by omega), if_pos rfl, if_pos hin, Nat.sub_self]
    rfl
  · by_cases hr : a + 1 ≤ x ∧ x < a + 1 + bs.length
    · have hin : a ≤ x ∧ x < a + (bs.length + 1) := by omega
      rw [if_pos hr, if_pos hin, show x - a = x - (a + 1) + 1 by omega]
      rfl
    · have hout : ¬ (a ≤ x ∧ x < a + (bs.length + 1)) := by omega
      rw [if_neg hr, if_neg he, if_neg hout]

/-- What stands at an address once bytes are written: the reserved bytes of a launch window take none (R241). -/
theorem State.readPa_writePaBytes {s : State} (h : s.mem.wf = true) (a : Nat) (bs : List Byte) (x : Nat) :
    (s.writePaBytes a bs).readPa x =
      if a ≤ x ∧ x < a + bs.length then (if s.windowHole x then 0 else bs.getD (x - a) 0) else s.readPa x := by
  induction bs generalizing s a with
  | nil => rw [if_neg (by simp only [List.length_nil]; omega)]; rfl
  | cons b bs ih =>
    have hhole : (s.writePa a b).windowHole x = s.windowHole x := by
      unfold State.writePa
      split <;> rfl
    have hb : (s.writePa a b).readPa x = if x = a then (if s.windowHole x then 0 else b) else s.readPa x := by
      rw [State.readPa_writePa h]
      split
      next he => rw [he]
      · rfl
    rw [State.writePaBytes, ih (State.writePa_wf h a b), hhole, hb]
    exact laid_cons (fun v => if s.windowHole x then 0 else v) b 0 (s.readPa x) bs a x

/-- Bytes written to a shared store stand there, and nowhere else. -/
theorem State.shared_writeSpots {s : State} (h : ∀ k, (s.coreD k).shared.wf = true) (c : CoreId) (o : Nat) (bs : List Byte) (k : CoreId)
    (x : Nat) : ((s.writeSpots (.sh c.die c.core o) bs).coreD k).shared.read x =
      if k = c then (if o ≤ x ∧ x < o + bs.length then bs.getD (x - o) 0 else (s.coreD k).shared.read x)
      else (s.coreD k).shared.read x := by
  induction bs generalizing s o with
  | nil =>
    rw [if_neg (c := o ≤ x ∧ x < o + ([] : List Byte).length) (by simp only [List.length_nil]; omega), ite_self]
    rfl
  | cons b bs ih =>
    have hc : ∀ j, (s.writeSpot b (.sh c.die c.core o)).coreD j =
        if j = c then { s.coreD c with shared := (s.coreD c).shared.write o b } else s.coreD j := fun j =>
      s.coreD_modCore c j (fun k => { k with shared := k.shared.write o b }) fun _ => rfl
    have hw : ∀ j, ((s.writeSpot b (.sh c.die c.core o)).coreD j).shared.wf = true := fun j => by
      rw [hc]
      split
      · exact Memory.write_wf (h c) o b
      · exact h j
    refine (ih hw (o + 1)).trans ?_
    by_cases hk : k = c
    · rw [if_pos hk, if_pos hk, hc, if_pos hk, hk]
      exact (if_congr Iff.rfl rfl (Memory.read_write (h c) o x b)).trans (laid_cons id b 0 ((s.coreD c).shared.read x) bs o x)
    · rw [if_neg hk, if_neg hk, hc, if_neg hk]

/-- A group's write of a shared store. -/
theorem State.fetched_deviceWrite_sh (s : State) (w : Option GroupId) (c : CoreId) (o : Nat) (bs : List Byte) :
    s.Fetched (s.deviceWrite w (.sh c.die c.core o) bs) := by
  have hspots : ∀ (t : State) o, t.Fetched (t.writeSpots (.sh c.die c.core o) bs) := by
    intro t o
    induction bs generalizing t o with
    | nil => exact .refl t
    | cons b bs ih => exact (t.fetched_modCore c _).trans (ih _ _)
  have hpoison : ∀ (t : State), t.Fetched (t.clearPoison (.sh c.die c.core o) bs.length) := by
    intro t
    unfold State.clearPoison
    split
    · exact .refl t
    · exact t.fetched_poison _
  exact ((s.fetched_abortWhere _ _).trans (hspots _ o)).trans (hpoison _)

theorem State.wf_coreD {s : State} (h : ∀ k ∈ s.cores, k.shared.wf = true) (c : CoreId) : (s.coreD c).shared.wf = true := by
  unfold State.coreD
  cases hc : s.core? c with
  | none => rfl
  | some k => exact h k (List.mem_of_find?_eq_some hc)

theorem State.shared_deviceWrite {s : State} (h : ∀ k ∈ s.cores, k.shared.wf = true) (w : Option GroupId) (c : CoreId) (o : Nat)
    (bs : List Byte) (k : CoreId) (x : Nat) : ((s.deviceWrite w (.sh c.die c.core o) bs).coreD k).shared.read x =
      if k = c then (if o ≤ x ∧ x < o + bs.length then bs.getD (x - o) 0 else (s.coreD k).shared.read x)
      else (s.coreD k).shared.read x := by
  have hm := s.mild_markConflicts w (.sh c.die c.core o) bs.length
  have hwf : ∀ j, ((s.markConflicts w (.sh c.die c.core o) bs.length).coreD j).shared.wf = true := fun j => by
    rw [hm.shared]
    exact State.wf_coreD h j
  have hp : ∀ (t : State) j, ((t.clearPoison (.sh c.die c.core o) bs.length).coreD j).shared = (t.coreD j).shared :=
    fun t => (t.mild_clearPoison _ _).shared
  have hs := State.shared_writeSpots hwf c o bs k x
  rw [hm.shared] at hs
  refine Eq.trans ?_ hs
  exact congrArg (fun m : Memory => m.read x) (hp _ k)

end Sys2Proof.Machine
end

section
/-! ### Accesses performed at a shared store or at the home (R28, R66, R135, R136, R276, R282 to R287, R332) -/

namespace Sys2Proof.Machine

open Sys2Proof.Slice0

/-! ### The due access -/

theorem State.due_some {s : State} {g : Group} {o : Outst} {t : Target} (h : s.due = some (g, o, t)) :
    s.group? g.id = some g ∧ g.out.find? (fun x => x.seq = o.seq) = some o := by
  unfold State.due at h
  split at h
  · cases h
  next k hk =>
    split at h
    · cases h
    next x hx =>
      obtain ⟨y, -, he⟩ := Option.map_eq_some_iff.mp h
      cases he
      have hseq : o.seq = s.args.k := by simpa using List.find?_some hx
      exact ⟨by rw [(State.group?_some hk).2]; exact hk, by rw [hseq]; exact hx⟩

theorem Group.forwarded_nil {g : Group} (h : g.stores = []) (seq : Nat) (x : Spot) (bs : List Byte) : g.forwarded seq x bs = bs := by
  rw [Group.forwarded, h]
  rfl

/-- A group without stores and transaction reads the bytes as its core sees them. -/
theorem State.groupBytesAt_bare {s : State} {g : Group} (hs : g.stores = []) (ht : g.tx = none) (seq : Nat) (cls : Coh) (whole : Bool)
    (x : Spot) (n : Nat) : s.groupBytesAt g seq cls whole x n = (List.range n).map fun i => s.lookByte g.id.coreId cls whole (x.shift i) := by
  have ha : g.addsTo seq x n = false := by simp [Group.addsTo, hs]
  simp only [State.groupBytesAt, ha, Bool.false_eq_true, if_false, Group.over, Group.forwarded_nil hs, ht]

theorem State.plainPieces_dense {s : State} {g : Group} (seq : Nat) {p : Piece} (h : p.sparse = none) : s.plainPieces g seq [p] = [p] := by
  simp [State.plainPieces, Piece.plain, h]

/-- A group without stores and transaction reads a dense piece that no poison touches. -/
theorem State.readTarget_dense {s : State} {g : Group} {t : Target} {p : Piece} (seq : Nat) (hp : t.pieces = [p]) (hd : p.sparse = none)
    (hs : g.stores = []) (htx : g.tx = none) (hpo : s.poison = []) :
    s.readTarget g seq t =
      some ((List.range p.len).map fun i => s.lookByte g.id.coreId p.cls (s.l1Holds g.id.coreId p.cls p.spot p.len) (p.spot.shift i)) := by
  have hplain : ∀ rd, p.plain rd = [p] := fun rd => by simp [Piece.plain, hd]
  have hbad : ∀ w, s.pieceBad g seq w p = false := fun w => by simp [State.pieceBad, hpo]
  have hread : s.readPiece g seq p = some ((List.range p.len).map fun i =>
      s.lookByte g.id.coreId p.cls (s.l1Holds g.id.coreId p.cls p.spot p.len) (p.spot.shift i)) := by
    simp only [State.readPiece, hplain, List.any_cons, hbad, List.any_nil, Bool.or_self, Bool.false_eq_true, if_false, hd,
      State.groupBytesAt_bare hs htx, State.groupWhole, Option.isSome_none]
  rw [State.readTarget, hp]
  simp [hread]

theorem Group.readBy_of_no_stores {g : Group} (h : g.stores = []) (seq t : Nat) (ps : List Piece) : g.readBy seq t ps = g := by
  simp [Group.readBy, h]

theorem State.supplied_of_near (s : State) {p : Piece} (h : ∀ a, p.spot = .pa a → isHost a = false ∧ isPeer a = false) :
    s.supplied [p] = s := by
  unfold State.supplied
  cases s.args.data with
  | none => rfl
  | some bs =>
    cases hp : p.spot with
    | pa a =>
      obtain ⟨h1, h2⟩ := h a hp
      simp [hp, h1, h2]
    | sh d c o => simp [hp]
    | member k l o => simp [hp]

/-- The group whose thread's load has brought some bytes. -/
def Group.loaded (g : Group) (o : Outst) (t : Target) (size : Nat) (signed : Bool) (bs : List Byte) : Group :=
  g.putOut { o with todo := o.todo.filter fun x => x.thread ≠ t.thread, res := o.res ++ [(t.thread, loadWords size signed bs)] }

/-- A plain load of one dense piece by a group without stores and transaction: its bytes come, and lines into caches. -/
theorem State.performLoad_dense {s : State} {g : Group} {o : Outst} {t : Target} {p : Piece} {size : Nat} {signed : Bool}
    (hk : o.kind = .load size signed none) (hp : t.pieces = [p]) (hd : p.sparse = none) (hs : g.stores = []) (htx : g.tx = none)
    (hpo : s.poison = []) (hb : s.blocked g o.seq t.thread t.pieces true false = false) (hr : s.reachable [p] = true)
    (hl : s.linkLost [p] = false) (hpeer : p.atPeer = false) (hsup : s.supplied [p] = s) (hack : s.awaitsAck g.id.die p = false) :
    s.performLoad g o t none = (s.put (g.loaded o t size signed ((List.range p.len).map fun i =>
      s.lookByte g.id.coreId p.cls (s.l1Holds g.id.coreId p.cls p.spot p.len) (p.spot.shift i)))).fillPieces g.id.coreId [p] := by
  have hplain : ∀ seq, s.plainPieces g seq [p] = [p] := fun seq => State.plainPieces_dense seq hd
  have hread := State.readTarget_dense (s := s) (t := t) o.seq hp hd hs htx hpo
  have hinto : s.readInto g o t = g.loaded o t size signed ((List.range p.len).map fun i =>
      s.lookByte g.id.coreId p.cls (s.l1Holds g.id.coreId p.cls p.spot p.len) (p.spot.shift i)) := by
    simp only [State.readInto, hk, hread, Group.readBy_of_no_stores hs]
    rfl
  have hdrop : s.dropParts g o.seq [p] = s := by simp [State.dropParts, hd]
  rw [hp] at hb
  simp only [State.performLoad, hp, hplain, hb, hr, hl, hsup, List.any_cons, List.any_nil, hpeer, hack, hread, hdrop, hinto, htx,
    Option.isNone_some, Option.isNone_none, Bool.not_true, Bool.or_self, Bool.false_and, Bool.false_eq_true, if_false, if_true]

/-! ### A shared store's bank -/

theorem exec_bankRead {s : State} {g : Group} {o : Outst} {t : Target} {size : Nat} {signed : Bool} {acq : Option Scope}
    (hdue : s.due = some (g, o, t)) (hk : o.kind = .load size signed acq) (hsh : t.isSh = true) :
    exec .bankRead s = .next (s.performLoad g o t acq) := by
  change execBankRead s = _
  simp only [execBankRead, hdue, hk, hsh, if_true]

/-- A store of one part whose order and copies allow it, performed. -/
theorem State.performStore_single {s : State} {g : Group} {x : StoreReq} {p : Piece} {bs : List Byte} (hg : s.group? g.id = some g)
    (hx : x.parts = [(p, bs)]) (hrel : x.rel = none) (hb : s.blocked g x.seq x.thread x.pieces false false = false)
    (hres : s.resolve p.spot = some p.spot) (hlost : s.pieceLost p = false) (hpeer : p.atPeer = false)
    (hadd : x.add = true → p.spot.isSh = true) (hw : s.writable g.id.coreId (if x.add then { p with cls := .u } else p) = true) :
    s.performStore g x = (s.put (g.dropStore x)).writePart g x p bs := by
  have hpart : g.partDone x = g.dropStore x := by simp only [Group.partDone, hx]
  have hrelease : s.releasable g.id.coreId .grp = true := rfl
  simp only [State.performStore, hrel, Option.isSome_none, hb, hx, hres, hlost, hpeer, hw, Option.getD_none, hrelease, Bool.not_true,
    Bool.false_and, Bool.false_eq_true, if_false]
  cases hx' : x.add with
  | false => simp only [Bool.false_eq_true, if_false, hg, Option.getD_some, hpart]
  | true =>
    have hs := hadd hx'
    cases hp : p.spot with
    | pa a => rw [hp] at hs; cases hs
    | sh d c o =>
      simp only [if_true, hg, Option.getD_some, hpart]
      rw [← hp]
    | member k l o =>
      simp only [if_true, hg, Option.getD_some, hpart]
      rw [← hp]

theorem exec_storeStep {s : State} {g : Group} {x : StoreReq} {i : Instr} {p : StoreReq → Bool} (hi : exec i s = s.storeStep p)
    (hg : s.group? s.args.group = some g) (hx : g.storeReq? s.args.k s.args.t = some x) (hp : p x = true) :
    exec i s = .next (if x.add then s.performLine g x else s.performStore g x) := by
  simp only [hi, State.storeStep, hg, hx, hp, if_true]

/-- The order in which a word's threads reach their places names each of them once. -/
theorem State.threadOrder_perm {α : Type} [DecidableEq α] (s : State) (f : α → Nat) {ts : List α} (h : ts.Nodup) :
    (s.threadOrder f ts).Perm ts := by
  have hsub : ∀ y ∈ ((s.args.data.getD []).filterMap fun b => ts.find? fun t => f t = b.toNat).dedup, y ∈ ts := fun y hy => by
    obtain ⟨b, -, hb⟩ := List.mem_filterMap.mp (List.mem_dedup.mp hy)
    exact List.mem_of_find?_eq_some hb
  unfold State.threadOrder
  dsimp only
  generalize hfirst : ((s.args.data.getD []).filterMap fun b => ts.find? fun t => f t = b.toNat).dedup = first at hsub
  have hnd : first.Nodup := hfirst ▸ List.nodup_dedup _
  rw [List.perm_ext_iff_of_nodup _ h]
  · intro y
    simp only [List.mem_append, List.mem_filter, Bool.not_eq_true']
    by_cases hy : y ∈ first
    · simp [hy, hsub y hy]
    · simp [hy]
  · refine hnd.append (h.filter _) fun y hy hz => ?_
    simp [hy] at hz

theorem State.threadOrder_singleton {α : Type} [DecidableEq α] (s : State) (f : α → Nat) (x : α) : s.threadOrder f [x] = [x] :=
  List.perm_singleton.mp (s.threadOrder_perm f (List.nodup_singleton x))

/-- An add-on-store at a shared store is a line of its own. -/
theorem State.performLine_sh {s : State} {g : Group} {x : StoreReq} {c : CoreId} {o n : Nat} {bs : List Byte}
    (hg : s.group? g.id = some g) (hx : x.parts = [(⟨.sh c.die c.core o, n, .d, none⟩, bs)]) (hrel : x.rel = none)
    (hb : s.blocked g x.seq x.thread x.pieces false false = false) (hfind : g.storeReq? x.seq x.thread = some x) :
    s.performLine g x = s.performStore g x := by
  have hmates : g.lineMates x = [x] := by simp [Group.lineMates, hx]
  simp only [State.performLine, hmates, State.threadOrder_singleton, List.any_cons, List.any_nil, hrel, Option.isSome_none, hb,
    Bool.or_self, Bool.false_eq_true, if_false, List.foldl_cons, List.foldl_nil, hg, hfind]

theorem Group.storeReq?_own {g : Group} {x : StoreReq} {k t : Nat} (h : g.storeReq? k t = some x) : g.storeReq? x.seq x.thread = some x := by
  have hx : x.seq = k ∧ x.thread = t := by simpa using List.find?_some h
  rw [hx.1, hx.2]
  exact h

/-- A store at a shared store leaves the group's list, and its bytes are written there. -/
theorem exec_bankStore {s : State} {g : Group} {x : StoreReq} {c : CoreId} {o : Nat} {bs : List Byte}
    (hg : s.group? s.args.group = some g) (hx : g.storeReq? s.args.k s.args.t = some x)
    (hparts : x.parts = [(⟨.sh c.die c.core o, bs.length, .d, none⟩, bs)]) (hrel : x.rel = none)
    (hb : s.blocked g x.seq x.thread x.pieces false false = false) :
    exec (if x.add then .addOnStore else .bankWrite) s =
      .next ((s.put (g.dropStore x)).deviceWrite (some g.id) (.sh c.die c.core o)
        (if x.add then addBytes ((List.range bs.length).map fun i => (s.coreD c).shared.read (o + i)) bs else bs)) := by
  have hid : s.group? g.id = some g := by rw [(State.group?_some hg).2]; exact hg
  have hsh : x.isSh = true := by simp [StoreReq.isSh, hparts, Spot.isSh]
  have hstore := State.performStore_single hid hparts hrel hb rfl rfl rfl (fun _ => rfl) (by split <;> rfl)
  cases hadd : x.add with
  | false =>
    refine (exec_storeStep (p := fun x => x.isSh && !x.add) rfl hg hx (by rw [hsh, hadd]; rfl)).trans ?_
    simp only [hadd, Bool.false_eq_true, if_false, hstore, State.writePart, hrel]
    rfl
  | true =>
    refine (exec_storeStep (p := fun x => x.isSh && x.add) rfl hg hx (by rw [hsh, hadd]; rfl)).trans ?_
    simp only [hadd, if_true, State.performLine_sh hid hparts hrel hb (Group.storeReq?_own hx), hstore, State.writePart, hrel]
    rfl

theorem length_natToBytes (n x : Nat) : (natToBytes n x).length = n := by
  induction n generalizing x with
  | zero => rfl
  | succ n ih => rw [natToBytes, List.length_cons, ih]

theorem length_addBytes (old new : List Byte) : (addBytes old new).length = new.length := length_natToBytes _ _

/-! ### Bytes and words -/

theorem bytesToNat_natToBytes (n x : Nat) : bytesToNat (natToBytes n x) = x % 256 ^ n := by
  induction n generalizing x with
  | zero => rw [Nat.pow_zero, Nat.mod_one]; rfl
  | succ n ih =>
    rw [natToBytes, bytesToNat, ih, BitVec.toNat_ofNat, show 256 ^ (n + 1) = 2 ^ 8 * 256 ^ n from Nat.pow_succ', Nat.mod_mul]
    rfl

theorem wordsNat_singleton (x : Word) : wordsNat [x] = x.toNat := by
  have hx : x.toNat < 256 ^ 4 := x.isLt
  rw [wordsNat, List.flatMap_singleton, bytesToNat_natToBytes, Nat.mod_eq_of_lt hx]

theorem getD_natToBytes {n i : Nat} (x : Nat) (h : i < n) : (natToBytes n x).getD i 0 = BitVec.ofNat 8 (x / 2 ^ (8 * i)) := by
  induction n generalizing x i with
  | zero => omega
  | succ n ih =>
    cases i with
    | zero => simp [natToBytes]
    | succ i =>
      have hd : x / 256 / 2 ^ (8 * i) = x / 2 ^ (8 * (i + 1)) := by
        rw [Nat.div_div_eq_div_mul, show (256 : Nat) = 2 ^ 8 from rfl, ← Nat.pow_add, show 8 + 8 * i = 8 * (i + 1) by omega]
      rw [natToBytes, List.getD_cons_succ, ih (x / 256) (by omega), hd]

theorem getD_eq_bytesToNat {l : List Byte} {i : Nat} (h : i < l.length) : l.getD i 0 = BitVec.ofNat 8 (bytesToNat l / 2 ^ (8 * i)) := by
  conv_lhs => rw [← natToBytes_bytesToNat l]
  exact getD_natToBytes _ h

/-! ### An atomic at its place -/

/-- The word that an atomic on 4 bytes leaves (R333), but for the float adds. -/
def atomWord (op : AtomOp) (old x y : Word) : Word :=
  match op with
  | .fetchAdd => old + x
  | .swap => x
  | .cas => if old = y then x else old
  | .minI32 => if old.toInt ≤ x.toInt then old else x
  | .maxI32 => if x.toInt ≤ old.toInt then old else x
  | .and => old &&& x
  | .or => old ||| x
  | .xor => old ^^^ x
  | .addF32 => old
  | .addF64 => old
  | .addBf16 => old

theorem atomArgs_word (op : AtomOp) (x y : Word) :
    (atomArgs op 4 (if op = .cas then [y, x] else [x])).1 = x.toNat ∧
      (op = .cas → (atomArgs op 4 (if op = .cas then [y, x] else [x])).2 = y.toNat) := by
  by_cases h : op = .cas
  · subst h
    exact ⟨wordsNat_singleton x, fun _ => wordsNat_singleton y⟩
  · rw [if_neg h]
    refine ⟨?_, fun h' => absurd h' h⟩
    cases op <;> first | exact absurd rfl h | exact wordsNat_singleton x

/-- What an atomic on 4 bytes writes, or leaves where a CAS finds another value. -/
theorem atomValue_word {op : AtomOp} {old cmp : Nat} (x y : Word) (ho : old < 2 ^ 32) (h1 : op ≠ .addF32) (h2 : op ≠ .addF64) (h3 : op ≠ .addBf16)
    (hc : op = .cas → cmp = y.toNat) :
    (atomValue op 4 old x.toNat cmp).getD old = (atomWord op (BitVec.ofNat 32 old) x y).toNat := by
  have hx := x.isLt
  have hold : (BitVec.ofNat 32 old).toNat = old := by rw [BitVec.toNat_ofNat, Nat.mod_eq_of_lt ho]
  have hxw : (BitVec.ofNat 32 x.toNat : Word) = x := by simp
  cases op with
  | addF32 => exact absurd rfl h1
  | addF64 => exact absurd rfl h2
  | addBf16 => exact absurd rfl h3
  | fetchAdd => simp [atomValue, atomWord, BitVec.toNat_add, hold]
  | swap => rfl
  | cas =>
    rw [hc rfl]
    have he : BitVec.ofNat 32 old = y ↔ old = y.toNat := by
      rw [← BitVec.toNat_inj, hold]
    by_cases h : old = y.toNat
    · simp [atomValue, atomWord, h]
    · rw [atomWord, if_neg (he.not.mpr h), hold]
      simp [atomValue, h]
  | minI32 =>
    simp only [atomValue, atomWord, hxw, Option.getD_some]
    split
    · exact hold.symm
    · rfl
  | maxI32 =>
    simp only [atomValue, atomWord, hxw, Option.getD_some]
    split
    · exact hold.symm
    · rfl
  | and => simp only [atomValue, atomWord, Option.getD_some, BitVec.toNat_and, hold]
  | or => simp only [atomValue, atomWord, Option.getD_some, BitVec.toNat_or, hold]
  | xor => simp only [atomValue, atomWord, Option.getD_some, BitVec.toNat_xor, hold]

/-- An atomic's read-modify-write of one piece. -/
theorem State.rmw_single (s : State) (g : GroupId) (op : AtomOp) {size : Nat} (v cmp : Nat) {p : Piece} (hp : p.len = size) :
    s.rmw g op size v cmp [p] = (bytesToNat (s.placeBytes p), match atomValue op size (bytesToNat (s.placeBytes p)) v cmp with
      | some y => s.writePiece g { p with cls := .u } (natToBytes size y)
      | none => s) := by
  have hcut : ∀ y, cutBytes [p] (natToBytes size y) = [(p, natToBytes size y)] := fun y => by
    rw [cutBytes, hp, List.take_of_length_le (length_natToBytes size y).le]
    rfl
  simp only [State.rmw, List.flatMap_cons, List.flatMap_nil, List.append_nil, hcut, List.foldl_cons, List.foldl_nil] <;> rfl

/-- A relaxed atomic of one piece that may be performed. -/
theorem State.performAtomic_single {s u v : State} {g h : Group} {o x : Outst} {t : Target} {op : AtomOp} {size old : Nat} {sc : Scope}
    {p : Piece} (hp : t.pieces = [p]) (hres : s.resolve p.spot = some p.spot)
    (hb : s.blocked g o.seq t.thread t.pieces false false = false) (hl : s.linkLost [p] = false) (hsup : s.supplied [p] = s)
    (hplace : s.atomPlace g.id.coreId p = (true, u)) (hpo : u.poison = [])
    (hr : u.rmw g.id op size (atomArgs op size t.args).1 (atomArgs op size t.args).2 [p] = (old, v))
    (hh : v.group? g.id = some h) (hx : h.out.find? (fun x => x.seq = o.seq) = some x) :
    s.performAtomic g o t op size sc .rlx = v.put (h.putOut (x.got t (natWords size old))) := by
  have hreach : s.reachable [p] = true := by simp [State.reachable, hres]
  have hresolved : s.resolvePieces [p] = [p] := by simp [State.resolvePieces, hres]
  have hplaces : s.atomPlaces g.id.coreId [p] = (true, u) := by simp only [State.atomPlaces, hplace]
  have hpoison : u.poisoned p.spot p.len = false := by simp [State.poisoned, hpo]
  have hrel : Order.rlx.releases = false := rfl
  have hacq : Order.rlx.acquires = false := rfl
  rw [hp] at hb
  simp only [State.performAtomic, hp, hrel, hb, hreach, hresolved, hl, hsup, hplaces, List.any_cons, List.any_nil, hpoison, hr, hh, hx,
    hacq, Bool.not_true, Bool.or_self, Bool.false_and, Bool.false_eq_true, if_false]

theorem State.atomStep_eq {s : State} {g : Group} {o : Outst} {t : Target} {op : AtomOp} {size : Nat} {sc : Scope} {mo : Order}
    {p : Target → Bool} (hdue : s.due = some (g, o, t)) (hk : o.kind = .atomic op size sc mo) (hp : p t = true) :
    s.atomStep p = .next (s.performAtomic g o t op size sc mo) := by
  simp only [State.atomStep, hdue, hk, hp, if_true]

theorem Group.find?_putOut {g : Group} {o p : Outst} (h : g.out.find? (fun x => x.seq = o.seq) = some o) (hs : p.seq = o.seq) :
    (g.putOut p).out.find? (fun x => x.seq = o.seq) = some p := by
  have hf : ((fun x : Outst => decide (x.seq = o.seq)) ∘ fun x => if x.seq = p.seq then p else x) = fun x => decide (x.seq = o.seq) := by
    funext x
    simp only [Function.comp_apply, hs]
    split
    next he => rw [hs, he]
    · rfl
  rw [Group.putOut, List.find?_map, hf, h, Option.map_some, if_pos hs.symm]

/-- The state that an atomic on 4 bytes of a shared store leaves, its result aside. -/
def State.bankRmw (s : State) (g : GroupId) (c : CoreId) (o : Nat) (y : Option Nat) : State :=
  match y with
  | some y => s.deviceWrite (some g) (.sh c.die c.core o) (natToBytes 4 y)
  | none => s

theorem State.fetched_bankRmw (s : State) (g : GroupId) (c : CoreId) (o : Nat) (y : Option Nat) : s.Fetched (s.bankRmw g c o y) := by
  cases y with
  | none => exact .refl s
  | some y => exact s.fetched_deviceWrite_sh _ c o _

theorem State.shared_bankRmw {s : State} (h : ∀ k ∈ s.cores, k.shared.wf = true) (g : GroupId) (c : CoreId) (o : Nat) (y : Option Nat) :
    (∀ i, i < 4 → ((s.bankRmw g c o y).coreD c).shared.read (o + i) = BitVec.ofNat 8
      (y.getD (bytesToNat ((List.range 4).map fun i => (s.coreD c).shared.read (o + i))) / 2 ^ (8 * i))) ∧
    ∀ p, p < o ∨ o + 4 ≤ p → ((s.bankRmw g c o y).coreD c).shared.read p = (s.coreD c).shared.read p := by
  cases y with
  | none =>
    refine ⟨fun i hi => ?_, fun p _ => rfl⟩
    refine Eq.trans ?_ (getD_eq_bytesToNat (by simpa using hi))
    simp [hi, State.bankRmw]
  | some y =>
    have hlen := length_natToBytes 4 y
    have hs := State.shared_deviceWrite h (some g) c o (natToBytes 4 y) c
    rw [hlen] at hs
    refine ⟨fun i hi => ?_, fun p hp => ?_⟩
    · refine (hs (o + i)).trans ?_
      rw [if_pos rfl, if_pos (by omega), Nat.add_sub_cancel_left]
      exact getD_natToBytes y hi
    · refine (hs p).trans ?_
      rw [if_pos rfl, if_neg (by omega)]

/-! ### A store at the home and in an L1 -/

theorem far_of_hbm {a : Nat} (h : isHbm a = true) : isPeer a = false ∧ isHost a = false ∧ isCap a = false := by
  simp only [isHbm, isPeer, isHost, isCap, decide_eq_true_eq, decide_eq_false_iff_not] at *
  omega

theorem State.linkUp_of_hbm (s : State) {a : Nat} (h : isHbm a = true) : s.linkUp a = true := by
  obtain ⟨h1, h2, h3⟩ := far_of_hbm h
  simp [State.linkUp, h1, h2, h3]

/-- Of a D or U piece written, the bytes stand at the home, and the rest is caches (R283, R287). -/
theorem State.writePiece_home (s : State) (g : GroupId) (a n : Nat) {cls : Coh} (bs : List Byte) (h : cls ≠ .s) :
    (s.deviceWrite (some g) (.pa a) bs).Fetched (s.writePiece g ⟨.pa a, n, cls, none⟩ bs) ∧
      (s.deviceWrite (some g) (.pa a) bs).Mild (s.writePiece g ⟨.pa a, n, cls, none⟩ bs) := by
  cases cls with
  | d => exact ⟨State.fetched_takeDirty _ _ _, State.mild_takeDirty _ _ _⟩
  | u => exact ⟨State.fetched_holdRun _ _ _ _ _, State.mild_holdRun _ _ _ _ _⟩
  | s => exact absurd rfl h

theorem State.fetched_storePoison (s : State) (c : CoreId) (a n : Nat) : s.Fetched (s.storePoison c a n) := by
  unfold State.storePoison
  split
  · exact .refl s
  · exact s.fetched_poison _

theorem l1Find_l1Put (l : List L1Byte) (x : L1Byte) (a : Nat) : l1Find (l1Put l x) a = if a = x.pa then some x else l1Find l a := by
  unfold l1Find l1Put
  by_cases h : a = x.pa
  · rw [if_pos h, List.find?_cons_of_pos (by simp [h])]
  · rw [if_neg h, List.find?_cons_of_neg (by simp [Ne.symm h]), List.find?_filter]
    refine congrArg (fun p => List.find? p l) (funext fun y => ?_)
    by_cases hy : y.pa = a
    · simp [hy, h]
    · simp [hy]

theorem mem_l1Put {l : List L1Byte} {x y : L1Byte} (h : y.pa ≠ x.pa) : y ∈ l1Put l x ↔ y ∈ l := by
  have hne : y ≠ x := fun he => h (he ▸ rfl)
  simp [l1Put, hne, h]

/-- The dirty bytes that a store leaves in an L1. -/
def l1Store (a : Nat) (bs : List Byte) (l : List L1Byte) : List L1Byte :=
  ((List.range bs.length).zip bs).foldl (fun l x => l1Put l ⟨a + x.1, x.2, true⟩) l

theorem l1Store_cons (a : Nat) (b : Byte) (bs : List Byte) (l : List L1Byte) :
    l1Store a (b :: bs) l = l1Store (a + 1) bs (l1Put l ⟨a, b, true⟩) := by
  have hzip : (List.range (b :: bs).length).zip (b :: bs) = (0, b) :: ((List.range bs.length).zip bs).map fun x => (x.1 + 1, x.2) := by
    rw [List.length_cons, List.range_succ_eq_map, List.zip_cons_cons, List.zip_map_left]
    rfl
  unfold l1Store
  rw [hzip, List.foldl_cons, List.foldl_map]
  refine congrArg (fun f => List.foldl f _ _) (funext fun l => funext fun x => ?_)
  rw [Nat.add_assoc, Nat.add_comm 1]

theorem l1Find_l1Store (a : Nat) (bs : List Byte) (l : List L1Byte) (x : Nat) :
    l1Find (l1Store a bs l) x = if a ≤ x ∧ x < a + bs.length then some ⟨x, bs.getD (x - a) 0, true⟩ else l1Find l x := by
  induction bs generalizing a l with
  | nil => rw [if_neg (by simp only [List.length_nil]; omega)]; rfl
  | cons b bs ih =>
    have hb : l1Find (l1Put l ⟨a, b, true⟩) x = if x = a then some ⟨x, b, true⟩ else l1Find l x := by
      rw [l1Find_l1Put]
      split
      next h => rw [h]
      · rfl
    rw [l1Store_cons, ih, hb]
    exact laid_cons (fun v => some (L1Byte.mk x v true)) b 0 (l1Find l x) bs a x

theorem mem_l1Store {a : Nat} {bs : List Byte} {l : List L1Byte} {y : L1Byte} (h : y.pa < a ∨ a + bs.length ≤ y.pa) :
    y ∈ l1Store a bs l ↔ y ∈ l := by
  induction bs generalizing a l with
  | nil => exact Iff.rfl
  | cons b bs ih =>
    rw [List.length_cons] at h
    rw [l1Store_cons, ih (by omega), mem_l1Put (by simp only; omega)]

/-- A core with a store's bytes dirty in its L1. -/
def Core.l1Stored (a : Nat) (bs : List Byte) (k : Core) : Core := { k with l1s := l1Store a bs k.l1s }

/-- An S piece written where the L1 has room: its bytes stand dirty there, the L1s' clean bytes may have left (R286, R325). -/
theorem State.writePiece_l1 {s : State} {g : GroupId} {a : Nat} (n : Nat) (bs : List Byte) (h : (s.coreD g.coreId).l1Room (lineOf a) = true) :
    ∃ t, s.Mild t ∧ s.Fetched t ∧ s.writePiece g ⟨.pa a, n, .s, none⟩ bs = t.modCore g.coreId (Core.l1Stored a bs) := by
  refine ⟨(s.markConflicts (some g) (.pa a) bs.length).storePoison g.coreId a bs.length, ?_, ?_, if_pos h⟩
  · exact (s.mild_markConflicts _ _ _).trans (State.mild_storePoison _ _ _ _)
  · exact (s.fetched_abortWhere _ _).trans (State.fetched_storePoison _ _ _ _)

/-- STORE_PERFORM of a plain store of the device's memory that may be performed writes its one piece (R283). -/
theorem exec_storePerform {s : State} {g : Group} {x : StoreReq} {cls : Coh} {pa : Nat} {bs : List Byte}
    (hg : s.group? s.args.group = some g) (hx : g.storeReq? s.args.k s.args.t = some x)
    (hparts : x.parts = [(⟨.pa pa, bs.length, cls, none⟩, bs)]) (hrel : x.rel = none) (hadd : x.add = false)
    (hb : s.blocked g x.seq x.thread x.pieces false false = false) (hpa : isHbm pa = true)
    (hw : s.writable g.id.coreId ⟨.pa pa, bs.length, cls, none⟩ = true) :
    exec .storePerform s = .next ((s.put (g.dropStore x)).writePiece g.id ⟨.pa pa, bs.length, cls, none⟩ bs) := by
  have hid : s.group? g.id = some g := by rw [(State.group?_some hg).2]; exact hg
  have hsh : x.isSh = false := by simp [StoreReq.isSh, hparts, Spot.isSh]
  have hlost : s.pieceLost ⟨.pa pa, bs.length, cls, none⟩ = false := by simp [State.pieceLost, s.linkUp_of_hbm hpa]
  have hstore := State.performStore_single hid hparts hrel hb rfl hlost (far_of_hbm hpa).1 (fun h => by rw [hadd] at h; cases h)
    (by rw [hadd]; exact hw)
  refine (exec_storeStep (p := fun x => !x.isSh && !x.add) rfl hg hx (by rw [hsh, hadd]; rfl)).trans ?_
  simp only [hadd, Bool.false_eq_true, if_false, hstore, State.writePart, hrel]

end Sys2Proof.Machine

namespace Sys2Proof.Proofs

open Sys2Proof.Machine Sys2Proof.Slice0

theorem bankReadReturnsTheBytes : BankReadReturnsTheBytes := by
  intro s g o t size off signed c hdue hk hp hs htx hb hpo
  have hsh : t.isSh = true := by simp [Target.isSh, hp, Spot.isSh]
  refine ⟨_, _, ?_, rfl, ?_, rfl⟩
  · rw [exec_bankRead hdue hk hsh, State.performLoad_dense hk hp rfl hs htx hpo hb rfl rfl rfl (s.supplied_of_near fun a h => by cases h) rfl]
    rfl
  · exact ⟨fun a => rfl, fun _ _ => rfl, fun _ => rfl, rfl⟩

theorem bankWriteChangesExactlyItsBytes : BankWriteChangesExactlyItsBytes := by
  intro s g x c off bs hg hx hparts hrel hb hwf new
  have hid : s.group? g.id = some g := by rw [(State.group?_some hg).2]; exact hg
  have hlen : new.length = bs.length := by
    cases h : x.add <;> simp [new, h, length_addBytes]
  have hput : (s.put (g.dropStore x)).group? g.id = some (g.dropStore x) := State.group?_put (g := g.dropStore x) hid
  have hfetched := (s.put (g.dropStore x)).fetched_deviceWrite_sh (some g.id) c off new
  obtain ⟨h, hh, hq⟩ := hfetched.groups _ _ hput
  have hshared := State.shared_deviceWrite (s := s.put (g.dropStore x)) hwf (some g.id) c off new
  rw [hlen] at hshared
  refine ⟨_, h, exec_bankStore hg hx hparts hrel hb, hh, hq.stores, hq.v, hq.s, hq.p, fun i hi => ?_, fun o ho => ?_,
    fun k o hk => ?_, fun a => hfetched.readPa a⟩
  · refine (hshared c (off + i)).trans ?_
    rw [if_pos rfl, if_pos (by omega), Nat.add_sub_cancel_left]
  · refine (hshared c o).trans ?_
    rw [if_pos rfl, if_neg (by omega)]
    rfl
  · refine (hshared k o).trans ?_
    rw [if_neg hk]
    rfl

theorem bankAtomicReadsModifiesWrites : BankAtomicReadsModifiesWrites := by
  intro s g o t op c off x y hdue hk hp hargs h1 h2 h3 hb hpo hwf htx ho old new
  obtain ⟨hg, -⟩ := State.due_some hdue
  obtain ⟨ha1, ha2⟩ := atomArgs_word op x y
  rw [← hargs] at ha1 ha2
  have hbytes : s.placeBytes ⟨.sh c.die c.core off, 4, .d, none⟩ = (List.range 4).map fun i => (s.coreD c).shared.read (off + i) := rfl
  generalize hoNat : bytesToNat ((List.range 4).map fun i => (s.coreD c).shared.read (off + i)) = n
  have hn : n < 2 ^ 32 := by
    have := bytesToNat_lt ((List.range 4).map fun i => (s.coreD c).shared.read (off + i))
    rw [hoNat] at this
    simpa using this
  have hold : old = BitVec.ofNat 32 n := by rw [← hoNat]
  have hval := atomValue_word x y hn h1 h2 h3 ha2
  rw [← ha1, ← hold] at hval
  generalize hv : atomValue op 4 n (atomArgs op 4 t.args).1 (atomArgs op 4 t.args).2 = v at hval
  have hrmw : s.rmw g.id op 4 (atomArgs op 4 t.args).1 (atomArgs op 4 t.args).2 [⟨.sh c.die c.core off, 4, .d, none⟩] =
      (n, s.bankRmw g.id c off v) := by
    rw [State.rmw_single (size := 4) s g.id op _ _ rfl, hbytes, hoNat, hv]
    cases v <;> rfl
  have hfetched := s.fetched_bankRmw g.id c off v
  obtain ⟨k, hk', hq⟩ := hfetched.groups _ _ hg
  have hkg := hq.same htx
  subst hkg
  have hsh : t.isSh = true := by simp [Target.isSh, hp, Spot.isSh]
  have hdo := State.performAtomic_single (sc := .core) hp rfl hb rfl (s.supplied_of_near fun a h => by cases h) rfl hpo hrmw hk' ho
  obtain ⟨hin, hout⟩ := State.shared_bankRmw hwf k.id c off v
  have hnew : new = atomWord op old x y := by cases op <;> rfl
  refine ⟨_, _, o.got t (natWords 4 n), (State.atomStep_eq (p := Target.isSh) hdue hk hsh).trans (congrArg _ hdo),
    State.group?_put (g := k.putOut _) hk', ?_, ?_, rfl, fun i hi => ?_, hout, fun a => hfetched.readPa a⟩
  · exact Group.find?_putOut ho rfl
  · rw [Outst.got, show natWords 4 n = [BitVec.ofNat 32 (n / 2 ^ 0)] from rfl, Nat.pow_zero, Nat.div_one, hold]
  · refine (hin i hi).trans ?_
    rw [hoNat, hval, hnew]

theorem storePerformChangesExactlyItsBytes : StorePerformChangesExactlyItsBytes := by
  intro s g x cls pa bs hg hx hparts hrel hadd hb hpa hline
  have hid : s.group? g.id = some g := by rw [(State.group?_some hg).2]; exact hg
  have hput : (s.put (g.dropStore x)).group? g.id = some (g.dropStore x) := State.group?_put (g := g.dropStore x) hid
  refine ⟨fun hcls hw hwf => ?_, fun hcls hroom => ?_⟩
  · have hm := (s.put (g.dropStore x)).mild_deviceWrite (some g.id) pa bs
    obtain ⟨hf, hm'⟩ := (s.put (g.dropStore x)).writePiece_home g.id pa bs.length bs hcls
    have hread := fun y => (hf.readPa y).trans ((State.readPa_deviceWrite _ _ pa bs y).trans
      (State.readPa_writePaBytes (s := s.put (g.dropStore x)) hwf pa bs y))
    obtain ⟨h, hh, hq⟩ := (hm.trans hm').groups _ _ hput
    refine ⟨_, h, exec_storePerform hg hx hparts hrel hadd hb hpa hw, hh, hq.stores, fun i hi => ?_, fun a ha => ?_, fun c o => ?_⟩
    · rw [hread, if_pos (by omega), Nat.add_sub_cancel_left]
      rfl
    · rw [hread, if_neg (by omega)]
      rfl
    · rw [(hm.trans hm').shared]
      rfl
  · subst hcls
    have hw : s.writable g.id.coreId ⟨.pa pa, bs.length, .s, none⟩ = true := (Bool.or_eq_true _ _).mpr (.inl hroom)
    obtain ⟨t, hm, hf, hwrite⟩ := State.writePiece_l1 (s := s.put (g.dropStore x)) (g := g.id) (a := pa) bs.length bs hroom
    have hcore : ∀ c, (t.modCore g.id.coreId (Core.l1Stored pa bs)).coreD c =
        if c = g.id.coreId then (t.coreD g.id.coreId).l1Stored pa bs else t.coreD c := fun c =>
      t.coreD_modCore g.id.coreId c (Core.l1Stored pa bs) fun _ => rfl
    obtain ⟨h, hh, hq⟩ := hm.groups _ _ hput
    refine ⟨t.modCore g.id.coreId (Core.l1Stored pa bs), h, (exec_storePerform hg hx hparts hrel hadd hb hpa hw).trans (congrArg _ hwrite),
      ?_, hq.stores, fun i hi => ?_, fun y hy => ?_, fun c y hc => ?_, fun a => ?_, fun c o => ?_⟩
    · rw [State.group?, State.modCore_groups]
      exact hh
    · rw [hcore, if_pos rfl]
      refine (l1Find_l1Store pa bs _ (pa + i)).trans ?_
      rw [if_pos (by omega), Nat.add_sub_cancel_left]
    · rw [hcore, if_pos rfl]
      exact ⟨fun hu => hm.l1s _ ((mem_l1Store hy).mp hu), fun hs hd => (mem_l1Store hy).mpr (hm.dirty _ y hs hd)⟩
    · rw [hcore, if_neg hc]
      exact ⟨fun hu => hm.l1s _ hu, fun hs hd => hm.dirty _ y hs hd⟩
    · exact (hf.trans (t.fetched_modCore _ _)).readPa a
    · have hshared : ((t.modCore g.id.coreId (Core.l1Stored pa bs)).coreD c).shared = (t.coreD c).shared := by
        rw [hcore]
        split
        next h => rw [h]; rfl
        · rfl
      rw [hshared, hm.shared]
      rfl

/-- Settles O20. -/
theorem performedAccessesTouchTheirBytesOnly : Obligations.PerformedAccessesTouchTheirBytesOnly :=
  ⟨bankReadReturnsTheBytes, bankWriteChangesExactlyItsBytes, bankAtomicReadsModifiesWrites, storePerformChangesExactlyItsBytes⟩

end Sys2Proof.Proofs
end

section
/-! ### An add-on-store that costs its own group a transaction (R325, R338, R414) -/

namespace Sys2Proof.Proofs

open Sys2Proof.Machine Sys2Proof.Slice0

/-- A REDST of thread 0 that is not yet performed, at line 0. -/
def pendingAdd : StoreReq :=
  { seq := 0, thread := 0, va := 0, parts := [(⟨.pa 0, 4, .d, none⟩, [0, 0, 0x80, 0x3F])], add := true }

/-- A store of thread 0 that is not yet performed, at another line. -/
def pendingStore : StoreReq := { seq := 1, thread := 0, va := 256, parts := [(⟨.pa 256, 4, .d, none⟩, [1, 2, 3, 4])] }

/-- Thread 1's load of the bytes of that store, in flight. -/
def pendingLoad : Outst := { seq := 2, ctr := 0, kind := .load 4 false none, todo := [⟨1, 256, [⟨.pa 256, 4, .d, none⟩], []⟩] }

/-- The group of these three, in a transaction that marks line 0 among more lines than a small one has. -/
def addingGroup : Machine.Group :=
  { id := ⟨0, 0, 0⟩, stores := [pendingAdd, pendingStore], out := [pendingLoad], seq := 3,
    tx := some { abortHdr := 0, mask := 0, reads := (List.range 17).map fun i => .pa (64 * i) } }

/-- The state with that group alone, whose core's L1 holds line 0. -/
def addingState : State := { State.reset with groups := [addingGroup], cores := [{ id := ⟨0, 0⟩, l1d := [0] }] }

/-- The stores that the group of a step's answer has left. -/
def storesAfter (o : Out) (i : GroupId) : Option (List StoreReq) :=
  match o with
  | .next u => (u.group? i).map Machine.Group.stores
  | _ => none

/-- The step drops the line from the L1, which aborts the transaction; the load in flight is performed first and is noted on the store
that it has read. -/
theorem storesAfter_lineAddOnStore :
    storesAfter (exec .lineAddOnStore addingState) addingGroup.id = some [{ pendingStore with readers := [1] }] := by decide +kernel

/-- Refutes O47: a LINE_ADD_ON_STORE may cost its own group a transaction, whose loads in flight are then performed and noted on the
group's other stores, where the statement has those stores stay exactly as they were; it asks no `tx = none`. -/
theorem not_homeAccessesReturnAndModifyTheirBytes : ¬ Obligations.HomeAccessesReturnAndModifyTheirBytes := by
  unfold Obligations.HomeAccessesReturnAndModifyTheirBytes
  rintro ⟨-, -, hline⟩
  obtain ⟨u, h, ws, he, hg, hs, -, -⟩ := hline addingState addingGroup pendingAdd 0 [0, 0, 0x80, 0x3F] rfl rfl rfl rfl (by decide)
    (by decide) (by decide) (by decide) (by decide)
  have hstores := storesAfter_lineAddOnStore
  rw [he] at hstores
  simp only [storesAfter, hg, Option.map_some, hs, Option.some.injEq] at hstores
  exact absurd hstores (by decide)

end Sys2Proof.Proofs
end

section
/-! ### Teams started and moved (R33, R39, R153, R155, R243, R244) -/

namespace Sys2Proof.Machine

open Sys2Proof.Slice0

/-! ### What an abort keeps of a group -/

theorem Group.task_readBy (g : Group) (q thread : Nat) (ps : List Piece) : (g.readBy q thread ps).task = g.task := by
  unfold Group.readBy
  dsimp only
  split <;> rfl

theorem State.task_readInto (s : State) (g : Group) (o : Outst) (t : Target) : (s.readInto g o t).task = g.task := by
  unfold State.readInto
  split
  · split
    · exact Group.task_readBy _ _ _ _
    · rfl
  · rfl

theorem State.task_settleLoads (s : State) (p : Outst → Target → Bool) (g : Group) : (s.settleLoads p g).task = g.task := by
  unfold State.settleLoads
  refine List.foldlRecOn (motive := fun h : Group => h.task = g.task) _ _ rfl fun h ih o _ => ?_
  refine List.foldlRecOn (motive := fun h : Group => h.task = g.task) _ _ ih fun h ih t _ => ?_
  split
  · exact (s.task_readInto _ _ _).trans ih
  · exact ih

theorem Group.task_seeAbort (g : Group) (cause code : Nat) : (g.seeAbort cause code).task = g.task := by
  unfold Group.seeAbort
  split <;> rfl

/-! ### What stands in the tables of teams, tasks and groups -/

/-- The slots of the groups with their tasks, and the tables of the schedulers. -/
def State.sheet (s : State) : List (GroupId × TaskKey) × List Team × List Task × List Ready × List Saved × List Decr :=
  (s.groups.map fun g => (g.id, g.task), s.teams, s.tasks, s.ready, s.saved, s.decrs)

theorem State.sheet_mapGroups (s : State) {f : Group → Group} (hf : ∀ g, (f g).id = g.id ∧ (f g).task = g.task) :
    (s.mapGroups f).sheet = s.sheet := by
  simp [State.sheet, State.mapGroups, Function.comp_def, hf]

theorem State.sheet_modCore (s : State) (c : CoreId) (f : Core → Core) : (s.modCore c f).sheet = s.sheet := by
  unfold State.modCore
  split <;> rfl

theorem State.sheet_disown (s : State) (p : Nat → Bool) : (s.disown p).sheet = s.sheet := by
  unfold State.disown
  split <;> rfl

theorem State.sheet_abortWhere (s : State) (p : Group → Tx → Bool) (cause : Nat) : (s.abortWhere p cause).sheet = s.sheet := by
  unfold State.abortWhere
  dsimp only
  split
  · rfl
  refine (State.foldl_view State.sheet (fun t c => t.sheet_modCore c _) _ _).trans ((State.sheet_disown _ _).trans
    (s.sheet_mapGroups fun g => ?_))
  have hs : ∀ c, ((s.settleReads g).seeAbort c 0).id = g.id ∧ ((s.settleReads g).seeAbort c 0).task = g.task := fun c =>
    ⟨((s.steady_settleLoads _ g).trans (Group.steady_seeAbort _ c 0)).id, (Group.task_seeAbort _ c 0).trans (s.task_settleLoads _ g)⟩
  split
  · exact hs _
  split
  · exact hs _
  · exact ⟨rfl, rfl⟩

theorem State.sheet_clearPoison (s : State) (x : Spot) (n : Nat) : (s.clearPoison x n).sheet = s.sheet := by
  unfold State.clearPoison
  split <;> rfl

theorem State.sheet_acquireL1 (s : State) (c : CoreId) (sc : Scope) : (s.acquireL1 c sc).sheet = s.sheet := by
  unfold State.acquireL1 State.dropS
  split
  · dsimp only
    split
    · rfl
    · exact (State.sheet_modCore _ _ _).trans (s.sheet_abortWhere _ _)
  · rfl

theorem State.sheet_writePaBytes (s : State) (a : Nat) (bs : List Byte) : (s.writePaBytes a bs).sheet = s.sheet := by
  induction bs generalizing s a with
  | nil => rfl
  | cons b bs ih =>
    have hpa : (s.writePa a b).sheet = s.sheet := by
      unfold State.writePa
      split <;> rfl
    exact (ih (s.writePa a b) (a + 1)).trans hpa

theorem State.sheet_noteWrite (s : State) (x : Spot) (n : Nat) : (s.noteWrite x n).sheet = s.sheet := by
  unfold State.noteWrite
  split
  · dsimp only
    split <;> rfl
  · rfl

theorem State.sheet_ringBell (s : State) (x : Spot) (n : Nat) : (s.ringBell x n).sheet = s.sheet := by
  unfold State.ringBell
  split
  · split <;> rfl
  · rfl

/-- A write's wakes change the tables of the schedulers by waking the teams that sleep on its bytes alone. -/
theorem State.sheet_wakeAt (s : State) (a n : Nat) :
    (s.wakeAt (.pa a) n).sheet = (s.wakeIf fun _ sl => (sl.obj.map fun o => overlaps a n o 32).getD false).sheet := by
  have hmap := fun u : State => u.sheet_mapGroups (f := fun g => { g with out := g.out.map (Outst.retryAt (.pa a) n) }) fun _ => ⟨rfl, rfl⟩
  unfold State.wakeAt
  dsimp only
  split
  · exact hmap _
  · exact hmap _

/-- What a write of the device keeps of the tables: what the wakes that it causes keep. -/
theorem State.view_deviceWrite {β : Type} {E : State → β} (hE : ∀ u v : State, v.sheet = u.sheet → E v = E u) {s : State}
    (hwake : ∀ u : State, u.sheet = s.sheet → ∀ p, E (u.wakeIf p) = E u) (w : Option GroupId) (a : Nat) (bs : List Byte) :
    E (s.deviceWrite w (.pa a) bs) = E s := by
  have hat : ∀ u : State, u.sheet = s.sheet → E (u.wakeAt (.pa a) bs.length) = E u := fun u hu =>
    (hE _ _ (u.sheet_wakeAt a bs.length)).trans (hwake u hu _)
  unfold State.deviceWrite State.outsideWrite
  rw [State.writeSpots_pa]
  have hpre := (State.sheet_clearPoison _ (.pa a) bs.length).trans ((State.sheet_writePaBytes _ a bs).trans
    ((State.sheet_noteWrite _ (.pa a) bs.length).trans
      (s.sheet_abortWhere (fun g t => decide (w ≠ some g.id) && s.txHit (.pa a) bs.length t) 1)))
  exact (hE _ _ (State.sheet_ringBell _ _ _)).trans ((hat _ hpre).trans (hE _ _ hpre))

/-- The teams, the tasks and the groups' slots. -/
def State.tables (s : State) : List Team × List Task × List GroupId := (s.teams, s.tasks, s.groups.map (·.id))

theorem State.of_tables_eq {t : State} {x : List Team} {y : List Task} {z : List GroupId} (h : t.tables = (x, y, z)) :
    t.teams = x ∧ t.tasks = y ∧ t.groups.map (·.id) = z :=
  ⟨congrArg Prod.fst h, congrArg (·.2.1) h, congrArg (·.2.2) h⟩

theorem State.tables_of_sheet (s t : State) (h : t.sheet = s.sheet) : t.tables = s.tables := by
  have hids : ∀ u : State, u.groups.map (·.id) = u.sheet.1.map Prod.fst := fun u => by
    rw [State.sheet, List.map_map]
    rfl
  rw [State.tables, hids, h, ← hids, show t.teams = s.teams from congrArg (·.2.1) h, show t.tasks = s.tasks from congrArg (·.2.2.1) h]
  rfl

/-- No team sleeps. -/
def State.Sleepless (s : State) : Prop := ∀ v ∈ s.teams, v.sleep = none

theorem State.Sleepless.of_tables {s t : State} (h : s.Sleepless) (ht : t.tables = s.tables) : t.Sleepless := by
  have he : t.teams = s.teams := congrArg Prod.fst ht
  intro v hv
  exact h v (he ▸ hv)

/-- Where no team sleeps nothing is woken. -/
theorem State.wakeIf_of_sleepless {s : State} (h : s.Sleepless) (p : Team → Sleep → Bool) : s.wakeIf p = s := by
  have hnil : (s.teams.filter fun t => (t.sleep.map (p t)).getD false) = [] :=
    List.filter_eq_nil_iff.mpr fun t ht => by rw [h t ht]; exact Bool.false_ne_true
  rw [State.wakeIf, hnil]
  rfl

theorem State.tables_deviceWrite {s : State} (h : s.Sleepless) (w : Option GroupId) (a : Nat) (bs : List Byte) :
    (s.deviceWrite w (.pa a) bs).tables = s.tables :=
  State.view_deviceWrite State.tables_of_sheet
    (fun u hu p => by rw [State.wakeIf_of_sleepless (h.of_tables (State.tables_of_sheet s u hu))]) w a bs

theorem State.tables_homeWrite {s : State} (h : s.Sleepless) (a : Nat) (bs : List Byte) : (s.homeWrite false (.pa a) bs).tables = s.tables :=
  State.tables_deviceWrite h none a bs

/-- A task's entry stored with its mirror keeps the teams and the groups' slots, where no team sleeps. -/
theorem State.tables_putTask {s : State} (h : s.Sleepless) (k : Task) :
    (s.putTask k).tables = (s.teams, s.tasks.map (fun u => if u.key = k.key then k else u), s.groups.map (·.id)) := by
  have hs : State.Sleepless { s with tasks := s.tasks.map fun u => if u.key = k.key then k else u } := h
  unfold State.putTask State.mirror
  dsimp only
  rw [State.tables_homeWrite (hs.of_tables (State.tables_homeWrite hs _ _)), State.tables_homeWrite hs]
  rfl

/-! ### A team's entry -/

/-- The entry of a task whose next team has started. -/
def Task.oneStarted (t : Task) : Task :=
  { t with started := t.started + 1, state := if t.state = .ready then .running else t.state,
           paddock := t.paddock && decide (t.started + 1 < t.teams) }

/-- A core whose shared store is cleared from `a` on. -/
def Core.cleared (a n : Nat) (x : Core) : Core := { x with shared := clearRange x.shared a n }

/-- The state in which a started team and its groups are entered: the task counts it and its shared-store range is clear. -/
def State.readied (s : State) (c : CoreId) (t : Task) (lin base : Nat) : State :=
  (((((s.takeReady t.key lin).putTask t.oneStarted).modCore c (Core.cleared base t.shb)).clearPoison (.sh c.die c.core base) t.shb)).acquireL1 c .dev

theorem State.tables_readied {s : State} (h : s.Sleepless) (c : CoreId) (t : Task) (lin base : Nat) :
    (s.readied c t lin base).tables = (s.teams, s.tasks.map (fun u => if u.key = t.key then t.oneStarted else u), s.groups.map (·.id)) := by
  have hr : (s.takeReady t.key lin).Sleepless := h
  exact (State.tables_of_sheet _ _ ((State.sheet_acquireL1 _ _ _).trans ((State.sheet_clearPoison _ _ _).trans
    (State.sheet_modCore _ _ _)))).trans (State.tables_putTask hr t.oneStarted)

theorem read_clearRange (m : Memory) {a n o : Nat} (h1 : a ≤ o) (h2 : o < a + n) : (clearRange m a n).read o = 0 := by
  induction m with
  | nil => rfl
  | cons c m ih =>
    rw [clearRange, List.filter_cons]
    split
    · next hc =>
      simp only [Bool.or_eq_true, decide_eq_true_eq] at hc
      rw [Memory.read, if_neg (by omega)]
      split
      · rfl
      · exact ih
    · exact ih

theorem Core.read_cleared (x : Core) {a n o : Nat} (h1 : a ≤ o) (h2 : o < a + n) : (x.cleared a n).shared.read o = 0 :=
  read_clearRange x.shared h1 h2

theorem State.coreD_clearPoison (s : State) (x : Spot) (n : Nat) (c : CoreId) : (s.clearPoison x n).coreD c = s.coreD c := by
  unfold State.clearPoison
  split <;> rfl

theorem State.shared_acquireL1 (s : State) (c : CoreId) (sc : Scope) (k : CoreId) : ((s.acquireL1 c sc).coreD k).shared = (s.coreD k).shared := by
  unfold State.acquireL1 State.dropS
  split
  · dsimp only
    split
    · rfl
    · exact ((State.mild_dropClean _ c _).shared k).trans ((s.mild_abortWhere _ _).shared k)
  · rfl

theorem State.shared_readied (s : State) (c : CoreId) (t : Task) (lin base : Nat) {o : Nat} (h1 : base ≤ o) (h2 : o < base + t.shb) :
    ((s.readied c t lin base).coreD c).shared.read o = 0 := by
  rw [State.readied, State.shared_acquireL1, State.coreD_clearPoison, State.coreD_modCore _ _ _ (Core.cleared base t.shb) fun _ => rfl, if_pos rfl]
  exact Core.read_cleared _ h1 h2

/-- The team that a core enters. -/
def Task.entryTeam (t : Task) (c : CoreId) (lin base depth n : Nat) : Team :=
  { task := t.key, lin := lin, core := c, groups := t.groups, live := liveMask t.groups, shBase := base, shLen := t.shb,
    depth := depth, started := n }

/-- A state with a team and groups entered. -/
def State.enter (s : State) (v : Team) (gs : List Group) : State :=
  { s with teams := s.teams ++ [v], groups := s.groups ++ gs, teamCount := s.teamCount + 1 }

theorem State.coreD_enter (s : State) (v : Team) (gs : List Group) (c : CoreId) : (s.enter v gs).coreD c = s.coreD c := rfl

/-- The groups of a team that starts on a core. -/
def Task.entryGroups (t : Task) (c : CoreId) (lin : Nat) (place : List Nat × Nat) : List Group :=
  (List.range t.groups).map fun i => t.entryGroup c (place.1.getD i 0) lin i place.2

/-- Where no team sleeps a start enters the team and its groups, and wakes nothing. -/
theorem State.startTeam_of_sleepless {s : State} (h : s.Sleepless) (c : CoreId) (t : Task) (lin depth : Nat) (place : List Nat × Nat) :
    s.startTeam c t lin depth place = (s.readied c t lin place.2).enter
      (t.entryTeam c lin place.2 depth (s.readied c t lin place.2).teamCount) (t.entryGroups c lin place) := by
  have hl : ((s.readied c t lin place.2).enter (t.entryTeam c lin place.2 depth (s.readied c t lin place.2).teamCount)
      (t.entryGroups c lin place)).Sleepless := fun v hv => by
    rcases List.mem_append.mp hv with hv | hv
    · have ht : (s.readied c t lin place.2).teams = s.teams := (State.of_tables_eq (State.tables_readied h c t lin place.2)).1
      exact h v (ht ▸ hv)
    · rw [List.mem_singleton.mp hv]
      rfl
  have hchain : ∀ k, State.wakeChain ((s.readied c t lin place.2).enter (t.entryTeam c lin place.2 depth
      (s.readied c t lin place.2).teamCount) (t.entryGroups c lin place)) k = _ := fun k => State.wakeIf_of_sleepless hl _
  have hstart : s.startTeam c t lin depth place = (State.wakeChain ((s.readied c t lin place.2).enter (t.entryTeam c lin place.2 depth
      (s.readied c t lin place.2).teamCount) (t.entryGroups c lin place)) t.key).wakeIf fun u sl => sl.obj.isNone && u.task == t.key := rfl
  rw [hstart, hchain]
  exact State.wakeIf_of_sleepless hl _

/-! ### The entry state of a group (R39) -/

/-- A single role gets 0 in s3: the role of a group where one number of groups is the whole. -/
theorem role_of_single {a b c i : Nat} (h : i < a + b + c) :
    (if [a, b, c].countP (· ≠ 0) = 1 then BitVec.ofNat 32 0 else BitVec.ofNat 32 (if i < a then 0 else if i < a + b then 1 else 2)).toNat =
      if a = a + b + c ∨ b = a + b + c ∨ c = a + b + c then 0 else if i < a then 0 else if i < a + b then 1 else 2 := by
  have hc : [a, b, c].countP (· ≠ 0) = 1 ↔ (a = a + b + c ∨ b = a + b + c ∨ c = a + b + c) := by
    by_cases ha : a = 0 <;> by_cases hb : b = 0 <;> by_cases hc : c = 0 <;> simp [ha, hb, hc] <;> omega
  rw [if_congr hc rfl rfl]
  split
  · rfl
  · split
    · rfl
    · split <;> rfl

/-- The scalar registers, the mask and the segments of a group that enters its team. -/
theorem Task.entryGroup_vget (k : Task) (c : CoreId) (slot lin i base : Nat) :
    (∀ t, t < 96 → ((k.entryGroup c slot lin i base).vget 0 t).toNat = t) ∧
      ∀ r t, 0 < r → (k.entryGroup c slot lin i base).vget r t = 0 := by
  constructor
  · intro t ht
    have h0 : (k.entryGroup c slot lin i base).v[0]? = some (Vector.ofFn fun i : Fin 96 => BitVec.ofNat 32 i.val) := rfl
    rw [Group.vget, h0]
    simp only [ht, getElem?_pos, Vector.getElem_ofFn, Option.getD_some, BitVec.toNat_ofNat]
    omega
  · intro r t hr
    obtain ⟨r, rfl⟩ : ∃ r', r = r' + 1 := ⟨r - 1, by omega⟩
    have hv : (k.entryGroup c slot lin i base).v =
        (Vector.ofFn fun i : Fin 96 => BitVec.ofNat 32 i.val) :: List.replicate (k.budget i - 1) (Vector.replicate 96 0) := rfl
    rw [Group.vget, hv, List.getElem?_cons_succ, List.getElem?_replicate]
    split
    · next x hx =>
      split at hx
      · cases hx
        simp only [Vector.getElem?_replicate]
        split <;> rfl
      · cases hx
    · rfl

theorem Task.entryGroup_sget (k : Task) (c : CoreId) (slot lin base : Nat) {i : Nat} (hi : i < k.groups) (hg : k.groups ≤ 16) :
    ((k.entryGroup c slot lin i base).sget 0).toNat = i ∧ (k.entryGroup c slot lin i base).sget 1 = BitVec.ofNat 32 lin ∧
      (k.entryGroup c slot lin i base).sget 2 = BitVec.ofNat 32 k.teams ∧
      ((k.entryGroup c slot lin i base).sget 63).toNat = k.groups ∧
      ((k.entryGroup c slot lin i base).sget 3).toNat =
        (if k.ng 0 = k.groups ∨ k.ng 1 = k.groups ∨ k.ng 2 = k.groups then 0 else k.role i) ∧
      (k.entryGroup c slot lin i base).sget 56 = 0 ∧ (k.entryGroup c slot lin i base).sget 57 = 0 := by
  have h0 : (k.entryGroup c slot lin i base).sget 0 = BitVec.ofNat 32 i := rfl
  have h63 : (k.entryGroup c slot lin i base).sget 63 = BitVec.ofNat 32 k.groups := rfl
  refine ⟨?_, rfl, rfl, ?_, ?_, rfl, rfl⟩
  · rw [h0, BitVec.toNat_ofNat]
    omega
  · rw [h63, BitVec.toNat_ofNat]
    omega
  · have h3 : (k.entryGroup c slot lin i base).sget 3 =
        if [k.ng 0, k.ng 1, k.ng 2].countP (· ≠ 0) = 1 then BitVec.ofNat 32 0 else BitVec.ofNat 32 (k.role i) := rfl
    rw [h3]
    exact role_of_single hi

theorem Task.entryGroup_active (k : Task) (c : CoreId) (slot lin i base : Nat) {t : Nat} (ht : t < 96) :
    (k.entryGroup c slot lin i base).isActive t = true := by
  have hm : (k.entryGroup c slot lin i base).mask = BitVec.allOnes 96 := by
    have hw : (k.entryGroup c slot lin i base).mask = maskOfWords 0xFFFFFFFF 0xFFFFFFFF 0xFFFFFFFF := rfl
    rw [hw]
    decide
  rw [Group.isActive, hm, maskBit, BitVec.getLsbD_allOnes]
  exact decide_eq_true ht

theorem Task.entryGroup_length (k : Task) (c : CoreId) (slot lin i base : Nat) : (k.entryGroup c slot lin i base).v.length = k.budget i := by
  have hv : (k.entryGroup c slot lin i base).v =
      (Vector.ofFn fun i : Fin 96 => BitVec.ofNat 32 i.val) :: List.replicate (k.budget i - 1) (Vector.replicate 96 0) := rfl
  have hb : k.budget i = 8 * (field k.roles.toNat (15 + 5 * k.role i) 32 + 1) := rfl
  rw [hv, List.length_cons, List.length_replicate]
  omega

theorem bitOf_toNat {n : Nat} (w : BitVec n) (i : Nat) : bitOf w.toNat i = w.getLsbD i := by
  rw [bitOf, BitVec.getLsbD, Nat.testBit_eq_decide_div_mod_eq]
  rfl

theorem Task.shb_eq (k : Task) : k.shb = k.shape.toNat % 2 ^ 20 := by
  rw [Task.shb, field, pow_zero, Nat.div_one]
  norm_num

/-- A group of a team that starts stands at its entry (R39). -/
theorem Task.entry_entryGroup (k : Task) (c : CoreId) (slot lin base : Nat) {i : Nat} (hi : i < k.groups) (hg : k.groups ≤ 16) :
    Slice0.entry (k.entryGroup c slot lin i base) k lin i base := by
  obtain ⟨s0, s1, s2, s63, s3, s56, s57⟩ := k.entryGroup_sget c slot lin base hi hg
  obtain ⟨v0, v1⟩ := k.entryGroup_vget c slot lin i base
  have hp : ∀ p t, (k.entryGroup c slot lin i base).pget p t = false := fun p t => by
    have h0 : (k.entryGroup c slot lin i base).p = Vector.replicate 12 0 := rfl
    rw [Group.pget, h0, Vector.getElem?_replicate]
    split
    · exact BitVec.getLsbD_zero
    · exact BitVec.getLsbD_zero
  have hpc : (k.entryGroup c slot lin i base).pc = k.entry.toArray.getD (k.role i) 0 := by
    have h0 : (k.entryGroup c slot lin i base).pc = k.entry[k.role i]?.getD 0 := rfl
    rw [h0, Array.getD_eq_getD_getElem?, Vector.getElem?_toArray]
  have h1 : (k.entryGroup c slot lin i base).seg[1] = ⟨BitVec.ofNat 64 base, BitVec.ofNat 64 (k.shape.toNat % 2 ^ 20)⟩ := by
    have h0 : (k.entryGroup c slot lin i base).seg[1] = ⟨BitVec.ofNat 64 base, BitVec.ofNat 64 k.shb⟩ := rfl
    rw [h0, k.shb_eq]
  exact ⟨rfl, rfl, rfl, hpc, rfl, rfl, k.entryGroup_length c slot lin i base, v0, v1, s0, s1, s2, s63, s3, s56, s57,
    fun t ht => k.entryGroup_active c slot lin i base ht, hp, rfl, rfl, rfl, bitOf_toNat k.shape 28, rfl, rfl, h1, rfl, rfl⟩

/-! ### The team that a core takes (R243) -/

/-- Among entries of which one alone has the highest priority, that entry's team is the one to start. -/
theorem State.nextStart_of_highest {s : State} {c : CoreId} {q : List Ready} {r : Ready} {x : Start} (hr : r ∈ q) (hp : s.entryPrio r ≤ 7)
    (hq : ∀ y ∈ q, y ≠ r → s.entryPrio y < s.entryPrio r) (hx : s.tryEntry c r = some x) : s.nextStart c q = some x := by
  have hfilter : ∀ i, 7 - s.entryPrio r = i → (q.filter fun y => s.entryPrio y + i = 7).findSome? (s.tryEntry c) = some x := fun i hi => by
    have hall : ∀ y ∈ q.filter fun y => s.entryPrio y + i = 7, y = r := fun y hy => by
      obtain ⟨hy, he⟩ := List.mem_filter.mp hy
      have he := of_decide_eq_true he
      by_contra hne
      have := hq y hy hne
      omega
    obtain ⟨y, ys, hcons⟩ : ∃ y ys, q.filter (fun y => s.entryPrio y + i = 7) = y :: ys :=
      List.exists_cons_of_ne_nil (List.ne_nil_of_mem (List.mem_filter.mpr ⟨hr, decide_eq_true (by omega)⟩))
    rw [hcons, List.findSome?_cons, hall y (hcons ▸ List.mem_cons_self), hx]
  have hnone : ∀ i, i < 7 - s.entryPrio r → (q.filter fun y => s.entryPrio y + i = 7).findSome? (s.tryEntry c) = none := fun i hi => by
    have hnil : (q.filter fun y => s.entryPrio y + i = 7) = [] := List.filter_eq_nil_iff.mpr fun y hy he => by
      have he := of_decide_eq_true he
      by_cases hne : y = r
      · subst hne
        omega
      · have := hq y hy hne
        omega
    rw [hnil]
    rfl
  rw [State.nextStart, List.findSome?_eq_some_iff]
  refine ⟨List.range (7 - s.entryPrio r), 7 - s.entryPrio r, (List.range (s.entryPrio r)).map (7 - s.entryPrio r + 1 + ·), ?_, hfilter _ rfl,
    fun i hi => hnone i (List.mem_range.mp hi)⟩
  obtain ⟨d, hd⟩ : ∃ d, d = 7 - s.entryPrio r := ⟨_, rfl⟩
  rw [← hd, show 8 = (d + 1) + s.entryPrio r by omega, List.range_add, List.range_succ, List.append_assoc]
  rfl

theorem liveMask_bit (n : Nat) {i : Nat} (hi : i < 16) : (liveMask n).getLsbD i = decide (i < n) := by
  rw [liveMask, BitVec.getLsbD_ofNat, Nat.testBit_two_pow_sub_one, decide_eq_true hi, Bool.true_and]

/-- The group found at a slot, among groups entered in slots of their own. -/
theorem find?_entryGroups {k : Task} {c : CoreId} {lin : Nat} {place : List Nat × Nat} (hn : place.1.Nodup) (hl : place.1.length = k.groups)
    {i n : Nat} (hi : place.1[i]? = some n) :
    (k.entryGroups c lin place).find? (fun g => g.id = ⟨c.die, c.core, n⟩) = some (k.entryGroup c n lin i place.2) := by
  obtain ⟨hil, hin⟩ := List.getElem?_eq_some_iff.mp hi
  have hd : place.1.getD i 0 = n := by rw [List.getD_eq_getElem?_getD, hi, Option.getD_some]
  have hmem : k.entryGroup c n lin i place.2 ∈ k.entryGroups c lin place :=
    List.mem_map.mpr ⟨i, List.mem_range.mpr (hl ▸ hil), by rw [hd]⟩
  have hone : ∀ g ∈ k.entryGroups c lin place, g.id = ⟨c.die, c.core, n⟩ → g = k.entryGroup c n lin i place.2 := fun g hg he => by
    obtain ⟨j, hj, rfl⟩ := List.mem_map.mp hg
    have hjl : j < place.1.length := hl ▸ List.mem_range.mp hj
    have hjn : place.1.getD j 0 = n := congrArg GroupId.slot he
    have hji : j = i := by
      rw [List.getD_eq_getElem?_getD, List.getElem?_eq_getElem hjl, Option.getD_some] at hjn
      exact (List.Nodup.getElem_inj_iff hn).mp (hjn.trans hin.symm)
    rw [hji, hd]
  cases hf : (k.entryGroups c lin place).find? (fun g => g.id = ⟨c.die, c.core, n⟩) with
  | none => exact absurd (decide_eq_true rfl) (List.find?_eq_none.mp hf _ hmem)
  | some g => rw [hone g (List.mem_of_find?_eq_some hf) (by simpa using List.find?_some hf)]

/-- A started team is in its table, its task counts it and its groups are in their slots. -/
theorem State.enter_found {s t : State} {k : Task} {lin : Nat} {v : Team} {gs : List Group} {tasks : List Task}
    (ht : t.tables = (s.teams, tasks, s.groups.map (·.id))) (hv : s.team? k.key lin = none) (hk : v.task = k.key) (hlin : v.lin = lin) :
    (t.enter v gs).team? k.key lin = some v ∧ (∀ r, (t.enter v gs).task? r = tasks.find? fun u => u.key = r) ∧
      ∀ i, s.group? i = none → (t.enter v gs).group? i = gs.find? fun g => g.id = i := by
  obtain ⟨hteams, htasks, hids⟩ := State.of_tables_eq ht
  refine ⟨?_, fun r => congrArg (List.find? _) htasks, fun i hi => ?_⟩
  · have h0 : (t.enter v gs).team? k.key lin = (s.teams ++ [v]).find? fun u => u.task = k.key ∧ u.lin = lin := congrArg (fun l => (l ++ [v]).find? _) hteams
    rw [h0, List.find?_append, show s.teams.find? _ = none from hv, List.find?_singleton, if_pos (by rw [hk, hlin]; exact decide_eq_true ⟨rfl, rfl⟩)]
    rfl
  · have hnone : (t.groups.find? fun g => g.id = i) = none := List.find?_eq_none.mpr fun g hg he => by
      have hm : g.id ∈ s.groups.map (·.id) := hids ▸ List.mem_map_of_mem hg
      obtain ⟨g', hg', hid⟩ := List.mem_map.mp hm
      exact List.find?_eq_none.mp hi g' hg' (decide_eq_true (hid.trans (of_decide_eq_true he)))
    have h0 : (t.enter v gs).group? i = (t.groups ++ gs).find? fun g => g.id = i := rfl
    rw [h0, List.find?_append, hnone]
    rfl

/-- The entry found at a key, where the entry of that key has been replaced. -/
theorem find?_replaced {l : List Task} {k k' : Task} {r : TaskKey} (h : l.find? (fun t => t.key = r) = some k) (hk : k'.key = k.key) (hr : k.key = r) :
    (l.map fun u => if u.key = k.key then k' else u).find? (fun t => t.key = r) = some k' := by
  subst hr
  induction l with
  | nil => cases h
  | cons u l ih =>
    rw [List.map_cons, List.find?_cons]
    by_cases hu : u.key = k.key
    · rw [if_pos hu, decide_eq_true hk]
    · rw [if_neg hu, decide_eq_false hu]
      exact ih (by rwa [List.find?_cons_of_neg (by simpa using hu)] at h)

/-- A core with room starts the first team of its die's entry of the highest priority. -/
theorem exec_teamStart {s : State} {r : Ready} {k : Task} {place : List Nat × Nat} (hr : r ∈ s.ready) (hdie : r.die = s.args.core.die)
    (hsaved : r.saved = false) (htask : s.task? r.task = some k) (hprio : k.eprio ≤ 7)
    (hothers : ∀ x ∈ s.ready, x.die = s.args.core.die → x ≠ r → s.entryPrio x < k.eprio)
    (hroom : s.roomFor s.args.core none k r.first k.budgets false = some place) :
    exec .teamStart s = .next (s.startTeam s.args.core k r.first 0 place) := by
  have hp : s.entryPrio r = k.eprio := by
    rw [State.entryPrio, htask]
    rfl
  have htry : s.tryEntry s.args.core r = some (.fresh k r.first place) := by
    rw [State.tryEntry, htask]
    dsimp only
    rw [if_neg (by rw [hsaved]; exact Bool.false_ne_true), hroom]
    rfl
  have hstart : s.nextStart s.args.core (s.ready.filter fun r => r.die = s.args.core.die) = some (.fresh k r.first place) :=
    State.nextStart_of_highest (List.mem_filter.mpr ⟨hr, decide_eq_true hdie⟩) (hp ▸ hprio)
      (fun y hy hne => hp ▸ hothers y (List.mem_filter.mp hy).1 (of_decide_eq_true (List.mem_filter.mp hy).2) hne) htry
  have hexec : exec .teamStart s = execTeamStart s := rfl
  rw [hexec, execTeamStart, hstart]

/-- TEAM_START enters a team and its groups. -/
theorem teamStartEntersItsGroups : TeamStartEntersItsGroups := by
  intro s r k slots base hr hdie hsaved htask hprio hkey hothers hroom hnodup hlen hfree hnone hgroups hsleep
  have hexec := exec_teamStart hr hdie hsaved htask hprio hothers hroom
  rw [State.startTeam_of_sleepless hsleep] at hexec
  have htab := State.tables_readied hsleep s.args.core k r.first base
  obtain ⟨hteam, htasks, hgroup⟩ := State.enter_found (v := k.entryTeam s.args.core r.first base 0 (s.readied s.args.core k r.first base).teamCount)
    (gs := k.entryGroups s.args.core r.first (slots, base)) htab hnone rfl rfl
  refine ⟨_, _, hexec, hteam, rfl, rfl, k.shb_eq, fun i hi => liveMask_bit _ hi, ⟨k.oneStarted, ?_, rfl, rfl⟩, ?_, ?_⟩
  · have hfind : s.tasks.find? (fun t => t.key = k.key) = some k := hkey ▸ htask
    have hrep := find?_replaced (k' := k.oneStarted) hfind rfl rfl
    exact (htasks k.key).trans hrep
  · intro o h1 h2
    rw [State.coreD_enter]
    exact s.shared_readied s.args.core k r.first base h1 (by rwa [k.shb_eq])
  · intro i n hi
    have hil : i < k.groups := hlen ▸ (List.getElem?_eq_some_iff.mp hi).1
    exact ⟨_, (hgroup _ (hfree n (List.mem_of_getElem? hi))).trans (find?_entryGroups (place := (slots, base)) hnodup hlen hi),
      k.entry_entryGroup s.args.core n r.first base hil hgroups⟩

/-! ### Teams moved to another die (R243) -/

/-- The entries that take the place of one whose `n` teams from `a` on move to die `d`. -/
def Ready.cut (r : Ready) (a n d : Nat) : List Ready :=
  [{ r with count := a - r.first }, { r with first := a, count := n, die := d },
    { r with first := a + n, count := r.first + r.count - (a + n) }].filter fun x => x.count ≠ 0

theorem Ready.of_mem_cut {r p : Ready} {a n d : Nat} (h : p ∈ r.cut a n d) : p.task = r.task ∧ p.saved = r.saved := by
  have hm := (List.mem_filter.mp h).1
  simp only [List.mem_cons, List.not_mem_nil, or_false] at hm
  rcases hm with rfl | rfl | rfl <;> exact ⟨rfl, rfl⟩

/-- Every team of the entry stands in one entry of the cut, the moved ones on the new die. -/
theorem Ready.mem_cut_iff {r : Ready} {a n d : Nat} (h1 : r.first ≤ a) (h2 : a + n ≤ r.first + r.count) (l die : Nat) :
    (∃ p ∈ r.cut a n d, p.first ≤ l ∧ l < p.first + p.count ∧ p.die = die) ↔
      r.first ≤ l ∧ l < r.first + r.count ∧ die = if a ≤ l ∧ l < a + n then d else r.die := by
  have hmem : ∀ p : Ready, p ∈ r.cut a n d ↔ (p = { r with count := a - r.first } ∨ p = { r with first := a, count := n, die := d } ∨
      p = { r with first := a + n, count := r.first + r.count - (a + n) }) ∧ p.count ≠ 0 := fun p => by
    rw [Ready.cut, List.mem_filter, decide_eq_true_eq]
    simp only [List.mem_cons, List.not_mem_nil, or_false]
  constructor
  · rintro ⟨p, hp, hl1, hl2, rfl⟩
    rcases ((hmem p).mp hp).1 with rfl | rfl | rfl
    · have hl2 : l < r.first + (a - r.first) := hl2
      have hl1 : r.first ≤ l := hl1
      exact ⟨hl1, by omega, (if_neg (by omega)).symm⟩
    · have hl2 : l < a + n := hl2
      have hl1 : a ≤ l := hl1
      exact ⟨by omega, by omega, (if_pos ⟨hl1, hl2⟩).symm⟩
    · have hl2 : l < a + n + (r.first + r.count - (a + n)) := hl2
      have hl1 : a + n ≤ l := hl1
      exact ⟨by omega, by omega, (if_neg (by omega)).symm⟩
  · rintro ⟨hl1, hl2, rfl⟩
    by_cases hlow : l < a
    · have hc : a - r.first ≠ 0 := by omega
      have hin : l < r.first + (a - r.first) := by omega
      exact ⟨_, (hmem _).mpr ⟨.inl rfl, hc⟩, hl1, hin, (if_neg (by omega)).symm⟩
    by_cases hmid : l < a + n
    · have hc : n ≠ 0 := by omega
      have hlo : a ≤ l := by omega
      exact ⟨_, (hmem _).mpr ⟨.inr (.inl rfl), hc⟩, hlo, hmid, (if_pos ⟨by omega, hmid⟩).symm⟩
    · have hc : r.first + r.count - (a + n) ≠ 0 := by omega
      have hlo : a + n ≤ l := by omega
      have hin : l < a + n + (r.first + r.count - (a + n)) := by omega
      exact ⟨_, (hmem _).mpr ⟨.inr (.inr rfl), hc⟩, hlo, hin, (if_neg (by omega)).symm⟩

/-- TEAM_BALANCE of whole clusters that no started member binds elsewhere cuts their queue entry. -/
theorem exec_teamBalance {s : State} {r : Ready} {k : Task} (hr : s.ready[s.args.k]? = some r) (htask : s.task? r.task = some k)
    (hsaved : r.saved = false) (ha : s.args.x.toNat % k.k = 0) (hn : s.args.n % k.k = 0)
    (hdie : ∀ d, s.clusterDie k s.args.x.toNat false = some d → d = s.args.t) (h1 : r.first ≤ s.args.x.toNat)
    (h2 : s.args.x.toNat + s.args.n ≤ r.first + r.count) (h8 : s.args.t < 8) :
    exec .teamBalance s = .next { s with ready := s.ready.take s.args.k ++ r.cut s.args.x.toNat s.args.n s.args.t ++ s.ready.drop (s.args.k + 1) } := by
  have hbound : ((s.clusterDie k s.args.x.toNat false).map fun d => d == s.args.t).getD true = true := by
    cases hd : s.clusterDie k s.args.x.toNat false with
    | none => rfl
    | some d => exact beq_iff_eq.mpr (hdie d hd)
  have hend : (s.args.x.toNat + s.args.n) % k.k = 0 := by rw [Nat.add_mod, ha, hn, Nat.zero_mod]
  have hexec : exec .teamBalance s = execTeamBalance s := rfl
  rw [hexec, execTeamBalance, hr]
  dsimp only
  rw [htask]
  dsimp only
  refine if_pos ?_
  rw [hbound, ha, hend, hsaved, decide_eq_true h1, decide_eq_true h2, decide_eq_true h8]
  rfl

theorem teamBalanceMovesWholeClusters : TeamBalanceMovesWholeClusters := by
  intro s r k hr htask hsaved a n kk ha hn hdie h1 h2 h8
  have hk : k.k = kk := rfl
  exact ⟨r.cut a n s.args.t, exec_teamBalance hr htask hsaved (hk ▸ ha) (hk ▸ hn) hdie h1 h2 h8,
    fun p hp => ⟨(Ready.of_mem_cut hp).1, (Ready.of_mem_cut hp).2.trans hsaved⟩, fun l die => Ready.mem_cut_iff h1 h2 l die⟩

end Sys2Proof.Machine

namespace Sys2Proof.Proofs

open Sys2Proof.Machine

/-- Settles O31: where no team sleeps the start's mirror and clears keep the tables, so that the entered team and its groups are
found in the state that it answers; a moved range of teams cuts its queue entry into at most three. -/
theorem teamsStartAndMove : Obligations.TeamsStartAndMove :=
  ⟨teamStartEntersItsGroups, teamBalanceMovesWholeClusters⟩

end Sys2Proof.Proofs
end

section
/-! ### Tasks killed and reclaimed, cores retired, resets (R36, R40, R246, R395, R424, R425, R455 to R463) -/

namespace Sys2Proof.Machine

open Sys2Proof.Slice0

/-! ### What a kill keeps of the tables -/

/-- What no write or wake changes of a task's entry. -/
def Task.grip (t : Task) : TaskKey × List Word × TaskState × Bool := (t.key, t.succ, t.state, t.paddock)

/-- Whose the groups and the teams are, what no write or wake changes of the tasks, and the queues. -/
structure Roll where
  groups : List TaskKey
  teams : List TaskKey
  tasks : List (TaskKey × List Word × TaskState × Bool)
  ready : List Ready
  saved : List Saved
  decrs : List Decr

def State.roll (s : State) : Roll :=
  ⟨s.groups.map (·.task), s.teams.map (·.task), s.tasks.map Task.grip, s.ready, s.saved, s.decrs⟩

theorem State.roll_of_sheet (s t : State) (h : t.sheet = s.sheet) : t.roll = s.roll := by
  have hroll : ∀ u : State, u.roll = ⟨u.sheet.1.map Prod.snd, u.sheet.2.1.map (·.task), u.sheet.2.2.1.map Task.grip, u.sheet.2.2.2.1,
      u.sheet.2.2.2.2.1, u.sheet.2.2.2.2.2⟩ := fun u => by
    rw [State.sheet, List.map_map]
    rfl
  rw [hroll, h, ← hroll]

theorem State.roll_mapGroups (s : State) {f : Group → Group} (hf : ∀ g, (f g).task = g.task) : (s.mapGroups f).roll = s.roll := by
  simp [State.roll, State.mapGroups, Function.comp_def, hf]

/-- Entries rewritten at one key, with their grip kept. -/
theorem map_grip_of_kept {l : List Task} {f : Task → Task} (hf : ∀ t, (f t).grip = t.grip) : (l.map f).map Task.grip = l.map Task.grip := by
  rw [List.map_map]
  exact List.map_congr_left fun t _ => hf t

theorem State.roll_setWaiton (s : State) (k : TaskKey) (o : Word) : (s.setWaiton k o).roll = s.roll := by
  have ht := map_grip_of_kept (l := s.tasks) (f := fun t => if t.key = k then { t with waiton := o } else t) fun t => by
    split <;> rfl
  unfold State.roll State.setWaiton State.lag
  rw [ht]

theorem State.roll_recomputePrio (s : State) (k : TaskKey) : (s.recomputePrio k).roll = s.roll := by
  unfold State.roll State.recomputePrio State.lag
  rw [map_grip_of_kept fun t => by split <;> rfl]

theorem State.roll_putTeam (s : State) (v : Team) : (s.putTeam v).roll = s.roll := by
  have ht : (s.teams.map fun u => if u.task = v.task ∧ u.lin = v.lin then v else u).map (·.task) = s.teams.map (·.task) := by
    rw [List.map_map]
    refine List.map_congr_left fun u _ => ?_
    rw [Function.comp_apply]
    split
    next h => exact h.1.symm
    · rfl
  unfold State.roll State.putTeam
  rw [ht]

theorem State.roll_wakeTeam (s : State) (v : Team) : (s.wakeTeam v).roll = s.roll := by
  unfold State.wakeTeam
  split
  · rfl
  · refine (State.foldl_view State.roll State.roll_recomputePrio _ _).trans ((State.roll_mapGroups _ fun g => ?_).trans
      ((State.roll_setWaiton _ _ _).trans (s.roll_putTeam _)))
    split <;> rfl

theorem State.roll_wakeIf (s : State) (p : Team → Sleep → Bool) : (s.wakeIf p).roll = s.roll :=
  State.foldl_view State.roll State.roll_wakeTeam _ s

theorem State.roll_deviceWrite (s : State) (w : Option GroupId) (a : Nat) (bs : List Byte) : (s.deviceWrite w (.pa a) bs).roll = s.roll :=
  State.view_deviceWrite State.roll_of_sheet (fun u _ p => u.roll_wakeIf p) w a bs

theorem State.roll_homeWrite (s : State) (a : Nat) (bs : List Byte) : (s.homeWrite false (.pa a) bs).roll = s.roll :=
  s.roll_deviceWrite none a bs

theorem State.roll_mirror (s : State) (k : Task) : (s.mirror k).roll = s.roll := by
  unfold State.mirror
  dsimp only
  rw [State.roll_homeWrite, State.roll_homeWrite]

theorem State.roll_ringPush {s t : State} {r : Nat} {bs : List Byte} (h : s.ringPush r bs = some t) : t.roll = s.roll := by
  by_cases hr : s.ringLen r = (s.ring r).2.1
  · rw [State.ringPush, if_pos hr] at h
    exact absurd h.symm (Option.some_ne_none t)
  · rw [State.ringPush, if_neg hr] at h
    rw [← Option.some.inj h, State.roll_deviceWrite, State.roll_deviceWrite]

theorem State.roll_flogPush (s : State) (d : Nat) (e : List Byte) : (s.flogPush d e).roll = s.roll := by
  rw [State.flogPush]
  cases h : s.ringPush (d + 0xB0) e with
  | none => rw [Option.getD_none, State.roll_deviceWrite]
  | some t => rw [Option.getD_some, State.roll_ringPush h]

theorem State.roll_flog (s : State) (k : TaskKey) (code : Nat) (addr : DWord) (loc : Word) (depth : Nat) :
    (s.flog k code addr loc depth).roll = s.roll := by
  unfold State.flog
  split
  · rfl
  · exact s.roll_flogPush _ _

theorem State.roll_tokensDone (s : State) (c : CoreId) : (s.tokensDone c).roll = s.roll := by
  unfold State.tokensDone
  refine s.roll_mapGroups fun g => ?_
  split <;> rfl

theorem State.roll_popFrame (s : State) (c : CoreId) (k : TaskKey) (lin : Nat) : (s.popFrame c k lin).roll = s.roll := by
  unfold State.popFrame
  split
  · rfl
  · refine (State.roll_mapGroups _ fun g => ?_).trans ((State.roll_setWaiton _ _ _).trans (State.roll_of_sheet _ _ (s.sheet_modCore _ _)))
    split <;> rfl

theorem State.roll_wakeOwned (s : State) (k : TaskKey) : (s.wakeOwned k).roll = s.roll := by
  unfold State.wakeOwned
  refine (State.roll_mapGroups _ fun g => ?_).trans (Eq.trans (b := (s.wakeChain k).roll) rfl (s.roll_wakeIf _))
  unfold State.retryOwned
  split <;> rfl

/-! ### The kill -/

/-- The tables without a task's groups, teams and queue entries. -/
def Roll.ended (r : Roll) (k : TaskKey) : Roll :=
  { r with groups := r.groups.filter (· ≠ k), teams := r.teams.filter (· ≠ k), ready := r.ready.filter (·.task ≠ k),
           saved := r.saved.filter (·.team.task ≠ k) }

/-- The tables with a task KILLED, out of the paddock, and its successors sent a decrement. -/
def Roll.killed (r : Roll) (k : Task) : Roll :=
  { r with tasks := r.tasks.map (fun e => if e.1 = k.key then (k.key, k.succ, .killed, false) else e),
           decrs := r.decrs ++ k.succ.map fun w => ⟨k.key, some w⟩ }

/-- The state in which the teams of a task have ended, with what its cores hold for them. -/
def State.ended (s : State) (k : TaskKey) (gone : List GroupId) : State :=
  { s with
    cores := s.cores.map (Core.abandon k gone)
    groups := s.groups.filter fun g => g.task ≠ k
    teams := s.teams.filter fun t => t.task ≠ k
    saved := s.saved.filter fun v => v.team.task ≠ k
    ready := s.ready.filter fun r => r.task ≠ k
    wide := s.wide.filter fun w => w.task ≠ k
    migrations := s.migrations.map fun m => { m with waiters := m.waiters.filter fun g => !gone.contains g }
    hmaskQ := s.hmaskQ.map (HmaskReq.orphan gone) }

theorem State.roll_ended (s : State) (k : TaskKey) (gone : List GroupId) : (s.ended k gone).roll = s.roll.ended k := by
  simp only [State.roll, Roll.ended, State.ended, List.filter_map]
  rfl

/-- The successors of a task to be decremented. -/
def State.sendDecrs (s : State) (k : Task) : State := { s with decrs := s.decrs ++ k.succ.map fun x => ⟨k.key, some x⟩ }

theorem State.roll_killed (s : State) (k : Task) : ((s.putTask { k with state := .killed, paddock := false }).sendDecrs k).roll = s.roll.killed k := by
  have hput : (s.putTask { k with state := .killed, paddock := false }).roll =
      { s.roll with tasks := s.roll.tasks.map fun e => if e.1 = k.key then (k.key, k.succ, .killed, false) else e } := by
    unfold State.putTask
    rw [State.roll_mirror]
    simp only [State.roll, List.map_map]
    congr 1
    refine List.map_congr_left fun u _ => ?_
    rw [Function.comp_apply, Function.comp_apply]
    split
    next h => rw [if_pos (show u.grip.1 = k.key from h)]; rfl
    next h => rw [if_neg (show ¬ u.grip.1 = k.key from h)]
  have hdec : ∀ u : State, (u.sendDecrs k).roll = { u.roll with decrs := u.roll.decrs ++ k.succ.map fun x => ⟨k.key, some x⟩ } := fun u => rfl
  rw [hdec, hput]
  rfl

/-- The state in which the teams of a task have ended, with the tokens that they held and the frames of its adopted teams given up. -/
def State.endTeams (s : State) (k : TaskKey) (gone : List GroupId) (adopted : List Team) : State :=
  adopted.foldl (fun s t => s.popFrame t.core k t.lin) ((s.ended k gone).cores.foldl (fun s c => s.tokensDone c.id) (s.ended k gone))

theorem State.roll_endTeams (s : State) (k : TaskKey) (gone : List GroupId) (adopted : List Team) :
    (s.endTeams k gone adopted).roll = s.roll.ended k :=
  (State.foldl_view State.roll (fun t _ => t.roll_popFrame _ _ _) _ _).trans
    ((State.foldl_view State.roll (fun t _ => t.roll_tokensDone _) _ _).trans (s.roll_ended k gone))

/-- A task that is not FINISHED or KILLED is killed: its teams end, it is stored KILLED, and what waits for it is woken. -/
theorem State.kill_eq {s : State} {k : Task} (hk : s.task? k.key = some k) (hn : ¬ (k.state = .finished ∨ k.state = .killed)) (code : Nat)
    (addr : DWord) (loc : Word) (depth : Nat) : s.kill k.key code addr loc depth =
      (((((s.flog k.key code addr loc depth).disown fun _ => true).endTeams k.key ((s.groups.filter fun g => g.task = k.key).map (·.id))
        (s.teams.filter fun t => t.task = k.key)).putTask { k with state := .killed, paddock := false }).sendDecrs k).wakeOwned k.key := by
  have hlive : (k.state = .finished || k.state = .killed) = false := by simpa using hn
  rw [State.kill]
  dsimp only
  rw [hk, Option.map_some, Option.getD_some, hlive, if_neg Bool.false_ne_true]
  rfl

theorem State.roll_kill {s : State} {k : Task} (hk : s.task? k.key = some k) (hn : ¬ (k.state = .finished ∨ k.state = .killed)) (code : Nat)
    (addr : DWord) (loc : Word) (depth : Nat) : (s.kill k.key code addr loc depth).roll = (s.roll.ended k.key).killed k := by
  rw [State.kill_eq hk hn, State.roll_wakeOwned, State.roll_killed, State.roll_endTeams, State.roll_of_sheet _ _ (State.sheet_disown _ _),
    State.roll_flog]

/-- A task found by its key, from what no write or wake changes of the tables. -/
theorem State.grip_task? (s : State) (k : TaskKey) : (s.task? k).map Task.grip = s.roll.tasks.find? fun e => e.1 = k := by
  rw [State.roll, List.find?_map]
  rfl

theorem Roll.find?_killed (r : Roll) {k : Task} {e : TaskKey × List Word × TaskState × Bool}
    (h : r.tasks.find? (fun e => e.1 = k.key) = some e) :
    (r.killed k).tasks.find? (fun e => e.1 = k.key) = some (k.key, k.succ, .killed, false) := by
  have he : e.1 = k.key := by simpa using List.find?_some h
  have hp : ((fun e : TaskKey × List Word × TaskState × Bool => decide (e.1 = k.key)) ∘
      fun e => if e.1 = k.key then (k.key, k.succ, TaskState.killed, false) else e) = fun e => decide (e.1 = k.key) := by
    funext x
    by_cases hx : x.1 = k.key <;> simp [hx]
  rw [Roll.killed, List.find?_map, hp, h, Option.map_some, if_pos he]

/-- Where the tables are those of a kill, nothing of the task is left in them. -/
theorem State.none_of_killed {t : State} {r : Roll} {k : Task} (h : t.roll = (r.ended k.key).killed k) :
    (∀ g ∈ t.groups, g.task ≠ k.key) ∧ (∀ u ∈ t.teams, u.task ≠ k.key) ∧ (∀ x ∈ t.ready, x.task ≠ k.key) ∧
      ∀ v ∈ t.saved, v.team.task ≠ k.key := by
  have ht : t.roll.groups = (r.ended k.key).groups := by rw [h]; rfl
  have hu : t.roll.teams = (r.ended k.key).teams := by rw [h]; rfl
  have hr : t.roll.ready = (r.ended k.key).ready := by rw [h]; rfl
  have hs : t.roll.saved = (r.ended k.key).saved := by rw [h]; rfl
  refine ⟨fun g hg => ?_, fun u hv => ?_, fun x hx => ?_, fun v hv => ?_⟩
  · have hm : g.task ∈ (r.ended k.key).groups := ht ▸ List.mem_map_of_mem hg
    exact of_decide_eq_true (List.mem_filter.mp hm).2
  · have hm : u.task ∈ (r.ended k.key).teams := hu ▸ List.mem_map_of_mem hv
    exact of_decide_eq_true (List.mem_filter.mp hm).2
  · have hm : x ∈ (r.ended k.key).ready := hr ▸ hx
    exact of_decide_eq_true (List.mem_filter.mp hm).2
  · have hm : v ∈ (r.ended k.key).saved := hs ▸ hv
    exact of_decide_eq_true (List.mem_filter.mp hm).2

/-- KILL of a task, found. -/
theorem exec_kill {s : State} {k : Task} (hk : s.task? (keyOf s.args.n s.args.task) = some k) :
    exec .kill s = .next (s.kill k.key 0 0 (locWord s.args.core) (s.depth s.args.core)) := by
  have hexec : exec .kill s = execKill s := rfl
  rw [hexec, execKill, State.killTask, hk]

theorem State.task?_key {s : State} {i : TaskKey} {k : Task} (h : s.task? i = some k) : k.key = i := by
  simpa using List.find?_some h

/-! ### The reclaim (R395) -/

/-- A task's entry as a reclaim stores it in its TCB. -/
def Task.template (k : Task) : Task := { k with done := 0, parent := 0, waiton := 0, started := 0, state := .template, eprio := 0 }

/-- A task taken out of the table. -/
def State.forget (s : State) (k : TaskKey) : State := { s with tasks := s.tasks.filter fun u => u.key ≠ k }

theorem State.readPa_forget (s : State) (k : TaskKey) (a : Nat) : (s.forget k).readPa a = s.readPa a := rfl

theorem State.task?_forget (s : State) (k : TaskKey) : (s.forget k).task? k = none :=
  List.find?_eq_none.mpr fun _ hu he => of_decide_eq_true (List.mem_filter.mp hu).2 (of_decide_eq_true he)

theorem exec_reclaim {s : State} {k : Task} (hk : s.task? (keyOf s.args.n s.args.task) = some k) :
    exec .reclaim s = if k.state = .killed then .next ((s.mirror k.template).forget k.key) else .next s := by
  have hexec : exec .reclaim s = execReclaim s := rfl
  rw [hexec, execReclaim, State.reclaim, hk]
  dsimp only
  split <;> rfl

theorem State.paNat_eq_zero {s : State} {a n : Nat} (h : ∀ i, i < n → s.readPa (a + i) = 0) : s.paNat a n = 0 := by
  induction n generalizing a with
  | zero => rfl
  | succ n ih =>
    have hrest : s.paNat (a + 1) n = 0 := ih fun i hi => by
      rw [Nat.add_assoc, Nat.add_comm 1]
      exact h (i + 1) (by omega)
    have hcons : s.paNat a (n + 1) = (s.readPa a).toNat + 256 * s.paNat (a + 1) n := rfl
    have hfirst : s.readPa a = 0 := h 0 (by omega)
    rw [hcons, hrest, hfirst]
    rfl

theorem State.windowHole_deviceWrite (s : State) (w : Option GroupId) (a : Nat) (bs : List Byte) (x : Nat) :
    (s.deviceWrite w (.pa a) bs).windowHole x = s.windowHole x := by
  have hwrite : (s.writePaBytes a bs).windowHole x = s.windowHole x := by
    induction bs generalizing s a with
    | nil => rfl
    | cons b bs ih =>
      refine (ih (s.writePa a b) (a + 1)).trans ?_
      unfold State.writePa
      split <;> rfl
  rw [← State.keepsBytes_still.hole, State.still_deviceWrite, State.keepsBytes_still.hole, hwrite]

theorem State.wf_deviceWrite {s : State} (h : s.mem.wf = true) (w : Option GroupId) (a : Nat) (bs : List Byte) :
    (s.deviceWrite w (.pa a) bs).mem.wf = true := by
  have hmem : (s.deviceWrite w (.pa a) bs).mem = (s.writePaBytes a bs).mem := by
    rw [← State.keepsBytes_still.mem, State.still_deviceWrite, State.keepsBytes_still.mem]
  rw [hmem]
  clear hmem
  induction bs generalizing s a with
  | nil => exact h
  | cons b bs ih => exact ih (State.writePa_wf h a b) (a + 1)

/-- The first bytes of a TCB that the device writes, and those after its segments. -/
def Task.head (t : Task) : List Byte := natToBytes 4 t.pred.toNat ++ natToBytes 4 t.succ.length ++ natToBytes 4 t.done

def Task.tail (t : Task) : List Byte :=
  natToBytes 4 t.parent.toNat ++ natToBytes 4 t.waiton.toNat ++ natToBytes 4 (t.eprio * 16 + t.state.code) ++
    natToBytes 4 t.started ++ (List.range 12).flatMap fun i => natToBytes 4 (t.succ.getD i 0).toNat

theorem State.mirror_eq (s : State) (t : Task) :
    s.mirror t = (s.deviceWrite none (.pa (t.pa + 0x24)) t.head).deviceWrite none (.pa (t.pa + 0x40)) t.tail := by
  have hh : ∀ (u : State) x bs, u.homeWrite false x bs = u.deviceWrite none x bs := fun _ _ _ => rfl
  unfold State.mirror
  dsimp only
  rw [hh, hh, Task.head, Task.tail]

theorem Task.length_head (t : Task) : t.head.length = 12 := by
  simp only [Task.head, List.length_append, length_natToBytes]

theorem Task.length_tail (t : Task) : t.tail.length = 64 := by
  have hs : ((List.range 12).flatMap fun i => natToBytes 4 (t.succ.getD i 0).toNat).length = 48 := by
    rw [List.length_flatMap, List.map_congr_left (g := fun _ => 4) fun i _ => length_natToBytes 4 _]
    rfl
  simp only [Task.tail, List.length_append, length_natToBytes, hs]

/-- The bytes of memory after a task's TCB is mirrored. -/
theorem State.readPa_mirror {s : State} (h : s.mem.wf = true) (t : Task) (x : Nat) : (s.mirror t).readPa x =
    if t.pa + 0x40 ≤ x ∧ x < t.pa + 0x40 + 64 then (if s.windowHole x then 0 else t.tail.getD (x - (t.pa + 0x40)) 0)
    else if t.pa + 0x24 ≤ x ∧ x < t.pa + 0x24 + 12 then (if s.windowHole x then 0 else t.head.getD (x - (t.pa + 0x24)) 0)
    else s.readPa x := by
  rw [State.mirror_eq, State.readPa_deviceWrite, State.readPa_writePaBytes (State.wf_deviceWrite h _ _ _), State.windowHole_deviceWrite,
    State.readPa_deviceWrite, State.readPa_writePaBytes h, t.length_head, t.length_tail]

theorem Task.tail_template (k : Task) {i : Nat} (hi : i < 16) : k.template.tail.getD i 0 = 0 := by
  have ht : k.template.tail = natToBytes 4 0 ++ natToBytes 4 0 ++ natToBytes 4 0 ++ natToBytes 4 0 ++
      (List.range 12).flatMap fun i => natToBytes 4 (k.succ.getD i 0).toNat := rfl
  have hz : natToBytes 4 0 ++ natToBytes 4 0 ++ natToBytes 4 0 ++ natToBytes 4 0 = List.replicate 16 0 := by decide
  rw [ht, hz, List.getD_append _ _ _ _ (by rwa [List.length_replicate]), List.getD_eq_getElem?_getD, List.getElem?_replicate, if_pos hi]
  rfl

theorem Task.head_template (k : Task) {i : Nat} (h1 : 8 ≤ i) (h2 : i < 12) : k.template.head.getD i 0 = 0 := by
  have hh : k.template.head = (natToBytes 4 k.pred.toNat ++ natToBytes 4 k.succ.length) ++ natToBytes 4 0 := rfl
  have hz : natToBytes 4 0 = List.replicate 4 0 := by decide
  have hl : (natToBytes 4 k.pred.toNat ++ natToBytes 4 k.succ.length).length = 8 := by
    rw [List.length_append, length_natToBytes, length_natToBytes]
  rw [hh, hz, List.getD_append_right _ _ _ _ (hl ▸ h1), hl, List.getD_eq_getElem?_getD, List.getElem?_replicate, if_pos (by omega)]
  rfl

/-- The bytes of a TCB that RECLAIM clears read zero, and the bytes outside it are kept. -/
theorem State.readPa_mirror_template {s : State} (h : s.mem.wf = true) (k : Task) :
    (∀ x, k.pa + 0x40 ≤ x → x < k.pa + 0x50 → (s.mirror k.template).readPa x = 0) ∧
      (∀ x, k.pa + 0x2C ≤ x → x < k.pa + 0x30 → (s.mirror k.template).readPa x = 0) ∧
      ∀ a, a < k.pa ∨ k.pa + 256 ≤ a → (s.mirror k.template).readPa a = s.readPa a := by
  have htail : ∀ x, k.pa + 0x40 ≤ x → x < k.pa + 0x50 → (s.mirror k.template).readPa x = 0 := fun x h1 h2 => by
    have hin : k.template.pa + 0x40 ≤ x ∧ x < k.template.pa + 0x40 + 64 := ⟨h1, by show x < k.pa + _ + _; omega⟩
    rw [State.readPa_mirror h, if_pos hin, k.tail_template (by show x - (k.pa + _) < _; omega), ite_self]
  have hhead : ∀ x, k.pa + 0x2C ≤ x → x < k.pa + 0x30 → (s.mirror k.template).readPa x = 0 := fun x h1 h2 => by
    have hout : ¬ (k.template.pa + 0x40 ≤ x ∧ x < k.template.pa + 0x40 + 64) := fun hx => by
      have hx : k.pa + 0x40 ≤ x := hx.1
      omega
    have hin : k.template.pa + 0x24 ≤ x ∧ x < k.template.pa + 0x24 + 12 := by
      show k.pa + _ ≤ x ∧ x < k.pa + _ + _
      omega
    rw [State.readPa_mirror h, if_neg hout, if_pos hin, k.head_template (by show _ ≤ x - (k.pa + _); omega) (by show x - (k.pa + _) < _; omega),
      ite_self]
  refine ⟨htail, hhead, fun a ha => ?_⟩
  have h1 : ¬ (k.template.pa + 0x40 ≤ a ∧ a < k.template.pa + 0x40 + 64) := by
    show ¬ (k.pa + _ ≤ a ∧ a < k.pa + _ + _)
    omega
  have h2 : ¬ (k.template.pa + 0x24 ≤ a ∧ a < k.template.pa + 0x24 + 12) := by
    show ¬ (k.pa + _ ≤ a ∧ a < k.pa + _ + _)
    omega
  rw [State.readPa_mirror h, if_neg h1, if_neg h2]

theorem tasksAreKilledAndReclaimed : TasksAreKilledAndReclaimed := by
  intro s k hk
  have hkey := State.task?_key hk
  have hown : s.task? k.key = some k := hkey ▸ hk
  refine ⟨fun hdone => ?_, fun hn => ?_, fun hn => ?_, fun hkilled _ _ hwf => ?_⟩
  · have hend : (k.state = .finished || k.state = .killed) = true := by simpa using hdone
    rw [exec_kill hk, State.kill]
    dsimp only
    rw [hown, Option.map_some, Option.getD_some, hend, if_pos rfl]
  · have hroll := State.roll_kill hown hn 0 0 (locWord s.args.core) (s.depth s.args.core)
    obtain ⟨hg, hu, hr, hv⟩ := State.none_of_killed hroll
    have hfind := State.grip_task? (s.kill k.key 0 0 (locWord s.args.core) (s.depth s.args.core)) k.key
    have hold : (s.roll.ended k.key).tasks.find? (fun e => e.1 = k.key) = some k.grip := by
      refine (s.grip_task? k.key).symm.trans ?_
      rw [hown]
      rfl
    rw [hroll, Roll.find?_killed _ hold, Option.map_eq_some_iff] at hfind
    obtain ⟨x, hx, hgrip⟩ := hfind
    exact ⟨_, x, exec_kill hk, hg, hu, hr, hv, hx, congrArg (·.2.2.1) hgrip, congrArg (·.2.2.2) hgrip, congrArg (·.2.1) hgrip,
      congrArg Roll.decrs hroll⟩
  · rw [exec_reclaim hk, if_neg hn]
  · obtain ⟨htail, hhead, hrest⟩ := State.readPa_mirror_template hwf k
    refine ⟨(s.mirror k.template).forget k.key, (exec_reclaim hk).trans (if_pos hkilled), State.task?_forget _ _,
      State.paNat_eq_zero fun i hi => ?_, State.paNat_eq_zero fun i hi => ?_, State.paNat_eq_zero fun i hi => ?_,
      fun a ha => (State.readPa_forget _ _ a).trans (hrest a ha)⟩
    · rw [State.readPa_forget]
      exact htail _ (by omega) (by omega)
    · rw [State.readPa_forget]
      exact hhead _ (by omega) (by omega)
    · rw [State.readPa_forget]
      exact htail _ (by omega) (by omega)

/-! ### Cores replaced and taken away -/

theorem find?_cores_without (l : List Core) (c k : CoreId) :
    (l.filter fun x => x.id ≠ c).find? (fun x => x.id = k) = if k = c then none else l.find? fun x => x.id = k := by
  rw [List.find?_filter]
  by_cases hk : k = c
  · rw [if_pos hk, List.find?_eq_none]
    intro x _ hx
    simp [hk] at hx
  · rw [if_neg hk]
    congr 1
    funext x
    by_cases hx : x.id = k
    · simp [hx, hk]
    · simp [hx]

/-- A core taken out of the list. -/
def State.dropCore (s : State) (c : CoreId) : State := { s with cores := s.cores.filter fun x => x.id ≠ c }

theorem State.coreD_dropCore (s : State) (c k : CoreId) : (s.dropCore c).coreD k = if k = c then Core.fresh k else s.coreD k := by
  have hd : (s.dropCore c).coreD k = ((s.cores.filter fun x => x.id ≠ c).find? fun x => x.id = k).getD (Core.fresh k) := rfl
  rw [hd, find?_cores_without]
  split <;> rfl

theorem State.coreD_setCore (s : State) (x : Core) (k : CoreId) : (s.setCore x).coreD k = if k = x.id then x else s.coreD k := by
  have hd : (s.setCore x).coreD k = ((x :: s.cores.filter fun y => y.id ≠ x.id).find? fun y => y.id = k).getD (Core.fresh k) := rfl
  rw [hd, List.find?_cons]
  by_cases hk : k = x.id
  · rw [if_pos hk, decide_eq_true hk.symm]
    rfl
  · rw [if_neg hk, decide_eq_false (Ne.symm hk), find?_cores_without, if_neg hk]
    rfl

/-! ### Retirement (R425) -/

/-- The teams with those of a core marked for pre-emption. -/
theorem State.teams_takeTeams (s : State) (c : CoreId) {i : Nat} {u : Team} (h : s.teams[i]? = some u) :
    (s.takeTeams c).teams[i]? = some (if u.core = c then { u with taken := true } else u) := by
  rw [State.takeTeams, List.getElem?_map, h, Option.map_some]

theorem exec_retire {s t : State} (h : s.retireCore s.args.core = t) : exec .retire s = .next t := congrArg Host.Outcome.next h

theorem State.retired_beginRetire (s : State) (c : CoreId) : ((s.beginRetire c).coreD c).retired = true := by
  have hc : (s.beginRetire c).coreD c = (s.modCore c fun k => { k with retired := true }).coreD c := rfl
  rw [hc, State.coreD_modCore _ _ _ (fun k => { k with retired := true }) fun _ => rfl, if_pos rfl]

theorem State.teams_beginRetire (s : State) (c : CoreId) {i : Nat} {u : Team} (h : s.teams[i]? = some u) :
    (s.beginRetire c).teams[i]? = some (if u.core = c then { u with taken := true } else u) :=
  State.teams_takeTeams _ c (by rw [State.modCore_teams]; exact h)

theorem State.emptied_iff {s : State} {c : CoreId} : s.emptied c = true ↔ (s.coreD c).retired = true ∧ ∀ u ∈ s.teams, u.core ≠ c := by
  simp [State.emptied]

/-- RETIRE of a core that exists and is in service begins its retirement. -/
theorem State.retireCore_begins {s : State} {c : CoreId} (hd : c.die < 8) (hc : c.core < s.coresOf c.die) (hr : (s.coreD c).retired = false) :
    s.retireCore c = s.beginRetire c := by
  have he : ¬ s.emptied c = true := fun h => by
    rw [(State.emptied_iff.mp h).1] at hr
    cases hr
  rw [State.retireCore, if_neg (by omega), if_neg he, if_neg (by rw [hr]; exact Bool.false_ne_true)]

/-- RETIRE of a core in retirement that holds no team ends it. -/
theorem State.retireCore_ends {s : State} {c : CoreId} (hd : c.die < 8) (hc : c.core < s.coresOf c.die) (hr : (s.coreD c).retired = true)
    (ht : ∀ u ∈ s.teams, u.core ≠ c) : s.retireCore c = s.finishRetire c := by
  rw [State.retireCore, if_neg (by omega), if_pos (State.emptied_iff.mpr ⟨hr, ht⟩)]

/-- The capability words with one spare core of a die fewer. -/
def State.useSpare (s : State) (d : Fin 8) : State := { s with caps := { s.caps with spare := s.caps.spare.set d (s.caps.spare[d] - 1) } }

/-- The capability words with `n` cores of a die. -/
def State.leaveCores (s : State) (d : Fin 8) (n : Nat) : State := { s with caps := { s.caps with cores := s.caps.cores.set d n } }

theorem State.coresOf_eq {s : State} {c : CoreId} {d : Fin 8} (h : c.die = d.val) : s.coresOf c.die = s.caps.cores[d] := by
  rw [State.coresOf, h, Vector.getElem?_eq_getElem d.isLt]
  rfl

/-- What the end of a retirement does, by the spares and by the core of the highest index. -/
theorem State.finishRetire_eq {s : State} {c : CoreId} (d : Fin 8) (hd : c.die = d.val) :
    s.finishRetire c =
      if 0 < s.caps.spare[d] then (s.setCore (Core.fresh c)).useSpare d
      else if (⟨c.die, s.coresOf c.die - 1⟩ : CoreId) = c then (s.dropCore c).leaveCores d (s.coresOf c.die - 1)
      else if s.emptied ⟨c.die, s.coresOf c.die - 1⟩ = true then
        ((s.setCore { Core.fresh c with cyc := (s.coreD ⟨c.die, s.coresOf c.die - 1⟩).cyc }).dropCore ⟨c.die, s.coresOf c.die - 1⟩).leaveCores d (s.coresOf c.die - 1)
      else s.beginRetire ⟨c.die, s.coresOf c.die - 1⟩ := by
  have hspare : s.caps.spare[c.die]?.getD 0 = s.caps.spare[d] := by
    rw [hd, Vector.getElem?_eq_getElem d.isLt]
    rfl
  have hset : ∀ (v : Vector Nat 8) (x : Nat), v.setIfInBounds c.die x = v.set d.val x := fun v x => Vector.ext fun i hi => by
    rw [Vector.getElem_setIfInBounds, Vector.getElem_set, hd]
  unfold State.finishRetire
  dsimp only
  rw [hspare, hset, hset]
  rfl

theorem top_ne {c : CoreId} {n : Nat} (h : c.core + 1 < n) : (⟨c.die, n - 1⟩ : CoreId) ≠ c := fun he => by
  have hcore : n - 1 = c.core := congrArg CoreId.core he
  omega

theorem coresRetire : CoresRetire := by
  intro s c
  refine ⟨fun h => ?_, fun hd hc hr => ?_, fun d hd hc hr ht hs => ?_, fun d hd hc hr ht hs => ?_, fun d hd hc hr ht hs => ⟨fun hr' ht' => ?_, fun hr' => ?_⟩⟩
  · exact exec_retire (if_pos h)
  · refine ⟨s.beginRetire c, exec_retire (State.retireCore_begins hd hc hr), s.retired_beginRetire c, ?_, ?_, ?_, fun i u h => s.teams_beginRetire c h⟩
    · exact s.modCore_mem c _
    · exact s.modCore_groups c _
    · exact (List.length_map _).trans (congrArg _ (s.modCore_teams c _))
  · refine ⟨(s.setCore (Core.fresh c)).useSpare d, exec_retire ?_, ?_, rfl, rfl, fun k hk => ?_⟩
    · rw [State.retireCore_ends (by omega) hc hr ht, State.finishRetire_eq d hd, if_pos hs]
    · exact (s.coreD_setCore (Core.fresh c) c).trans (if_pos rfl)
    · exact (s.coreD_setCore (Core.fresh c) k).trans (if_neg hk)
  · have htop : (⟨c.die, s.coresOf c.die - 1⟩ : CoreId) = c := by
      rw [← hc]
      rfl
    refine ⟨(s.dropCore c).leaveCores d (s.coresOf c.die - 1), exec_retire ?_, ?_, ?_⟩
    · rw [State.retireCore_ends (by omega) (by omega) hr ht, State.finishRetire_eq d hd, if_neg (by omega), if_pos htop]
    · exact (s.coreD_dropCore c c).trans (if_pos rfl)
    · rw [State.coresOf_eq hd]
      rfl
  · have htop := top_ne hc
    refine ⟨((s.setCore { Core.fresh c with cyc := (s.coreD ⟨c.die, s.coresOf c.die - 1⟩).cyc }).dropCore
      ⟨c.die, s.coresOf c.die - 1⟩).leaveCores d (s.coresOf c.die - 1), exec_retire ?_, rfl, ?_, ?_, fun k hk hk' => ?_, rfl⟩
    · rw [State.retireCore_ends (by omega) (by omega) hr ht, State.finishRetire_eq d hd, if_neg (by omega), if_neg htop,
        if_pos (State.emptied_iff.mpr ⟨hr', ht'⟩)]
    · exact (State.coreD_dropCore _ _ c).trans ((if_neg (Ne.symm htop)).trans ((s.coreD_setCore _ c).trans (if_pos rfl)))
    · exact (State.coreD_dropCore _ _ _).trans (if_pos rfl)
    · exact (State.coreD_dropCore _ _ k).trans ((if_neg hk').trans ((s.coreD_setCore _ k).trans (if_neg hk)))
  · have he : ¬ s.emptied ⟨c.die, s.coresOf c.die - 1⟩ = true := fun h => by
      rw [(State.emptied_iff.mp h).1] at hr'
      cases hr'
    refine ⟨s.beginRetire ⟨c.die, s.coresOf c.die - 1⟩, exec_retire ?_, s.retired_beginRetire _, ?_, fun i u h => s.teams_beginRetire _ h⟩
    · rw [State.retireCore_ends (by omega) (by omega) hr ht, State.finishRetire_eq d hd, if_neg (by omega), if_neg (top_ne hc), if_neg he]
    · exact s.modCore_caps _ _

/-! ### Resets (R40, R458, R463) -/

/-- A core reset leaves its core fresh, but in retirement where it was, and every other as it is. -/
theorem State.coreD_resetCore (s : State) (c k : CoreId) :
    (s.resetCore c).coreD k = if k = c then { Core.fresh c with retired := (s.coreD c).retired } else s.coreD k :=
  s.coreD_setCore { Core.fresh c with retired := (s.coreD c).retired } k

theorem burned_between {m : Nat} (want n : Nat) (old : Fin (m + 1)) :
    old.val ≤ (burned old want n false).val ∧ (burned old want n false).val ≤ max old.val want := by
  have hv : (burned old want n false).val = min (max old.val (min want (old.val + n))) m := rfl
  have := old.isLt
  omega

/-- Fuses between those before a burn and those that it was to blow: only the counters of the images accepted may lie higher. -/
def Psc.Burns (p : Psc) (f f' : Fuses) : Prop :=
  (f'.vkh, f'.okh, f'.okrev) = (f.vkh, f.okh, f.okrev) ∧ (f.fwsvn.val ≤ f'.fwsvn.val ∧ f'.fwsvn.val ≤ max f.fwsvn.val p.fwsvn) ∧
    ∀ i : Fin 4, f.csvn[i].val ≤ f'.csvn[i].val ∧ f'.csvn[i].val ≤ max f.csvn[i].val p.accepted[i]

theorem Psc.Burns.refl (p : Psc) (f : Fuses) : p.Burns f f :=
  ⟨rfl, ⟨le_refl _, le_max_left _ _⟩, fun _ => ⟨le_refl _, le_max_left _ _⟩⟩

theorem Psc.burns_fwsvn (p : Psc) (f : Fuses) (n : Nat) : p.Burns f { f with fwsvn := burned f.fwsvn p.fwsvn n false } :=
  ⟨rfl, burned_between _ _ _, fun _ => ⟨le_refl _, le_max_left _ _⟩⟩

theorem Psc.burns_csvn (p : Psc) (f : Fuses) (n k : Nat) (hk : k ≤ 3) :
    p.Burns f { f with csvn := f.csvn.setIfInBounds k (burned (f.csvn[k]?.getD 0) (p.accepted[k]?.getD 0) n false) } := by
  refine ⟨rfl, ⟨le_refl _, le_max_left _ _⟩, fun i => ?_⟩
  have hk4 : k < 4 := by omega
  have hget : (f.csvn.setIfInBounds k (burned (f.csvn[k]?.getD 0) (p.accepted[k]?.getD 0) n false))[i] =
      if k = i.val then burned (f.csvn[k]?.getD 0) (p.accepted[k]?.getD 0) n false else f.csvn[i] := Vector.getElem_setIfInBounds i.isLt
  rw [hget]
  split
  next h =>
    subst h
    have hc : f.csvn[i.val]?.getD 0 = f.csvn[i] := by
      rw [Vector.getElem?_eq_getElem i.isLt]
      rfl
    have ha : p.accepted[i.val]?.getD 0 = p.accepted[i] := by
      rw [Vector.getElem?_eq_getElem i.isLt]
      rfl
    rw [hc, ha]
    exact burned_between _ _ _
  · exact ⟨le_refl _, le_max_left _ _⟩

/-- A command changes the fuses in its boot states alone. -/
theorem State.fuses_command (s : State) (code : Nat) (bs : List BootState) (f : State → State) :
    (s.command code bs f).fuses = s.fuses ∨ bs.contains s.psc.boot = true ∧ (s.command code bs f).fuses = (f s).fuses := by
  unfold State.command
  split
  · exact .inl rfl
  split
  next h => exact .inr ⟨h, rfl⟩
  · exact .inl rfl

/-- SVNCOMMIT that a reset interrupts leaves the fuses alone, or raises a counter towards its target in a ready device (R458). -/
theorem State.fuses_svncommit (s : State) (n : Nat) :
    (s.svncommit n false).fuses = s.fuses ∨ s.psc.boot = .ready ∧ s.psc.Burns s.fuses (s.svncommit n false).fuses := by
  unfold State.svncommit
  rcases s.fuses_command 3 [.ready] _ with h | ⟨hb, h⟩
  · exact .inl h
  rw [h]
  have hready : s.psc.boot = .ready := by simpa using hb
  dsimp only
  split
  · split
    · exact .inl rfl
    · exact .inr ⟨hready, Psc.burns_fwsvn s.psc s.fuses n⟩
  next k _ =>
    split
    · exact .inl rfl
    next hk => exact .inr ⟨hready, Psc.burns_csvn s.psc s.fuses n k (by omega)⟩

theorem State.fuses_torn (s : State) : s.tornFuses = s.fuses ∨ s.psc.boot = .ready ∧ s.psc.Burns s.fuses s.tornFuses := by
  unfold State.tornFuses
  split
  · exact s.fuses_svncommit _
  · exact .inl rfl

/-- The fuses that a device reset leaves. -/
def State.resetFuses (s : State) : Fuses := if s.args.ok then s.fuses else s.tornFuses

theorem State.resetFuses_eq {s : State} (h : s.args.ok = true ∨ s.psc.boot ≠ .ready) : s.resetFuses = s.fuses := by
  unfold State.resetFuses
  split
  · rfl
  next hok =>
    rcases s.fuses_torn with hf | ⟨hb, -⟩
    · exact hf
    · exact absurd hb (h.resolve_left hok)

theorem State.burns_resetFuses (s : State) : s.psc.Burns s.fuses s.resetFuses := by
  unfold State.resetFuses
  split
  · exact .refl _ _
  · rcases s.fuses_torn with hf | ⟨-, hb⟩
    · exact hf ▸ .refl _ _
    · exact hb

/-- The state that a device reset answers. -/
def State.resetDevice (s : State) : State :=
  { State.reset with mem := s.mem, poison := s.poison.filter Poison.inMemory, fuses := s.resetFuses, schedule := s.schedule,
                     free := s.free }

theorem resetsClear : ResetsClear := by
  intro s
  constructor
  · intro c
    refine ⟨s.resetCore c, rfl, fun g hg => ?_, fun u hu => ?_, rfl, ?_, fun o ho => ?_, fun a => ⟨fun ha => ?_, fun ha => ?_⟩, fun k hk => ?_,
      fun g hg hc => ?_⟩
    · simpa using (List.mem_filter.mp hg).2
    · exact of_decide_eq_true (List.mem_filter.mp hu).2
    · exact (s.coreD_resetCore c c).trans (if_pos rfl)
    · have := (List.mem_filter.mp ho).2
      simp at this
    · exact of_decide_eq_true (List.mem_filter.mp ha).2 rfl
    · exact of_decide_eq_true (List.mem_filter.mp ha).2 rfl
    · exact (s.coreD_resetCore c k).trans (if_neg hk)
    · exact List.mem_filter.mpr ⟨hg, by simpa using hc⟩
  · obtain ⟨hkeys, hfw, hcsvn⟩ := s.burns_resetFuses
    exact ⟨s.resetDevice, rfl, rfl, State.resetFuses_eq, hkeys, hfw, hcsvn, rfl, rfl, rfl, rfl, rfl, rfl, fun _ => rfl, rfl, rfl, rfl, rfl, rfl, rfl, rfl⟩

end Sys2Proof.Machine

namespace Sys2Proof.Proofs

open Sys2Proof.Machine

/-- Settles O55: a kill's effect on the tables is followed through the writes and wakes around it by what these keep of the tables;
the rest is read off the definitions of the retirement and of the resets. -/
theorem tasksAndCoresEndAndReset : Obligations.TasksAndCoresEndAndReset :=
  ⟨tasksAreKilledAndReclaimed, coresRetire, resetsClear⟩

end Sys2Proof.Proofs
end

section
/-! ### NaN operands, and codes rounded back (R43 to R47, R54, R55, R57) -/

namespace Sys2Proof.Machine

/-! ### NaN operands -/

theorem decodeF_of_isNan {F : Fmt} {x : Nat} (h : F.isNan x = true) : decodeF F x = .nan := if_pos h

theorem xadd_nan_left (rm : Rm) (x : XReal) : xadd rm .nan x = (.nan, false) := by cases x <;> rfl

theorem xadd_nan_right (rm : Rm) (x : XReal) : xadd rm x .nan = (.nan, false) := by cases x <;> rfl

theorem xmul_nan_left (x : XReal) : xmul .nan x = (.nan, false) := by cases x <;> rfl

theorem xmul_nan_right (x : XReal) : xmul x .nan = (.nan, false) := by cases x <;> rfl

theorem roundF_nan (F : Fmt) (rm : Rm) : roundF .nan F rm = (F.qnan, 0) := rfl

/-- A valid operation that raises nothing in its rounding: NV exactly for a signalling operand (R57). -/
theorem opFlags_exact (a b : Bool) : opFlags (a || b) false 0 = if a = true ∨ b = true then fNV else 0 := by
  simp [opFlags]

section
variable {F : Fmt} {x y : Nat} (h : F.isNan x = true ∨ F.isNan y = true)
include h

theorem xadd_of_isNan (rm : Rm) : xadd rm (decodeF F x) (decodeF F y) = (.nan, false) := by
  rcases h with h | h <;> rw [decodeF_of_isNan h]
  · exact xadd_nan_left _ _
  · exact xadd_nan_right _ _

theorem xsub_of_isNan (rm : Rm) : xadd rm (decodeF F x) (xneg (decodeF F y)) = (.nan, false) := by
  rcases h with h | h <;> rw [decodeF_of_isNan h]
  · exact xadd_nan_left _ _
  · exact xadd_nan_right _ _

theorem xmul_of_isNan : xmul (decodeF F x) (decodeF F y) = (.nan, false) := by
  rcases h with h | h <;> rw [decodeF_of_isNan h]
  · exact xmul_nan_left _
  · exact xmul_nan_right _

theorem fpAdd_of_isNan (rm : Rm) : fpAdd F rm x y = (F.qnan, if F.isSnan x = true ∨ F.isSnan y = true then fNV else 0) := by
  rw [← opFlags_exact]
  simp only [fpAdd, xadd_of_isNan h, roundF_nan]

theorem fpSub_of_isNan (rm : Rm) : fpSub F rm x y = (F.qnan, if F.isSnan x = true ∨ F.isSnan y = true then fNV else 0) := by
  rw [← opFlags_exact]
  simp only [fpSub, xsub_of_isNan h, roundF_nan]

theorem fpMul_of_isNan (rm : Rm) : fpMul F rm x y = (F.qnan, if F.isSnan x = true ∨ F.isSnan y = true then fNV else 0) := by
  rw [← opFlags_exact]
  simp only [fpMul, xmul_of_isNan h, roundF_nan]

theorem fpFma_of_isNan (rm : Rm) (neg : Bool) (z : Nat) : (fpFma F rm neg x y z).1 = F.qnan := by
  simp [fpFma, xmul_of_isNan h, xneg, xadd_nan_left, roundF_nan]

end

theorem fpFma_of_isNan_addend {F : Fmt} {z : Nat} (h : F.isNan z = true) (rm : Rm) (neg : Bool) (x y : Nat) :
    (fpFma F rm neg x y z).1 = F.qnan := by
  simp [fpFma, decodeF_of_isNan h, xadd_nan_right, roundF_nan]

/-! ### Codes -/

/-- A code is its sign and its magnitude put together. -/
theorem Fmt.signed_neg_mag {F : Fmt} {c : Nat} (h : c < 2 ^ F.width) : F.signed (F.neg c) (F.mag c) = c := by
  have hw : 2 ^ F.width = 2 * 2 ^ (F.width - 1) := by cases F <;> rfl
  simp only [Fmt.signed, Fmt.neg, Fmt.mag, bitOf, beq_iff_eq]
  generalize 2 ^ (F.width - 1) = p at *
  have hc := Nat.div_add_mod c p
  obtain hd | hd : c / p = 0 ∨ c / p = 1 := by
    have := Nat.div_lt_of_lt_mul (show c < p * 2 by omega)
    generalize c / p = q at this
    omega
  all_goals
    rw [hd] at hc ⊢
    simp
    omega

/-- A code that is no NaN and no infinity is at most the largest finite one. -/
theorem Fmt.mag_le_maxCode {F : Fmt} {c : Nat} (hn : F.isNan c = false) (hi : ¬ (F ≠ .e4m3 ∧ F.mag c = F.infCode)) :
    F.mag c ≤ F.maxCode := by
  cases F
  case e4m3 =>
    have := Nat.mod_lt c (y := 2 ^ 7) (by omega)
    simp [Fmt.isNan, Fmt.mag, Fmt.maxCode, Fmt.width] at *
    omega
  all_goals
    simp [Fmt.isNan, Fmt.maxCode] at *
    omega

/-! ### Exact rounding (R54) -/

theorem roundMag_of_nonneg (rm : Rm) (neg : Bool) (a : Nat) {sh : Int} (h : 0 ≤ sh) : roundMag rm neg a sh = (a * 2 ^ sh.toNat, true) := if_pos h

theorem roundMag_zero (rm : Rm) (neg : Bool) (a : Nat) : roundMag rm neg a 0 = (a, true) := by
  simp [roundMag_of_nonneg]

/-- The significand of a code with its sign (R43). -/
def signedSig (neg : Bool) (sig : Nat) : Int := if neg then -(sig : Int) else sig

theorem natAbs_signedSig (neg : Bool) (sig : Nat) : (signedSig neg sig).natAbs = sig := by cases neg <;> simp [signedSig]

theorem signedSig_neg (neg : Bool) {sig : Nat} (h : 0 < sig) : decide (signedSig neg sig < 0) = neg := by
  cases neg
  · simp [signedSig]
  · simpa [signedSig] using h

/-- A normal number of a format rounds to its own code, without a flag. -/
theorem roundF_normal {F : Fmt} {E sig : Nat} (rm : Rm) (neg : Bool) (hE : 1 ≤ E) (h1 : 2 ^ F.mbits ≤ sig) (h2 : sig < 2 ^ (F.mbits + 1))
    (hc : (E - 1) * 2 ^ F.mbits + sig ≤ F.maxCode) :
    roundF (.fin (signedSig neg sig) ((E : Int) - F.bias - F.mbits)) F rm = (F.signed neg ((E - 1) * 2 ^ F.mbits + sig), 0) := by
  have hp : 0 < sig := Nat.lt_of_lt_of_le (Nat.two_pow_pos _) h1
  have hl : Nat.log2 sig = F.mbits := (Nat.log2_eq_iff (by omega)).2 ⟨h1, h2⟩
  have hq : ((F.mbits : Nat) : Int) + ((E : Int) - F.bias - F.mbits) - F.mbits = (E : Int) - F.bias - F.mbits := by omega
  have hm : max ((E : Int) - F.bias - F.mbits) (1 - F.bias - F.mbits) = (E : Int) - F.bias - F.mbits := by omega
  have hn : ¬ (E : Int) - F.bias - F.mbits < 1 - F.bias - F.mbits := by omega
  have hk : F.pack sig ((E : Int) - F.bias - F.mbits) = (E - 1) * 2 ^ F.mbits + sig := by
    rw [Fmt.pack, show ((E : Int) - F.bias - F.mbits + F.mbits + F.bias - 1).toNat = E - 1 by omega]
  simp only [roundF, natAbs_signedSig, signedSig_neg neg hp, hl, hq, Int.sub_self, roundMag_zero, hn, hm, hk, false_and, if_false,
    if_neg (Nat.not_lt.2 hc), if_true]

/-- A subnormal number of a format rounds to its own code, without a flag (R55). -/
theorem roundF_subnormal {F : Fmt} {sig : Nat} (rm : Rm) (neg : Bool) (h1 : 0 < sig) (h2 : sig < 2 ^ F.mbits) :
    roundF (.fin (signedSig neg sig) (1 - F.bias - F.mbits)) F rm = (F.signed neg sig, 0) := by
  have hl : Nat.log2 sig < F.mbits := (Nat.log2_lt (by omega)).2 h2
  have hlt : sig * 2 ^ (F.mbits - Nat.log2 sig) < 2 ^ (F.mbits + 1) := by
    calc sig * 2 ^ (F.mbits - Nat.log2 sig) < 2 ^ (Nat.log2 sig + 1) * 2 ^ (F.mbits - Nat.log2 sig) :=
          Nat.mul_lt_mul_of_pos_right Nat.lt_log2_self (Nat.two_pow_pos _)
      _ = 2 ^ (F.mbits + 1) := by rw [← Nat.pow_add]; congr 1; omega
  have hu : (roundMag rm neg sig ((1 - F.bias - F.mbits : Int) - ((Nat.log2 sig : Int) + (1 - F.bias - F.mbits) - F.mbits))).1 ≠ 2 ^ (F.mbits + 1) := by
    rw [roundMag_of_nonneg _ _ _ (by omega),
      show ((1 - F.bias - F.mbits : Int) - ((Nat.log2 sig : Int) + (1 - F.bias - F.mbits) - F.mbits)).toNat = F.mbits - Nat.log2 sig by omega]
    exact Nat.ne_of_lt hlt
  have hk : F.pack sig (1 - F.bias - F.mbits) = sig := by
    rw [Fmt.pack, show ((1 : Int) - F.bias - F.mbits + F.mbits + F.bias - 1).toNat = 0 by omega, Nat.zero_mul, Nat.zero_add]
  simp only [roundF, natAbs_signedSig, signedSig_neg neg h1]
  rw [if_pos ⟨by omega, fun h => hu h.2⟩]
  simp only [Int.sub_self, roundMag_zero, hk, if_true]

/-! ### The value of a code -/

theorem decodeF_inf {F : Fmt} {c : Nat} (hn : F.isNan c = false) (h : F ≠ .e4m3 ∧ F.mag c = F.infCode) : decodeF F c = .inf (F.neg c) := by
  simp [decodeF, hn, h]

theorem decodeF_zero {F : Fmt} {c : Nat} (hn : F.isNan c = false) (hi : ¬ (F ≠ .e4m3 ∧ F.mag c = F.infCode)) (h : F.mag c = 0) :
    decodeF F c = .zero (F.neg c) := by
  rw [decodeF, if_neg (by simp [hn]), if_neg hi, if_pos (by simp [h])]

theorem decodeF_subnormal {F : Fmt} {c : Nat} (hn : F.isNan c = false) (hi : ¬ (F ≠ .e4m3 ∧ F.mag c = F.infCode)) (h0 : F.mag c ≠ 0)
    (h : F.mag c < 2 ^ F.mbits) : decodeF F c = .fin (signedSig (F.neg c) (F.mag c)) (1 - F.bias - F.mbits) := by
  simp only [decodeF, hn, Bool.false_eq_true, if_false, if_neg hi, Nat.div_eq_of_lt h, Nat.mod_eq_of_lt h, h0, and_false, if_true, signedSig]

theorem decodeF_normal {F : Fmt} {c : Nat} (hn : F.isNan c = false) (hi : ¬ (F ≠ .e4m3 ∧ F.mag c = F.infCode))
    (h : 2 ^ F.mbits ≤ F.mag c) : decodeF F c = .fin (signedSig (F.neg c) (2 ^ F.mbits + F.mag c % 2 ^ F.mbits))
      ((F.mag c / 2 ^ F.mbits : Nat) - F.bias - F.mbits) := by
  have he : F.mag c / 2 ^ F.mbits ≠ 0 := (Nat.div_pos h (Nat.two_pow_pos _)).ne'
  simp only [decodeF, hn, Bool.false_eq_true, if_false, if_neg hi, he, false_and, signedSig]

/-- The split is the one of `decodeF`: infinities, zeros, subnormal and normal numbers. -/
theorem decodedValueRoundsToItself : Slice0.DecodedValueRoundsToItself := by
  intro F rm c hc hn
  have hs := F.signed_neg_mag hc
  by_cases hi : F ≠ .e4m3 ∧ F.mag c = F.infCode
  · rw [decodeF_inf hn hi, roundF, if_neg hi.1, ← hi.2, hs]
  by_cases h0 : F.mag c = 0
  · rw [decodeF_zero hn hi h0, roundF, ← h0, hs]
  have hle := Fmt.mag_le_maxCode hn hi
  by_cases hm : F.mag c < 2 ^ F.mbits
  · rw [decodeF_subnormal hn hi h0 hm, roundF_subnormal rm _ (by omega) hm, hs]
  · have hm := Nat.not_lt.1 hm
    have hE : 1 ≤ F.mag c / 2 ^ F.mbits := Nat.div_pos hm (Nat.two_pow_pos _)
    have hr := Nat.mod_lt (F.mag c) (Nat.two_pow_pos F.mbits)
    have hcode : (F.mag c / 2 ^ F.mbits - 1) * 2 ^ F.mbits + (2 ^ F.mbits + F.mag c % 2 ^ F.mbits) = F.mag c := by
      rw [← Nat.add_assoc, ← Nat.succ_mul, Nat.succ_eq_add_one, Nat.sub_add_cancel hE, Nat.div_add_mod']
    rw [decodeF_normal hn hi hm, roundF_normal rm _ hE (Nat.le_add_right _ _) (by rw [Nat.pow_succ]; omega) (hcode.trans_le hle), hcode, hs]

theorem nanOperandsGiveTheCanonicalNan : Slice0.NanOperandsGiveTheCanonicalNan := by
  intro F rm neg x y z
  refine ⟨fun h => ?_, fun h => fpFma_of_isNan_addend h rm neg x y⟩
  rw [fpAdd_of_isNan h, fpSub_of_isNan h, fpMul_of_isNan h]
  exact ⟨rfl, rfl, rfl, fpFma_of_isNan h rm neg z, rfl, rfl, rfl⟩

end Sys2Proof.Machine

namespace Sys2Proof.Proofs

open Sys2Proof.Machine

/-- Settles O6: a NaN operand makes the exact result a NaN, and a code's exact value has a significand that its own spacing holds. -/
theorem formatsKeepTheirCodes : Obligations.FormatsKeepTheirCodes :=
  ⟨nanOperandsGiveTheCanonicalNan, decodedValueRoundsToItself⟩

end Sys2Proof.Proofs
end

section
/-! ### A port that names the reserved operand code 15 (R87, R188, R226) -/

namespace Sys2Proof.Machine

/-- A rig stored back is read back. -/
theorem State.rig?_putRig {s : State} {q r : Rig} (h : s.rig? q.group = some r) : (s.putRig q).rig? q.group = some q := by
  unfold State.rig? State.putRig at *
  rw [State.coreD_modCore, if_pos rfl]
  case hf => exact fun _ => rfl
  dsimp only
  generalize (s.coreD q.group.coreId).rigs = l at h ⊢
  obtain ⟨hr, as, bs, rfl, has⟩ := List.find?_eq_some_iff_append.1 h
  have hnone : (as.map fun x => if x.group = q.group then q else x).find? (fun x => decide (x.group = q.group)) = none :=
    List.find?_eq_none.2 fun y hy => by
      obtain ⟨x, hx, rfl⟩ := List.mem_map.1 hy
      have := has x hx
      simp_all
  simp [List.find?_append, hnone, of_decide_eq_true hr]

end Sys2Proof.Machine

namespace Sys2Proof.Proofs

open Sys2Proof.Machine Sys2Proof.Slice0

/-- A running rig of one lane, an ORD's, with a done token on its first arc (R228). -/
def doneRig : Rig := { group := ⟨0, 0, 0⟩, desc := 0, phase := .running, lanes := [{ doneq := [[⟨0, 0⟩]] }] }

/-- The state after reset with that rig's lane in focus. -/
def doneState : State := { State.reset with cores := [{ id := ⟨0, 0⟩, rigs := [doneRig] }], focus := .lane doneRig.group 0 }

/-- The fields of an SRC whose index operand has the reserved code 15, and which discards its results (R87). -/
def reservedFields : SFields := ⟨15, 14, 0, 14, false, false, false, false, false⟩

/-- The firing takes the done token away. -/
theorem exec_src_reserved : ∃ t q, exec (.src reservedFields) doneState = .next t ∧ t.rig? doneRig.group = some q ∧ (q.lane 0).doneq = [[]] :=
  ⟨_, _, rfl, rfl, rfl⟩

/-- Refutes O44, in its last clause: the statement asks of a port's index operand no more than that it is there, and so admits the code
15, which R87 reserves (`SFields.ok`). The model reads a done queue under that code, and an SRC that fires takes a token from it, where
the statement has a firing leave the done queues as they are. -/
theorem not_countersJoinsAndPortsFire : ¬ Obligations.CountersJoinsAndPortsFire := by
  unfold Obligations.CountersJoinsAndPortsFire
  rintro ⟨-, -, -, -, hports⟩
  obtain ⟨hsrc, -⟩ := hports doneState doneRig 0 reservedFields (0, some 0) (0, none) none 0 ⟨rfl, rfl, rfl, rfl, by decide⟩ rfl rfl
  have hlined : lined doneRig 0 reservedFields (0, some 0) (0, none) none :=
    ⟨rfl, rfl, rfl, by simp, by simp⟩
  obtain ⟨q, hq, ⟨hrig, -, -, hlane, -⟩, -⟩ := hsrc rfl rfl rfl hlined
  obtain ⟨t, r, ht, hr, hdone⟩ := exec_src_reserved
  obtain rfl : t = doneState.putRig q := Host.Outcome.next.inj (ht.symm.trans hq)
  have hgroup : q.group = doneRig.group := by rw [hrig]
  rw [← hgroup, State.rig?_putRig (r := doneRig) (hgroup ▸ rfl)] at hr
  obtain rfl := Option.some.inj hr
  have hkept : (q.lane 0).doneq = [[⟨0, 0⟩]] := congrArg Lane.doneq hlane
  simp [hdone] at hkept

end Sys2Proof.Proofs
end

section
/-! ### What the engines of a core keep, and what they tell its groups and teams (R357, R359, R363, R374) -/

namespace Sys2Proof.Machine

/-! ### A core beside its bytes -/

/-- A core without the bytes of its shared store and of its L1: its queues and engines stay. -/
def Core.engines (k : Core) : Core := { k with shared := [], l1s := [] }

/-- The queues and engines of every core are as they were. -/
def State.SameEngines (s t : State) : Prop := ∀ c, (t.coreD c).engines = (s.coreD c).engines

theorem State.SameEngines.refl (s : State) : s.SameEngines s := fun _ => rfl

theorem State.SameEngines.trans {s t u : State} (a : s.SameEngines t) (b : t.SameEngines u) : s.SameEngines u :=
  fun c => (b c).trans (a c)

theorem State.SameEngines.of_cores {s t : State} (h : t.cores = s.cores) : s.SameEngines t := fun c => by
  rw [State.coreD_of_cores h]

theorem State.SameEngines.foldl {α : Type} {f : State → α → State} (hf : ∀ s a, State.SameEngines s (f s a)) (l : List α) (s : State) :
    s.SameEngines (l.foldl f s) := by
  induction l generalizing s with
  | nil => exact .refl s
  | cons a l ih => exact (hf s a).trans (ih _)

theorem State.sameEngines_modCore (s : State) (c : CoreId) {f : Core → Core} (hf : ∀ k, (f k).engines = k.engines) :
    s.SameEngines (s.modCore c f) := fun k => by
  have hid : ∀ x, (f x).id = x.id := fun x => show (f x).engines.id = x.engines.id by rw [hf x]
  rw [s.coreD_modCore c k f hid]
  split
  next h => rw [h, hf]
  · rfl

theorem State.sameEngines_abortWhere (s : State) (p : Group → Tx → Bool) (cause : Nat) : s.SameEngines (s.abortWhere p cause) := by
  unfold State.abortWhere
  dsimp only
  split
  · exact .refl s
  · refine .trans ?_ (.foldl (fun t c => t.sameEngines_modCore c (f := Core.dropClean fun _ => true) fun _ => rfl) _ _)
    exact .of_cores ((State.disown_same _ _).2.1.trans (State.mapGroups_same s _).2.1)

theorem State.sameEngines_writeSpots (s : State) (x : Spot) (bs : List Byte) : s.SameEngines (s.writeSpots x bs) := by
  induction bs generalizing s x with
  | nil => exact .refl s
  | cons b bs ih =>
    refine State.SameEngines.trans ?_ (ih (s.writeSpot b x) (x.shift 1))
    cases x with
    | sh d c o => exact s.sameEngines_modCore _ fun _ => rfl
    | pa a =>
      refine .of_cores ?_
      unfold State.writeSpot State.writePa
      dsimp only
      split <;> rfl
    | member t l o => exact .refl s

/-- A write of the device leaves the queues and engines of every core. -/
theorem State.sameEngines_deviceWrite (s : State) (w : Option GroupId) (x : Spot) (bs : List Byte) :
    s.SameEngines (s.deviceWrite w x bs) :=
  ((((s.sameEngines_abortWhere _ _).trans (.of_cores (State.noteWrite_same _ _ _).2.1)).trans (State.sameEngines_writeSpots _ x bs)).trans
    (.of_cores (State.clearPoison_same _ _ _).2.1)).trans
      (.of_cores ((State.ringBell_same _ _ _).2.1.trans (State.wakeAt_same _ _ _).2.1))

theorem State.sameEngines_engineWrite (s : State) (ps : List Piece) (bs : List Byte) : s.SameEngines (s.engineWrite ps bs) := by
  induction ps generalizing s bs with
  | nil => exact .refl s
  | cons p ps ih => exact (s.sameEngines_deviceWrite _ _ _).trans (ih _ _)

theorem State.sameEngines_drainRow (s : State) (d : Drain) (r : Nat) (p : RowSpan) (ps : List Piece) : s.SameEngines (s.drainRow d r p ps) :=
  s.sameEngines_engineWrite _ _

/-! ### Completion told to groups, faults told to barriers -/

theorem State.group?_modCore (s : State) (c : CoreId) (f : Core → Core) (i : GroupId) : (s.modCore c f).group? i = s.group? i := by
  rw [State.group?, s.modCore_groups]
  rfl

/-- What waits for an engine's work to be complete is ready (R374). -/
theorem State.group?_engineDone {s : State} {c : CoreId} {i : GroupId} {g : Group} {o : Outst} (kind : LLKind) (hg : s.group? i = some g)
    (hc : i.coreId = c) (ho : o ∈ g.out) (hk : o.kind = kind) :
    ∃ h, (s.engineDone c kind).group? i = some h ∧ { o with ready := true } ∈ h.out := by
  have hid : g.id.coreId = c := by rw [(State.group?_some hg).2, hc]
  refine ⟨_, (s.group?_mapGroups (fun g => ?_) i).trans (congrArg (Option.map _) hg), ?_⟩
  · split <;> rfl
  · simp only [if_pos hid]
    exact List.mem_map.2 ⟨o, ho, if_pos hk⟩

/-- A team stored back is read back. -/
theorem State.team?_putTeam {s : State} {k : TaskKey} {lin : Nat} {u v : Team} (h : s.team? k lin = some u) (hk : v.task = u.task)
    (hl : v.lin = u.lin) : (s.putTeam v).team? k lin = some v := by
  obtain ⟨-, hut, hul⟩ := State.team?_some h
  unfold State.team? at *
  simp only [State.putTeam]
  generalize s.teams = l at *
  have key : (fun x : Team => decide ((if x.task = v.task ∧ x.lin = v.lin then v else x).task = k ∧
      (if x.task = v.task ∧ x.lin = v.lin then v else x).lin = lin)) = fun x => decide (x.task = k ∧ x.lin = lin) := by
    funext x
    split
    next hx => simp [hx, hk, hl, hut, hul]
    · rfl
  rw [List.find?_map, Function.comp_def, key, h, Option.map_some, if_pos ⟨hk.symm, hl.symm⟩]

/-- A team's barrier changed (R362). -/
theorem State.team?_modXb {s : State} {k : TaskKey} {lin : Nat} {u : Team} (n : Nat) (f : XBar → XBar) (h : s.team? k lin = some u) :
    (s.modXb k lin n f).team? k lin = some { u with xb := u.xb.setIfInBounds n (f (u.xb[n]?.getD {})) } := by
  unfold State.modXb
  rw [h]
  exact State.team?_putTeam h rfl rfl

theorem State.modXb_cores (s : State) (k : TaskKey) (lin n : Nat) (f : XBar → XBar) : (s.modXb k lin n f).cores = s.cores := by
  unfold State.modXb
  split <;> rfl

theorem State.modXb_readPa (s : State) (k : TaskKey) (lin n : Nat) (f : XBar → XBar) (a : Nat) : (s.modXb k lin n f).readPa a = s.readPa a := by
  unfold State.modXb
  split <;> rfl

/-- The first copy fault of a barrier is recorded (R359). -/
theorem XBar.copyFault_first {b : XBar} (h : b.fcode = 0) (code : Nat) (addr : DWord) (write : Bool) :
    b.copyFault code addr write = { b with fcode := code, faddr := addr, fwrite := write } := if_pos h

theorem xb_getD (v : Vector XBar 16) (n : Nat) : v[n]?.getD {} = v.toArray.getD n {} := by
  simp [Array.getD_eq_getD_getElem?]

end Sys2Proof.Machine
end

section
/-! ### Drained tiles: the read of a tile and its addition to a tensor (R66, R369, R374, R383) -/

namespace Sys2Proof.Machine

/-! ### A release of a core without an L1 -/

theorem State.releasable_of_no_l1s {s : State} {c : CoreId} (h : (s.coreD c).l1s = []) (sc : Scope) : s.releasable c sc = true := by
  have hd : s.dirtyS c (fun _ => true) = [] := by simp [State.dirtyS, h]
  simp [State.releasable, State.backable, hd, State.ownableAll]

theorem State.releaseL1_of_no_l1s {s : State} {c : CoreId} (h : (s.coreD c).l1s = []) (sc : Scope) : s.releaseL1 c sc = s := by
  simp [State.releaseL1, State.writeBackS, h]

/-! ### MDRAIN_READ -/

/-- The tile that MDRAIN_READ makes of the head of the node's queue, its elements as they stand in the shared store (R369). -/
def State.readTile (s : State) (c : CoreId) (id : Nat) (g : GroupId) (k : TaskKey) (lin : Nat) (x : Tensor) (org : List Int)
    (af xb phase at_ : Nat) (sg : Segment) : Drain :=
  { id := id, group := g, task := k, lin := lin, tensor := x, org := org, xb := xb, phase := phase, seg := sg,
    elems := (List.range 4096).map fun i => BitVec.ofNat 64 (bytesToNat (s.shBytes c (at_ + i * afBytes af) (afBytes af))) }

section
variable {s : State} {id lin af xb phase cbase seq : Nat} {g : GroupId} {k : TaskKey} {x : Tensor} {org : List Int} {sg : Segment}
  {rest : List NodeItem} {u : Team}

/-- MDRAIN_READ waits for the chained updates of its core and the earlier writes of its group. -/
theorem execMdrainRead_waits (hn : (s.coreD s.args.core).node = .drain id g k lin x org af xb phase cbase seq sg :: rest)
    (hu : s.team? k lin = some u) (hw : (!(s.coreD s.args.core).updates.isEmpty || !s.storesBefore g seq) = true) :
    exec .mdrainRead s = .next s := by
  show execMdrainRead s = _
  simp only [execMdrainRead, hn, hu, hw, if_true]

/-- What MDRAIN_READ does with a tile that may be read, of a core whose L1 holds nothing. -/
theorem execMdrainRead_reads (hn : (s.coreD s.args.core).node = .drain id g k lin x org af xb phase cbase seq sg :: rest)
    (hu : s.team? k lin = some u) (hup : (s.coreD s.args.core).updates = []) (hst : s.storesBefore g seq = true)
    (hl : (s.coreD s.args.core).l1s = []) (hf : x.fmt ≠ 4) :
    exec .mdrainRead s = .next ((s.modCore s.args.core fun z =>
      { z with node := rest, drains := z.drains ++ [s.readTile s.args.core id g k lin x org af xb phase (u.shBase + cbase) sg] }).engineDone
        s.args.core (.token id)) := by
  show execMdrainRead s = _
  simp only [execMdrainRead, hn, hu, hup, hst, State.releasable_of_no_l1s hl, State.releaseL1_of_no_l1s hl, if_neg hf, List.isEmpty_nil,
    Bool.not_true, Bool.or_self, Bool.false_eq_true, if_false]
  rfl

end

/-! ### TILE_DRAIN_UPDATE -/

/-- A core's drain that is done with leaves its engine. -/
def State.dropDrain (s : State) (c : CoreId) (id : Nat) : State :=
  s.modCore c fun z => { z with drains := z.drains.filter fun y => y.id ≠ id }

/-- The bytes of a drain that its barrier is to count (R363). -/
def Drain.arrival (d : Drain) : Arrival :=
  { task := d.task, lin := d.lin, xb := d.xb, phase := d.phase, left := 4096 * fmtHalves d.tensor.fmt / 2 }

/-- The rows of a drain added to its tensor in turn. -/
def State.addRows (s : State) (d : Drain) (rows : List (RowSpan × List Piece)) : State :=
  rows.zipIdx.foldl (fun s r => s.drainRow d r.2 r.1.1 r.1.2) s

theorem State.sameEngines_addRows (s : State) (d : Drain) (rows : List (RowSpan × List Piece)) : s.SameEngines (s.addRows d rows) :=
  .foldl (fun s (r : (RowSpan × List Piece) × Nat) => s.sameEngines_drainRow d r.2 r.1.1 r.1.2) _ s

section
variable {s u : State} {d : Drain} {rest : List Drain}

theorem State.coreD_dropDrain (s : State) (c : CoreId) (id : Nat) :
    (s.dropDrain c id).coreD c = { s.coreD c with drains := (s.coreD c).drains.filter fun y => y.id ≠ id } := by
  have h := s.coreD_modCore c c (fun z => { z with drains := z.drains.filter fun y => y.id ≠ id }) fun _ => rfl
  rwa [if_pos rfl] at h

/-- The drain of a core that stands at the head of its drains leaves them. -/
theorem State.drains_dropDrain {c : CoreId} (h : (s.coreD c).drains = d :: rest) (hr : ∀ y ∈ rest, y.id ≠ d.id) :
    ((s.dropDrain c d.id).coreD c).drains = rest := by
  rw [s.coreD_dropDrain]
  dsimp only
  rw [h, List.filter_cons_of_neg (by simp), List.filter_eq_self]
  simpa using hr

variable (hd : (s.coreD s.args.core).drains = d :: rest) (hk : s.args.k = 0)
include hd hk

/-- A drain's writes go on once the homes of its lines hold them alone (R283, R447). -/
theorem execTileDrainUpdate_ok {rows : List (RowSpan × List Piece)} (h : s.drainPieces s.args.core d (List.range 64) = (.ok rows, u)) :
    exec .tileDrainUpdate s = .next (if u.ownableAll none (rows.flatMap fun r => r.2.flatMap Piece.runs) then
      ((u.addRows d rows).dropDrain s.args.core d.id).modCore s.args.core fun z => { z with arrivals := z.arrivals ++ [d.arrival] }
      else u.claimAll none (rows.flatMap fun r => r.2.flatMap Piece.runs)) := by
  show execTileDrainUpdate s = _
  simp only [execTileDrainUpdate, hd, hk, List.getElem?_cons_zero, h]
  split
  next hb => rw [if_neg (by simpa using hb)]
  next hb => rw [if_pos (by simpa using hb)]; rfl

/-- A drain that fails a check is its barrier's copy fault (R359). -/
theorem execTileDrainUpdate_fault {code a : Nat} (h : s.drainPieces s.args.core d (List.range 64) = (.error (.fault code a), u)) :
    exec .tileDrainUpdate s =
      .next ((u.dropDrain s.args.core d.id).modXb d.task d.lin d.xb fun b => b.copyFault code (BitVec.ofNat 64 a) true) := by
  show execTileDrainUpdate s = _
  simp only [execTileDrainUpdate, hd, hk, List.getElem?_cons_zero, h]
  rfl

end

theorem State.team?_dropDrain (s : State) (c : CoreId) (id : Nat) (k : TaskKey) (lin : Nat) :
    (s.dropDrain c id).team? k lin = s.team? k lin := by
  rw [State.team?, State.dropDrain, s.modCore_teams]
  rfl

theorem State.readPa_dropDrain (s : State) (c : CoreId) (id a : Nat) : (s.dropDrain c id).readPa a = s.readPa a :=
  (s.fetched_modCore c _).readPa a

/-! ### One row of FP32 in one run of memory -/

theorem State.paBytes_eq_map (s : State) (a n : Nat) : s.paBytes a n = (List.range n).map fun i => s.readPa (a + i) := by
  induction n generalizing a with
  | zero => rfl
  | succ n ih =>
    rw [State.paBytes, ih, List.range_succ_eq_map, List.map_cons, List.map_map]
    congr 1
    exact List.map_congr_left fun i _ => congrArg s.readPa (Nat.add_right_comm a 1 i ▸ rfl)

theorem State.placeBytes_pa (s : State) (a n : Nat) (cls : Coh) (o : Option (Nat × Nat)) : s.placeBytes ⟨.pa a, n, cls, o⟩ = s.paBytes a n :=
  (s.paBytes_eq_map a n).symm

/-- The bytes from `o` on in a run of memory, `k` of them. -/
theorem State.take_drop_paBytes (s : State) {a n o k : Nat} (h : o + k ≤ n) : ((s.paBytes a n).drop o).take k = s.paBytes (a + o) k := by
  simp only [State.paBytes_eq_map]
  refine List.ext_getElem (by simp; omega) fun i _ _ => ?_
  simp [Nat.add_assoc]

/-- Bytes that fill one piece of memory, written there by an engine. -/
theorem State.readPa_engineWrite_one (s : State) (a : Nat) (cls : Coh) (o : Option (Nat × Nat)) (bs : List Byte) (x : Nat) :
    (s.engineWrite [⟨.pa a, bs.length, cls, o⟩] bs).readPa x = (s.writePaBytes a bs).readPa x := by
  rw [State.engineWrite, List.take_length]
  exact s.readPa_deviceWrite none a bs x

theorem State.readPa_drainRow (s : State) {d : Drain} (hf : d.tensor.fmt = 2) (r a : Nat) (p : RowSpan) (cls : Coh) (x : Nat) :
    (s.drainRow d r p [⟨.pa a, 4 * p.count, cls, none⟩]).readPa x = (s.writePaBytes a ((List.range p.count).flatMap fun i =>
      natToBytes 4 (addOn .f32 (s.paNat (a + 4 * i) 4) ((d.elems.getD (64 * r + p.first + i) 0).toNat)))).readPa x := by
  have hnew : ((List.range p.count).flatMap fun i => natToBytes 4 (drainAdd 2 (bytesToNat (((s.paBytes a (4 * p.count)).drop (4 * i)).take 4))
      ((d.elems.getD (64 * r + p.first + i) 0).toNat))) = (List.range p.count).flatMap fun i =>
      natToBytes 4 (addOn .f32 (s.paNat (a + 4 * i) 4) ((d.elems.getD (64 * r + p.first + i) 0).toNat)) := by
    refine List.flatMap_congr fun i hi => ?_
    have hi := List.mem_range.1 hi
    rw [s.take_drop_paBytes (by omega)]
    rfl
  have hlen : ((List.range p.count).flatMap fun i => natToBytes 4 (addOn .f32 (s.paNat (a + 4 * i) 4)
      ((d.elems.getD (64 * r + p.first + i) 0).toNat))).length = 4 * p.count := by
    simp [List.length_flatMap, length_natToBytes, Nat.mul_comm]
  have hhalf : fmtHalves 2 / 2 = 4 := rfl
  simp only [State.drainRow, hf, hhalf, List.flatMap_cons, List.flatMap_nil, List.append_nil, State.placeBytes_pa, hnew]
  rw [← hlen]
  exact s.readPa_engineWrite_one a cls none _ x

end Sys2Proof.Machine

namespace Sys2Proof.Proofs

open Sys2Proof.Machine Sys2Proof.Slice0

/-- MDRAIN_READ of a drain at the head of the node's queue (R369, R374, R383). -/
theorem drainsReadTheirTile : DrainsReadTheirTile := by
  intro s id lin af xb phase cbase seq g k x org sg rest u hn hu c n
  refine ⟨fun h => execMdrainRead_waits hn hu ?_, fun h => execMdrainRead_waits hn hu (by simp [h]), fun hup hst hl hf => ?_⟩
  · simpa using .inl h
  have hc := s.coreD_modCore c c (fun z =>
    { z with node := rest, drains := z.drains ++ [s.readTile c id g k lin x org af xb phase (u.shBase + cbase) sg] }) fun _ => rfl
  rw [if_pos rfl] at hc
  refine ⟨_, s.readTile c id g k lin x org af xb phase (u.shBase + cbase) sg, execMdrainRead_reads hn hu hup hst hl hf,
    congrArg Core.node hc, congrArg Core.drains hc, by simp only [State.readTile], ?_, fun i hi => ?_, fun i o h hg hic ho hk => ?_, fun a => ?_⟩
  · simp [State.readTile]
  · have hb : afBytes af = n := rfl
    simp [State.readTile, List.getD_eq_getElem?_getD, hi, hb, State.shBytes, c]
  · exact State.group?_engineDone (.token id) ((s.group?_modCore c _ i).trans hg) hic ho hk
  · exact (s.fetched_modCore c _).readPa a

/-- TILE_DRAIN_UPDATE of the drain at the head of a core's drains (R359, R369). -/
theorem tileDrainsAddOnce : TileDrainsAddOnce := by
  constructor
  · intro s d rest hd hk hr c
    constructor
    · intro rows u hp hu _ runs added
      have hex := execTileDrainUpdate_ok hd hk hp
      refine ⟨fun ho => ?_, fun ho => ?_⟩
      · rw [hex, if_neg (by simpa using ho)]
      rw [if_pos ho] at hex
      have hkeep : (added.coreD c).engines = (s.coreD c).engines := (u.sameEngines_addRows d rows c).trans (congrArg Core.engines hu)
      have harr : (added.coreD c).engines.arrivals = (s.coreD c).engines.arrivals := congrArg Core.arrivals hkeep
      have hcore := (added.dropDrain c d.id).coreD_modCore c c (fun z => { z with arrivals := z.arrivals ++ [d.arrival] }) fun _ => rfl
      rw [if_pos rfl] at hcore
      refine ⟨_, hex, fun x => ?_, (congrArg Core.drains hcore).trans ?_, (congrArg Core.arrivals hcore).trans ?_⟩
      · exact ((State.fetched_modCore _ c _).readPa x).trans (State.readPa_dropDrain _ c d.id x)
      · exact State.drains_dropDrain ((congrArg Core.drains hkeep).trans hd) hr
      · rw [State.coreD_dropDrain]
        exact congrArg (· ++ [d.arrival]) harr
    · intro code a u w hp hu hw hx hz b
      refine ⟨_, execTileDrainUpdate_fault hd hk hp, fun x => ?_, ?_, ?_⟩
      · exact (State.modXb_readPa _ _ _ _ _ x).trans (u.readPa_dropDrain c d.id x)
      · rw [State.coreD_of_cores (State.modXb_cores _ _ _ _ _)]
        exact State.drains_dropDrain ((congrArg Core.drains hu).trans hd) hr
      · rw [State.team?_modXb d.xb _ ((u.team?_dropDrain c d.id d.task d.lin).trans hw), xb_getD, XBar.copyFault_first hz]
  · intro s d r a p cls hf
    exact s.readPa_drainRow hf r a p cls

/-- Settles O39: each half from the equations of its step. -/
theorem drainsReadAndAddOnce : Obligations.DrainsReadAndAddOnce := ⟨drainsReadTheirTile, tileDrainsAddOnce⟩

end Sys2Proof.Proofs
end

section
/-! ### Matrix words: MMA and MDRAIN enter their core's node (R364, R366, R381, R383) -/

namespace Sys2Proof.Machine

open Sys2Proof.Slice0

/-! ### Engine words that stall or issue -/

section
variable {s : State} {g : Group} {long mem : Bool} {rs : List PReg} {stalls : State → Group → Bool} {body : Group → State → State}
  (htx : g.tx = none)
include htx

theorem State.engWord_stalls (hg : s.cur = some g) (h : stalls s g = true) : s.engWord long mem rs stalls body = .next (s.stall g) := by
  simp [State.engWord, hg, htx, h]

theorem State.engWord_issues (hf : g.fence = []) (hi : issues s g rs) (hc : g.dc[g.setc] ≠ 63) (h : stalls s g = false) :
    s.engWord long mem rs stalls body = .next (body g s) := by
  rw [State.engWord_eq_word rs body hi.1 (fun _ => hc) (fun _ => hf) (by simp [h]),
    State.word_ok _ hi.1 (Group.issueFault_of_issues hi)]
  simp [htx]

end

/-! ### An entry of a matrix node -/

theorem State.group?_issueEng {s : State} {g : Group} (o : Outst) (hg : s.group? g.id = some g) :
    (s.issueEng g o).group? g.id = some ((g.issueLong o).nextWord 1) := by
  have hid : ((g.issueLong o).nextWord 1).id = g.id := Group.nextWord_id _ 1
  rw [← hid] at hg ⊢
  exact State.group?_put hg

/-- What a group waits for until an entry of its core's node is complete (R374). -/
def entryOut (id : Nat) : Outst := { seq := 0, ctr := 0, kind := .token id, ready := false }

/-- A word's entry at the end of its core's node, and the word issued (R364, R381, R383). -/
def State.enterNode (s : State) (g : Group) (item : Nat → NodeItem) : State :=
  ((s.newId g.id.coreId).2.modCore g.id.coreId fun z => { z with node := z.node ++ [item (s.newId g.id.coreId).1] }).issueEng g
    (entryOut (s.newId g.id.coreId).1)

/-- The entry stands at the end of the queue, and the group has issued the word that completes with it. -/
theorem State.enterNode_enters {s : State} {g : Group} (hg : s.group? g.id = some g) (item : Nat → NodeItem) :
    ∃ h id, (s.enterNode g item).group? g.id = some (h.nextWord 1) ∧ issued g h (entryOut id) ∧
      ((s.enterNode g item).coreD g.id.coreId).node = (s.coreD g.id.coreId).node ++ [item id] := by
  refine ⟨g.issueLong (entryOut (s.newId g.id.coreId).1), (s.newId g.id.coreId).1, ?_, Group.issued_issueLong g _, ?_⟩
  · exact State.group?_issueEng _ (((State.group?_modCore _ _ _ _).trans (State.group?_modCore _ _ _ _)).trans hg)
  · have h1 := s.coreD_modCore g.id.coreId g.id.coreId (fun k => { k with nextId := k.nextId + 1 }) fun _ => rfl
    have h2 := (s.newId g.id.coreId).2.coreD_modCore g.id.coreId g.id.coreId
      (fun z => { z with node := z.node ++ [item (s.newId g.id.coreId).1] }) fun _ => rfl
    rw [if_pos rfl] at h1 h2
    have hn : ((s.newId g.id.coreId).2.coreD g.id.coreId).node = (s.coreD g.id.coreId).node :=
      (congrArg Core.node h1 : ((s.modCore g.id.coreId fun k => { k with nextId := k.nextId + 1 }).coreD g.id.coreId).node = _)
    exact (congrArg Core.node h2).trans (congrArg (· ++ [item (s.newId g.id.coreId).1]) hn)

/-! ### MMA -/

/-- The control word of an MMA (R381). -/
def mmaWord (fmt : Fin 32) (ac ra rb : Bool) (ctl : Nat) : Nat :=
  fmt.val * 2 ^ 27 + (if ac then 2 ^ 26 else 0) + (if ra then 2 ^ 25 else 0) + (if rb then 2 ^ 24 else 0) + ctl % 2 ^ 24

theorem toNat_mul_eq_ite (b : Bool) (n : Nat) : b.toNat * n = if b then n else 0 := by
  cases b <;> simp

section
variable {s : State} {g : Group} {u : Team} (htx : g.tx = none) (hfe : g.fence = []) (hu : s.teamOf g = some u)
include htx

theorem exec_mma_stalls (fmt : Fin 32) (ac ra rb : Bool) (a : Reg) (hg : s.cur = some g)
    (h : 8 ≤ (s.coreD g.id.coreId).node.length ∨ (s.coreD g.id.coreId).claim ≠ none) :
    exec (.mma fmt ac ra rb a) s = .next (s.put { g with turn := false }) := by
  show execMma fmt ac ra rb a s = _
  refine (State.engWord_stalls htx hg ?_).trans rfl
  simpa [Option.isSome_iff_ne_none] using h

include hfe hu

/-- What MMA does once it issues. -/
theorem exec_mma_issues (fmt : Fin 32) (ac ra rb : Bool) (a : Reg) (hi : issues s g [.s a.val]) (hc : g.dc[g.setc] ≠ 63)
    (hn : (s.coreD g.id.coreId).node.length < 8) (hcl : (s.coreD g.id.coreId).claim = none) :
    exec (.mma fmt ac ra rb a) s = .next (
      if 2 ^ 24 ≤ (g.sget a.val).toNat ∨ mtokBad u (mmaWord fmt ac ra rb (g.sget a.val).toNat) = true then s.raise g (atWord g 0x10)
      else s.enterNode g fun id => .token id g.id g.task g.lin (BitVec.ofNat 32 (mmaWord fmt ac ra rb (g.sget a.val).toNat)) none
        g.clause.addr g.clause.next) := by
  show execMma fmt ac ra rb a s = _
  refine (State.engWord_issues htx hfe hi hc ?_).trans (congrArg Host.Outcome.next ?_)
  · simpa [hcl] using hn
  simp only [hu, toNat_mul_eq_ite]
  exact if_congr (or_congr_left (by omega)) rfl rfl

end

/-! ### MDRAIN -/

theorem drainFmtOk_iff (af f : Nat) : drainFmtOk af f = true ↔ (af = 0 ∧ (f = 2 ∨ f = 4)) ∨ (af = 1 ∧ f = 1) ∨ (af = 2 ∧ f = 13) := by
  unfold drainFmtOk
  split
  · simp
  · simp
  · simp
  next h0 h1 h2 => simpa using ⟨fun h => (h0 h).elim, fun h => (h1 h).elim, fun h => (h2 h).elim⟩

/-- Whether MDRAIN takes a tensor with its control word (R383). -/
def drainOk (u : Team) (x : Tensor) (ctl : Nat) : Prop :=
  x.box = [64, 64, 1, 1, 1] ∧ ctl < 2 ^ 18 ∧ ctl / 2 ^ 8 % 16 = 0 ∧
    ctl % 2 ^ 8 * 2048 + 4096 * (if ctl / 2 ^ 16 % 4 = 1 then 8 else 4) ≤ u.shLen ∧
    ((ctl / 2 ^ 16 % 4 = 0 ∧ (x.fmt = 2 ∨ x.fmt = 4)) ∨ (ctl / 2 ^ 16 % 4 = 1 ∧ x.fmt = 1) ∨ (ctl / 2 ^ 16 % 4 = 2 ∧ x.fmt = 13))

theorem field_low (x : Nat) : field x 0 256 = x % 2 ^ 8 := by
  simp [field]

/-- MDRAIN's checks are the model's. -/
theorem not_drainOk_iff (u : Team) (x : Tensor) (ctl : Nat) : ¬ drainOk u x ctl ↔
    x.box ≠ [64, 64, 1, 1, 1] ∨ ctl / 2 ^ 18 ≠ 0 ∨ field ctl 8 16 ≠ 0 ∨
      u.shLen < field ctl 0 256 * 2048 + 4096 * afBytes (field ctl 16 4) ∨ drainFmtOk (field ctl 16 4) x.fmt = false := by
  have h18 : ctl / 2 ^ 18 = 0 ↔ ctl < 2 ^ 18 := Nat.div_eq_zero_iff_lt (by decide)
  rw [← Bool.not_eq_true, drainFmtOk_iff, field_low, ← not_le, ne_eq, ne_eq, ne_eq, h18]
  simp only [drainOk, field, afBytes, not_and_or]
  exact Iff.rfl

theorem State.xbOf_phase {s : State} {g : Group} {u : Team} (hu : s.teamOf g = some u) (n : Nat) :
    (s.xbOf g n).phase = (u.xb.toArray.getD n {}).phase := by
  rw [State.xbOf, hu, Option.bind_some, xb_getD]

/-- The drain that MDRAIN sends (R383). -/
def mdrainItem (g : Group) (u : Team) (x : Tensor) (a : Nat) (ctl : Nat) (id : Nat) : NodeItem :=
  .drain id g.id g.task g.lin x ((List.range 5).map fun k => (g.sget (a + k)).toInt) (ctl / 2 ^ 16 % 4) (ctl / 2 ^ 12 % 16)
    (u.xb.toArray.getD (ctl / 2 ^ 12 % 16) {}).phase (ctl % 2 ^ 8 * 2048) g.seq g.seg[0]

section
variable {s : State} {g : Group} {u : Team} (htx : g.tx = none) (hfe : g.fence = []) (hu : s.teamOf g = some u)
include htx

theorem exec_mdrain_stalls (t : Fin 256) (a b : Reg) (hg : s.cur = some g)
    (h : s.tdefOut t.val g = true ∨ 8 ≤ (s.coreD g.id.coreId).node.length) :
    exec (.mdrain t a b) s = .next (s.put { g with turn := false }) := by
  show execMdrain t a b s = _
  refine (State.engWord_stalls htx hg ?_).trans rfl
  simpa using h

include hfe hu

section
variable {t : Fin 256} {a b : Reg} (hi : issues s g (sRegs a.val 5 ++ [.s b.val])) (hc : g.dc[g.setc] ≠ 63)
  (ht : s.tdefOut t.val g = false) (hn : (s.coreD g.id.coreId).node.length < 8)
include hi hc ht hn

/-- MDRAIN of an identifier that names no tensor (R383). -/
theorem exec_mdrain_undefined (hx : u.tensors.find? (fun y => y.1 = t.val) = none) :
    exec (.mdrain t a b) s = .next (s.raise g (atWord g 0x10)) := by
  show execMdrain t a b s = _
  refine (State.engWord_issues htx hfe hi hc (by simpa [ht] using hn)).trans (congrArg Host.Outcome.next ?_)
  simp only [hu, hx]
  rfl

/-- What MDRAIN does with a tensor once it issues. -/
theorem exec_mdrain_issues {x : Tensor} (hx : u.tensors.find? (fun y => y.1 = t.val) = some (t.val, x))
    [Decidable (drainOk u x (g.sget b.val).toNat)] :
    exec (.mdrain t a b) s = .next (if drainOk u x (g.sget b.val).toNat then s.enterNode g (mdrainItem g u x a.val (g.sget b.val).toNat)
      else s.raise g (atWord g 0x10)) := by
  show execMdrain t a b s = _
  refine (State.engWord_issues htx hfe hi hc (by simpa [ht] using hn)).trans (congrArg Host.Outcome.next ?_)
  simp only [hu, hx]
  split
  next h => rw [if_neg ((not_drainOk_iff u x _).2 h)]; rfl
  next h =>
    rw [if_pos (not_not.1 fun k => h ((not_drainOk_iff u x _).1 k)), State.xbOf_phase hu, field_low]
    rfl

end

end

end Sys2Proof.Machine

namespace Sys2Proof.Proofs

open Sys2Proof.Machine Sys2Proof.Slice0

/-- An entry's word enters the node, and is issued. -/
theorem enters_of_enterNode {i : Instr} {s : State} {g : Machine.Group} {item : Nat → NodeItem} (hg : s.cur = some g)
    (h : exec i s = .next (s.enterNode g item)) : ∃ (v : State) (h : Machine.Group) (id : Nat), exec i s = .next v ∧
      v.group? g.id = some (h.nextWord 1) ∧ issued g h { seq := 0, ctr := 0, kind := .token id, ready := false } ∧
      (v.coreD g.id.coreId).node = (s.coreD g.id.coreId).node ++ [item id] := by
  obtain ⟨k, id, hrest⟩ := State.enterNode_enters (State.group?_of_cur hg) item
  exact ⟨_, k, id, h, hrest⟩

/-- MMA and MDRAIN at issue (R364, R366, R381, R383). -/
theorem matrixWordsEnterTheNode : MatrixWordsEnterTheNode := by
  intro fmt ac ra rb t a b s g u htx hfe hu hg node ctl w dctl af enters
  refine ⟨⟨exec_mma_stalls htx fmt ac ra rb a hg, fun hi hc hn hcl => ?_⟩, exec_mdrain_stalls htx t a b hg, fun hi hc ht hn => ?_⟩
  · have hex := exec_mma_issues htx hfe hu fmt ac ra rb a hi hc hn hcl
    refine ⟨fun hbad => hex.trans (congrArg _ (if_pos hbad)), fun hlt hok => enters_of_enterNode hg (hex.trans (congrArg _ (if_neg ?_)))⟩
    rintro (h | h)
    · exact absurd hlt (not_lt.2 h)
    · exact absurd hok (ne_of_eq_of_ne h (by decide))
  · refine ⟨exec_mdrain_undefined htx hfe hu hi hc ht hn, fun x hx => ?_⟩
    classical
    have hex := exec_mdrain_issues htx hfe hu hi hc ht hn hx
    exact ⟨fun h => hex.trans (congrArg _ (if_neg h)), fun h => enters_of_enterNode hg (hex.trans (congrArg _ (if_pos h)))⟩

end Sys2Proof.Proofs
end

section
/-! ### Matrix tokens fire, and their chained updates add (R63, R66, R276, R277, R367, R382) -/

namespace Sys2Proof.Machine

open Sys2Proof.Slice0

/-! ### MATRIX_TOKEN_FIRE -/

theorem bitOf_eq_testBit (x i : Nat) : bitOf x i = x.testBit i := by
  simp [bitOf, Nat.testBit_eq_decide_div_mod_eq, beq_eq_decide]

/-- A word with RA and RB clear releases no slot (R367). -/
theorem State.releaseSlots_none (s : State) (k : TaskKey) (lin : Nat) {w : Nat} (h : w / 2 ^ 24 % 4 = 0) : s.releaseSlots k lin w = s := by
  have h24 : bitOf w 24 = false := by simp [bitOf]; omega
  have h25 : bitOf w 25 = false := by simp [bitOf]; omega
  simp [State.releaseSlots, h24, h25]

/-- An operand lies in the shared store: the queue of the node has no part in it. -/
theorem State.operand_congr {s t : State} {c : CoreId} (h : (t.coreD c).shared = (s.coreD c).shared) (u : Team) (f : Nat) (x : Nat × Nat) :
    t.operand c u f x = s.operand c u f x := by
  simp only [State.operand, State.shBytes, h]

/-- A token of dense slots passes the sparse-form checks (R366). -/
theorem sparseBad_dense {u : Team} {a b : SlotBuf} {w : Nat} (ha : u.buf? (wordA w).1 = some a) (hb : u.buf? (wordB w).1 = some b)
    (hsa : a.sparse.getD (wordA w).2 false = false) (hsb : b.sparse.getD (wordB w).2 false = false) : sparseBad u w = false := by
  simp only [sparseBad, ha, hb, Option.map_some, Option.getD_some, SlotBuf.isSparse, hsa, hsb, Bool.false_and, Bool.or_false]

/-- The updates that a token which fires sends (R367). -/
def State.firedUpdates (s : State) (c : CoreId) (id : Nat) (k : TaskKey) (u : Team) (w : Nat) : List ChainUpd :=
  tokenUpdates id k u w (s.operand c u (wordFmt w) (wordA w)) (s.operand c u (wordFmt w) (wordB w))

section
variable {s : State} {id lin widx : Nat} {g : GroupId} {k : TaskKey} {word : Word} {hdr : DWord} {rest : List NodeItem} {u : Team}
  {a b : SlotBuf} (hn : (s.coreD s.args.core).node = .token id g k lin word none hdr widx :: rest) (hu : s.team? k lin = some u)
  (ha : u.buf? (wordA word.toNat).1 = some a) (hb : u.buf? (wordB word.toNat).1 = some b)
include hn hu ha hb

/-- A token with a slot that is not FULL waits (R367). -/
theorem exec_matrixTokenFire_waits (h : a.full.getD (wordA word.toNat).2 false = false ∨ b.full.getD (wordB word.toNat).2 false = false) :
    exec .matrixTokenFire s = .next s := by
  show execMatrixTokenFire s = _
  simp only [execMatrixTokenFire, hn, hu, ha, hb, Option.map_some, Option.getD_some, SlotBuf.isFull]
  rcases h with h | h <;> simp only [h, Bool.and_false, Bool.false_and, Bool.not_false, Bool.true_or, if_true]

/-- A token of dense slots fires: it leaves the queue, and its updates are under way (R277, R367). -/
theorem exec_matrixTokenFire_fires (hfa : a.full.getD (wordA word.toNat).2 false = true)
    (hfb : b.full.getD (wordB word.toNat).2 false = true) (hup : (s.coreD s.args.core).updates = [])
    (hsa : a.sparse.getD (wordA word.toNat).2 false = false) (hsb : b.sparse.getD (wordB word.toNat).2 false = false)
    (hr : word.toNat / 2 ^ 24 % 4 = 0) :
    exec .matrixTokenFire s = .next ((s.modCore s.args.core fun z => { z with node := rest }).modCore s.args.core fun z =>
      { z with updates := z.updates ++ s.firedUpdates s.args.core id k u word.toNat }) := by
  have h1 := s.coreD_modCore s.args.core s.args.core (fun z => { z with node := rest }) fun _ => rfl
  rw [if_pos rfl] at h1
  have hsh : ((s.modCore s.args.core fun z => { z with node := rest }).coreD s.args.core).shared = (s.coreD s.args.core).shared := by
    rw [h1]
  have hop := State.operand_congr hsh u
  show execMatrixTokenFire s = _
  simp only [execMatrixTokenFire, hn, hu, ha, hb, Option.map_some, Option.getD_some, SlotBuf.isFull, hfa, hfb, hup, List.map_nil,
    List.dedup_nil, List.length_nil, sparseBad_dense ha hb hsa hsb, State.releaseSlots_none _ _ _ hr, hop]
  rfl

end

/-- The queue and the updates of a core whose token has fired; its shared store stays. -/
theorem State.coreD_fired (s : State) (c : CoreId) (rest : List NodeItem) (us : List ChainUpd) :
    ((s.modCore c fun z => { z with node := rest }).modCore c fun z => { z with updates := z.updates ++ us }).coreD c =
      { s.coreD c with node := rest, updates := (s.coreD c).updates ++ us } := by
  have h1 := s.coreD_modCore c c (fun z => { z with node := rest }) fun _ => rfl
  have h2 := (s.modCore c fun z => { z with node := rest }).coreD_modCore c c (fun z => { z with updates := z.updates ++ us }) fun _ => rfl
  rw [if_pos rfl] at h1 h2
  rw [h2, h1]

/-- The updates of a token, one for each bank word of its accumulator (R276, R367). -/
theorem State.getElem?_firedUpdates (s : State) (c : CoreId) (id : Nat) (k : TaskKey) (u : Team) {w n : Nat}
    (hn : n < 4096 / (8 / accBytes (wordFmt w))) :
    (s.firedUpdates c id k u w)[n]? = some ⟨id, k, u.lin, [(wordA w).1, (wordB w).1], u.shBase + w % 256 * 2048 + 8 * n,
      accKind (wordFmt w), !w.testBit 26, (List.range (8 / accBytes (wordFmt w))).map fun i =>
        tokenAddends (wordFmt w) (s.operand c u (wordFmt w) (wordA w)) (s.operand c u (wordFmt w) (wordB w)) (w.testBit 9) (w.testBit 8)
          ((8 / accBytes (wordFmt w) * n + i) / 64) ((8 / accBytes (wordFmt w) * n + i) % 64)⟩ := by
  have hacc : wordAcc w = w % 256 * 2048 := by simp [wordAcc, field]
  simp only [State.firedUpdates, tokenUpdates, List.getElem?_map, List.getElem?_range hn, Option.map_some, hacc, bitOf_eq_testBit]

/-! ### The sums of a bank word's elements (R63, R66, R276) -/

theorem Memory.readBytes_eq_map (m : Memory) (a n : Nat) : m.readBytes a n = (List.range n).map fun i => m.read (a + i) := by
  induction n generalizing a with
  | zero => rfl
  | succ n ih =>
    rw [Memory.readBytes, ih, List.range_succ_eq_map, List.map_cons, List.map_map]
    congr 1
    exact List.map_congr_left fun i _ => congrArg m.read (Nat.add_right_comm a 1 i ▸ rfl)

theorem Memory.length_readBytes (m : Memory) (a n : Nat) : (m.readBytes a n).length = n := by
  simp [m.readBytes_eq_map]

/-- The bytes from `o` on in a run of the store, `k` of them. -/
theorem Memory.take_drop_readBytes (m : Memory) {a n o k : Nat} (h : o + k ≤ n) : ((m.readBytes a n).drop o).take k = m.readBytes (a + o) k := by
  simp only [Memory.readBytes_eq_map]
  refine List.ext_getElem (by simp; omega) fun i _ _ => ?_
  simp [Nat.add_assoc]

/-- The value that an update finds in the `i`-th element of its bank word: zero where it overwrites. -/
def ChainUpd.found (x : ChainUpd) (m : Memory) (i : Nat) : Nat :=
  if x.fresh then 0 else bytesToNat (m.readBytes (x.off + x.width * i) x.width)

theorem ChainUpd.found_lt {x : ChainUpd} (hw : x.width = 4) (m : Memory) (i : Nat) : x.found m i < 2 ^ 32 := by
  unfold ChainUpd.found
  rw [hw]
  split
  · decide
  · have h := bytesToNat_lt (m.readBytes (x.off + 4 * i) 4)
    rwa [m.length_readBytes] at h

theorem chainElem_fresh (kind : Nat) (fresh : Bool) (old : Nat) (as : List XReal) :
    chainElem kind fresh old as = chainElem kind false (if fresh then 0 else old) as := rfl

/-- The new bytes of a bank word are those of its elements' sums. -/
theorem ChainUpd.apply_eq (x : ChainUpd) (m : Memory) : x.apply (m.readBytes x.off (x.width * x.parts.length)) =
    (x.parts.zipIdx.map fun y => chainElem x.kind false (x.found m y.2) y.1).flatMap (natToBytes x.width) := by
  rw [ChainUpd.apply, List.flatMap_map]
  refine List.flatMap_congr fun y hy => congrArg (natToBytes x.width) ?_
  have hlt : y.2 < x.parts.length := List.snd_lt_of_mem_zipIdx hy
  have hfit : x.width * y.2 + x.width ≤ x.width * x.parts.length := by
    rw [← Nat.mul_succ]
    exact Nat.mul_le_mul_left _ hlt
  rw [chainElem_fresh, m.take_drop_readBytes hfit, ChainUpd.found]

theorem chainElem_whole_cons (y : Nat) (z : Int) (as : List XReal) :
    chainElem 2 false y (.fin z 0 :: as) = chainElem 2 false (((y : Int) + z) % 2 ^ 32).toNat as := by
  simp only [chainElem, Bool.false_eq_true, if_false, List.foldl_cons, Int.toNat_zero, pow_zero, Int.mul_one]
  rfl

/-- Whole addends added to an element in turn, modulo 2^32. -/
theorem chainElem_whole (l : List Int) {y : Nat} (hy : y < 2 ^ 32) :
    chainElem 2 false y (l.map fun z => .fin z 0) = (((y : Int) + l.sum) % 2 ^ 32).toNat := by
  induction l generalizing y with
  | nil => exact (by simp; omega : y = (((y : Int) + ([] : List Int).sum) % 2 ^ 32).toNat)
  | cons z l ih =>
    have hrange : 0 ≤ ((y : Int) + z) % 2 ^ 32 ∧ ((y : Int) + z) % 2 ^ 32 < 2 ^ 32 := by omega
    rw [List.map_cons, chainElem_whole_cons, ih (by omega), Int.toNat_of_nonneg hrange.1, Int.emod_add_emod, List.sum_cons, Int.add_assoc]

/-! ### CHAINED_ADD_ON_STORE -/

theorem State.shared_wf_modCore {s : State} (h : ∀ k ∈ s.cores, k.shared.wf = true) (c : CoreId) {f : Core → Core}
    (hf : ∀ k, (f k).shared = k.shared) : ∀ k ∈ (s.modCore c f).cores, k.shared.wf = true := by
  intro x hx
  cases hc : s.core? c with
  | some k =>
    rw [State.modCore_cores_some hc] at hx
    obtain ⟨y, hy, rfl⟩ := List.mem_map.1 hx
    split
    · rw [hf, h y hy]
    · exact h y hy
  | none =>
    rw [State.modCore_cores_none hc] at hx
    rcases List.mem_cons.1 hx with rfl | hx
    · rw [hf]
      rfl
    · exact h x hx

/-- The tokens of a core that are complete change no core. -/
theorem State.coreD_tokensDone (s : State) (c k : CoreId) : (s.tokensDone c).coreD k = s.coreD k := rfl

/-- A token that no longer stands in the node, and that every update under way comes after, is complete (R374, R382). -/
theorem State.group?_tokensDone {s : State} {c : CoreId} {i : GroupId} {h : Group} {o : Outst} {id : Nat} (hg : s.group? i = some h)
    (hc : i.coreId = c) (ho : o ∈ h.out) (hk : o.kind = .token id) (hn : ∀ y ∈ (s.coreD c).node, nodeId y ≠ id)
    (hu : ∀ y ∈ (s.coreD c).updates, id < y.token) : ∃ k, (s.tokensDone c).group? i = some k ∧ { o with ready := true } ∈ k.out := by
  have hid : h.id.coreId = c := by rw [(State.group?_some hg).2, hc]
  refine ⟨_, (s.group?_mapGroups (fun g => ?_) i).trans (congrArg (Option.map _) hg), ?_⟩
  · split <;> rfl
  simp only [if_pos hid]
  have hdone : (!((s.coreD c).node.map nodeId).contains id && (s.coreD c).updates.all fun u => decide (id < u.token)) = true := by
    simpa using ⟨fun y hy => hn y hy, hu⟩
  refine List.mem_map.2 ⟨o, ho, ?_⟩
  rw [hk]
  exact if_pos hdone

section
variable {s : State} {x : ChainUpd} {rest : List ChainUpd} (hx : (s.coreD s.args.core).updates = x :: rest) (hk : s.args.k = 0)
include hx hk

/-- The update of a core that comes first is taken, and its bank word is written. -/
theorem exec_chainedAddOnStore : exec .chainedAddOnStore s =
    .next (((s.modCore s.args.core fun z => { z with updates := z.updates.eraseIdx 0 }).shWrite s.args.core x.off
      (((x.parts.zipIdx.map fun y => chainElem x.kind false (x.found (s.coreD s.args.core).shared y.2) y.1).flatMap
        (natToBytes x.width)))).tokensDone s.args.core) := by
  have h1 := s.coreD_modCore s.args.core s.args.core (fun z => { z with updates := z.updates.eraseIdx 0 }) fun _ => rfl
  rw [if_pos rfl] at h1
  rw [← x.apply_eq]
  show execChainedAddOnStore s = _
  simp only [execChainedAddOnStore, hx, hk, List.getElem?_cons_zero, List.take_zero, List.any_nil, State.shBytes, h1]
  rfl

omit hk in
/-- The update's bytes, and no others of its core's store, are written; the update is gone, and with the last one of its token and of
every earlier one its instruction is complete. -/
theorem chained_lands (hwf : ∀ k ∈ s.cores, k.shared.wf = true) (bs : List Byte) :
    let t := ((s.modCore s.args.core fun z => { z with updates := z.updates.eraseIdx 0 }).shWrite s.args.core x.off bs).tokensDone s.args.core
    wroteShared s t s.args.core x.off bs ∧ (t.coreD s.args.core).updates = rest ∧ ((∀ y ∈ rest, x.token < y.token) →
      (∀ y ∈ (s.coreD s.args.core).node, nodeId y ≠ x.token) → ∀ i o h, s.group? i = some h → i.coreId = s.args.core → o ∈ h.out →
      h.tx = none → o.kind = .token x.token → ∃ k, t.group? i = some k ∧ { o with ready := true } ∈ k.out) := by
  have h1 := s.coreD_modCore s.args.core s.args.core (fun z => { z with updates := z.updates.eraseIdx 0 }) fun _ => rfl
  rw [if_pos rfl, hx] at h1
  have hwf' := State.shared_wf_modCore hwf s.args.core (f := fun z => { z with updates := z.updates.eraseIdx 0 }) fun _ => rfl
  have hgroups := s.group?_modCore s.args.core fun z => { z with updates := z.updates.eraseIdx 0 }
  generalize s.modCore s.args.core (fun z => { z with updates := z.updates.eraseIdx 0 }) = u at h1 hwf' hgroups
  generalize s.args.core = c at *
  have hkeep : ((u.shWrite c x.off bs).coreD c).engines = (u.coreD c).engines := u.sameEngines_deviceWrite none _ bs c
  have hup : ((u.shWrite c x.off bs).coreD c).engines.updates = rest := by rw [hkeep, h1]; rfl
  have hnode : ((u.shWrite c x.off bs).coreD c).engines.node = (s.coreD c).node := by rw [hkeep, h1]; rfl
  refine ⟨fun y => (State.shared_deviceWrite hwf' none c x.off bs c y).trans (by rw [if_pos rfl, h1]), hup, ?_⟩
  intro hr hn i o h hg hi ho htx hk
  obtain ⟨k, hgk, hquiet⟩ := (u.fetched_deviceWrite_sh none c x.off bs).groups i h ((hgroups i).trans hg)
  obtain rfl := hquiet.same htx
  exact State.group?_tokensDone hgk hi ho hk (fun y hy => hn y (hnode ▸ hy)) fun y hy => hr y (hup ▸ hy)

end

end Sys2Proof.Machine

namespace Sys2Proof.Proofs

open Sys2Proof.Machine Sys2Proof.Slice0

/-- MATRIX_TOKEN_FIRE of the token at the head of a core's node (R277, R367). -/
theorem matrixTokensFire : MatrixTokensFire := by
  intro s id lin widx g k word hdr rest u a b hn hu w c per ha hb
  refine ⟨exec_matrixTokenFire_waits hn hu ha hb, fun hfa hfb hup hsa hsb hr => ?_⟩
  have hcore := s.coreD_fired c rest (s.firedUpdates c id k u w)
  rw [hup, List.nil_append] at hcore
  refine ⟨_, _, exec_matrixTokenFire_fires hn hu ha hb hfa hfb hup hsa hsb hr, congrArg Core.node hcore, congrArg Core.updates hcore, ?_,
    (State.modCore_teams _ _ _).trans (s.modCore_teams _ _), (State.modCore_groups _ _ _).trans (s.modCore_groups _ _),
    fun x => by rw [hcore], fun n hlt => ⟨_, s.getElem?_firedUpdates c id k u hlt, rfl, rfl, rfl, ?_,
      fun i hi => ?_⟩⟩
  · simp [State.firedUpdates, tokenUpdates, per]
  · simp [per]
  · simp only [List.getElem?_map, List.getElem?_range hi, Option.map_some, per]

/-- CHAINED_ADD_ON_STORE of the update at the head of a core's updates (R63, R66, R276, R277, R382). -/
theorem chainedUpdatesAddInOrder : ChainedUpdatesAddInOrder := by
  intro s x rest ms hx hk hwf c old lands sum
  have hlands : lands x.width (x.parts.zipIdx.map fun y => chainElem x.kind false (x.found (s.coreD c).shared y.2) y.1) :=
    ⟨_, exec_chainedAddOnStore hx hk, chained_lands hx hwf _⟩
  have hfound : ∀ e, x.width = e → ∀ i, x.found (s.coreD c).shared i = old e i := by
    rintro _ rfl i
    rfl
  refine ⟨fun h2 hparts => ?_, fun h0 => ?_, fun h1 => ?_⟩
  · have hw : x.width = 4 := by simp [ChainUpd.width, h2]
    have hold : ∀ i, old 4 i < 2 ^ 32 := fun i => by
      rw [← hfound 4 hw]
      exact ChainUpd.found_lt hw _ i
    rw [hw, h2, hparts, List.zipIdx_map, List.map_map] at hlands
    refine (congrArg (lands 4) (List.map_congr_left fun y _ => ?_)).mp hlands
    exact (congrArg (fun z => chainElem 2 false z _) (hfound 4 hw y.2)).trans (chainElem_whole y.1 (hold y.2))
  · have hw : x.width = 4 := by simp [ChainUpd.width, h0]
    rw [hw, h0] at hlands
    exact (congrArg (lands 4) (List.map_congr_left fun y _ => congrArg (fun z => sum .f32 z y.1) (hfound 4 hw y.2))).mp hlands
  · have hw : x.width = 8 := by simp [ChainUpd.width, h1]
    rw [hw, h1] at hlands
    exact (congrArg (lands 8) (List.map_congr_left fun y _ => congrArg (fun z => sum .f64 z y.1) (hfound 8 hw y.2))).mp hlands

/-- Settles O38: the words at issue, the token that fires, and its updates. -/
theorem matrixWordsAndTokensAct : Obligations.MatrixWordsAndTokensAct :=
  ⟨matrixWordsEnterTheNode, matrixTokensFire, chainedUpdatesAddInOrder⟩

end Sys2Proof.Proofs
end

section
/-! ### Links and chain slots (R371, R401, R434, R441, R443, R454) -/

namespace Sys2Proof.Machine

open Sys2Proof.Slice0

/-! ### A copy fault and a chain's stop -/

/-- What `State.still` holds, without the chain slots. -/
def State.unchained (s : State) : State := { s.still with chains := Vector.replicate 16 {} }

theorem State.unchained_of_still {s t : State} (h : t.still = s.still) : t.unchained = s.unchained := by
  rw [State.unchained, State.unchained, h]

theorem State.still_modXb (s : State) (k : TaskKey) (lin n : Nat) (f : XBar → XBar) : (s.modXb k lin n f).still = s.still := by
  unfold State.modXb
  split <;> rfl

theorem State.still_endCopy (s : State) (c : CoreId) (x : Copy) : (s.endCopy c x).still = s.still :=
  s.still_modCore c _

/-- A copy fault changes its team, its core and the groups that wait for it. -/
theorem State.still_faultCopy (s : State) (c : CoreId) (x : Copy) (code addr : Nat) : (s.faultCopy c x code addr).still = s.still := by
  unfold State.faultCopy
  dsimp only
  rw [State.still_endCopy, State.still_modXb]
  split
  · rfl
  · exact s.still_modXb _ _ _ _

/-- A slot after its chain has stopped: a running one of the chain stops (R371). -/
def Chain.stoppedBy (cid : Nat) (h : Chain) : Chain :=
  if decide (h.state = .running) && h.cid == cid then { h.cleared with state := .stopped } else h

/-- A chain's stop changes its slots, and beside them what copy faults change. -/
theorem State.still_stopChain (s : State) (cid : Nat) :
    (s.stopChain cid).still = ({ s with chains := s.chains.map (Chain.stoppedBy cid) } : State).still := by
  refine State.foldl_keeps State.still (fun t k => State.foldl_keeps State.still (fun t x => ?_) _ t) _ _
  split
  · exact t.still_faultCopy _ _ _ _
  · rfl

theorem State.stopChain_chains (s : State) (cid : Nat) : (s.stopChain cid).chains = s.chains.map (Chain.stoppedBy cid) :=
  congrArg State.chains (s.still_stopChain cid)

theorem State.unchained_stopChain (s : State) (cid : Nat) : (s.stopChain cid).unchained = s.unchained :=
  congrArg (fun t : State => { t with chains := Vector.replicate 16 {} }) (s.still_stopChain cid)

theorem Chain.stoppedBy_running {h : Chain} (hr : h.state = .running) (cid : Nat) :
    h.stoppedBy cid = if h.cid = cid then { h.cleared with state := .stopped } else h := by
  simp [Chain.stoppedBy, hr]

theorem Chain.stoppedBy_stopped {h : Chain} (hs : h.state = .stopped) (cid : Nat) : h.stoppedBy cid = h := by
  simp [Chain.stoppedBy, hs]

/-- Every running stage of a chain that stops is stopped (R371). -/
theorem State.stopChain_stops {s : State} {k : Fin 16} {cid : Nat} (hr : s.chains[k].state = .running) (hc : s.chains[k].cid = cid) :
    (s.stopChain cid).chains[k].state = .stopped := by
  have hk : (s.stopChain cid).chains[k] = s.chains[k].stoppedBy cid := by rw [s.stopChain_chains]; simp
  rw [hk, Chain.stoppedBy_running hr, if_pos hc]

/-- Chains stopped in turn: a slot that is stopped, or whose chain is among them, is stopped. -/
theorem State.stopChains_stops (l : List Chain) {s : State} {k : Fin 16}
    (h : s.chains[k].state = .stopped ∨ (s.chains[k].state = .running ∧ ∃ x ∈ l, s.chains[k].cid = x.cid)) :
    (l.foldl (fun s x => s.stopChain x.cid) s).chains[k].state = .stopped := by
  induction l generalizing s with
  | nil => simpa using h
  | cons x l ih =>
    have hk : (s.stopChain x.cid).chains[k] = s.chains[k].stoppedBy x.cid := by rw [s.stopChain_chains]; simp
    refine ih ?_
    rw [hk]
    rcases h with h | ⟨hr, y, hy, hc⟩
    · exact .inl (by rw [Chain.stoppedBy_stopped h, h])
    · rw [Chain.stoppedBy_running hr]
      split
      · exact .inl rfl
      next hne =>
        rcases List.mem_cons.1 hy with rfl | hy
        · exact absurd hc hne
        · exact .inr ⟨hr, y, hy, hc⟩

/-! ### A link that is lost -/

theorem State.still_mapGroups (s : State) (f : Group → Group) : (s.mapGroups f).still = s.still := rfl

/-- Where no team sleeps and no store is out, a port's loss is the groups' alone. -/
theorem State.still_losePort {s : State} (h : Slice0.calm s) (p : Port) : (s.losePort p).still = s.still := by
  obtain ⟨hteams, -, hgroups⟩ := h
  unfold State.losePort
  rw [State.wakeIf_of_sleepless hteams]
  dsimp only
  have hnone : ∀ g ∈ (s.mapGroups (s.loseThrough p)).groups, g.stores = [] := fun g hg => by
    obtain ⟨x, hx, rfl⟩ := List.mem_map.1 hg
    exact (hgroups x hx).2.2
  have hfold : ∀ (l : List Group) (t : State), (∀ g ∈ l, g.stores = []) → l.foldl (fun s g => s.dropThrough p g) t = t := by
    intro l t hl
    induction l with
    | nil => rfl
    | cons g l ih =>
      have hg : t.dropThrough p g = t := by simp [State.dropThrough, hl g (by simp)]
      rw [List.foldl_cons, hg, ih fun x hx => hl x (by simp [hx])]
  rw [hfold _ _ hnone, State.still_mapGroups]

theorem State.through_of_still {s t : State} (h : t.still = s.still) (p : Port) (a : Nat) : t.through p a = s.through p a := by
  have hstill : t.still.through p a = s.still.through p a := by rw [h]
  exact hstill

theorem State.link_setLink (s : State) (p q : Port) (l : Link) : (s.setLink p l).link q = if q = p then l else s.link q := by
  cases p with
  | host => cases q <;> simp [State.setLink, State.link]
  | ua n =>
    cases q with
    | ua m => simp [State.setLink, State.link, Vector.getElem_set, Fin.ext_iff, eq_comm]
    | host => simp [State.setLink, State.link]
    | cap m => simp [State.setLink, State.link]
  | cap n =>
    cases q with
    | cap m => simp [State.setLink, State.link, Vector.getElem_set, Fin.ext_iff, eq_comm]
    | host => simp [State.setLink, State.link]
    | ua m => simp [State.setLink, State.link]

/-- The chains of which the next or the previous stage lies behind a port (R371). -/
def State.behind (s : State) (p : Port) : List Chain :=
  s.chains.toList.filter fun h => decide (h.state = .running) &&
    ((!h.isLast && (h.ndev != s.devidx && s.through p (2 ^ 48 + h.ndev * 2 ^ 40))) ||
      (h.feeder.map fun d => d != s.devidx && s.through p (2 ^ 48 + d * 2 ^ 40)).getD false)

theorem State.stopThrough_eq (s : State) (p : Port) : s.stopThrough p = (s.behind p).foldl (fun s h => s.stopChain h.cid) s := rfl

theorem State.unchained_stopThrough (s : State) (p : Port) : (s.stopThrough p).unchained = s.unchained := by
  rw [State.stopThrough_eq]
  generalize s.behind p = l
  induction l generalizing s with
  | nil => rfl
  | cons h l ih => exact (ih _).trans (s.unchained_stopChain h.cid)

/-- A running chain behind a port that is lost is stopped. -/
theorem State.stopThrough_stops {s : State} {p : Port} {k : Fin 16} (hr : s.chains[k].state = .running)
    (hb : ((!s.chains[k].isLast && (s.chains[k].ndev != s.devidx && s.through p (2 ^ 48 + s.chains[k].ndev * 2 ^ 40))) ||
      (s.chains[k].feeder.map fun d => d != s.devidx && s.through p (2 ^ 48 + d * 2 ^ 40)).getD false) = true) :
    (s.stopThrough p).chains[k].state = .stopped := by
  refine State.stopChains_stops _ (.inr ⟨hr, s.chains[k], List.mem_filter.2 ⟨?_, ?_⟩, rfl⟩)
  · simp
  · simp only [hr, decide_true, Bool.true_and]
    exact hb

/-- What ends the loss of a link keeps: links, chain slots and the platform. -/
def State.linked (s : State) : Vector Link 16 × Link × Vector Link 2 × Vector Chain 16 × Psc := (s.ua, s.hostLink, s.capLink, s.chains, s.psc)

theorem State.linked_failSave (s : State) (p : Port) : (s.failSave p).linked = s.linked := by
  unfold State.failSave
  split
  · split <;> rfl
  · rfl

/-- The loss of a link where no migration is under way. -/
theorem State.linked_dropLink {s : State} {p : Port} (hm : ((s.losePort p).stopThrough p).migrations = []) (st : LinkState) :
    (s.dropLink p st).linked =
      (((s.losePort p).stopThrough p).setLink p { ((s.losePort p).stopThrough p).link p with state := st }).linked := by
  have habandon : ∀ t : State, t.migrations = [] → t.abandonLost = t := fun t h => by simp [State.abandonLost, h]
  unfold State.dropLink
  dsimp only
  generalize (s.losePort p).stopThrough p = t at hm ⊢
  have hm' : (t.setLink p { t.link p with state := st }).migrations = [] := by
    cases p <;> exact hm
  rw [habandon _ hm']
  split
  · exact State.linked_failSave _ _
  · exact State.linked_failSave _ _

theorem State.link_of_linked {s t : State} (h : t.linked = s.linked) (p : Port) : t.link p = s.link p := by
  simp only [State.linked, Prod.mk.injEq] at h
  obtain ⟨hua, hhost, hcap, -, -⟩ := h
  cases p <;> simp only [State.link, hua, hhost, hcap]

theorem State.link_of_unchained {s t : State} (h : t.unchained = s.unchained) (p : Port) : t.link p = s.link p := by
  have hlink : t.unchained.link p = s.unchained.link p := by rw [h]
  cases p <;> exact hlink

/-- A link that leaves UP: its own state is set, no other link's is, and the running chains behind it stop (R371, R401, R434). -/
theorem State.dropLink_drops {s : State} (hm : s.migrations = []) (h : Slice0.calm s) (p : Port) (st : LinkState) :
    linkBecomes s (s.dropLink p st) p (fun l => { l with state := st }) ∧ (s.dropLink p st).psc = s.psc ∧
      (∀ k : Fin 16, s.chains[k].state = .running → s.chains[k].isLast = false → s.chains[k].ndev ≠ s.devidx →
        s.through p (2 ^ 48 + s.chains[k].ndev * 2 ^ 40) = true → (s.dropLink p st).chains[k].state = .stopped) ∧
      (∀ (k : Fin 16) (d : Nat), s.chains[k].state = .running → s.chains[k].feeder = some d → d ≠ s.devidx →
        s.through p (2 ^ 48 + d * 2 ^ 40) = true → (s.dropLink p st).chains[k].state = .stopped) := by
  have hstill := State.still_losePort h p
  have hrest : ((s.losePort p).stopThrough p).unchained = s.unchained :=
    (State.unchained_stopThrough _ p).trans (State.unchained_of_still hstill)
  have hmig : ((s.losePort p).stopThrough p).migrations = s.migrations :=
    (congrArg State.migrations hrest : ((s.losePort p).stopThrough p).unchained.migrations = s.unchained.migrations)
  have hpsc : ((s.losePort p).stopThrough p).psc = s.psc :=
    (congrArg State.psc hrest : ((s.losePort p).stopThrough p).unchained.psc = s.unchained.psc)
  have hlinked := State.linked_dropLink (p := p) (hmig.trans hm) st
  have hchains : (s.dropLink p st).chains = ((s.losePort p).stopThrough p).chains :=
    (congrArg (fun x => x.2.2.2.1) hlinked).trans (by cases p <;> rfl)
  have hs : (s.losePort p).chains = s.chains := (congrArg State.chains hstill : (s.losePort p).still.chains = s.still.chains)
  have hd : (s.losePort p).devidx = s.devidx := (congrArg State.devidx hstill : (s.losePort p).still.devidx = s.still.devidx)
  have ht := State.through_of_still hstill p
  have hlink : ∀ q, (s.dropLink p st).link q = if q = p then { s.link p with state := st } else s.link q := fun q => by
    rw [State.link_of_linked hlinked, State.link_setLink, State.link_of_unchained hrest, State.link_of_unchained hrest]
  refine ⟨⟨(hlink p).trans (if_pos rfl), fun q hq => (hlink q).trans (if_neg hq)⟩, ?_, fun k hr hl hn hb => ?_, fun k d hr hf hn hb => ?_⟩
  · exact (congrArg (fun x => x.2.2.2.2) hlinked).trans (Eq.trans (by cases p <;> rfl) hpsc)
  · simp only [hchains]
    refine State.stopThrough_stops ?_ ?_
    · simpa only [hs] using hr
    · have hfar : (s.chains[k].ndev != s.devidx) = true := bne_iff_ne.2 hn
      simp only [hs, hd, ht, hl, hb, hfar]
      rfl
  · simp only [hchains]
    refine State.stopThrough_stops ?_ ?_
    · simpa only [hs] using hr
    · simp only [hs, hd, ht, hf, Option.map_some, Option.getD_some, hb, bne_iff_ne.2 hn, Bool.and_self, Bool.or_true]

theorem State.setLink_mem (s : State) (p : Port) (l : Link) : (s.setLink p l).mem = s.mem := by
  cases p <;> rfl

/-- A link word stored: no other link differs, and no byte of memory. -/
theorem State.setLink_becomes (s : State) (p : Port) (f : Link → Link) : linkBecomes s (s.setLink p (f (s.link p))) p f :=
  ⟨(s.link_setLink p p _).trans (if_pos rfl), fun q hq => (s.link_setLink p q _).trans (if_neg hq)⟩

/-! ### Chain slots -/

theorem exec_chainSlotEnable {s : State} {k : Fin 16} (hk : s.args.k = k.val) : exec .chainSlotEnable s = .next (s.enableChain k) := by
  show execChainSlotEnable s = _
  have hlt : s.args.k < 16 := hk ▸ k.isLt
  have hfin : (⟨s.args.k, hlt⟩ : Fin 16) = k := Fin.ext hk
  rw [execChainSlotEnable, dif_pos hlt, hfin]

theorem exec_chainSlotReset {s : State} {k : Fin 16} (hk : s.args.k = k.val) : exec .chainSlotReset s = .next (s.resetChain k) := by
  show execChainSlotReset s = _
  have hlt : s.args.k < 16 := hk ▸ k.isLt
  have hfin : (⟨s.args.k, hlt⟩ : Fin 16) = k := Fin.ext hk
  rw [execChainSlotReset, dif_pos hlt, hfin]

/-- The state of a slot that EN := 1 turns on (R371, R441). -/
def State.enabledState (s : State) (h : Chain) : ChainState :=
  if h.state = .stopped then .stopped else if h.bad ((s.ctx? (h.ctx.toNat % 256)).isSome) then .refused else .running

theorem State.enableChain_off {s : State} {k : Fin 16} (hb : s.psc.boot = .ready) (he : s.chains[k].en = false) :
    s.enableChain k = { s with chains := s.chains.set k { s.chains[k].cleared with en := true, state := s.enabledState s.chains[k] } } := by
  simp only [State.enableChain, he, hb, ne_eq, not_true_eq_false, decide_false, Bool.or_self, Bool.false_eq_true, if_false]
  rfl

theorem State.enableChain_idle {s : State} {k : Fin 16} (h : s.psc.boot ≠ .ready ∨ s.chains[k].en = true) : s.enableChain k = s := by
  unfold State.enableChain
  exact if_pos (by simpa [or_comm] using h)

theorem State.enabledState_stopped {s : State} {h : Chain} (hs : h.state = .stopped) : s.enabledState h = .stopped := if_pos hs

theorem State.enabledState_other {s : State} {h : Chain} (hs : h.state ≠ .stopped) :
    (s.enabledState h = .refused ↔ h.bad ((s.ctx? (h.ctx.toNat % 256)).isSome) = true) ∧
      (s.enabledState h = .refused ∨ s.enabledState h = .running) := by
  rw [State.enabledState, if_neg hs]
  cases h.bad ((s.ctx? (h.ctx.toNat % 256)).isSome) <;> simp

end Sys2Proof.Machine

namespace Sys2Proof.Proofs

open Sys2Proof.Machine Sys2Proof.Slice0

/-- Links change state as their rules say (R371, R401, R434, R454). -/
theorem linksChangeState : LinksChangeState := by
  intro s hm hcalm p drops
  have hdrop : ∀ (e : Instr) (st : LinkState), exec e s = .next (s.dropLink p st) → drops e st := fun e st he =>
    ⟨_, he, State.dropLink_drops hm hcalm p st⟩
  refine ⟨fun hb => ?_, fun hb => ?_, fun ht hok => ?_, fun ht hok => ?_, fun ht => ?_, fun hd => ?_, ?_, fun hsp => ?_, fun hsp => ?_⟩
  · exact ⟨_, congrArg Host.Outcome.next (if_pos hb), s.setLink_becomes p fun l => { l with state := .training }, s.setLink_mem p _⟩
  · exact congrArg Host.Outcome.next (if_neg hb)
  · refine ⟨_, ?_, s.setLink_becomes p fun l => { l with state := .up }, s.setLink_mem p _⟩
    exact (if_neg (not_not.2 ht)).trans (if_pos hok)
  · exact hdrop _ _ ((if_neg (not_not.2 ht)).trans (if_neg (by simp [hok])))
  · exact if_pos ht
  · exact hdrop _ _ (congrArg Host.Outcome.next (if_neg hd))
  · exact hdrop _ _ rfl
  · exact hdrop _ _ (if_pos hsp)
  · exact ⟨_, if_neg hsp, s.setLink_becomes p fun l => { l with spare := l.spare - 1 }, s.setLink_mem p _⟩

/-- Chain slots are enabled and reset (R371, R441, R443). -/
theorem chainSlotsAreSet : ChainSlotsAreSet := by
  intro s k hk h words only
  refine ⟨fun hb he => ?_, fun hi => ?_, fun hs => ?_, fun hs => ?_⟩
  · refine ⟨_, _, (exec_chainSlotEnable hk).trans (congrArg _ (State.enableChain_off hb he)), ⟨rfl, rfl⟩, rfl, rfl, rfl, fun hs => ?_,
      fun hs => ?_⟩
    · exact State.enabledState_stopped hs
    · exact State.enabledState_other hs
  · exact (exec_chainSlotEnable hk).trans (congrArg _ (State.enableChain_idle hi))
  · exact ⟨_, _, (exec_chainSlotReset hk).trans (congrArg _ (if_pos hs)), ⟨rfl, rfl⟩, rfl, rfl, rfl⟩
  · exact (exec_chainSlotReset hk).trans (congrArg _ (if_neg hs))

end Sys2Proof.Proofs
end

section
/-! ### The stages of a reduction chain (R66, R370, R371, R441, R443) -/

namespace Sys2Proof.Machine

open Sys2Proof.Slice0

/-! ### Elements of a list, the oldest first -/

theorem elemAt_head (o : Nat) (y : DWord) (l : List (Nat × DWord)) : elemAt ((o, y) :: l) o = some y := by
  simp [elemAt]

theorem elemAt_absent {l : List (Nat × DWord)} {o : Nat} (h : ∀ x ∈ l, x.1 ≠ o) : elemAt l o = none := by
  simpa [elemAt] using h

theorem takeElem_head (o : Nat) (y : DWord) (l : List (Nat × DWord)) : takeElem ((o, y) :: l) o = l := by
  rw [takeElem, List.findIdx?_cons]
  simp

theorem takeElem_absent {l : List (Nat × DWord)} {o : Nat} (h : ∀ x ∈ l, x.1 ≠ o) : takeElem l o = l := by
  have hnone : (l.findIdx? fun x => decide (x.1 = o)) = none := by simpa using h
  rw [takeElem, hnone]

/-! ### What a stage sends -/

theorem fpAdd_fst (F : Fmt) (rm : Rm) (x y : Nat) : (fpAdd F rm x y).1 = (addElem F rm x y).1 := rfl

theorem foldl_range_four (f : Nat → Nat) : (List.range 4).foldl (fun acc i => acc + f i) 0 = ((List.range 4).map f).sum := by
  simp [List.range_succ, Nat.add_assoc]

/-- A stage's adder adds as R66 says. -/
theorem chainSum_eq_stageSum (kind x y : Nat) : chainSum kind x y = stageSum kind x y := by
  unfold chainSum stageSum addOn
  split
  · exact fpAdd_fst _ _ _ _
  · exact fpAdd_fst _ _ _ _
  · simp only [fpAdd_fst]
    exact foldl_range_four _
  · norm_num
  · rfl

/-- A slot after the element at the head of its local list is sent. -/
theorem Chain.sentOne_eq {h : Chain} {o : Nat} {y : DWord} {rest back : List (Nat × DWord)} (hl : h.localElems = (o, y) :: rest)
    (hi : takeElem h.incoming o = back) : h.sentOne o = { h with
      localElems := rest
      incoming := back
      sent := if (h.sent.length + 1) * h.elem = h.len.toNat then [] else o :: h.sent
      round := if (h.sent.length + 1) * h.elem = h.len.toNat then h.round + 1 else h.round } := by
  unfold Chain.sentOne
  rw [hl, takeElem_head, hi]
  by_cases hlast : (h.sent.length + 1) * h.elem = h.len.toNat
  · rw [if_pos hlast, if_pos hlast]
    exact if_pos hlast
  · rw [if_neg hlast, if_neg hlast]
    exact if_neg hlast

section
variable {s : State} {k : Fin 16} {o : Nat} {y : DWord}

/-! ### CHAIN_STAGE_ADD -/

section
variable (hk : s.args.k = k.val) (hr : s.chains[k].state = .running) (he : s.args.n % s.chains[k].elem = 0)
  (hn : s.args.n < s.chains[k].len.toNat)
include hk hr he hn

theorem exec_chainStageAdd_fails (hok : s.args.ok = false) : exec .chainStageAdd s = .next (s.stopChain s.chains[k].cid) := by
  show execChainStageAdd s = _
  obtain ⟨j, hj⟩ := k
  obtain rfl : s.args.k = j := hk
  rw [execChainStageAdd, dif_pos hj]
  simp only [hr, he, hok, not_le.2 hn, ne_eq, not_true_eq_false, or_self, if_false, Bool.not_false, if_true]

theorem exec_chainStageAdd_adds (hok : s.args.ok = true) (hd : s.args.data = none) :
    exec .chainStageAdd s = .next (s.chainAdd k s.args.n) := by
  show execChainStageAdd s = _
  obtain ⟨j, hj⟩ := k
  obtain rfl : s.args.k = j := hk
  rw [execChainStageAdd, dif_pos hj]
  simp only [hr, he, hok, hd, not_le.2 hn, ne_eq, not_true_eq_false, or_self, if_false, Bool.not_true, Bool.false_eq_true]

end

/-! ### An adder that waits -/

theorem State.chainAdd_absent (hl : ∀ x ∈ s.chains[k].localElems, x.1 ≠ o) : s.chainAdd k o = s := by
  simp only [State.chainAdd, elemAt_absent hl, ite_self]

theorem State.chainAdd_notStarted (h : s.chainStarted s.chains[k] = false) : s.chainAdd k o = s := by
  simp only [State.chainAdd, h, Bool.not_false, Bool.or_true, if_true]

theorem State.chainAdd_imaging (hl : s.chains[k].isLast = true) (hi : s.imaging = true) : s.chainAdd k o = s := by
  unfold State.chainAdd
  simp only [hl, hi, Bool.not_true, Bool.false_eq_true, if_false, if_true]
  split
  · rfl
  · split <;> rfl

end

/-! ### A chain that has not started (R441) -/

/-- The enabled slots of a chain on this device. -/
def State.stagesOn (s : State) (h : Chain) : List Chain := s.chains.toList.filter fun x => x.en && x.cid == h.cid

theorem State.mem_stagesOn {s : State} {h : Chain} {i : Fin 16} (he : s.chains[i].en = true) (hc : s.chains[i].cid = h.cid) :
    s.chains[i] ∈ s.stagesOn h :=
  List.mem_filter.2 ⟨by simp, by rw [he, hc]; simp⟩

/-- What holds of no enabled slot of a chain here. -/
theorem State.stagesOn_any_false {s : State} {h : Chain} {p : Chain → Bool}
    (hp : ∀ j : Fin 16, s.chains[j].en = true → s.chains[j].cid = h.cid → p s.chains[j] = false) : (s.stagesOn h).any p = false := by
  refine List.any_eq_false.2 fun x hx => ?_
  obtain ⟨hx, hon⟩ := List.mem_filter.1 hx
  obtain ⟨i, hi, rfl⟩ := Vector.getElem_of_mem (Vector.mem_toList_iff.1 hx)
  obtain ⟨hen, hcid⟩ := Bool.and_eq_true_iff.1 hon
  simpa using hp ⟨i, hi⟩ hen (eq_of_beq hcid)

theorem State.chainStarted_eq (s : State) (h : Chain) : s.chainStarted h = (decide (s.args.reply ≠ .refused) &&
    !(s.chains.toList.any fun x => !x.en && x.cid == h.cid && x.nstg == h.nstg && !(s.stagesOn h).any fun y => y.stage == x.stage) &&
    (s.stagesOn h).all fun x => decide (x.state = .running) &&
      (x.isLast || x.ndev != s.devidx || (s.stagesOn h).any fun y => y.stage == x.stage + 1 && y.die == x.ndie)) := rfl

section
variable {s : State} {h : Chain} {i : Fin 16}

/-- A chain with an enabled slot here that does not run has not started. -/
theorem State.chainStarted_of_notRunning (he : s.chains[i].en = true) (hc : s.chains[i].cid = h.cid) (hr : s.chains[i].state ≠ .running) :
    s.chainStarted h = false := by
  rw [State.chainStarted_eq, Bool.and_eq_false_iff]
  refine .inr (List.all_eq_false.2 ⟨_, State.mem_stagesOn he hc, ?_⟩)
  simp only [hr, decide_false, Bool.false_and, Bool.false_eq_true, not_false_eq_true]

/-- A chain with a slot here whose next stage on this device is not enabled has not started. -/
theorem State.chainStarted_of_noNext (he : s.chains[i].en = true) (hc : s.chains[i].cid = h.cid) (hs : s.chains[i].stage < s.chains[i].nstg)
    (hd : s.chains[i].ndev = s.devidx) (hn : ∀ j : Fin 16, s.chains[j].en = true → s.chains[j].cid = h.cid →
      s.chains[j].stage = s.chains[i].stage + 1 → s.chains[j].die ≠ s.chains[i].ndie) : s.chainStarted h = false := by
  have hnext : ((s.stagesOn h).any fun y => y.stage == s.chains[i].stage + 1 && y.die == s.chains[i].ndie) = false :=
    State.stagesOn_any_false fun j hj hcj => by simpa using hn j hj hcj
  have hlast : s.chains[i].isLast = false := beq_false_of_ne hs.ne
  rw [State.chainStarted_eq, Bool.and_eq_false_iff]
  refine .inr (List.all_eq_false.2 ⟨_, State.mem_stagesOn he hc, ?_⟩)
  simp only [hnext, hlast, hd, bne_self_eq_false, Bool.or_self, Bool.and_false, Bool.false_eq_true, not_false_eq_true]

/-- A chain with a stage here that no enabled slot serves has not started. -/
theorem State.chainStarted_of_off (he : s.chains[i].en = false) (hc : s.chains[i].cid = h.cid) (hs : s.chains[i].nstg = h.nstg)
    (hn : ∀ j : Fin 16, s.chains[j].en = true → s.chains[j].cid = h.cid → s.chains[j].stage ≠ s.chains[i].stage) :
    s.chainStarted h = false := by
  have hnone : ((s.stagesOn h).any fun y => y.stage == s.chains[i].stage) = false :=
    State.stagesOn_any_false fun j hj hcj => beq_false_of_ne (hn j hj hcj)
  have hoff : (s.chains.toList.any fun x => !x.en && x.cid == h.cid && x.nstg == h.nstg && !(s.stagesOn h).any fun y => y.stage == x.stage) =
      true := List.any_eq_true.2 ⟨s.chains[i], by simp, by simp only [he, hc, hs, hnone, beq_self_eq_true, Bool.not_false, Bool.and_self]⟩
  rw [State.chainStarted_eq, hoff]
  simp only [Bool.not_true, Bool.and_false, Bool.false_and]

end

/-! ### The sum sent on, or written -/

/-- What a stage sends at an offset: its local element, at a later stage added to the element that came (R370). -/
def Chain.sum (h : Chain) (x y : DWord) : Nat := if h.stage = 0 then y.toNat else stageSum h.kind x.toNat y.toNat

section
variable {s : State} {k : Fin 16} {o : Nat} {x y : DWord} {rest back : List (Nat × DWord)}

section
variable (hst : s.chainStarted s.chains[k] = true) (hs : o ∉ s.chains[k].sent) (hl : s.chains[k].localElems = (o, y) :: rest)
  (hi : if s.chains[k].stage = 0 then s.chains[k].incoming = back else s.chains[k].incoming = (o, x) :: back)
include hst hs hl hi

/-- A stage whose elements are there sends their sum. -/
theorem State.chainAdd_sends : s.chainAdd k o = if !s.chains[k].isLast then s.chainForward k o (s.chains[k].sum x y)
    else if s.imaging then s else s.chainWrite k o (s.chains[k].sum x y) := by
  have hsent : s.chains[k].sent.contains o = false := by simpa using hs
  by_cases h0 : s.chains[k].stage = 0
  · simp only [State.chainAdd, hst, hsent, hl, elemAt_head, h0, if_true, Bool.not_true, Bool.or_self, Bool.false_eq_true, if_false, Chain.sum]
  · rw [if_neg h0] at hi
    simp only [State.chainAdd, hst, hsent, hl, hi, elemAt_head, h0, Bool.not_true, Bool.or_self, Bool.false_eq_true, if_false, Chain.sum,
      chainSum_eq_stageSum]

theorem State.chainAdd_forwards (hend : s.chains[k].isLast = false) : s.chainAdd k o = s.chainForward k o (s.chains[k].sum x y) := by
  rw [State.chainAdd_sends hst hs hl hi, hend]
  rfl

theorem State.chainAdd_writes (hend : s.chains[k].isLast = true) (himg : s.imaging = false) :
    s.chainAdd k o = s.chainWrite k o (s.chains[k].sum x y) := by
  rw [State.chainAdd_sends hst hs hl hi, hend, himg]
  rfl

end

/-- The incoming element of a stage is taken; a first stage has none of the offset. -/
theorem Chain.takeElem_incoming {h : Chain} (hi : if h.stage = 0 then h.incoming = back else h.incoming = (o, x) :: back)
    (hz : h.stage = 0 → ∀ z ∈ h.incoming, z.1 ≠ o) : takeElem h.incoming o = back := by
  by_cases h0 : h.stage = 0
  · rw [takeElem_absent (hz h0)]
    rwa [if_pos h0] at hi
  · rw [if_neg h0] at hi
    rw [hi, takeElem_head]

/-- A sum passed on to the next stage on this device (R370). -/
theorem State.chainForward_here {v : Nat} {i : Fin 16} (hd : s.chains[k].ndev = s.devidx) (hn : s.nextStage s.chains[k] = some i) (hik : i ≠ k) :
    s.chainForward k o v = { s with chains := (s.chains.set k (s.chains[k].sentOne o)).set i { s.chains[i] with
      incoming := s.chains[i].incoming ++ [(o, BitVec.ofNat 64 v)] } } := by
  have hi : (s.chains.set k (s.chains[k].sentOne o))[i] = s.chains[i] :=
    Vector.getElem_set_ne k.isLt i.isLt fun h => hik (Fin.ext h.symm)
  unfold State.chainForward
  simp only [hd, if_true, hn, hi]

/-! ### The last stage's write -/

theorem State.keepsBytes_unchained : KeepsBytes State.unchained where
  mem _ := rfl
  hmask _ := rfl
  hole s a := State.keepsBytes_still.hole s a
  setMem _ _ := rfl

/-- Memory written alike from states that differ in what no byte depends on. -/
theorem State.readPa_writePaBytes_of_unchained {s t : State} (h : t.unchained = s.unchained) (a : Nat) (bs : List Byte) (b : Nat) :
    (t.writePaBytes a bs).readPa b = (s.writePaBytes a bs).readPa b := by
  rw [← State.keepsBytes_unchained.readPa, State.keepsBytes_unchained.writePaBytes, h, ← State.keepsBytes_unchained.writePaBytes,
    State.keepsBytes_unchained.readPa]

theorem State.paNat_of_unchained {s t : State} (h : t.unchained = s.unchained) (a n : Nat) : t.paNat a n = s.paNat a n := by
  have hread : ∀ b, t.readPa b = s.readPa b := fun b => by
    rw [← State.keepsBytes_unchained.readPa, h, State.keepsBytes_unchained.readPa]
  simp only [State.paNat, State.paBytes_eq_map, hread]

theorem State.deviceWrite_chains (s : State) (a : Nat) (bs : List Byte) : (s.deviceWrite none (.pa a) bs).chains = s.chains := by
  have hstill : (s.deviceWrite none (.pa a) bs).still.chains = (s.writePaBytes a bs).still.chains :=
    congrArg State.chains (s.still_deviceWrite none a bs)
  have hrest : (s.writePaBytes a bs).rest.chains = s.rest.chains := congrArg State.chains (s.rest_writePaBytes a bs)
  exact hstill.trans hrest

/-- A write of the device at memory, but for what no byte and no chain depends on. -/
theorem State.unchained_deviceWrite (s : State) (a : Nat) (bs : List Byte) :
    (s.deviceWrite none (.pa a) bs).unchained = (s.writePaBytes a bs).unchained :=
  State.unchained_of_still (s.still_deviceWrite none a bs)

/-- A round counted writes its completion word, and changes no slot (R370). -/
theorem State.roundDone_spec {t u : State} (h : Chain) (hu : t.unchained = u.unchained) : (t.roundDone h).chains = t.chains ∧
    wroteBytes u (t.roundDone h) h.done.toNat (some (natToBytes 8 (u.paNat h.done.toNat 8 + 1))) := by
  refine ⟨t.deviceWrite_chains _ _, fun b => ?_⟩
  rw [State.roundDone, State.readPa_deviceWrite, State.readPa_writePaBytes_of_unchained hu, State.paNat_of_unchained hu]

section
variable {v : Nat} {after : Chain} (hafter : s.chains[k].sentOne o = after)
include hafter

/-- An element of the last stage written, with more to come in its round (R370). -/
theorem State.chainWrite_one (ho : s.ownableAll none [(s.chains[k].dest.toNat + o, s.chains[k].elem)] = true)
    (hlast : ¬ (s.chains[k].sent.length + 1) * s.chains[k].elem = s.chains[k].len.toNat) (hs : after.sent ≠ []) :
    (s.chainWrite k o v).chains = s.chains.set k after ∧
      wroteBytes s (s.chainWrite k o v) (s.chains[k].dest.toNat + o) (some (natToBytes s.chains[k].elem v)) := by
  have hwrite : s.chainWrite k o v = { s.deviceWrite none (.pa (s.chains[k].dest.toNat + o)) (natToBytes s.chains[k].elem v) with
      chains := s.chains.set k after } := by
    unfold State.chainWrite
    simp only [if_neg hlast, ho, s.deviceWrite_chains, hafter, List.isEmpty_eq_false_iff.2 hs, Bool.not_true, Bool.false_eq_true, if_false]
  have hbytes := s.readPa_deviceWrite none (s.chains[k].dest.toNat + o) (natToBytes s.chains[k].elem v)
  rw [hwrite]
  generalize s.deviceWrite none (.pa (s.chains[k].dest.toNat + o)) (natToBytes s.chains[k].elem v) = t at hbytes
  exact ⟨rfl, hbytes⟩

/-- The last element of a round written, and the round counted (R370). -/
theorem State.chainWrite_last
    (ho : s.ownableAll none [(s.chains[k].dest.toNat + o, s.chains[k].elem), (s.chains[k].done.toNat, 8)] = true)
    (hlast : (s.chains[k].sent.length + 1) * s.chains[k].elem = s.chains[k].len.toNat) (hs : after.sent = []) :
    (s.chainWrite k o v).chains = s.chains.set k after ∧
      wroteBytes (s.writePaBytes (s.chains[k].dest.toNat + o) (natToBytes s.chains[k].elem v)) (s.chainWrite k o v) s.chains[k].done.toNat
        (some (natToBytes 8
          ((s.writePaBytes (s.chains[k].dest.toNat + o) (natToBytes s.chains[k].elem v)).paNat s.chains[k].done.toNat 8 + 1))) := by
  have hwrite : s.chainWrite k o v = State.roundDone { s.deviceWrite none (.pa (s.chains[k].dest.toNat + o))
      (natToBytes s.chains[k].elem v) with chains := s.chains.set k after } s.chains[k] := by
    unfold State.chainWrite
    simp only [if_pos hlast, ho, s.deviceWrite_chains, hafter, hs, List.isEmpty_nil, Bool.not_true, Bool.false_eq_true, if_false, if_true]
  have hbytes := s.unchained_deviceWrite (s.chains[k].dest.toNat + o) (natToBytes s.chains[k].elem v)
  rw [hwrite]
  generalize s.deviceWrite none (.pa (s.chains[k].dest.toNat + o)) (natToBytes s.chains[k].elem v) = t at hbytes
  exact State.roundDone_spec s.chains[k] (t := { t with chains := s.chains.set k after }) hbytes

end

end

theorem State.stopChain_mem (s : State) (cid : Nat) : (s.stopChain cid).mem = s.mem :=
  (congrArg State.mem (s.still_stopChain cid) : (s.stopChain cid).still.mem = _)

/-! ### A copy of which bytes for a stopped chain are not accepted (R371) -/

/-- A running stage of a chain. -/
def Chain.runs (cid : Nat) (h : Chain) : Bool := decide (h.state = .running) && h.cid == cid

theorem State.stopChain_one {s : State} {c : Core} {x : Copy} {cid o : Nat} (hc : s.cores = [c]) (hx : c.copies = [x])
    (ho : x.offIn s c.id (fun i => s.chains[i].runs cid) = some o) : s.stopChain cid =
      State.faultCopy { s with chains := s.chains.map (Chain.stoppedBy cid) } c.id x cLinkLost (x.seg.base.toNat + o) := by
  have hends : (fun i : Fin 16 => decide (s.chains[i].state = .running) && s.chains[i].cid == cid) = fun i => s.chains[i].runs cid := rfl
  unfold State.stopChain
  simp only [hc, hx, List.foldl_cons, List.foldl_nil, hends, ho]
  rfl

/-- The current row of a TSTORE lies in the aperture of a slot that is asked for. -/
theorem Copy.offIn_row {s : State} {c : CoreId} {x : Copy} {p : Fin 16 → Bool} {i : Fin 16} (hs : x.store = true) (hm : x.moved = false)
    (hr : x.row < x.rows) (hn : (rowSpan x.tensor x.org x.row).count ≠ 0)
    (ha : s.aperture c.die (ctxOf x.task) (rowSpan x.tensor x.org x.row).off
      (elemBytes x.tensor.fmt (rowSpan x.tensor x.org x.row).count) = some i) (hp : p i = true) :
    x.offIn s c p = some (rowSpan x.tensor x.org x.row).off := by
  have hdrop : (List.range x.rows).drop x.row = x.row :: (List.range x.rows).drop (x.row + 1) := by
    rw [List.drop_eq_getElem_cons (by simpa using hr), List.getElem_range]
  unfold Copy.offIn
  rw [hs, hm, hdrop, List.findSome?_cons]
  simp only [hn, if_false, ha, Option.filter, hp, if_true, Option.map_some]
  rfl

section
variable {s : State} {c : CoreId} {x : Copy} {code addr : Nat}

/-- A copy fault with no granule to post (R359). -/
theorem State.faultCopy_few (h : x.left < 16) : s.faultCopy c x code addr =
    (s.modXb x.task x.lin x.xb fun b => b.copyFault code (BitVec.ofNat 64 addr) x.store).endCopy c x := by
  have hz : x.left / 16 * 16 = 0 := by omega
  simp only [State.faultCopy, hz, if_true]

theorem State.copies_endCopy (s : State) (c : CoreId) (x : Copy) :
    ((s.endCopy c x).coreD c).copies = (s.coreD c).copies.filter fun y => y.id ≠ x.id := by
  have h := s.coreD_modCore c c (fun k => { k with copies := k.copies.filter fun y => y.id ≠ x.id }) fun _ => rfl
  rw [if_pos rfl] at h
  exact congrArg Core.copies h

theorem State.team?_endCopy (s : State) (c : CoreId) (x : Copy) (k : TaskKey) (lin : Nat) :
    (s.endCopy c x).team? k lin = s.team? k lin := by
  have ht : (s.endCopy c x).teams = s.teams := s.modCore_teams c _
  rw [State.team?, ht]
  rfl

/-- The first copy fault of a barrier, of a copy that was alone on its core (R359). -/
theorem State.faultCopy_alone {u : Team} (hc : (s.coreD c).copies = [x]) (hu : s.team? x.task x.lin = some u) (hl : x.left < 16)
    (hf : (u.xb[x.xb]?.getD {}).fcode = 0) : ((s.faultCopy c x code addr).coreD c).copies = [] ∧
      (s.faultCopy c x code addr).team? x.task x.lin = some { u with
        xb := u.xb.setIfInBounds x.xb
          ({ (u.xb[x.xb]?.getD {}) with fcode := code, faddr := BitVec.ofNat 64 addr, fwrite := x.store } : XBar) } := by
  rw [State.faultCopy_few hl, State.copies_endCopy, State.team?_endCopy, State.coreD_of_cores (State.modXb_cores _ _ _ _ _), hc]
  refine ⟨by simp, ?_⟩
  rw [State.team?_modXb x.xb _ hu, XBar.copyFault_first hf]

end

end Sys2Proof.Machine

namespace Sys2Proof.Proofs

open Sys2Proof.Machine Sys2Proof.Slice0

/-- The stages of a chain (R66, R370, R371, R441, R443). -/
theorem chainStagesAdd : ChainStagesAdd := by
  intro s k hk hr he hn h o
  have hfails := exec_chainStageAdd_fails hk hr he hn
  have hadds := exec_chainStageAdd_adds hk hr he hn
  refine ⟨fun hok => ?_, ?_, fun hok hd _ hl => ?_, fun hok hd hst => ?_, ?_, ?_, ?_, fun hl hok hd hheld hlive => ?_, ?_⟩
  · exact ⟨_, hfails hok, s.stopChain_mem h.cid, fun i hi hc => State.stopChain_stops hi hc⟩
  · intro c x u i hok hcs hx hstore hmoved hleft hrow hu hf y hcount hap hi hci
    have hcore : s.coreD c.id = c := by simp [State.coreD, State.core?, hcs]
    have hoff := Copy.offIn_row (p := fun i => s.chains[i].runs h.cid) hstore hmoved hrow hcount hap (by rw [Chain.runs, hi, hci]; simp)
    obtain ⟨hcopies, hteam⟩ := State.faultCopy_alone (s := { s with chains := s.chains.map (Chain.stoppedBy h.cid) }) (c := c.id)
      (code := cLinkLost) (addr := x.seg.base.toNat + y.off) ((congrArg Core.copies hcore).trans hx) hu hleft hf
    exact ⟨_, _, (hfails hok).trans (congrArg _ (State.stopChain_one hcs hx hoff)), hcopies, hteam, by rw [hstore]; rfl⟩
  · exact (hadds hok hd).trans (congrArg _ (State.chainAdd_absent hl))
  · exact (hadds hok hd).trans (congrArg _ (State.chainAdd_notStarted hst))
  · exact fun i hen hc _ hi => State.chainStarted_of_notRunning hen hc hi
  · exact fun i hen hc hs hdev hnext => State.chainStarted_of_noNext hen hc hs hdev hnext
  · exact fun i hoff hc hs hnone => State.chainStarted_of_off hoff hc hs hnone
  · have himg : s.imaging = true := by simpa [State.imaging, hheld] using hlive
    exact (hadds hok hd).trans (congrArg _ (State.chainAdd_imaging (beq_iff_eq.2 hl) himg))
  · intro y rest x back hok hd hst hs hl hi v last after
    have hafter : (h.stage = 0 → ∀ z ∈ h.incoming, z.1 ≠ o) → h.sentOne o = after := fun hz =>
      Chain.sentOne_eq hl (Chain.takeElem_incoming hi hz)
    have himg : s.held = false → s.imaging = false := fun hheld => by simp [State.imaging, hheld]
    refine ⟨fun i hlt hdev hik hnext hz => ?_, fun hstage hheld hz ho hlast => ?_, fun hstage hheld hz ho hlast => ?_⟩
    · have hadd := State.chainAdd_forwards hst hs hl hi (beq_false_of_ne hlt.ne)
      rw [State.chainForward_here hdev hnext hik] at hadd
      rw [hadds hok hd, hadd, ← hafter hz]
      rfl
    · have hadd := State.chainAdd_writes hst hs hl hi (beq_iff_eq.2 hstage) (himg hheld)
      obtain ⟨hchains, hbytes⟩ := State.chainWrite_one (v := v) (hafter hz) ho hlast (by simp [after, hlast])
      exact ⟨_, (hadds hok hd).trans (congrArg _ hadd), hchains, hbytes⟩
    · have hadd := State.chainAdd_writes hst hs hl hi (beq_iff_eq.2 hstage) (himg hheld)
      obtain ⟨hchains, hbytes⟩ := State.chainWrite_last (v := v) (hafter hz) ho hlast (by simp [after, hlast])
      exact ⟨_, (hadds hok hd).trans (congrArg _ hadd), hchains, hbytes⟩

/-- Settles O50: links, chain slots, and the stages of a chain. -/
theorem linksAndReductionChainsAct : Obligations.LinksAndReductionChainsAct := ⟨linksChangeState, chainSlotsAreSet, chainStagesAdd⟩

end Sys2Proof.Proofs
end

section
/-! ### The fields of a word, each read by its reader (R72 to R82, R87) -/

namespace Sys2Proof

/-! Every code fits its field, and is read back from it. -/

theorem Guard.code_lt (g : Guard) : g.code < 16 := by
  cases g with
  | always => decide
  | pred p => exact p.isLt.trans (by decide)

theorem BOp.code_lt (b : BOp) : b.code < 128 := by
  cases b with
  | v r => exact r.isLt.trans (by decide)
  | s r => exact Nat.add_lt_add_left r.isLt 64

theorem Seg.code_lt (x : Seg) : x.code < 4 := by cases x <;> decide
theorem Scope.code_lt (x : Scope) : x.code < 8 := by cases x <;> decide
theorem Order.code_lt (x : Order) : x.code < 8 := by cases x <;> decide
theorem Cond.code_lt (x : Cond) : x.code < 8 := by cases x <;> decide
theorem ShiftKind.code_lt (x : ShiftKind) : x.code < 4 := by cases x <;> decide
theorem ShflKind.code_lt (x : ShflKind) : x.code < 4 := by cases x <;> decide
theorem RedOp.code_lt (x : RedOp) : x.code < 64 := by cases x <;> decide
theorem BarLevel.code_lt (x : BarLevel) : x.code < 4 := by cases x <;> decide
theorem PrefLevel.code_lt (x : PrefLevel) : x.code < 64 := by cases x <;> decide

theorem segOf_eq {k : Nat} {x : Seg} (h : k = x.code) : segOf k = x := by subst h; cases x <;> rfl
theorem scopeOf_eq {k : Nat} {x : Scope} (h : k = x.code) : scopeOf k = .ok x := by subst h; cases x <;> rfl
theorem orderOf_eq {k : Nat} {x : Order} (h : k = x.code) : orderOf k = .ok x := by subst h; cases x <;> rfl
theorem condOf_eq {k : Nat} {x : Cond} (h : k = x.code) : condOf k = x := by subst h; cases x <;> rfl
theorem shiftKindOf_eq {k : Nat} {x : ShiftKind} (h : k = x.code) : shiftKindOf k = x := by subst h; cases x <;> rfl
theorem shflKindOf_eq {k : Nat} {x : ShflKind} (h : k = x.code) : shflKindOf k = x := by subst h; cases x <;> rfl
theorem redOpOf_eq {k : Nat} {x : RedOp} (h : k = x.code) : redOpOf k = .ok x := by subst h; cases x <;> rfl
theorem barLevelOf_eq {k : Nat} {x : BarLevel} (h : k = x.code) : barLevelOf k = .ok x := by subst h; cases x <;> rfl
theorem prefLevelOf_eq {k : Nat} {x : PrefLevel} (h : k = x.code) : prefLevelOf k = .ok x := by subst h; cases x <;> rfl
theorem clsOf_eq {k : Nat} {x : Cls} (h : k = x.code) : clsOf k = .ok x := by subst h; cases x <;> rfl
theorem boolOf_eq {k : Nat} {x : Bool} (h : k = x.toNat) : boolOf k = .ok x := by subst h; cases x <;> rfl

theorem optPredCode_lt (p : Option Pred) : optPredCode p < 256 := by
  cases p with
  | none => decide
  | some p => simp only [optPredCode]; omega

theorem optRegCode_lt (k : Option Reg) : optRegCode k < 16384 := by
  cases k with
  | none => decide
  | some k => simp only [optRegCode]; omega

/-! What each reader of the decoder answers, from the value of its field. -/

section
variable {w lo n : Nat}

/-- A field that lies within another is read from the other's value. -/
theorem field_within (k m : Nat) {v u : Nat} (h : field w lo n = v) (hd : 2 ^ k * m ∣ n) (hu : field v k m = u) :
    field w (lo + k) m = u := by
  obtain ⟨c, rfl⟩ := hd
  subst h hu
  unfold field
  rw [pow_add, ← Nat.div_div_eq_div_mul, mul_assoc, Nat.mod_mul_right_div_self, Nat.mod_mul_right_mod]

/-- The immediate of SHIFTI and SHFLI: a kind over a count (R97, R207). -/
theorem kind_count_of_imm {k c : Nat} (h : field w 0 256 = k * 64 + c) (hk : k < 4) (hc : c < 64) :
    field w 6 4 = k ∧ field w 0 64 = c :=
  ⟨field_within 6 4 h (by decide) (by unfold field; omega), field_within 0 64 h (by decide) (by unfold field; omega)⟩

theorem mustBeZero_eq (h : field w lo n = 0) : mustBeZero w lo n = .ok () := if_pos h

theorem unguarded_eq (h : field w 20 16 = 15) : unguarded w = .ok () := if_pos h

theorem releaseOnly_eq (h : field w 0 8 = 2) : releaseOnly w = .ok () := if_pos h

theorem regAt_eq {r : Reg} (h : field w lo 64 = r.val) : regAt w lo = r := Fin.ext h

theorem fieldFin_eq {x : Fin n} {hlt : w / 2 ^ lo % n < n} (h : field w lo n = x.val) : (⟨field w lo n, hlt⟩ : Fin n) = x := Fin.ext h

theorem bitAt_eq {x : Bool} (h : field w lo 2 = x.toNat) : bitAt w lo = x := by
  cases x <;> simp [bitAt, h]

theorem finAt_eq {k : Nat} {x : Fin k} (h : field w lo n = x.val) : finAt k w lo n = .ok x := by
  simp [finAt, h]

theorem ofNat_field_eq {k : Nat} {x : BitVec k} (h : field w lo n = x.toNat) : BitVec.ofNat k (field w lo n) = x := by
  rw [h, BitVec.ofNat_toNat, BitVec.setWidth_eq]

theorem guardOf_eq {g : Guard} (h : field w 20 16 = g.code) : guardOf w = .ok g := by
  cases g with
  | always => exact if_pos h
  | pred p =>
    have hp : field w 20 16 = p.val := h
    have hne : p.val ≠ 15 := by omega
    simp [guardOf, hp, hne]

theorem bAt_eq {b : BOp} (h : field w 1 128 = b.code) : bAt w = b := by
  cases b with
  | v r =>
    have hsel : bitAt w 7 = false := bitAt_eq (field_within 6 2 h (by decide) (by simp only [BOp.code, field, Bool.toNat_false]; omega))
    have hidx : regAt w 1 = r := regAt_eq (field_within 0 64 h (by decide) (by simp only [BOp.code, field]; omega))
    simp [bAt, hsel, hidx]
  | s r =>
    have hsel : bitAt w 7 = true := bitAt_eq (field_within 6 2 h (by decide) (by simp only [BOp.code, field, Bool.toNat_true]; omega))
    have hidx : regAt w 1 = r := regAt_eq (field_within 0 64 h (by decide) (by simp only [BOp.code, field]; omega))
    simp [bAt, hsel, hidx]

theorem scalarAt_eq {r : Reg} (h : field w 1 128 = (BOp.s r).code) : scalarAt w = .ok r := by
  have hb := bAt_eq h
  unfold bAt at hb
  split at hb
  · rename_i hsel
    rw [scalarAt, if_pos hsel, BOp.s.inj hb]
  · cases hb

theorem optPredOf_eq {p : Option Pred} (h : field w 0 256 = optPredCode p) : optPredOf w = .ok p := by
  cases p with
  | none =>
    have hf : field w 0 2 = 0 := field_within 0 2 h (by decide) rfl
    have hb : field w 1 128 = 0 := field_within 1 128 h (by decide) rfl
    simp [optPredOf, bitAt, hf, hb]
  | some p =>
    have hf : field w 0 2 = 1 := field_within 0 2 h (by decide) (by simp only [optPredCode, field]; omega)
    have hb : field w 1 128 = p.val := field_within 1 128 h (by decide) (by simp only [optPredCode, field]; omega)
    simp [optPredOf, bitAt, hf, hb]

theorem optRegOf_eq {k : Option Reg} (h : field w 0 16384 = optRegCode k) : optRegOf w = .ok k := by
  cases k with
  | none =>
    have hz : field w 6 128 = 0 := field_within 6 128 h (by decide) rfl
    have hs : field w 13 2 = 0 := field_within 13 2 h (by decide) rfl
    have hr : field w 0 64 = 0 := field_within 0 64 h (by decide) rfl
    simp [optRegOf, bitAt, hz, hs, hr]
  | some k =>
    have hz : field w 6 128 = 0 := field_within 6 128 h (by decide) (by simp only [optRegCode, field]; omega)
    have hs : field w 13 2 = 1 := field_within 13 2 h (by decide) (by simp only [optRegCode, field]; omega)
    have hr : field w 0 64 = k.val := field_within 0 64 h (by decide) (by simp only [optRegCode, field]; omega)
    simp [optRegOf, bitAt, hz, hs, regAt_eq hr]

end

end Sys2Proof
end

section
/-! ### The word formats: the fields of the word that a format's parts make (R72 to R82, R87) -/

namespace Sys2Proof

/-! Each structure says that the word `w` has opcode `op` and the given parts in the fields of the format; `of_word` gives it for the
sum of the parts at their places. -/

/-- Format R (R75). -/
structure FormR (w op : Nat) (g : Guard) (d a : Reg) (b : BOp) (f : Bool) : Prop where
  opcode : field w 24 256 = op
  guard : field w 20 16 = g.code
  dst : field w 14 64 = d.val
  src : field w 8 64 = a.val
  bop : field w 1 128 = b.code
  flag : field w 0 2 = f.toNat

/-- Format I (R76). -/
structure FormI (w op : Nat) (g : Guard) (d a : Reg) (imm : Nat) : Prop where
  opcode : field w 24 256 = op
  guard : field w 20 16 = g.code
  dst : field w 14 64 = d.val
  src : field w 8 64 = a.val
  imm : field w 0 256 = imm

/-- Formats W and L (R76). -/
structure FormW (w op : Nat) (g : Guard) (d : Reg) (imm : Nat) : Prop where
  opcode : field w 24 256 = op
  guard : field w 20 16 = g.code
  dst : field w 14 64 = d.val
  imm : field w 0 16384 = imm

/-- Format M (R77). -/
structure FormM (w op : Nat) (g : Guard) (d a : Reg) (seg : Seg) (sc off : Fin 8) : Prop where
  opcode : field w 24 256 = op
  guard : field w 20 16 = g.code
  dst : field w 14 64 = d.val
  addr : field w 8 64 = a.val
  seg : field w 6 4 = seg.code
  scope : field w 3 8 = sc.val
  off : field w 0 8 = off.val

/-- Format B (R79). -/
structure FormB (w op : Nat) (g : Guard) (disp : BitVec 20) : Prop where
  opcode : field w 24 256 = op
  guard : field w 20 16 = g.code
  disp : field w 0 1048576 = disp.toNat

/-- Format C (R80). -/
structure FormC (w op : Nat) (g : Guard) (pair : Fin 6) (cond : Cond) (a : Reg) (b : BOp) (f : Bool) : Prop where
  opcode : field w 24 256 = op
  guard : field w 20 16 = g.code
  pair : field w 17 8 = pair.val
  cond : field w 14 8 = cond.code
  src : field w 8 64 = a.val
  bop : field w 1 128 = b.code
  flag : field w 0 2 = f.toNat

/-- Format P (R81). -/
structure FormP (w op : Nat) (g : Guard) (pd pa pb : Pred) (tt : BitVec 4) : Prop where
  opcode : field w 24 256 = op
  guard : field w 20 16 = g.code
  dst : field w 16 16 = pd.val
  fst : field w 12 16 = pa.val
  snd : field w 8 16 = pb.val
  table : field w 4 16 = tt.toNat
  rest : field w 0 16 = 0

/-- Format T in its general layout (R82). -/
structure FormT (w op : Nat) (t : Fin 256) (a b : Reg) : Prop where
  opcode : field w 24 256 = op
  guard : field w 20 16 = 15
  tensor : field w 12 256 = t.val
  regs : field w 0 4096 = a.val * 64 + b.val
  fst : field w 6 64 = a.val
  snd : field w 0 64 = b.val

/-- Format T in MMA's layout (R82). -/
structure FormMma (w op : Nat) (fmt : Fin 32) (ac ra rb : Bool) (a : Reg) : Prop where
  opcode : field w 24 256 = op
  guard : field w 20 16 = 15
  fmt : field w 15 32 = fmt.val
  ac : field w 14 2 = ac.toNat
  ra : field w 13 2 = ra.toNat
  rb : field w 12 2 = rb.toNat
  fst : field w 6 64 = a.val
  snd : field w 0 64 = 0

/-- The operator form (R87). -/
structure FormS (w op : Nat) (o : SFields) : Prop where
  opcode : field w 24 256 = op
  fields : sFieldsAt w = o

section
variable {w op : Nat} {g : Guard} {d a : Reg} {b : BOp} {f : Bool}

theorem FormR.of_word (hop : op < 256)
    (hw : w = op * 16777216 + g.code * 1048576 + d.val * 16384 + a.val * 256 + b.code * 2 + f.toNat) :
    w < 2 ^ 32 ∧ FormR w op g d a b f := by
  have hg := g.code_lt
  have hb := b.code_lt
  have hf := f.toNat_lt
  refine ⟨by omega, ?_, ?_, ?_, ?_, ?_, ?_⟩ <;> unfold field <;> omega

theorem FormI.of_word {imm : Nat} (hop : op < 256) (hi : imm < 256)
    (hw : w = op * 16777216 + g.code * 1048576 + d.val * 16384 + a.val * 256 + imm) : w < 2 ^ 32 ∧ FormI w op g d a imm := by
  have hg := g.code_lt
  refine ⟨by omega, ?_, ?_, ?_, ?_, ?_⟩ <;> unfold field <;> omega

theorem FormW.of_word {imm : Nat} (hop : op < 256) (hi : imm < 16384)
    (hw : w = op * 16777216 + g.code * 1048576 + d.val * 16384 + imm) : w < 2 ^ 32 ∧ FormW w op g d imm := by
  have hg := g.code_lt
  refine ⟨by omega, ?_, ?_, ?_, ?_⟩ <;> unfold field <;> omega

theorem FormM.of_word {seg : Seg} {sc off : Fin 8} (hop : op < 256)
    (hw : w = op * 16777216 + g.code * 1048576 + d.val * 16384 + a.val * 256 + seg.code * 64 + sc.val * 8 + off.val) :
    w < 2 ^ 32 ∧ FormM w op g d a seg sc off := by
  have hg := g.code_lt
  have hs := seg.code_lt
  refine ⟨by omega, ?_, ?_, ?_, ?_, ?_, ?_, ?_⟩ <;> unfold field <;> omega

theorem FormB.of_word {disp : BitVec 20} (hop : op < 256) (hw : w = op * 16777216 + g.code * 1048576 + disp.toNat) :
    w < 2 ^ 32 ∧ FormB w op g disp := by
  have hg := g.code_lt
  have hd := disp.isLt
  refine ⟨by omega, ?_, ?_, ?_⟩ <;> unfold field <;> omega

theorem FormC.of_word {pair : Fin 6} {cond : Cond} (hop : op < 256)
    (hw : w = op * 16777216 + g.code * 1048576 + a.val * 256 + b.code * 2 + pair.val * 131072 + cond.code * 16384 + f.toNat) :
    w < 2 ^ 32 ∧ FormC w op g pair cond a b f := by
  have hg := g.code_lt
  have hb := b.code_lt
  have hc := cond.code_lt
  have hf := f.toNat_lt
  refine ⟨by omega, ?_, ?_, ?_, ?_, ?_, ?_, ?_⟩ <;> unfold field <;> omega

theorem FormP.of_word {pd pa pb : Pred} {tt : BitVec 4} (hop : op < 256)
    (hw : w = op * 16777216 + g.code * 1048576 + pd.val * 65536 + pa.val * 4096 + pb.val * 256 + tt.toNat * 16) :
    w < 2 ^ 32 ∧ FormP w op g pd pa pb tt := by
  have hg := g.code_lt
  have ht := tt.isLt
  refine ⟨by omega, ?_, ?_, ?_, ?_, ?_, ?_, ?_⟩ <;> unfold field <;> omega

theorem FormT.of_word {t : Fin 256} {a b : Reg} (hop : op < 256)
    (hw : w = op * 16777216 + 15 * 1048576 + t.val * 4096 + a.val * 64 + b.val) : w < 2 ^ 32 ∧ FormT w op t a b := by
  refine ⟨by omega, ?_, ?_, ?_, ?_, ?_, ?_⟩ <;> unfold field <;> omega

theorem FormMma.of_word {fmt : Fin 32} {ac ra rb : Bool} (hop : op < 256)
    (hw : w = op * 16777216 + 15 * 1048576 + fmt.val * 32768 + ac.toNat * 16384 + ra.toNat * 8192 + rb.toNat * 4096 + a.val * 64) :
    w < 2 ^ 32 ∧ FormMma w op fmt ac ra rb a := by
  have h₁ := ac.toNat_lt
  have h₂ := ra.toNat_lt
  have h₃ := rb.toNat_lt
  refine ⟨by omega, ?_, ?_, ?_, ?_, ?_, ?_, ?_, ?_⟩ <;> unfold field <;> omega

theorem SFields.code_lt (o : SFields) : o.code < 16777216 := by
  have h₁ := o.g.toNat_lt
  have h₂ := o.l.toNat_lt
  have h₃ := o.f.toNat_lt
  have h₄ := o.c.toNat_lt
  have h₅ := o.w.toNat_lt
  unfold SFields.code
  omega

theorem sFieldsAt_eq {o : SFields} (h : field w 0 16777216 = o.code) : sFieldsAt w = o := by
  obtain ⟨qa, qb, dl, dq, g, l, f, c, x⟩ := o
  have h₁ := g.toNat_lt
  have h₂ := l.toNat_lt
  have h₃ := f.toNat_lt
  have h₄ := c.toNat_lt
  have h₅ := x.toNat_lt
  simp only [SFields.code] at h
  rw [sFieldsAt, SFields.mk.injEq]
  exact ⟨fieldFin_eq (field_within 20 16 h (by decide) (by unfold field; omega)),
    fieldFin_eq (field_within 16 16 h (by decide) (by unfold field; omega)),
    fieldFin_eq (field_within 9 128 h (by decide) (by unfold field; omega)),
    fieldFin_eq (field_within 5 16 h (by decide) (by unfold field; omega)),
    bitAt_eq (field_within 4 2 h (by decide) (by unfold field; omega)),
    bitAt_eq (field_within 3 2 h (by decide) (by unfold field; omega)),
    bitAt_eq (field_within 2 2 h (by decide) (by unfold field; omega)),
    bitAt_eq (field_within 1 2 h (by decide) (by unfold field; omega)),
    bitAt_eq (field_within 0 2 h (by decide) (by unfold field; omega))⟩

theorem FormS.of_word {o : SFields} (hop : op < 256) (hw : w = op * 16777216 + o.code) : w < 2 ^ 32 ∧ FormS w op o := by
  have ho := o.code_lt
  exact ⟨by omega, by unfold field; omega, sFieldsAt_eq (by unfold field; omega)⟩

end

end Sys2Proof
end

section
/-! ### Every instruction with an encoding is read back from its word (R68 to R88) -/

namespace Sys2Proof

theorem bind_eq_ok {ε α β : Type} {x : Except ε α} {f : α → Except ε β} {a : α} {b : β} (hx : x = .ok a) (hf : f a = .ok b) :
    x >>= f = .ok b := by
  subst hx
  exact hf

/-- Where `w` is the encoder's word of the instruction, it fits a word, it has a literal exactly where the instruction takes one, and
the decoder reads the instruction from it, whatever follows a word without a literal. -/
def Instr.ReadsBack (i : Instr) (w : Nat) (next : Option Word) : Prop :=
  ∀ lit, encodeNat i = some (w, lit) → w < 2 ^ 32 ∧ (i.literals = 1 ↔ lit ≠ none) ∧
    decodeRaw w (if i.literals = 1 then lit else next) = .ok i

section
variable {i : Instr} {w v op : Nat} {next : Option Word} {P : Prop}

theorem Instr.ReadsBack.of_none (he : encodeNat i = none) : i.ReadsBack w next := by
  intro lit h
  rw [he] at h
  cases h

theorem Instr.ReadsBack.of_form (he : encodeNat i = some (v, none)) (hP : w = v → w < 2 ^ 32 ∧ P) (hl : i.literals = 0)
    (hd : P → decodeRaw w next = .ok i) : i.ReadsBack w next := by
  intro lit h
  obtain ⟨hv, rfl⟩ := Prod.mk.inj (Option.some.inj (he.symm.trans h))
  obtain ⟨hlt, hp⟩ := hP hv.symm
  exact ⟨hlt, by simp [hl], by simpa [hl] using hd hp⟩

theorem Instr.ReadsBack.of_literal {x : Word} (he : encodeNat i = some (v, some x)) (hP : w = v → w < 2 ^ 32 ∧ P)
    (hl : i.literals = 1) (hd : P → decodeRaw w (some x) = .ok i) : i.ReadsBack w next := by
  intro lit h
  obtain ⟨hv, rfl⟩ := Prod.mk.inj (Option.some.inj (he.symm.trans h))
  obtain ⟨hlt, hp⟩ := hP hv.symm
  exact ⟨hlt, by simp [hl], by simpa [hl] using hd hp⟩

/-! One rule for each format: the encoder's sum is unified with the format's, which finds the opcode. An operand that the instruction
does not have is given as zero and dropped from the sum by rewriting, since closed sums of this size unify only where their terms
stand alike. -/

theorem FormR.readsBack (g : Guard) (d a : Reg) (b : BOp) (f : Bool)
    (he : encodeNat i = some (v, none)) (hd : FormR w op g d a b f → decodeRaw w next = .ok i)
    (hv : v = op * 16777216 + g.code * 1048576 + d.val * 16384 + a.val * 256 + b.code * 2 + f.toNat := by
      simp -failIfUnchanged only [Guard.code, BOp.code, Bool.toNat_false, Fin.val_zero, zero_mul, add_zero]; rfl)
    (hl : i.literals = 0 := by rfl) (hop : op < 256 := by decide) : i.ReadsBack w next :=
  .of_form he (fun hw => FormR.of_word hop (hw.trans hv)) hl hd

theorem FormI.readsBack (g : Guard) (d a : Reg) (imm : Nat) (hi : imm < 256)
    (he : encodeNat i = some (v, none)) (hd : FormI w op g d a imm → decodeRaw w next = .ok i)
    (hv : v = op * 16777216 + g.code * 1048576 + d.val * 16384 + a.val * 256 + imm := by
      simp -failIfUnchanged only [Guard.code, Fin.val_zero, zero_mul, add_zero, ← Nat.add_assoc]; rfl)
    (hl : i.literals = 0 := by rfl) (hop : op < 256 := by decide) : i.ReadsBack w next :=
  .of_form he (fun hw => FormI.of_word hop hi (hw.trans hv)) hl hd

theorem FormW.readsBack (g : Guard) (d : Reg) (imm : Nat) (hi : imm < 16384)
    (he : encodeNat i = some (v, none)) (hd : FormW w op g d imm → decodeRaw w next = .ok i)
    (hv : v = op * 16777216 + g.code * 1048576 + d.val * 16384 + imm := by
      simp -failIfUnchanged only [Guard.code, Fin.val_zero, zero_mul, add_zero]; rfl)
    (hl : i.literals = 0 := by rfl) (hop : op < 256 := by decide) : i.ReadsBack w next :=
  .of_form he (fun hw => FormW.of_word hop hi (hw.trans hv)) hl hd

/-- Format L: a word of format W with its immediate zero, before a literal. -/
theorem FormW.readsBack_literal (g : Guard) (d : Reg) (x : Word) (he : encodeNat i = some (v, some x))
    (hd : FormW w op g d 0 → decodeRaw w (some x) = .ok i) (hv : v = op * 16777216 + g.code * 1048576 + d.val * 16384 := by rfl)
    (hl : i.literals = 1 := by rfl) (hop : op < 256 := by decide) : i.ReadsBack w next :=
  .of_literal he (fun hw => FormW.of_word hop (by decide) (hw.trans (hv.trans (add_zero _).symm))) hl hd

theorem FormM.readsBack (g : Guard) (d a : Reg) (seg : Seg) (sc off : Fin 8)
    (he : encodeNat i = some (v, none)) (hd : FormM w op g d a seg sc off → decodeRaw w next = .ok i)
    (hv : v = op * 16777216 + g.code * 1048576 + d.val * 16384 + a.val * 256 + seg.code * 64 + sc.val * 8 + off.val := by
      simp -failIfUnchanged only [Guard.code, Seg.code, Fin.val_zero, zero_mul, add_zero]; rfl)
    (hl : i.literals = 0 := by rfl) (hop : op < 256 := by decide) : i.ReadsBack w next :=
  .of_form he (fun hw => FormM.of_word hop (hw.trans hv)) hl hd

theorem FormB.readsBack (g : Guard) (disp : BitVec 20)
    (he : encodeNat i = some (v, none)) (hd : FormB w op g disp → decodeRaw w next = .ok i)
    (hv : v = op * 16777216 + g.code * 1048576 + disp.toNat := by rfl)
    (hl : i.literals = 0 := by rfl) (hop : op < 256 := by decide) : i.ReadsBack w next :=
  .of_form he (fun hw => FormB.of_word hop (hw.trans hv)) hl hd

theorem FormC.readsBack (g : Guard) (pair : Fin 6) (cond : Cond) (a : Reg) (b : BOp) (f : Bool)
    (he : encodeNat i = some (v, none)) (hd : FormC w op g pair cond a b f → decodeRaw w next = .ok i)
    (hv : v = op * 16777216 + g.code * 1048576 + a.val * 256 + b.code * 2 + pair.val * 131072 + cond.code * 16384 + f.toNat := by rfl)
    (hl : i.literals = 0 := by rfl) (hop : op < 256 := by decide) : i.ReadsBack w next :=
  .of_form he (fun hw => FormC.of_word hop (hw.trans hv)) hl hd

theorem FormP.readsBack (g : Guard) (pd pa pb : Pred) (tt : BitVec 4)
    (he : encodeNat i = some (v, none)) (hd : FormP w op g pd pa pb tt → decodeRaw w next = .ok i)
    (hv : v = op * 16777216 + g.code * 1048576 + pd.val * 65536 + pa.val * 4096 + pb.val * 256 + tt.toNat * 16 := by rfl)
    (hl : i.literals = 0 := by rfl) (hop : op < 256 := by decide) : i.ReadsBack w next :=
  .of_form he (fun hw => FormP.of_word hop (hw.trans hv)) hl hd

theorem FormT.readsBack (t : Fin 256) (a b : Reg)
    (he : encodeNat i = some (v, none)) (hd : FormT w op t a b → decodeRaw w next = .ok i)
    (hv : v = op * 16777216 + 15 * 1048576 + t.val * 4096 + a.val * 64 + b.val := by
      simp -failIfUnchanged only [Fin.val_zero, zero_mul, add_zero]; rfl)
    (hl : i.literals = 0 := by rfl) (hop : op < 256 := by decide) : i.ReadsBack w next :=
  .of_form he (fun hw => FormT.of_word hop (hw.trans hv)) hl hd

theorem FormMma.readsBack (fmt : Fin 32) (ac ra rb : Bool) (a : Reg)
    (he : encodeNat i = some (v, none)) (hd : FormMma w op fmt ac ra rb a → decodeRaw w next = .ok i)
    (hv : v = op * 16777216 + 15 * 1048576 + fmt.val * 32768 + ac.toNat * 16384 + ra.toNat * 8192 + rb.toNat * 4096 + a.val * 64 :=
      by rfl)
    (hl : i.literals = 0 := by rfl) (hop : op < 256 := by decide) : i.ReadsBack w next :=
  .of_form he (fun hw => FormMma.of_word hop (hw.trans hv)) hl hd

theorem FormS.readsBack (o : SFields) (he : encodeNat i = some (v, none)) (hd : FormS w op o → decodeRaw w next = .ok i)
    (hv : v = op * 16777216 + o.code := by rfl)
    (hl : i.literals = 0 := by rfl) (hop : op < 256 := by decide) : i.ReadsBack w next :=
  .of_form he (fun hw => FormS.of_word hop (hw.trans hv)) hl hd

end

/-! The words class by class (R69). In each case the rule of the word's format is given the operands as its fields hold them, the
decoder's table is entered at the opcode, and each reader answers from its field. -/

theorem readsBack_of_alu {i : Instr} (h : i.cls = some .alu) (w : Nat) (next : Option Word) : i.ReadsBack w next := by
  cases i with
  | nop =>
    refine FormW.readsBack .always 0 0 (by decide) rfl fun r => ?_
    delta decodeRaw
    refine r.opcode.symm ▸ ?_
    exact bind_eq_ok (unguarded_eq r.guard) <| bind_eq_ok (mustBeZero_eq r.dst) <| bind_eq_ok (mustBeZero_eq r.imm) <| rfl
  | movi g d imm =>
    refine FormW.readsBack g d imm.toNat imm.isLt rfl fun r => ?_
    delta decodeRaw
    refine r.opcode.symm ▸ ?_
    exact bind_eq_ok (guardOf_eq r.guard) <| by rw [regAt_eq r.dst, ofNat_field_eq r.imm]; rfl
  | mov g d b | popc g d b | clz g d b | brev g d b | frcp g d b | frsq g d b | fsqrt g d b | fexp2 g d b | flog2 g d b
  | fsin g d b | fcos g d b | ftanh g d b | cvtF32F64 g d b | cvtF64F32 g d b | cvtF32I32 g d b | cvtF32N32 g d b
  | cvtF64I32 g d b =>
    refine FormR.readsBack g d 0 b false rfl fun r => ?_
    delta decodeRaw
    refine r.opcode.symm ▸ ?_
    exact bind_eq_ok (guardOf_eq r.guard) <| bind_eq_ok (mustBeZero_eq r.src) <| bind_eq_ok (mustBeZero_eq r.flag) <|
      by rw [regAt_eq r.dst, bAt_eq r.bop]; rfl
  | movx g d b k | movy g d b k =>
    refine FormR.readsBack g d k (.s b) false rfl fun r => ?_
    delta decodeRaw
    refine r.opcode.symm ▸ ?_
    exact bind_eq_ok (guardOf_eq r.guard) <| bind_eq_ok (scalarAt_eq r.bop) <| bind_eq_ok (mustBeZero_eq r.flag) <|
      by rw [regAt_eq r.dst, regAt_eq r.src]; rfl
  | iadd g d a b f | isub g d a b f | imulh g d a b f | imadw g d a b f | iadd64 g d a b f | imin g d a b f | imax g d a b f
  | shr g d a b f | rot g d a b f | bfe g d a b f | ffmaF32 g d a b f | ffmaF64 g d a b f | ffmaH2 g d a b f
  | ffmaBH2 g d a b f | fminF32 g d a b f | fminF64 g d a b f | fminH2 g d a b f | fminBH2 g d a b f | fmaxF32 g d a b f
  | fmaxF64 g d a b f | fmaxH2 g d a b f | fmaxBH2 g d a b f | cvtpE4m3 g d a b f | cvtpE5m2 g d a b f | shfl g d a b f
  | vconf g d a b f | vrank g d a b f | rsumk g d a b f =>
    refine FormR.readsBack g d a b f rfl fun r => ?_
    delta decodeRaw
    refine r.opcode.symm ▸ ?_
    exact bind_eq_ok (guardOf_eq r.guard) <| by rw [regAt_eq r.dst, regAt_eq r.src, bAt_eq r.bop, bitAt_eq r.flag]; rfl
  | iaddi g d a imm =>
    refine FormI.readsBack g d a imm.toNat imm.isLt rfl fun r => ?_
    delta decodeRaw
    refine r.opcode.symm ▸ ?_
    exact bind_eq_ok (guardOf_eq r.guard) <| by rw [regAt_eq r.dst, regAt_eq r.src, ofNat_field_eq r.imm]; rfl
  | imul g d a b | imad g d a b | and g d a b | or g d a b | xor g d a b | andn g d a b | shl g d a b | bfi g d a b
  | faddF32 g d a b | faddF64 g d a b | faddH2 g d a b | faddBH2 g d a b | fsubF32 g d a b | fsubF64 g d a b
  | fsubH2 g d a b | fsubBH2 g d a b | fmulF32 g d a b | fmulF64 g d a b | fmulH2 g d a b | fmulBH2 g d a b
  | cvtH2F32 g d a b | cvtBh2F32 g d a b =>
    refine FormR.readsBack g d a b false rfl fun r => ?_
    delta decodeRaw
    refine r.opcode.symm ▸ ?_
    exact bind_eq_ok (guardOf_eq r.guard) <| bind_eq_ok (mustBeZero_eq r.flag) <|
      by rw [regAt_eq r.dst, regAt_eq r.src, bAt_eq r.bop]; rfl
  | iabs g d b f | cvtF32H2 g d b f | cvtF32Bh2 g d b f | cvtI32F32 g d b f | cvtN32F32 g d b f | cvtI32F64 g d b f
  | cvtuE4m3 g d b f | cvtuE5m2 g d b f =>
    refine FormR.readsBack g d 0 b f rfl fun r => ?_
    delta decodeRaw
    refine r.opcode.symm ▸ ?_
    exact bind_eq_ok (guardOf_eq r.guard) <| bind_eq_ok (mustBeZero_eq r.src) <|
      by rw [regAt_eq r.dst, bAt_eq r.bop, bitAt_eq r.flag]; rfl
  | shifti g d a kind n =>
    refine FormI.readsBack g d a (kind.code * 64 + n.val) (by have := kind.code_lt; omega) rfl fun r => ?_
    delta decodeRaw
    obtain ⟨hkind, hn⟩ := kind_count_of_imm r.imm kind.code_lt n.isLt
    refine r.opcode.symm ▸ ?_
    exact bind_eq_ok (guardOf_eq r.guard) <| by rw [regAt_eq r.dst, regAt_eq r.src, shiftKindOf_eq hkind, regAt_eq hn]; rfl
  | icmp g pair cond a b f | icmpn g pair cond a b f | fcmpF32 g pair cond a b f | fcmpF64 g pair cond a b f
  | fcmpH2 g pair cond a b f | fcmpBH2 g pair cond a b f =>
    refine FormC.readsBack g pair cond a b f rfl fun r => ?_
    delta decodeRaw
    refine r.opcode.symm ▸ ?_
    exact bind_eq_ok (guardOf_eq r.guard) <| bind_eq_ok (finAt_eq r.pair) <|
      by rw [condOf_eq r.cond, regAt_eq r.src, bAt_eq r.bop, bitAt_eq r.flag]; rfl
  | sel p d a b =>
    refine FormR.readsBack (.pred p) d a b false rfl fun r => ?_
    delta decodeRaw
    refine r.opcode.symm ▸ ?_
    exact bind_eq_ok (finAt_eq r.guard) <| bind_eq_ok (mustBeZero_eq r.flag) <|
      by rw [regAt_eq r.dst, regAt_eq r.src, bAt_eq r.bop]; rfl
  | smovi d imm =>
    refine FormW.readsBack .always d imm.toNat imm.isLt rfl fun r => ?_
    delta decodeRaw
    refine r.opcode.symm ▸ ?_
    exact bind_eq_ok (unguarded_eq r.guard) <| by rw [regAt_eq r.dst, ofNat_field_eq r.imm]; rfl
  | sadd d a b | ssub d a b | smul d a b | sand d a b | sor d a b | sxor d a b | sshl d a b =>
    refine FormR.readsBack .always d a (.s b) false rfl fun r => ?_
    delta decodeRaw
    refine r.opcode.symm ▸ ?_
    exact bind_eq_ok (unguarded_eq r.guard) <| bind_eq_ok (scalarAt_eq r.bop) <| bind_eq_ok (mustBeZero_eq r.flag) <|
      by rw [regAt_eq r.dst, regAt_eq r.src]; rfl
  | sshr d a b f =>
    refine FormR.readsBack .always d a (.s b) f rfl fun r => ?_
    delta decodeRaw
    refine r.opcode.symm ▸ ?_
    exact bind_eq_ok (unguarded_eq r.guard) <| bind_eq_ok (scalarAt_eq r.bop) <|
      by rw [regAt_eq r.dst, regAt_eq r.src, bitAt_eq r.flag]; rfl
  | scmp pair cond a b f =>
    refine FormC.readsBack .always pair cond a (.s b) f rfl fun r => ?_
    delta decodeRaw
    refine r.opcode.symm ▸ ?_
    exact bind_eq_ok (unguarded_eq r.guard) <| bind_eq_ok (finAt_eq r.pair) <| bind_eq_ok (scalarAt_eq r.bop) <|
      by rw [condOf_eq r.cond, regAt_eq r.src, bitAt_eq r.flag]; rfl
  | readl d a k | writel d a k =>
    refine FormI.readsBack .always d a k.val (by omega) rfl fun r => ?_
    delta decodeRaw
    refine r.opcode.symm ▸ ?_
    exact bind_eq_ok (unguarded_eq r.guard) <| bind_eq_ok (finAt_eq r.imm) <| by rw [regAt_eq r.dst, regAt_eq r.src]; rfl
  | shfli g d a kind n =>
    refine FormI.readsBack g d a (kind.code * 64 + n.val) (by have := kind.code_lt; omega) rfl fun r => ?_
    delta decodeRaw
    obtain ⟨hkind, hn⟩ := kind_count_of_imm r.imm kind.code_lt n.isLt
    refine r.opcode.symm ▸ ?_
    exact bind_eq_ok (guardOf_eq r.guard) <| by rw [regAt_eq r.dst, regAt_eq r.src, shflKindOf_eq hkind, regAt_eq hn]; rfl
  | ptos d p b f =>
    refine FormR.readsBack .always d ⟨p.val, by omega⟩ (.s b) f rfl fun r => ?_
    delta decodeRaw
    refine r.opcode.symm ▸ ?_
    exact bind_eq_ok (unguarded_eq r.guard) <| bind_eq_ok (finAt_eq r.src) <| bind_eq_ok (scalarAt_eq r.bop) <|
      by rw [regAt_eq r.dst, bitAt_eq r.flag]; rfl
  | stop g p a f =>
    refine FormR.readsBack g ⟨p.val, by omega⟩ a (.v 0) f rfl fun r => ?_
    delta decodeRaw
    refine r.opcode.symm ▸ ?_
    exact bind_eq_ok (guardOf_eq r.guard) <| bind_eq_ok (finAt_eq r.dst) <| bind_eq_ok (mustBeZero_eq r.bop) <|
      by rw [regAt_eq r.src, bitAt_eq r.flag]; rfl
  | plop g pd pa pb tt =>
    refine FormP.readsBack g pd pa pb tt rfl fun r => ?_
    delta decodeRaw
    refine r.opcode.symm ▸ ?_
    exact bind_eq_ok (guardOf_eq r.guard) <| bind_eq_ok (finAt_eq r.dst) <| bind_eq_ok (finAt_eq r.fst) <|
      bind_eq_ok (finAt_eq r.snd) <| bind_eq_ok (mustBeZero_eq r.rest) <| by rw [ofNat_field_eq r.table]; rfl
  | redi g op d b f =>
    refine FormR.readsBack g d ⟨op.code, op.code_lt⟩ b f rfl fun r => ?_
    delta decodeRaw
    refine r.opcode.symm ▸ ?_
    exact bind_eq_ok (guardOf_eq r.guard) <| bind_eq_ok (redOpOf_eq r.src) <|
      by rw [regAt_eq r.dst, bAt_eq r.bop, bitAt_eq r.flag]; rfl
  | redf g x d b f =>
    refine FormR.readsBack g d ⟨x.toNat, x.toNat_lt.trans (by decide)⟩ b f rfl fun r => ?_
    delta decodeRaw
    refine r.opcode.symm ▸ ?_
    exact bind_eq_ok (guardOf_eq r.guard) <| bind_eq_ok (boolOf_eq r.src) <| by rw [regAt_eq r.dst, bAt_eq r.bop, bitAt_eq r.flag]; rfl
  | movl g d x =>
    refine FormW.readsBack_literal g d x rfl fun r => ?_
    delta decodeRaw
    refine r.opcode.symm ▸ ?_
    exact bind_eq_ok (guardOf_eq r.guard) <| bind_eq_ok rfl <| bind_eq_ok (mustBeZero_eq r.imm) <| by rw [regAt_eq r.dst]; rfl
  | smovl d x =>
    refine FormW.readsBack_literal .always d x rfl fun r => ?_
    delta decodeRaw
    refine r.opcode.symm ▸ ?_
    exact bind_eq_ok (unguarded_eq r.guard) <| bind_eq_ok rfl <| bind_eq_ok (mustBeZero_eq r.imm) <| by rw [regAt_eq r.dst]; rfl
  | _ => cases h

theorem readsBack_of_mem {i : Instr} (h : i.cls = some .mem) (w : Nat) (next : Option Word) : i.ReadsBack w next := by
  cases i with
  | ldS8 g d a seg off | ldN8 g d a seg off | ldS16 g d a seg off | ldN16 g d a seg off | ldB32 g d a seg off
  | ldB64 g d a seg off | ldB128 g d a seg off | stB8 g d a seg off | stB16 g d a seg off | stB32 g d a seg off
  | stB64 g d a seg off | stB128 g d a seg off =>
    refine FormM.readsBack g d a seg 0 off rfl fun r => ?_
    delta decodeRaw
    refine r.opcode.symm ▸ ?_
    exact bind_eq_ok (guardOf_eq r.guard) <| bind_eq_ok (mustBeZero_eq r.scope) <|
      by rw [regAt_eq r.dst, regAt_eq r.addr, segOf_eq r.seg, fieldFin_eq r.off]; rfl
  | ldaqB32 g d a seg sc off | ldaqB64 g d a seg sc off | strlB32 g d a seg sc off | strlB64 g d a seg sc off =>
    refine FormM.readsBack g d a seg ⟨sc.code, sc.code_lt⟩ off rfl fun r => ?_
    delta decodeRaw
    refine r.opcode.symm ▸ ?_
    exact bind_eq_ok (guardOf_eq r.guard) <| bind_eq_ok (scopeOf_eq r.scope) <|
      by rw [regAt_eq r.dst, regAt_eq r.addr, segOf_eq r.seg, fieldFin_eq r.off]; rfl
  | ataddI32 g d a seg sc mo | ataddI64 g d a seg sc mo | ataddF32 g d a seg sc mo | atminI32 g d a seg sc mo
  | atmaxI32 g d a seg sc mo | atandB32 g d a seg sc mo | atorB32 g d a seg sc mo | atxorB32 g d a seg sc mo
  | atxchB32 g d a seg sc mo | atxchB64 g d a seg sc mo | atcasB32 g d a seg sc mo | atcasB64 g d a seg sc mo
  | redstF32 g d a seg sc mo =>
    refine FormM.readsBack g d a seg ⟨sc.code, sc.code_lt⟩ ⟨mo.code, mo.code_lt⟩ rfl fun r => ?_
    delta decodeRaw
    refine r.opcode.symm ▸ ?_
    exact bind_eq_ok (guardOf_eq r.guard) <| bind_eq_ok (scopeOf_eq r.scope) <| bind_eq_ok (orderOf_eq r.off) <|
      by rw [regAt_eq r.dst, regAt_eq r.addr, segOf_eq r.seg]; rfl
  | fence sc mo =>
    refine FormM.readsBack .always 0 0 .gl ⟨sc.code, sc.code_lt⟩ ⟨mo.code, mo.code_lt⟩ rfl fun r => ?_
    delta decodeRaw
    refine r.opcode.symm ▸ ?_
    exact bind_eq_ok (unguarded_eq r.guard) <| bind_eq_ok (scopeOf_eq r.scope) <| bind_eq_ok (orderOf_eq r.off) <|
      bind_eq_ok (mustBeZero_eq r.dst) <| bind_eq_ok (mustBeZero_eq r.addr) <| bind_eq_ok (mustBeZero_eq r.seg) <| rfl
  | publish d a sc =>
    refine FormM.readsBack .always d a .gl ⟨sc.code, sc.code_lt⟩ 2 rfl fun r => ?_
    delta decodeRaw
    refine r.opcode.symm ▸ ?_
    exact bind_eq_ok (unguarded_eq r.guard) <| bind_eq_ok (scopeOf_eq r.scope) <| bind_eq_ok (releaseOnly_eq r.off) <|
      bind_eq_ok (mustBeZero_eq r.seg) <| by rw [regAt_eq r.dst, regAt_eq r.addr]; rfl
  | pref g lv a seg off =>
    refine FormM.readsBack g ⟨lv.code, lv.code_lt⟩ a seg 0 off rfl fun r => ?_
    delta decodeRaw
    refine r.opcode.symm ▸ ?_
    exact bind_eq_ok (guardOf_eq r.guard) <| bind_eq_ok (prefLevelOf_eq r.dst) <| bind_eq_ok (mustBeZero_eq r.scope) <|
      by rw [regAt_eq r.addr, segOf_eq r.seg, fieldFin_eq r.off]; rfl
  | _ => cases h

theorem readsBack_of_eng {i : Instr} (h : i.cls = some .eng) (w : Nat) (next : Option Word) : i.ReadsBack w next := by
  cases i with
  | tdef t | tinv t =>
    refine FormT.readsBack t 0 0 rfl fun r => ?_
    delta decodeRaw
    refine r.opcode.symm ▸ ?_
    exact bind_eq_ok (unguarded_eq r.guard) <| bind_eq_ok (mustBeZero_eq r.regs) <| by rw [fieldFin_eq r.tensor]; rfl
  | tcopy t a b | tstore t a b | mdrain t a b =>
    refine FormT.readsBack t a b rfl fun r => ?_
    delta decodeRaw
    refine r.opcode.symm ▸ ?_
    exact bind_eq_ok (unguarded_eq r.guard) <| by rw [fieldFin_eq r.tensor, regAt_eq r.fst, regAt_eq r.snd]; rfl
  | mma fmt ac ra rb a =>
    refine FormMma.readsBack fmt ac ra rb a rfl fun r => ?_
    delta decodeRaw
    refine r.opcode.symm ▸ ?_
    exact bind_eq_ok (unguarded_eq r.guard) <| bind_eq_ok (mustBeZero_eq r.snd) <|
      by rw [fieldFin_eq r.fmt, bitAt_eq r.ac, bitAt_eq r.ra, bitAt_eq r.rb, regAt_eq r.fst]; rfl
  | xbexp n b =>
    refine FormR.readsBack .always ⟨n.val, by omega⟩ 0 (.s b) false rfl fun r => ?_
    delta decodeRaw
    refine r.opcode.symm ▸ ?_
    exact bind_eq_ok (unguarded_eq r.guard) <| bind_eq_ok (finAt_eq r.dst) <| bind_eq_ok (scalarAt_eq r.bop) <|
      bind_eq_ok (mustBeZero_eq r.src) <| bind_eq_ok (mustBeZero_eq r.flag) <| rfl
  | xbwait n k =>
    refine FormW.readsBack .always ⟨n.val, by omega⟩ (optRegCode k) (optRegCode_lt k) rfl fun r => ?_
    delta decodeRaw
    refine r.opcode.symm ▸ ?_
    exact bind_eq_ok (unguarded_eq r.guard) <| bind_eq_ok (finAt_eq r.dst) <| bind_eq_ok (optRegOf_eq r.imm) <| rfl
  | slotset buf slot f | slotwt buf slot f =>
    refine FormR.readsBack .always ⟨buf.val, by omega⟩ ⟨slot.val, by omega⟩ (.v 0) f rfl fun r => ?_
    delta decodeRaw
    refine r.opcode.symm ▸ ?_
    exact bind_eq_ok (unguarded_eq r.guard) <| bind_eq_ok (finAt_eq r.dst) <| bind_eq_ok (finAt_eq r.src) <|
      bind_eq_ok (mustBeZero_eq r.bop) <| by rw [bitAt_eq r.flag]; rfl
  | bufdef buf a b =>
    refine FormR.readsBack .always ⟨buf.val, by omega⟩ a (.s b) false rfl fun r => ?_
    delta decodeRaw
    have hfree : ¬ bitAt w 0 = true := by rw [bitAt_eq r.flag]; decide
    refine r.opcode.symm ▸ ?_
    exact (if_neg hfree).trans <| bind_eq_ok (unguarded_eq r.guard) <| bind_eq_ok (finAt_eq r.dst) <| bind_eq_ok (scalarAt_eq r.bop) <|
      by rw [regAt_eq r.src]; rfl
  | bufdefFree buf =>
    refine FormR.readsBack .always ⟨buf.val, by omega⟩ 0 (.v 0) true rfl fun r => ?_
    delta decodeRaw
    refine r.opcode.symm ▸ ?_
    exact (if_pos (bitAt_eq r.flag)).trans <| bind_eq_ok (unguarded_eq r.guard) <| bind_eq_ok (finAt_eq r.dst) <|
      bind_eq_ok (mustBeZero_eq r.src) <| bind_eq_ok (mustBeZero_eq r.bop) <| rfl
  | _ => cases h

theorem readsBack_of_ctrl {i : Instr} (h : i.cls = some .ctrl) (w : Nat) (next : Option Word) : i.ReadsBack w next := by
  cases i with
  | braAny g disp | braAll g disp | braNone g disp =>
    refine FormB.readsBack g disp rfl fun r => ?_
    delta decodeRaw
    refine r.opcode.symm ▸ ?_
    exact bind_eq_ok (guardOf_eq r.guard) <| by rw [ofNat_field_eq r.disp]; rfl
  | jmp disp | call disp =>
    refine FormB.readsBack .always disp rfl fun r => ?_
    delta decodeRaw
    refine r.opcode.symm ▸ ?_
    exact bind_eq_ok (unguarded_eq r.guard) <| by rw [ofNat_field_eq r.disp]; rfl
  | callr a | ret a | spat a =>
    refine FormR.readsBack .always 0 a (.v 0) false rfl fun r => ?_
    delta decodeRaw
    refine r.opcode.symm ▸ ?_
    exact bind_eq_ok (unguarded_eq r.guard) <| bind_eq_ok (mustBeZero_eq r.dst) <| bind_eq_ok (mustBeZero_eq r.bop) <|
      bind_eq_ok (mustBeZero_eq r.flag) <| by rw [regAt_eq r.src]; rfl
  | mskand d p f =>
    refine FormR.readsBack .always d ⟨p.val, by omega⟩ (.v 0) f rfl fun r => ?_
    delta decodeRaw
    refine r.opcode.symm ▸ ?_
    exact bind_eq_ok (unguarded_eq r.guard) <| bind_eq_ok (finAt_eq r.src) <| bind_eq_ok (mustBeZero_eq r.bop) <|
      by rw [regAt_eq r.dst, bitAt_eq r.flag]; rfl
  | mskset a p =>
    refine FormI.readsBack .always 0 a (optPredCode p) (optPredCode_lt p) rfl fun r => ?_
    delta decodeRaw
    refine r.opcode.symm ▸ ?_
    exact bind_eq_ok (unguarded_eq r.guard) <| bind_eq_ok (optPredOf_eq r.imm) <| bind_eq_ok (mustBeZero_eq r.dst) <|
      by rw [regAt_eq r.src]; rfl
  | exit g =>
    refine FormW.readsBack g 0 0 (by decide) rfl fun r => ?_
    delta decodeRaw
    refine r.opcode.symm ▸ ?_
    exact bind_eq_ok (guardOf_eq r.guard) <| bind_eq_ok (mustBeZero_eq r.dst) <| bind_eq_ok (mustBeZero_eq r.imm) <| rfl
  | bar lv n | bara lv n | barw lv n =>
    refine FormW.readsBack .always ⟨n.val, by omega⟩ lv.code (lv.code_lt.trans (by decide)) rfl fun r => ?_
    delta decodeRaw
    have hlevel : field w 0 4 = lv.code := field_within 0 4 r.imm (by decide) (by cases lv <;> rfl)
    have hrest : field w 2 4096 = 0 := field_within 2 4096 r.imm (by decide) (by cases lv <;> rfl)
    refine r.opcode.symm ▸ ?_
    exact bind_eq_ok (unguarded_eq r.guard) <| bind_eq_ok (finAt_eq r.dst) <| bind_eq_ok (barLevelOf_eq hlevel) <|
      bind_eq_ok (mustBeZero_eq hrest) <| rfl
  | grow n | shrnk n =>
    refine FormW.readsBack .always 0 n.toNat n.isLt rfl fun r => ?_
    delta decodeRaw
    refine r.opcode.symm ▸ ?_
    exact bind_eq_ok (unguarded_eq r.guard) <| bind_eq_ok (mustBeZero_eq r.dst) <| by rw [ofNat_field_eq r.imm]; rfl
  | tlaunch g d a seg | tsucc g d a seg | qrsv g d a seg =>
    refine FormM.readsBack g d a seg 0 0 rfl fun r => ?_
    delta decodeRaw
    refine r.opcode.symm ▸ ?_
    exact bind_eq_ok (guardOf_eq r.guard) <| bind_eq_ok (mustBeZero_eq r.scope) <| bind_eq_ok (mustBeZero_eq r.off) <|
      by rw [regAt_eq r.dst, regAt_eq r.addr, segOf_eq r.seg]; rfl
  | propose g d a seg sc mo | cellrd g d a seg sc mo | cellwt g d a seg sc mo | cellinit g d a seg sc mo
  | cellrst g d a seg sc mo | lkacq g d a seg sc mo | lkrel g d a seg sc mo | qput g d a seg sc mo | qget g d a seg sc mo =>
    refine FormM.readsBack g d a seg ⟨sc.code, sc.code_lt⟩ ⟨mo.code, mo.code_lt⟩ rfl fun r => ?_
    delta decodeRaw
    refine r.opcode.symm ▸ ?_
    exact bind_eq_ok (guardOf_eq r.guard) <| bind_eq_ok (scopeOf_eq r.scope) <| bind_eq_ok (orderOf_eq r.off) <|
      by rw [regAt_eq r.dst, regAt_eq r.addr, segOf_eq r.seg]; rfl
  | _ => cases h

theorem readsBack_of_sys {i : Instr} (h : i.cls = some .sys) (w : Nat) (next : Option Word) : i.ReadsBack w next := by
  cases i with
  | eret =>
    refine FormW.readsBack .always 0 0 (by decide) rfl fun r => ?_
    delta decodeRaw
    refine r.opcode.symm ▸ ?_
    exact bind_eq_ok (unguarded_eq r.guard) <| bind_eq_ok (mustBeZero_eq r.dst) <| bind_eq_ok (mustBeZero_eq r.imm) <| rfl
  | srr d imm | swr d imm =>
    refine FormW.readsBack .always d imm.toNat imm.isLt rfl fun r => ?_
    delta decodeRaw
    refine r.opcode.symm ▸ ?_
    exact bind_eq_ok (unguarded_eq r.guard) <| by rw [regAt_eq r.dst, ofNat_field_eq r.imm]; rfl
  | trap g code =>
    refine FormW.readsBack g 0 code.toNat code.isLt rfl fun r => ?_
    delta decodeRaw
    refine r.opcode.symm ▸ ?_
    exact bind_eq_ok (guardOf_eq r.guard) <| bind_eq_ok (mustBeZero_eq r.dst) <| by rw [ofNat_field_eq r.imm]; rfl
  | segset k a =>
    refine FormR.readsBack .always ⟨k.val, by omega⟩ a (.v 0) false rfl fun r => ?_
    delta decodeRaw
    refine r.opcode.symm ▸ ?_
    exact bind_eq_ok (unguarded_eq r.guard) <| bind_eq_ok (finAt_eq r.dst) <| bind_eq_ok (mustBeZero_eq r.bop) <|
      bind_eq_ok (mustBeZero_eq r.flag) <| by rw [regAt_eq r.src]; rfl
  | tlbinv sc f a =>
    refine FormR.readsBack .always ⟨sc.code, sc.code_lt.trans (by decide)⟩ a (.v 0) f rfl fun r => ?_
    delta decodeRaw
    refine r.opcode.symm ▸ ?_
    exact bind_eq_ok (unguarded_eq r.guard) <| bind_eq_ok (scopeOf_eq r.dst) <| bind_eq_ok (mustBeZero_eq r.bop) <|
      by rw [bitAt_eq r.flag, regAt_eq r.src]; rfl
  | ctxsv a b =>
    refine FormR.readsBack .always 0 a (.s b) false rfl fun r => ?_
    delta decodeRaw
    refine r.opcode.symm ▸ ?_
    exact bind_eq_ok (unguarded_eq r.guard) <| bind_eq_ok (scalarAt_eq r.bop) <| bind_eq_ok (mustBeZero_eq r.dst) <|
      bind_eq_ok (mustBeZero_eq r.flag) <| by rw [regAt_eq r.src]; rfl
  | ctxld d a =>
    refine FormR.readsBack .always d a (.v 0) false rfl fun r => ?_
    delta decodeRaw
    refine r.opcode.symm ▸ ?_
    exact bind_eq_ok (unguarded_eq r.guard) <| bind_eq_ok (mustBeZero_eq r.bop) <| bind_eq_ok (mustBeZero_eq r.flag) <|
      by rw [regAt_eq r.dst, regAt_eq r.src]; rfl
  | _ => cases h

theorem readsBack_of_tx {i : Instr} (h : i.cls = some .tx) (w : Nat) (next : Option Word) : i.ReadsBack w next := by
  cases i with
  | txend =>
    refine FormW.readsBack .always 0 0 (by decide) rfl fun r => ?_
    delta decodeRaw
    refine r.opcode.symm ▸ ?_
    exact bind_eq_ok (unguarded_eq r.guard) <| bind_eq_ok (mustBeZero_eq r.dst) <| bind_eq_ok (mustBeZero_eq r.imm) <| rfl
  | txbeg disp =>
    refine FormB.readsBack .always disp rfl fun r => ?_
    delta decodeRaw
    refine r.opcode.symm ▸ ?_
    exact bind_eq_ok (unguarded_eq r.guard) <| by rw [ofNat_field_eq r.disp]; rfl
  | txabt code =>
    refine FormI.readsBack .always 0 0 code.toNat code.isLt rfl fun r => ?_
    delta decodeRaw
    refine r.opcode.symm ▸ ?_
    exact bind_eq_ok (unguarded_eq r.guard) <| bind_eq_ok (mustBeZero_eq r.dst) <| bind_eq_ok (mustBeZero_eq r.src) <|
      by rw [ofNat_field_eq r.imm]; rfl
  | txst d =>
    refine FormW.readsBack .always d 0 (by decide) rfl fun r => ?_
    delta decodeRaw
    refine r.opcode.symm ▸ ?_
    exact bind_eq_ok (unguarded_eq r.guard) <| bind_eq_ok (mustBeZero_eq r.imm) <| by rw [regAt_eq r.dst]; rfl
  | _ => cases h

theorem readsBack_of_noClass {i : Instr} (h : i.cls = none) (ha : ∀ op o, i ≠ .aluOperatorFire op o)
    (w : Nat) (next : Option Word) : i.ReadsBack w next := by
  cases i with
  | src o | snk o | ctr o | steer o | merge o | acc o | ord o | conv o | rdreg o | wrreg o | mtok o | dup o =>
    refine FormS.readsBack o rfl fun r => ?_
    delta decodeRaw
    exact r.opcode.symm ▸ r.fields ▸ rfl
  | aluOperatorFire op o => exact absurd rfl (ha op o)
  | _ => exact .of_none (by cases h <;> rfl)

end Sys2Proof
end

section
/-! ### Words, operator words, bytes and headers read back (R2, R68, R87, R88) -/

namespace Sys2Proof

theorem Instr.readsBack {i : Instr} (ha : ∀ op o, i ≠ .aluOperatorFire op o) (w : Nat) (next : Option Word) : i.ReadsBack w next := by
  cases hc : i.cls with
  | none => exact readsBack_of_noClass hc ha w next
  | some c =>
    cases c with
    | alu => exact readsBack_of_alu hc w next
    | mem => exact readsBack_of_mem hc w next
    | eng => exact readsBack_of_eng hc w next
    | ctrl => exact readsBack_of_ctrl hc w next
    | sys => exact readsBack_of_sys hc w next
    | tx => exact readsBack_of_tx hc w next

theorem decodeWord_of_raw {i : Instr} {w : Nat} {l : Option Word} (hw : w < 2 ^ 32) (h : decodeRaw w l = .ok i) (hi : i.wf = true) :
    decodeWord (BitVec.ofNat 32 w) l = .ok i := by
  rw [decodeWord, BitVec.toNat_ofNat, Nat.mod_eq_of_lt hw, h]
  exact if_pos hi

/-- A word with its literal, or with anything behind it where it takes none, is read back. -/
theorem decodeWord_of_encodeNat {i : Instr} {w : Nat} {lit : Option Word} (hi : i.wf = true) (ha : ∀ op o, i ≠ .aluOperatorFire op o)
    (he : encodeNat i = some (w, lit)) (next : Option Word) :
    w < 2 ^ 32 ∧ (i.literals = 1 ↔ lit ≠ none) ∧
      decodeWord (BitVec.ofNat 32 w) (if i.literals = 1 then lit else next) = .ok i := by
  obtain ⟨hlt, hlit, hraw⟩ := Instr.readsBack ha w next lit he
  exact ⟨hlt, hlit, decodeWord_of_raw hlt hraw hi⟩

theorem opcode_lt_of_aluOperatorOp {op : Nat} (h : aluOperatorOp op = true) : op < 0xF0 := by
  simp only [aluOperatorOp, Bool.or_eq_true, Bool.and_eq_true, beq_iff_eq, decide_eq_true_eq] at h
  omega

theorem decodeOperator_of_encodeNat {op : BitVec 8} {o : SFields} {w : Nat} (hi : (Instr.aluOperatorFire op o).wf = true)
    (he : encodeNat (.aluOperatorFire op o) = some (w, none)) :
    w < 2 ^ 32 ∧ decodeOperator (BitVec.ofNat 32 w) = .ok (.aluOperatorFire op o) := by
  obtain ⟨hop, -⟩ := Bool.and_eq_true_iff.1 hi
  have hw : op.toNat * 16777216 + o.code = w := (Prod.mk.inj (Option.some.inj he)).1
  obtain ⟨hlt, hopcode, hfields⟩ := FormS.of_word op.isLt hw.symm
  have hdirect : ¬ 0xF0 ≤ op.toNat := (opcode_lt_of_aluOperatorOp hop).not_ge
  refine ⟨hlt, ?_⟩
  rw [decodeOperator, BitVec.toNat_ofNat, Nat.mod_eq_of_lt hlt, hopcode, if_neg hdirect, if_pos hop, hfields, BitVec.ofNat_toNat,
    BitVec.setWidth_eq]
  exact if_pos hi

theorem wordOfBytes_bytesOfWord (w : Word) :
    wordOfBytes (BitVec.ofNat 8 w.toNat) (BitVec.ofNat 8 (w.toNat / 256)) (BitVec.ofNat 8 (w.toNat / 65536))
      (BitVec.ofNat 8 (w.toNat / 16777216)) = w := by
  have hw := w.isLt
  apply BitVec.eq_of_toNat_eq
  simp only [wordOfBytes, BitVec.toNat_ofNat]
  omega

theorem frontWord_bytesOfWord (w : Word) (rest : List Byte) : frontWord (bytesOfWord w ++ rest) = some w :=
  congrArg some (wordOfBytes_bytesOfWord w)

theorem decodeBytes_bytesOfWord {i : Instr} {w : Word} {rest : List Byte} (h : decodeWord w (frontWord rest) = .ok i) :
    decodeBytes (bytesOfWord w ++ rest) = .ok (i, rest.drop (4 * i.literals)) := by
  rw [decodeBytes, frontWord_bytesOfWord]
  refine bind_eq_ok h ?_
  rw [← List.drop_drop]
  rfl

theorem literals_eq_zero_of_ne_one {i : Instr} (h : i.literals ≠ 1) : i.literals = 0 := by
  unfold Instr.literals at h ⊢
  split at h
  · exact absurd rfl h
  · exact absurd rfl h
  · rfl

theorem decodeBytes_encode {i : Instr} (rest : List Byte) (hi : i.wf = true) (ha : ∀ op o, i ≠ .aluOperatorFire op o)
    (he : encodeNat i ≠ none) : decodeBytes ((encode i).flatMap bytesOfWord ++ rest) = .ok (i, rest) := by
  obtain ⟨⟨w, lit⟩, he⟩ := Option.ne_none_iff_exists'.1 he
  cases lit with
  | none =>
    obtain ⟨-, hlit, hword⟩ := decodeWord_of_encodeNat hi ha he (frontWord rest)
    have hzero : i.literals = 0 := literals_eq_zero_of_ne_one fun h => hlit.1 h rfl
    have hbytes : (encode i).flatMap bytesOfWord ++ rest = bytesOfWord (BitVec.ofNat 32 w) ++ rest := by simp [encode, he]
    rw [if_neg (by rw [hzero]; decide)] at hword
    rw [hbytes, decodeBytes_bytesOfWord hword, hzero]
    rfl
  | some x =>
    obtain ⟨-, hlit, hword⟩ := decodeWord_of_encodeNat hi ha he none
    have hone : i.literals = 1 := hlit.2 (Option.some_ne_none x)
    have hbytes : (encode i).flatMap bytesOfWord ++ rest = bytesOfWord (BitVec.ofNat 32 w) ++ (bytesOfWord x ++ rest) := by
      simp [encode, he]
    rw [if_pos hone, ← frontWord_bytesOfWord x rest] at hword
    rw [hbytes, decodeBytes_bytesOfWord hword, hone]
    rfl

/-! The clause header (R68). -/

/-- The fields of the word `w` are those of the header. -/
structure FormH (w : Nat) (h : Header) : Prop where
  n : field w 28 16 = h.n
  cls : field w 25 8 = h.cls.code
  wait : field w 17 256 = h.wait.toNat
  setc : field w 14 8 = h.setc.val
  yield : field w 13 2 = h.yield.toNat
  serial : field w 12 2 = h.serial.toNat
  rest : field w 0 4096 = 0

theorem Cls.code_lt (c : Cls) : c.code < 8 := by cases c <;> decide

theorem FormH.of_encodeHeader {h : Header} (hle : h.n ≤ 15) : FormH (encodeHeader h).toNat h := by
  have hc := h.cls.code_lt
  have hw := h.wait.isLt
  have hy := h.yield.toNat_lt
  have hs := h.serial.toNat_lt
  rw [encodeHeader, BitVec.toNat_ofNat, Nat.mod_eq_of_lt (by omega)]
  refine ⟨?_, ?_, ?_, ?_, ?_, ?_, ?_⟩ <;> unfold field <;> omega

theorem decodeHeader_of_form {w : Word} {h : Header} (r : FormH w.toNat h) (hpos : 1 ≤ h.n) : decodeHeader w = .ok h := by
  have hgood : ¬ (field w.toNat 28 16 = 0 ∨ field w.toNat 0 4096 ≠ 0) := by rw [r.n, r.rest]; omega
  rw [decodeHeader, if_neg hgood]
  exact bind_eq_ok (clsOf_eq r.cls) (by
    rw [r.n, ofNat_field_eq r.wait, fieldFin_eq r.setc, bitAt_eq r.yield, bitAt_eq r.serial]; rfl)

theorem clsOf_of_six_le {k : Nat} (h : 6 ≤ k) : clsOf k = .error .badHeader := by
  match k, h with
  | _ + 6, _ => rfl

theorem decodeHeader_error {w : Word} (h : w.toNat / 2 ^ 28 = 0 ∨ 6 ≤ w.toNat / 2 ^ 25 % 8 ∨ w.toNat % 4096 ≠ 0) :
    decodeHeader w = .error .badHeader := by
  unfold decodeHeader
  by_cases hbad : field w.toNat 28 16 = 0 ∨ field w.toNat 0 4096 ≠ 0
  · exact if_pos hbad
  · have hcls : 6 ≤ field w.toNat 25 8 := by
      unfold field at hbad ⊢
      omega
    rw [if_neg hbad, clsOf_of_six_le hcls]
    rfl

end Sys2Proof

namespace Sys2Proof.Proofs

open Sys2Proof.Slice0

theorem instructionsDecodeBack : InstructionsDecodeBack := by
  refine ⟨fun i w lit next hi ha he => decodeWord_of_encodeNat hi ha he next, ?_,
    fun i rest hi ha he => decodeBytes_encode rest hi ha he⟩
  rintro _ w hi ⟨op, o, rfl⟩ he
  exact decodeOperator_of_encodeNat hi he

/-- Settles O56: each instruction's word has the fields of its format, whose readers give its operands back. -/
theorem encodedWordsDecodeBack : Obligations.EncodedWordsDecodeBack :=
  ⟨instructionsDecodeBack, fun _ hpos hle => decodeHeader_of_form (.of_encodeHeader hle) hpos, fun _ => decodeHeader_error⟩

/-- Settles O57: the words are evaluated. -/
theorem sampleWordsDecode : Obligations.SampleWordsDecode := by
  unfold Obligations.SampleWordsDecode
  decide

end Sys2Proof.Proofs
end

section
/-! ### Integer values as exact numbers and as bits (R95, R101 to R107) -/

namespace Sys2Proof.Machine

open Sys2Proof.Slice0

/-! ### Sums, differences and products (R101, R102) -/

theorem add_eq_ofInt {w : Nat} (x y : BitVec w) : x + y = BitVec.ofInt w (x.toInt + y.toInt) := by
  rw [BitVec.ofInt_add, BitVec.ofInt_toInt, BitVec.ofInt_toInt]

/-- A narrower number is extended with its sign before it is added. -/
theorem add_signExtend_eq_ofInt {w k : Nat} (x : BitVec w) (y : BitVec k) (h : k ≤ w) :
    x + y.signExtend w = BitVec.ofInt w (x.toInt + y.toInt) := by
  rw [add_eq_ofInt, BitVec.toInt_signExtend_of_le h]

theorem sub_eq_ofInt {w : Nat} (x y : BitVec w) : x - y = BitVec.ofInt w (x.toInt - y.toInt) :=
  BitVec.eq_of_toInt_eq (by rw [BitVec.toInt_sub, BitVec.toInt_ofInt])

theorem mul_eq_ofInt {w : Nat} (x y : BitVec w) : x * y = BitVec.ofInt w (x.toInt * y.toInt) := by
  rw [BitVec.ofInt_mul, BitVec.ofInt_toInt, BitVec.ofInt_toInt]

theorem mul_eq_ofNat {w : Nat} (x y : BitVec w) : x * y = BitVec.ofNat w (x.toNat * y.toNat) :=
  BitVec.eq_of_toNat_eq (by rw [BitVec.toNat_mul, BitVec.toNat_ofNat])

theorem mul_add_eq_ofInt {w : Nat} (x y z : BitVec w) : x * y + z = BitVec.ofInt w (x.toInt * y.toInt + z.toInt) := by
  rw [BitVec.ofInt_add, ← mul_eq_ofInt, BitVec.ofInt_toInt]

/-- Bits [63:32] of the signed product. -/
theorem imulhOf_signed (x y : Word) : imulhOf false x y = BitVec.extractLsb' 32 32 (x.signExtend 64 * y.signExtend 64) := by
  have hx := BitVec.toInt_signExtend_of_le (x := x) (show 32 ≤ 64 by omega)
  have hy := BitVec.toInt_signExtend_of_le (x := y) (show 32 ≤ 64 by omega)
  rw [mul_eq_ofInt, hx, hy]
  apply BitVec.eq_of_toNat_eq
  simp only [imulhOf, Bool.false_eq_true, if_false, trunc32, BitVec.extractLsb'_toNat, BitVec.toNat_ofInt, Nat.shiftRight_eq_div_pow]
  rw [Int.fdiv_eq_ediv_of_nonneg _ (by omega)]
  omega

/-- Bits [63:32] of the unsigned product. -/
theorem imulhOf_unsigned (x y : Word) : imulhOf true x y = BitVec.extractLsb' 32 32 (x.zeroExtend 64 * y.zeroExtend 64) := by
  have hx : (x.zeroExtend 64).toNat = x.toNat := BitVec.toNat_setWidth_of_le (by omega)
  have hy : (y.zeroExtend 64).toNat = y.toNat := BitVec.toNat_setWidth_of_le (by omega)
  rw [mul_eq_ofNat, hx, hy]
  apply BitVec.eq_of_toNat_eq
  simp only [imulhOf, if_true, BitVec.extractLsb'_toNat, BitVec.toNat_ofNat, Nat.shiftRight_eq_div_pow]
  omega

theorem imadwOf_signed (x y : Word) (z : DWord) : imadwOf false x y z = BitVec.ofInt 64 (x.toInt * y.toInt + z.toInt) := by
  have hz : (BitVec.ofInt 64 (z.toNat : Int)) = z := by simp
  simp only [imadwOf, Bool.false_eq_true, if_false, trunc64]
  rw [BitVec.ofInt_add, BitVec.ofInt_add, hz, BitVec.ofInt_toInt]

theorem iminOf_signed (x y : Word) : iminOf false x y = BitVec.ofInt 32 (min x.toInt y.toInt) := by
  simp only [iminOf, Bool.false_eq_true, if_false, min_def]
  split <;> rw [BitVec.ofInt_toInt]

theorem iminOf_unsigned (x y : Word) : iminOf true x y = BitVec.ofNat 32 (min x.toNat y.toNat) := by
  simp only [iminOf, if_true, min_def]
  split <;> rw [BitVec.ofNat_toNat, BitVec.setWidth_eq]

theorem imaxOf_signed (x y : Word) : imaxOf false x y = BitVec.ofInt 32 (max x.toInt y.toInt) := by
  simp only [imaxOf, Bool.false_eq_true, if_false, max_comm x.toInt, max_def]
  split <;> rw [BitVec.ofInt_toInt]

theorem imaxOf_unsigned (x y : Word) : imaxOf true x y = BitVec.ofNat 32 (max x.toNat y.toNat) := by
  simp only [imaxOf, if_true, max_comm x.toNat, max_def]
  split <;> rw [BitVec.ofNat_toNat, BitVec.setWidth_eq]

theorem iabsOf_wrap (y : Word) : iabsOf false y = BitVec.ofNat 32 y.toInt.natAbs := by
  simp only [iabsOf, Bool.false_eq_true, if_false, trunc32, Int.abs_eq_natAbs, BitVec.ofInt_natCast]

theorem iabsOf_sat (y : Word) : iabsOf true y = BitVec.ofNat 32 (min (2 ^ 31 - 1) y.toInt.natAbs) := by
  simp only [iabsOf, if_true, sat32, trunc32, Int.abs_eq_natAbs, ← BitVec.ofInt_natCast]
  congr 1
  omega

/-! ### Logic and shifts (R103, R104) -/

theorem and_eq_bits (x y : Word) : x &&& y = bits fun i => x.getLsbD i && y.getLsbD i := eq_bits fun _ _ => BitVec.getLsbD_and

theorem or_eq_bits (x y : Word) : x ||| y = bits fun i => x.getLsbD i || y.getLsbD i := eq_bits fun _ _ => BitVec.getLsbD_or

theorem xor_eq_bits (x y : Word) : x ^^^ y = bits fun i => x.getLsbD i != y.getLsbD i := eq_bits fun _ _ => BitVec.getLsbD_xor

theorem andn_eq_bits (x y : Word) : x &&& ~~~y = bits fun i => x.getLsbD i && !y.getLsbD i :=
  eq_bits fun i hi => by simp [hi]

theorem shlOf_eq (x sh : Word) : shlOf x sh = BitVec.ofNat 32 (x.toNat * 2 ^ amount sh) :=
  BitVec.eq_of_toNat_eq (by rw [shlOf, BitVec.toNat_shiftLeft, Nat.shiftLeft_eq, BitVec.toNat_ofNat, amount])

theorem shrOf_eq (x sh : Word) : shrOf x sh = BitVec.ofNat 32 (x.toNat / 2 ^ amount sh) := by
  rw [shrOf, amount, ← Nat.shiftRight_eq_div_pow, ← BitVec.toNat_ushiftRight, BitVec.ofNat_toNat, BitVec.setWidth_eq]

theorem sarOf_eq (x sh : Word) : sarOf x sh = BitVec.ofInt 32 (x.toInt / 2 ^ amount sh) := by
  rw [sarOf, amount, ← BitVec.ofInt_toInt (x := x.sshiftRight _), BitVec.toInt_sshiftRight, Int.shiftRight_eq_div_pow]
  rfl

theorem rotlOf_eq (x sh : Word) : rotlOf x sh = x.rotateLeft (sh.toNat % 32) := by
  rw [rotlOf, BitVec.rotateLeft, Nat.mod_mod]
  rfl

theorem rotrOf_eq (x sh : Word) : rotrOf x sh = x.rotateRight (sh.toNat % 32) := by
  rw [rotrOf, BitVec.rotateRight, Nat.mod_mod]
  rfl

/-! SHIFTI's amount is a field of the word. -/

theorem toNat_ofNat_fin (n : Fin 64) : (BitVec.ofNat 32 n.val).toNat = n.val := by
  rw [BitVec.toNat_ofNat]
  omega

theorem amount_ofNat (n : Fin 64) : amount (BitVec.ofNat 32 n.val) = n.val := by
  rw [amount, toNat_ofNat_fin]
  omega

theorem shlOf_const (x : Word) (n : Fin 64) : shlOf x (BitVec.ofNat 32 n.val) = BitVec.ofNat 32 (x.toNat * 2 ^ n.val) := by
  rw [shlOf_eq, amount_ofNat]

theorem shrOf_const (x : Word) (n : Fin 64) : shrOf x (BitVec.ofNat 32 n.val) = BitVec.ofNat 32 (x.toNat / 2 ^ n.val) := by
  rw [shrOf_eq, amount_ofNat]

theorem sarOf_const (x : Word) (n : Fin 64) : sarOf x (BitVec.ofNat 32 n.val) = BitVec.ofInt 32 (x.toInt / 2 ^ n.val) := by
  rw [sarOf_eq, amount_ofNat]

theorem rotlOf_const (x : Word) (n : Fin 64) : rotlOf x (BitVec.ofNat 32 n.val) = x.rotateLeft (n.val % 32) := by
  rw [rotlOf_eq, toNat_ofNat_fin]

/-! ### Bits counted and moved (R105) -/

theorem popCount_eq (y : Word) : popCount y = ((List.range 32).filter fun i => y.getLsbD i).length := List.countP_eq_length_filter

theorem brevOf_eq_bits (y : Word) : brevOf y = bits fun i => y.getLsbD (31 - i) :=
  eq_bits fun i hi => by
    rw [brevOf, BitVec.getLsbD_reverse, BitVec.getMsbD]
    simp [hi]

/-- The first 1 bit from the top is the one that the logarithm names (R105). -/
theorem find?_msb {y : Word} (h : y ≠ 0) : ((List.range 32).find? fun i => y.getLsbD (31 - i)) = some (31 - Nat.log2 y.toNat) := by
  have h0 : y.toNat ≠ 0 := fun e => h (BitVec.eq_of_toNat_eq e)
  have hl : Nat.log2 y.toNat < 32 := (Nat.log2_lt h0).2 y.isLt
  refine List.find?_range_eq_some.2 ⟨?_, List.mem_range.2 (by omega), fun j hj => ?_⟩
  · rw [show 31 - (31 - Nat.log2 y.toNat) = Nat.log2 y.toNat by omega]
    exact Nat.testBit_log2 h0
  · have hlt : y.toNat < 2 ^ (31 - j) := (Nat.log2_lt h0).1 (by omega)
    simp [BitVec.getLsbD, Nat.testBit_lt_two_pow hlt]

theorem clzOf_eq (y : Word) : clzOf y = ((List.range 32).find? fun i => y.getLsbD (31 - i)).getD 32 := by
  by_cases h : y = 0
  · subst h
    rfl
  · rw [clzOf, if_neg h, find?_msb h, Option.getD_some]

/-! ### Bit fields (R106, R107) -/

/-- The offset of a descriptor, and its width cut at bit 31. -/
theorem bfRange_eq (y : Word) : bfRange y = (fieldOff y, fieldWidth y) := by
  simp only [bfRange, field, fieldOff, fieldWidth, Nat.pow_zero, Nat.div_one]
  split
  · exact congrArg (Prod.mk _) (by omega)
  · rfl

/-- A field extended with its sign is the number that its bits stand for. -/
theorem sx_eq_toInt (x w : Nat) : sx x (w + 1) = (BitVec.ofNat (w + 1) x).toInt := by
  rw [sx, BitVec.toInt_eq_toNat_cond, BitVec.toNat_ofNat, Nat.add_sub_cancel]
  have : 2 ^ (w + 1) = 2 * 2 ^ w := by rw [Nat.pow_succ, Nat.mul_comm]
  congr 1
  exact propext (by omega)

/-- Bit i of a field of `w` bits. -/
theorem testBit_field (x : Word) (o w i : Nat) : (x.toNat / 2 ^ o % 2 ^ w).testBit i = (decide (i < w) && x.getLsbD (o + i)) := by
  rw [Nat.testBit_mod_two_pow, Nat.testBit_div_two_pow, Nat.add_comm]
  rfl

/-- Bit i of a field extended with its sign: above the field, the field's top bit. -/
theorem getLsbD_trunc32_sx (x : Word) (o w : Nat) {i : Nat} (hi : i < 32) :
    (trunc32 (sx (x.toNat / 2 ^ o) (w + 1))).getLsbD i = if i < w + 1 then x.getLsbD (o + i) else x.getLsbD (o + w) := by
  have hbit : ∀ k, k < w + 1 → (BitVec.ofNat (w + 1) (x.toNat / 2 ^ o)).getLsbD k = x.getLsbD (o + k) := fun k hk => by
    rw [BitVec.getLsbD, BitVec.toNat_ofNat, testBit_field, decide_eq_true hk, Bool.true_and]
  rw [sx_eq_toInt, trunc32, ← BitVec.signExtend, BitVec.getLsbD_signExtend, decide_eq_true hi, Bool.true_and, BitVec.msb_eq_getLsbD_last]
  split
  · exact hbit i ‹_›
  · exact hbit w (by omega)

theorem bfeOf_eq_bits (x y : Word) (signed : Bool) : bfeOf x y signed = bits fun i => if i < fieldWidth y then x.getLsbD (fieldOff y + i)
    else signed && decide (0 < fieldWidth y) && x.getLsbD (fieldOff y + fieldWidth y - 1) := by
  rw [bfeOf, bfRange_eq]
  refine eq_bits fun i hi => ?_
  cases hw : fieldWidth y with
  | zero => simp
  | succ w =>
    cases signed
    · rw [if_neg (by simp), if_neg (by simp), BitVec.getLsbD_ofNat, decide_eq_true hi, testBit_field]
      simp
    · rw [if_neg (by simp), if_pos rfl, getLsbD_trunc32_sx x _ w hi]
      simp

theorem bfiOf_eq_bits (x y base : Word) : bfiOf x y base = bits fun i =>
    if fieldOff y ≤ i ∧ i < fieldOff y + fieldWidth y then x.getLsbD (i - fieldOff y) else base.getLsbD i := by
  rw [bfiOf, bfRange_eq]
  refine eq_bits fun i hi => ?_
  have hw : fieldOff y ≤ i → ((i < fieldOff y + fieldWidth y) ↔ i - fieldOff y < fieldWidth y) := by omega
  simp only [BitVec.getLsbD_or, BitVec.getLsbD_and, BitVec.getLsbD_not, BitVec.getLsbD_ofNat, hi, decide_true, Bool.true_and,
    Nat.testBit_mul_two_pow, Nat.testBit_two_pow_sub_one, Nat.testBit_mod_two_pow]
  by_cases hlow : fieldOff y ≤ i
  · by_cases hin : i - fieldOff y < fieldWidth y <;> simp [hlow, hw, hin, BitVec.getLsbD]
  · simp [hlow]

end Sys2Proof.Machine
end

section
/-! ### What vector, scalar and predicate writes leave to be read (R2, R9, R14, R108) -/

namespace Sys2Proof.Machine

open Sys2Proof.Slice0

/-! ### Vector registers -/

theorem Group.vget_vset (g : Group) (gd : Guard) {d : Nat} (f : Nat → Word) (n : Nat) {t : Nat} (hd : d < g.v.length) (ht : t < 96) :
    (g.vset gd d f).vget n t = if n = d ∧ g.on gd t = true then f t else g.vget n t := by
  unfold Group.vset Group.vget
  simp only [List.getElem?_modify]
  by_cases hn : n = d
  · subst hn
    simp only [if_true, List.getElem?_eq_getElem hd, Option.map_eq_map, Option.map_some, true_and]
    by_cases ho : g.on gd t = true <;> simp [ht, ho]
  · simp [hn, Ne.symm hn]

theorem Group.onlyV_vset (g : Group) (gd : Guard) (d : Nat) (f : Nat → Word) : g.OnlyV (g.vset gd d f) := ⟨rfl, List.length_modify ..⟩

/-- The mask and the guard do not depend on the vector registers. -/
theorem Group.on_vset (g : Group) (gd gd' : Guard) (d : Nat) (f : Nat → Word) (t : Nat) : (g.vset gd d f).on gd' t = g.on gd' t := by
  cases gd' <;> rfl

theorem Group.wroteV_vset (g : Group) (gd : Guard) {d : Nat} (f : Nat → Word) (hd : d < g.v.length) : wroteV g (g.vset gd d f) gd d f :=
  ⟨(g.onlyV_vset gd d f).rest, (g.onlyV_vset gd d f).length, fun n _ ht => g.vget_vset gd f n hd ht⟩

theorem Group.wrotePair_vsetPair (g : Group) (gd : Guard) {d : Nat} (f : Nat → DWord) (hd : d + 1 < g.v.length) :
    wrotePair g (g.vsetPair gd d f) gd d f := by
  have hlow := g.onlyV_vset gd d fun t => loWord (f t)
  have hall := hlow.trans ((g.vset gd d fun t => loWord (f t)).onlyV_vset gd (d + 1) fun t => hiWord (f t))
  refine ⟨hall.rest, hall.length, fun n t ht => ?_⟩
  rw [Group.vsetPair, Group.vget_vset _ _ _ _ (hlow.length.symm ▸ hd) ht, Group.on_vset, g.vget_vset _ _ _ (Nat.lt_of_succ_lt hd) ht,
    loWord_eq, hiWord_eq]
  by_cases hn : n = d
  · rw [if_neg (by omega)]
    simp [hn]
  · simp [hn]

theorem Group.lt_of_beyond {g : Group} {n : Nat} (h : g.beyond (.v n) = false) : n < g.v.length := by
  simpa [Group.beyond] using h

/-! ### Scalar registers -/

theorem Group.wroteS_sset (g : Group) (d : Reg) (x : Word) : wroteS g (g.sset d.val x) d.val x := by
  refine ⟨rfl, fun n => ?_⟩
  rw [g.sget_sset]
  simp [d.isLt]

/-! ### Predicate pairs -/

section
variable (g : Group) (e : Nat → Bool) (pair : Fin 6) (c : Nat → Bool)

theorem Group.pget_setPair_other {n : Nat} (t : Nat) (hlo : n ≠ 2 * pair.val) (hhi : n ≠ 2 * pair.val + 1) :
    (g.setPair e pair c).pget n t = g.pget n t := by
  simp [Group.pget, Group.setPair, pairLo, pairHi, Vector.getElem?_set_ne, hlo.symm, hhi.symm]

theorem Group.pget_setPair_lo {t : Nat} (ht : t < 96) :
    (g.setPair e pair c).pget (2 * pair.val) t =
      if g.isActive t = true then (if e t = true then c t else g.pget (2 * pair.val) t) else false := by
  have hp : 2 * pair.val < 12 := by omega
  simp [Group.pget, Group.setPair, pairLo, pairHi, hp, maskBit_maskOf _ ht]

theorem Group.pget_setPair_hi {t : Nat} (ht : t < 96) :
    (g.setPair e pair c).pget (2 * pair.val + 1) t =
      if g.isActive t = true then (if e t = true then !c t else g.pget (2 * pair.val + 1) t) else false := by
  have hp : 2 * pair.val + 1 < 12 := by omega
  simp [Group.pget, Group.setPair, pairLo, pairHi, hp, maskBit_maskOf _ ht]

end

/-! ### The words that do nothing else, once their registers pass the checks (R471) -/

theorem wroteV_of_vset {s : State} {g : Group} {qs : List PReg} {n : Nat} (hs : issues s g qs) {gd : Guard} {d : Nat} (hd : .v d ∈ qs)
    (f : Group → Nat → Word) {o : Out} (h : o = s.plain n qs fun g => g.vset gd d (f g)) :
    ∃ k : Group, o = .next (s.put (k.nextWord n)) ∧ wroteV g k gd d (f g) :=
  ⟨_, h.trans (State.plain_ok _ hs.1 (Group.issueFault_of_issues hs)), g.wroteV_vset gd (f g) (Group.lt_of_beyond (hs.2 _ hd).1)⟩

theorem wrotePair_of_vecPairWord {s : State} {g : Group} {gd : Guard} {d : Reg} {rs : List PReg}
    (hs : issues s g (vecRegs gd ++ vRegs d.val 2 ++ rs)) {f : Group → Nat → DWord} {o : Out} (h : o = s.vecPairWord gd d rs f) :
    ∃ k : Group, o = .next (s.put (k.nextWord 1)) ∧ wrotePair g k gd d.val (f g) :=
  ⟨_, h.trans (State.plain_ok _ hs.1 (Group.issueFault_of_issues hs)),
    g.wrotePair_vsetPair gd (f g) (Group.lt_of_beyond (hs.2 (.v (d.val + 1)) (by simp [vRegs])).1)⟩

end Sys2Proof.Machine
end

section
/-! ### Integer, move and scalar words (R98 to R110) -/

namespace Sys2Proof.Machine

open Sys2Proof.Slice0

/-- The function of the model that a 32-bit integer word applies to the operands of one thread. -/
def intFn (i : Instr) (g : Group) (t : Nat) : Word :=
  match i with
  | .movi _ _ imm => imm.signExtend 32
  | .mov _ _ b => g.bval b t
  | .iadd _ _ a b sat => iaddOf sat (g.vget a.val t) (g.bval b t)
  | .isub _ _ a b sat => isubOf sat (g.vget a.val t) (g.bval b t)
  | .iaddi _ _ a imm => g.vget a.val t + imm.signExtend 32
  | .imul _ _ a b => g.vget a.val t * g.bval b t
  | .imulh _ _ a b n => imulhOf n (g.vget a.val t) (g.bval b t)
  | .imad _ d a b => g.vget a.val t * g.bval b t + g.vget d.val t
  | .imin _ _ a b n => iminOf n (g.vget a.val t) (g.bval b t)
  | .imax _ _ a b n => imaxOf n (g.vget a.val t) (g.bval b t)
  | .iabs _ _ b sat => iabsOf sat (g.bval b t)
  | .and _ _ a b => g.vget a.val t &&& g.bval b t
  | .or _ _ a b => g.vget a.val t ||| g.bval b t
  | .xor _ _ a b => g.vget a.val t ^^^ g.bval b t
  | .andn _ _ a b => g.vget a.val t &&& ~~~g.bval b t
  | .shl _ _ a b => shlOf (g.vget a.val t) (g.bval b t)
  | .shr _ _ a b ar => shrAny ar (g.vget a.val t) (g.bval b t)
  | .rot _ _ a b r => rotAny r (g.vget a.val t) (g.bval b t)
  | .shifti _ _ a k n => shiftOf k (g.vget a.val t) (BitVec.ofNat 32 n.val)
  | .bfe _ _ a b sgn => bfeOf (g.vget a.val t) (g.bval b t) sgn
  | .bfi _ d a b => bfiOf (g.vget a.val t) (g.bval b t) (g.vget d.val t)
  | .popc _ _ b => BitVec.ofNat 32 (popCount (g.bval b t))
  | .clz _ _ b => BitVec.ofNat 32 (clzOf (g.bval b t))
  | .brev _ _ b => brevOf (g.bval b t)
  | .sel p _ a b => if maskBit g.p[p] t then g.vget a.val t else g.bval b t
  | _ => 0

/-- The value of each rule of R98, R101 and R103 to R109 is what the model's function gives: one lemma for each row of the table,
in its order. -/
theorem intFn_of_intValue {i : Instr} {gd : Guard} {d : Reg} {rs : List PReg} {f : Group → Nat → Word}
    (h : intValue i = some (gd, d, rs, f)) (g : Group) (t : Nat) : intFn i g t = f g t := by
  unfold intValue at h
  split at h <;> cases h
  exacts [rfl, rfl, add_eq_ofInt _ _, rfl, sub_eq_ofInt _ _, rfl, add_signExtend_eq_ofInt _ _ (by omega),
    mul_eq_ofInt _ _, imulhOf_signed _ _, imulhOf_unsigned _ _, mul_add_eq_ofInt _ _ _,
    iminOf_signed _ _, iminOf_unsigned _ _, imaxOf_signed _ _, imaxOf_unsigned _ _, iabsOf_wrap _, iabsOf_sat _,
    and_eq_bits _ _, or_eq_bits _ _, xor_eq_bits _ _, andn_eq_bits _ _,
    shlOf_eq _ _, shrOf_eq _ _, sarOf_eq _ _, rotlOf_eq _ _, rotrOf_eq _ _,
    shlOf_const _ _, shrOf_const _ _, sarOf_const _ _, rotlOf_const _ _, bfeOf_eq_bits _ _ _, bfiOf_eq_bits _ _ _,
    congrArg (BitVec.ofNat 32) (popCount_eq _), congrArg (BitVec.ofNat 32) (clzOf_eq _), brevOf_eq_bits _,
    congrArg (fun b => if b = true then _ else _) (g.pget_val _ t).symm]

/-- Each of these words writes that function's value into v(d); SEL's guard field is an operand (R109). -/
theorem exec_of_intValue {i : Instr} {gd : Guard} {d : Reg} {rs : List PReg} {f : Group → Nat → Word}
    (h : intValue i = some (gd, d, rs, f)) :
    ∃ qs, (∀ s, exec i s = s.plain 1 qs fun g => g.vset gd d.val (intFn i g)) ∧ .v d.val ∈ qs ∧ qs ⊆ vecRegs gd ++ .v d.val :: rs := by
  unfold intValue at h
  split at h
  case h_37 => cases h
  case h_36 =>
    cases h
    exact ⟨_, fun _ => rfl, by simp, by simp [vecRegs, guardRegs, maskRegs, List.subset_def]⟩
  all_goals
    cases h
    exact ⟨_, fun _ => rfl, by simp, List.Subset.refl _⟩

theorem vecPairWord_congr (s : State) (gd : Guard) (d : Reg) (rs : List PReg) {f f' : Group → Nat → DWord} (h : ∀ g t, f g t = f' g t) :
    s.vecPairWord gd d rs f = s.vecPairWord gd d rs f' :=
  congrArg (s.vecPairWord gd d rs) (funext₂ h)

/-- IADD64's b operand is one register without `.w`. -/
theorem exec_iadd64_narrow (gd : Guard) (d a : Reg) (b : BOp) (s : State) : exec (.iadd64 gd d a b false) s =
    s.vecPairWord gd d (vRegs a.val 2 ++ [bReg b]) fun g t => g.vpair a.val t + (g.bval b t).signExtend 64 := by
  rw [← bRegs_one]
  rfl

theorem exec_of_pairValue {i : Instr} {gd : Guard} {d : Reg} {rs : List PReg} {f : Group → Nat → DWord}
    (h : pairValue i = some (gd, d, rs, f)) (s : State) : exec i s = s.vecPairWord gd d rs f := by
  unfold pairValue at h
  split at h <;> cases h
  exacts [vecPairWord_congr _ _ _ _ fun _ _ => imadwOf_signed _ _ _, rfl,
    (exec_iadd64_narrow _ _ _ _ s).trans (vecPairWord_congr _ _ _ _ fun _ _ => add_signExtend_eq_ofInt _ _ (by omega)),
    vecPairWord_congr _ _ _ _ fun _ _ => add_eq_ofInt _ _]

theorem plain_sset_congr (s : State) (n : Nat) (rs : List PReg) (d : Nat) {f f' : Group → Word} (h : ∀ g, f g = f' g) :
    (s.plain n rs fun g => g.sset d (f g)) = s.plain n rs fun g => g.sset d (f' g) :=
  congrArg (s.plain n rs) (funext fun g => congrArg (g.sset d) (h g))

theorem exec_of_scalarValue {i : Instr} {d : Reg} {rs : List PReg} {n : Nat} {f : Group → Word}
    (h : scalarValue i = some (d, rs, n, f)) (s : State) : exec i s = s.plain n (.s d.val :: rs) fun g => g.sset d.val (f g) := by
  unfold scalarValue at h
  split at h <;> cases h
  exacts [rfl, rfl, plain_sset_congr _ _ _ _ fun _ => add_eq_ofInt _ _, plain_sset_congr _ _ _ _ fun _ => sub_eq_ofInt _ _,
    plain_sset_congr _ _ _ _ fun _ => mul_eq_ofNat _ _, plain_sset_congr _ _ _ _ fun _ => and_eq_bits _ _,
    plain_sset_congr _ _ _ _ fun _ => or_eq_bits _ _, plain_sset_congr _ _ _ _ fun _ => xor_eq_bits _ _,
    plain_sset_congr _ _ _ _ fun _ => shlOf_eq _ _, plain_sset_congr _ _ _ _ fun _ => shrOf_eq _ _, plain_sset_congr _ _ _ _ fun _ => sarOf_eq _ _, rfl]

section
variable {s : State} {g : Group} (hg : s.cur = some g) (gd : Guard) (d a : Reg) (k : Fin 64)
include hg

/-- MOVX and MOVY with their computed index (R99). -/
theorem exec_movx : exec (.movx gd d a k) s =
    s.plain 1 (movRegs gd d a (g.movIndex a k)) fun h => h.vset gd d.val (h.vget (h.movIndex a k)) := by
  show execMovx gd d a k s = _
  rw [execMovx, hg]

theorem exec_movy : exec (.movy gd d a k) s =
    s.plain 1 (movRegs gd d a (g.movIndex a k)) fun h => h.vset gd (h.movIndex a k) (h.vget d.val) := by
  show execMovy gd d a k s = _
  rw [execMovy, hg]

end

end Sys2Proof.Machine

namespace Sys2Proof.Proofs

open Sys2Proof.Machine Sys2Proof.Slice0

theorem integerValueWords : IntegerValueWords := by
  intro i gd d rs f s g hi hs
  obtain ⟨qs, he, hd, hq⟩ := exec_of_intValue hi
  obtain ⟨h, hx, hw⟩ := wroteV_of_vset ⟨hs.1, fun r hr => hs.2 r (hq hr)⟩ hd (intFn i) (he s)
  exact ⟨h, hx, funext (intFn_of_intValue hi g) ▸ hw⟩

theorem pairWordsWriteTheirValue : PairWordsWriteTheirValue := fun _ _ _ _ _ s _ hi hs =>
  wrotePair_of_vecPairWord hs (exec_of_pairValue hi s)

theorem scalarWordsWriteTheirValue : ScalarWordsWriteTheirValue := fun _ d _ _ f s g hi hs =>
  ⟨_, (exec_of_scalarValue hi s).trans (State.plain_ok _ hs.1 (Group.issueFault_of_issues hs)), g.wroteS_sset d (f g)⟩

theorem movesWriteTheirRegister : MovesWriteTheirRegister := by
  intro gd d a k l lit s g
  refine ⟨fun hs => State.plain_ok _ hs.1 (Group.issueFault_of_issues hs), fun hs => wroteV_of_vset hs (by simp) (fun _ _ => lit) rfl,
    fun hs => wroteV_of_vset hs (by simp) (fun h => h.vget (h.movIndex a k)) (exec_movx hs.1 gd d a k), fun hs => ?_, fun hs => ?_⟩
  · exact ⟨_, (exec_movy hs.1 gd d a k).trans (State.plain_ok _ hs.1 (Group.issueFault_of_issues hs)),
      g.wroteV_vset gd _ (Group.lt_of_beyond (hs.2 (.v ((g.sget a.val).toNat + k.val)) (by simp)).1)⟩
  · exact ⟨_, State.plain_ok _ hs.1 (Group.issueFault_of_issues hs), rfl,
      fun n _ ht => g.vget_vput _ n (Group.lt_of_beyond (hs.2 _ (by simp)).1) ht⟩

/-- Settles O1. -/
theorem integerWordsWriteTheirValue : Obligations.IntegerWordsWriteTheirValue :=
  ⟨integerValueWords, pairWordsWriteTheirValue, movesWriteTheirRegister, scalarWordsWriteTheirValue⟩

end Sys2Proof.Proofs
end

section
/-! ### Compares and their predicate pairs (R80, R108, R118) -/

namespace Sys2Proof.Machine

open Sys2Proof.Slice0

theorem intCond_iff (c : Cond) (x y : Int) : intCond c x y = true ↔ holds c x y := by
  cases c <;> simp [intCond, holds]

theorem decodeF_ne_nan {F : Fmt} {x : Nat} (h : F.isNan x = false) : decodeF F x ≠ .nan := by
  simp only [decodeF, h, Bool.false_eq_true, if_false]
  split
  · exact nofun
  · split <;> exact nofun

theorem xeq_eq {F : Fmt} {x y : Nat} (hx : F.isNan x = false) (hy : F.isNan y = false) :
    xeq (decodeF F x) (decodeF F y) = (!xlt (decodeF F x) (decodeF F y) && !xlt (decodeF F y) (decodeF F x)) := by
  simp [xeq, decodeF_ne_nan hx, decodeF_ne_nan hy]

/-- A NaN operand decides the condition; without one the order of the values does (R118). -/
theorem fpCond_iff (F : Fmt) (c : Cond) (x y : Nat) : fpCond F c x y = true ↔ floatHolds F c x y := by
  by_cases hun : F.isNan x = true ∨ F.isNan y = true
  · have h : (F.isNan x || F.isNan y) = true := by simpa using hun
    cases c <;> simp [fpCond, floatHolds, h, hun]
  · have h : (F.isNan x || F.isNan y) = false := by simpa using hun
    have hxy := Bool.or_eq_false_iff.1 h
    cases c <;> simp [fpCond, floatHolds, h, hun, xeq_eq hxy.1 hxy.2]

/-- Of the flags, NV alone is raised: bit 4 (R37). -/
theorem getLsbD_fpCmpFlags (F : Fmt) (sig : Bool) (x y k : Nat) : (fpCmpFlags F sig x y).getLsbD k =
    (decide (k = 4) && (F.isSnan x || F.isSnan y || (sig && (F.isNan x || F.isNan y)))) := by
  unfold fpCmpFlags
  cases F.isSnan x || F.isSnan y || (sig && (F.isNan x || F.isNan y))
  · simp
  · rw [if_pos rfl, Bool.and_true, show fNV = BitVec.twoPow 5 4 from rfl, BitVec.getLsbD_twoPow]
    simp [eq_comm]

theorem Group.getLsbD_raiseFlags (g : Group) (fl : Flags) (k : Nat) :
    (g.raiseFlags fl).fpsr.getLsbD k = (g.fpsr.getLsbD k || fl.getLsbD k) := by
  rw [g.raiseFlags_fpsr, BitVec.getLsbD_or, BitVec.ofNat_toNat, BitVec.getLsbD_setWidth]
  by_cases hk : k < 32
  · simp [hk]
  · simp [hk, BitVec.getLsbD_of_ge fl k (by omega)]

/-- ICMP, ICMPN and SCMP evaluate, among the active threads, those of the table. -/
theorem exec_of_intCompare {i : Instr} {pair : Fin 6} {c : Cond} {rs : List PReg} {e : Group → Nat → Bool}
    {xy : Group → Nat → Int × Int} (h : intCompare i = some (pair, c, rs, e, xy)) :
    ∃ (qs : List PReg) (ev : Group → Nat → Bool),
      (∀ s, exec i s = s.plain 1 qs fun g => g.setPair (ev g) pair fun t => intCond c (xy g t).1 (xy g t).2) ∧
      qs ⊆ maskRegs ++ pairRegs pair ++ rs ∧ ∀ g t, g.isActive t = true → ev g t = e g t := by
  have hon : ∀ (gd : Guard) (g : Group) (t : Nat), g.isActive t = true → g.on gd t = g.guardBit gd t := fun gd g t ha => by
    rw [Group.on, ← Group.isActive, ha, Bool.true_and]
  unfold intCompare at h
  split at h <;> cases h
  case h_1 | h_3 => exact ⟨_, fun g => g.on _, fun _ => rfl, compareRegs_subset_one _ _ _ _, hon _⟩
  case h_2 | h_4 => exact ⟨_, fun g => g.on _, fun _ => rfl, compareRegs_subset _ _ _ _, hon _⟩
  case h_5 | h_6 => exact ⟨_, fun _ _ => true, fun _ => rfl, List.Subset.refl _, fun _ _ _ => rfl⟩

theorem exec_of_floatCompare {i : Instr} {F : Fmt} {sig : Bool} {gd : Guard} {pair : Fin 6} {c : Cond} {rs : List PReg}
    {xy : Group → Nat → Nat × Nat} (h : floatCompare i = some (F, sig, gd, pair, c, rs, xy)) (s : State) :
    exec i s = s.fcmpWord F sig gd pair c rs (fun g t => (xy g t).1) fun g t => (xy g t).2 := by
  unfold floatCompare at h
  split at h <;> cases h <;> rfl

/-- What a compare writes into its pair for one thread, for a condition `P` that `c` decides (R108). -/
theorem Group.setPair_thread (g : Group) (e : Nat → Bool) (pair : Fin 6) {c : Nat → Bool} {P : Nat → Prop} {t : Nat} (ht : t < 96)
    (hc : ∀ t, c t = true ↔ P t) : let h := g.setPair e pair c
    (g.isActive t = false → h.pget (2 * pair.val) t = false ∧ h.pget (2 * pair.val + 1) t = false) ∧
    (g.isActive t = true → e t = true → (h.pget (2 * pair.val) t = true ↔ P t) ∧ (h.pget (2 * pair.val + 1) t = true ↔ ¬ P t)) ∧
    (g.isActive t = true → e t = false → h.pget (2 * pair.val) t = g.pget (2 * pair.val) t ∧
      h.pget (2 * pair.val + 1) t = g.pget (2 * pair.val + 1) t) := by
  dsimp only
  rw [g.pget_setPair_lo e pair c ht, g.pget_setPair_hi e pair c ht]
  refine ⟨fun ha => by simp [ha], fun ha he => ?_, fun ha he => by simp [ha, he]⟩
  simp [ha, he, ← hc]

end Sys2Proof.Machine

namespace Sys2Proof.Proofs

open Sys2Proof.Machine Sys2Proof.Slice0

theorem integerComparesWritePredicatePair : IntegerComparesWritePredicatePair := by
  intro i pair c rs e xy s g hi hs
  obtain ⟨qs, ev, he, hq, hev⟩ := exec_of_intCompare hi
  refine ⟨_, (he s).trans (State.plain_ok _ hs.1 (Group.issueFault_none.2 ⟨by simp, fun r hr => hs.2 r (hq hr)⟩)), rfl,
    fun n t _ => g.pget_setPair_other _ _ _ t, fun t ht => ?_⟩
  obtain ⟨hout, hin, hkeep⟩ := g.setPair_thread (ev g) pair ht fun t => intCond_iff c (xy g t).1 (xy g t).2
  exact ⟨hout, fun ha hx => hin ha ((hev g t ha).trans hx), fun ha hx => hkeep ha ((hev g t ha).trans hx)⟩

theorem floatComparesWritePredicatePair : FloatComparesWritePredicatePair := by
  intro i F sig gd pair c rs xy s g hi hs
  refine ⟨g.setPair (g.on gd) pair fun t => fpCond F c (xy g t).1 (xy g t).2, _,
    (exec_of_floatCompare hi s).trans (State.plain_ok _ hs.1 (Group.issueFault_of_issues hs)), rfl, rfl,
    fun n t _ => g.pget_setPair_other _ _ _ t, fun t ht => ?_, fun b => ?_⟩
  · obtain ⟨hout, hin, hkeep⟩ := g.setPair_thread (g.on gd) pair ht fun t => fpCond_iff F c (xy g t).1 (xy g t).2
    exact ⟨hout, fun ho => hin (Bool.and_eq_true_iff.1 ho).1 ho, hkeep⟩
  · rw [Group.getLsbD_raiseFlags, Group.getLsbD_allFlags]
    simp only [getLsbD_fpCmpFlags]
    by_cases hb : b = 4 <;> simp [hb]

/-- Settles O2. -/
theorem comparesWritePredicatePairs : Obligations.ComparesWritePredicatePairs :=
  ⟨integerComparesWritePredicatePair, floatComparesWritePredicatePair⟩

end Sys2Proof.Proofs
end

section
/-! ### ALU opcodes as spatial operators (R111, R118, R126, R222) -/

namespace Sys2Proof.Machine

open Sys2Proof.Slice0

theorem loWord_vpair (g : Group) (n t : Nat) : loWord (g.vpair n t) = g.vget n t := by
  rw [loWord, BitVec.ofNat_toNat]
  exact BitVec.setWidth_append_eq_right

/-! ### Floating values as the rules give them (R116, R117, R122, R123) -/

theorem fpAdd_eq (F : Fmt) (rm : Rm) (x y : Nat) : fpAdd F rm x y = addElem F rm x y := rfl

theorem fpSub_eq (F : Fmt) (rm : Rm) (x y : Nat) : fpSub F rm x y = subElem F rm x y := rfl

theorem fpMul_eq (F : Fmt) (rm : Rm) (x y : Nat) : fpMul F rm x y = mulElem F rm x y := rfl

theorem two_eq_pack16 (f : Nat → Nat × Flags) : two f = pack16 (f 0) (f 1) := by
  rw [two, pack16, Nat.mul_comm]

theorem minMaxOp_eq (F : Fmt) (isMax nan : Bool) (rm : Rm) (x y : Nat) : minMaxOp F isMax nan rm x y = minMaxElem F isMax nan x y := by
  simp only [minMaxOp, fpMinMax, minMaxElem]
  cases F.isNan x <;> cases F.isNan y <;> rfl

/-- A conversion to an integer, as R56 lists its cases. -/
theorem fpToInt_eq (F : Fmt) (rm : Rm) (lo hi : Int) (x : Nat) :
    (trunc32 (fpToInt F rm lo hi x).1, (fpToInt F rm lo hi x).2) = toIntElem F rm lo hi x := by
  have hif : ∀ (p : Prop) [Decidable p] (a b : Int × Flags), (trunc32 (if p then a else b).1, (if p then a else b).2) =
      if p then (trunc32 a.1, a.2) else (trunc32 b.1, b.2) := fun p _ a b => by split <;> rfl
  unfold fpToInt toIntElem
  cases decodeF F x with
  | nan | zero | inf => rfl
  | fin m e =>
    simp only [decide_eq_true_eq, hif]
    rfl

/-- An element of a conversion between floating formats. -/
theorem fpCvt_eq (F G : Fmt) (rm : Rm) (x : Nat) : fpCvt F G rm x = cvtElem F G rm x := rfl

theorem cvtpOf_eq (G : Fmt) (hi : Bool) (d a : Reg) (b : BOp) (g : Group) (t : Nat) :
    cvtpOf G g.rm hi (g.vget a.val t) (g.bval b t) (g.vget d.val t) = packFp8 G hi d a b g t := by
  have hhigh : ∀ x y : Nat, (x + y * 256) * 65536 = 2 ^ 16 * x + 2 ^ 24 * y := by omega
  have hlow : ∀ x y : Nat, x + y * 256 = x + 2 ^ 8 * y := by omega
  simp only [cvtpOf, packFp8, replaced, fpCvt_eq, hhigh]
  simp only [hlow, ← Nat.add_assoc]
  rfl

/-! ### One thread's value of each opcode -/

theorem vBool_cases (b : Bool) : vBool b = 0 ∨ vBool b = 1 := by cases b <;> simp [vBool]

theorem vBool_eq_one (b : Bool) : vBool b = 1 ↔ b = true := by cases b <;> simp [vBool]

theorem wide32_one {r : Nat × Flags} (h : r.1 < 2 ^ 32) : wide32 (one r) = (BitVec.ofNat 64 r.1, r.2) := by
  refine Prod.ext (BitVec.eq_of_toNat_eq ?_) rfl
  simp only [wide32, one, BitVec.truncate_eq_setWidth, BitVec.toNat_setWidth, BitVec.toNat_ofNat, Nat.mod_eq_of_lt h]

/-- Each of the 256 codes of an 8-bit format is an FP32 code of 32 bits. -/
theorem cvtElem_fp8_lt : ∀ x, x < 256 →
    (cvtElem .e4m3 .f32 .rne x).1 < 2 ^ 32 ∧ (cvtElem .e5m2 .f32 .rne x).1 < 2 ^ 32 := by
  decide +kernel

section
variable {op op' : Bin} (h : ∀ rm x y, op rm x y = op' rm x y) (g : Group) (t : Nat)
include h

theorem fpBin_f32 : fpBin op .f32 g.rm (g.vpair 0 t) (g.vpair 2 t) = wide32 (on32 op' 0 (.v 2) g t) := by
  simp only [fpBin, loWord_vpair, h]
  rfl

theorem fpBin_f64 : fpBin op .f64 g.rm (g.vpair 0 t) (g.vpair 2 t) = on64 op' 0 (.v 2) g t := by
  simp only [fpBin, h]
  rfl

theorem fpBin_f16 : fpBin op .f16 g.rm (g.vpair 0 t) (g.vpair 2 t) = wide32 (on16 op' 0 (.v 2) g t) := by
  simp only [fpBin, loWord_vpair, two_eq_pack16, h]
  rfl

theorem fpBin_bf16 : fpBin op .bf16 g.rm (g.vpair 0 t) (g.vpair 2 t) = wide32 (on16 op' 0 (.v 2) g t) :=
  fpBin_f16 h g t

end

section
variable (neg : Bool) (g : Group) (t : Nat)

theorem fpFma_fma32 : one (fpFma .f32 g.rm neg (loWord (g.vpair 0 t)).toNat (loWord (g.vpair 2 t)).toNat
    (loWord (g.vpair 4 t)).toNat) = fma32 neg 4 0 (.v 2) g t := by
  simp only [loWord_vpair]
  rfl

theorem fpFma_fma16 (F : Fmt) : (two fun e => fpFma F g.rm neg (half (loWord (g.vpair 0 t)) e) (half (loWord (g.vpair 2 t)) e)
    (half (loWord (g.vpair 4 t)) e)) = fma16 F neg 4 0 (.v 2) g t := by
  simp only [loWord_vpair, two_eq_pack16]
  rfl

end

section
variable {op : Nat} {c : LaneCfg} {g : Group} {t : Nat} {i : Instr} (h : threadWord op c.f (condOf c.cond) = some i)
  (hc : c.constant = g.vpair 4 t)
include h

/-! Each proof runs through the rows of `threadWord`; those whose word another table covers contradict `hi`. -/

theorem aluValue_of_intCompare {n : Fin 6} {k : Cond} {rs : List PReg} {on : Group → Nat → Bool} {x : Group → Nat → Int × Int}
    (hi : intCompare i = some (n, k, rs, on, x)) :
    aluValue op c g.rm (g.vpair 0 t) (g.vpair 2 t) = (vBool (intCond k (x g t).1 (x g t).2), 0) := by
  simp only [aluValue, loWord_vpair]
  generalize c.f = f at *
  unfold threadWord at h
  split at h <;> cases h
  all_goals cases f <;> cases hi
  all_goals rfl

/-- With MODE.f the 32-bit and 64-bit compares signal, and the 16-bit ones take element 1. -/
theorem aluValue_of_floatCompare {F : Fmt} {sig : Bool} {gd : Guard} {n : Fin 6} {k : Cond} {rs : List PReg}
    {x : Group → Nat → Nat × Nat} (hi : floatCompare i = some (F, sig, gd, n, k, rs, x)) :
    aluValue op c g.rm (g.vpair 0 t) (g.vpair 2 t) = (vBool (fpCond F k (x g t).1 (x g t).2), fpCmpFlags F sig (x g t).1 (x g t).2) := by
  simp only [aluValue, floatOp, cmpVal, loWord_vpair]
  generalize c.f = f at *
  unfold threadWord at h
  split at h <;> cases h
  all_goals cases f <;> cases hi
  all_goals rfl

theorem aluValue_of_convertPair {gd : Guard} {d : Reg} {rs : List PReg} {x : Group → Nat → DWord × Flags}
    (hi : convertPair i = some (gd, d, rs, x)) : aluValue op c g.rm (g.vpair 0 t) (g.vpair 2 t) = x g t := by
  simp only [aluValue, floatOp, cvtOp, loWord_vpair]
  unfold threadWord at h
  split at h <;> cases h <;> cases hi
  all_goals rfl

include hc

/-- The operator applies the function of its word, `intFn`, to the thread's operands. -/
theorem aluValue_of_intValue {gd : Guard} {d : Reg} {rs : List PReg} {x : Group → Nat → Word} (hi : intValue i = some (gd, d, rs, x)) :
    aluValue op c g.rm (g.vpair 0 t) (g.vpair 2 t) = ((x g t).zeroExtend 64, 0) := by
  have hs : (intValue i).isSome = true := hi ▸ rfl
  rw [← intFn_of_intValue hi]
  simp only [aluValue, hc, loWord_vpair]
  clear hi hc
  generalize c.f = f at *
  unfold threadWord at h
  split at h <;> cases h
  all_goals cases f <;> cases hs
  all_goals rfl

/-- The words of R116 and R117 with a 32-bit result: FADD, FSUB, FMUL, FFMA, FMIN and FMAX of .f32, .h2 and .bh2, in that order. -/
theorem aluValue_of_floatValue {gd : Guard} {d : Reg} {rs : List PReg} {x : Group → Nat → Word × Flags}
    (hi : floatValue i = some (gd, d, rs, x)) : aluValue op c g.rm (g.vpair 0 t) (g.vpair 2 t) = wide32 (x g t) := by
  rw [aluValue, hc]
  unfold threadWord at h
  split at h <;> cases h <;> cases hi
  exacts [fpBin_f32 (fpAdd_eq _) g t, fpBin_f16 (fpAdd_eq _) g t, fpBin_bf16 (fpAdd_eq _) g t,
    fpBin_f32 (fpSub_eq _) g t, fpBin_f16 (fpSub_eq _) g t, fpBin_bf16 (fpSub_eq _) g t,
    fpBin_f32 (fpMul_eq _) g t, fpBin_f16 (fpMul_eq _) g t, fpBin_bf16 (fpMul_eq _) g t,
    congrArg wide32 (fpFma_fma32 _ g t), congrArg wide32 (fpFma_fma16 _ g t _), congrArg wide32 (fpFma_fma16 _ g t _),
    fpBin_f32 (minMaxOp_eq _ _ _) g t, fpBin_f16 (minMaxOp_eq _ _ _) g t, fpBin_bf16 (minMaxOp_eq _ _ _) g t,
    fpBin_f32 (minMaxOp_eq _ _ _) g t, fpBin_f16 (minMaxOp_eq _ _ _) g t, fpBin_bf16 (minMaxOp_eq _ _ _) g t]

/-- The .f64 words of R116 and R117. -/
theorem aluValue_of_floatPair {gd : Guard} {d : Reg} {rs : List PReg} {x : Group → Nat → DWord × Flags}
    (hi : floatPair i = some (gd, d, rs, x)) : aluValue op c g.rm (g.vpair 0 t) (g.vpair 2 t) = x g t := by
  rw [aluValue, hc]
  unfold threadWord at h
  split at h <;> cases h <;> cases hi
  exacts [fpBin_f64 (fpAdd_eq _) g t, fpBin_f64 (fpSub_eq _) g t, fpBin_f64 (fpMul_eq _) g t, rfl, fpBin_f64 (minMaxOp_eq _ _ _) g t,
    fpBin_f64 (minMaxOp_eq _ _ _) g t]

/-- The words of R122 and R123 with a 32-bit result, in the table's order. -/
theorem aluValue_of_convertValue {gd : Guard} {d : Reg} {rs : List PReg} {x : Group → Nat → Word × Flags}
    (hi : convertValue i = some (gd, d, rs, x)) : aluValue op c g.rm (g.vpair 0 t) (g.vpair 2 t) = wide32 (x g t) := by
  simp only [aluValue, hc, floatOp, cvtOp, loWord_vpair]
  unfold threadWord at h
  split at h <;> cases h <;> cases hi
  exacts [rfl, rfl, congrArg wide32 (two_eq_pack16 _), rfl, congrArg wide32 (two_eq_pack16 _), rfl, rfl,
    congrArg wide32 (fpToInt_eq _ _ _ _ _), congrArg wide32 (fpToInt_eq _ _ _ _ _), congrArg wide32 (fpToInt_eq _ _ _ _ _),
    congrArg wide32 (cvtpOf_eq _ _ 4 0 (.v 2) g t), congrArg wide32 (cvtpOf_eq _ _ 4 0 (.v 2) g t)]

end

end Sys2Proof.Machine

namespace Sys2Proof.Proofs

open Sys2Proof.Machine Sys2Proof.Slice0

/-- Settles O42: an opcode and its thread's word apply the same function of the model, whose value each table gives. -/
theorem operatorsComputeTheirThreadValue : Obligations.OperatorsComputeTheirThreadValue := by
  intro op c g t hc
  refine ⟨fun i gd d rs x h hi => aluValue_of_intValue h hc hi,
    fun i gd d rs x h hi => hi.elim (aluValue_of_floatValue h hc) (aluValue_of_convertValue h hc),
    fun i gd d rs x h hi => hi.elim (aluValue_of_floatPair h hc) (aluValue_of_convertPair h),
    fun i n k rs on x h hi => ?_, fun i F sig gd n k rs x h hi => ?_, fun hop => ?_⟩
  · rw [aluValue_of_intCompare h hi]
    exact ⟨rfl, vBool_cases _, (vBool_eq_one _).trans (intCond_iff _ _ _)⟩
  · rw [aluValue_of_floatCompare h hi]
    exact ⟨vBool_cases _, (vBool_eq_one _).trans (fpCond_iff _ _ _ _), rfl⟩
  · rw [← loWord_vpair]
    rcases hop with rfl | rfl
    · exact wide32_one (cvtElem_fp8_lt _ (Nat.mod_lt _ (by decide))).1
    · exact wide32_one (cvtElem_fp8_lt _ (Nat.mod_lt _ (by decide))).2

end Sys2Proof.Proofs
end

section
/-! ### Floating-point words and conversions (R38, R48, R56, R60, R116, R117, R122 to R124) -/

namespace Sys2Proof.Machine

open Sys2Proof.Slice0

/-! ### What a word that raises flags leaves -/

theorem Group.on_vsetPair (g : Group) (gd gd' : Guard) (d : Nat) (f : Nat → DWord) (t : Nat) : (g.vsetPair gd d f).on gd' t = g.on gd' t := by
  rw [Group.vsetPair, Group.on_vset, Group.on_vset]

/-- The flags of the threads that `g` enables, raised in a group that enables the same. -/
theorem Group.raised_raiseFlags (g h : Group) (gd : Guard) (fl : Nat → Flags) (hon : ∀ t, h.on gd t = g.on gd t) :
    raised h (h.raiseFlags (g.allFlags gd fl)) gd fl :=
  ⟨rfl, fun k => by simp only [Group.getLsbD_raiseFlags, Group.getLsbD_allFlags, hon]⟩

theorem wroteV_raised_of_fpWord {s : State} {g : Group} {gd : Guard} {d : Reg} {rs : List PReg}
    (hs : issues s g (vecRegs gd ++ .v d.val :: rs)) {f : Group → Nat → Word × Flags} {o : Out} (h : o = s.fpWord gd d rs f) :
    ∃ h k : Group, o = .next (s.put (k.nextWord 1)) ∧ wroteV g h gd d.val (fun t => (f g t).1) ∧ raised h k gd fun t => (f g t).2 :=
  ⟨_, _, h.trans (State.plain_ok _ hs.1 (Group.issueFault_of_issues hs)),
    g.wroteV_vset gd _ (Group.lt_of_beyond (hs.2 (.v d.val) (by simp)).1), g.raised_raiseFlags _ gd _ (g.on_vset gd gd d.val _)⟩

theorem wrotePair_raised_of_fpPairWord {s : State} {g : Group} {gd : Guard} {d : Reg} {rs : List PReg}
    (hs : issues s g (vecRegs gd ++ vRegs d.val 2 ++ rs)) {f : Group → Nat → DWord × Flags} {o : Out} (h : o = s.fpPairWord gd d rs f) :
    ∃ h k : Group, o = .next (s.put (k.nextWord 1)) ∧ wrotePair g h gd d.val (fun t => (f g t).1) ∧ raised h k gd fun t => (f g t).2 :=
  ⟨_, _, h.trans (State.plain_ok _ hs.1 (Group.issueFault_of_issues hs)),
    g.wrotePair_vsetPair gd _ (Group.lt_of_beyond (hs.2 (.v (d.val + 1)) (by simp [vRegs])).1),
    g.raised_raiseFlags _ gd _ (g.on_vsetPair gd gd d.val _)⟩

/-! ### Each form computes the value of its table -/

section
variable (s : State) (gd : Guard) (d a : Reg) (b : BOp)

theorem fpWord_congr (rs : List PReg) {f f' : Group → Nat → Word × Flags} (h : ∀ g t, f g t = f' g t) :
    s.fpWord gd d rs f = s.fpWord gd d rs f' :=
  congrArg (s.fpWord gd d rs) (funext₂ h)

theorem fpPairWord_congr (rs : List PReg) {f f' : Group → Nat → DWord × Flags} (h : ∀ g t, f g t = f' g t) :
    s.fpPairWord gd d rs f = s.fpPairWord gd d rs f' :=
  congrArg (s.fpPairWord gd d rs) (funext₂ h)

theorem fmaH2_eq (F : Fmt) (neg : Bool) : s.fmaH2 F gd d a b neg = s.fpWord gd d [.v a.val, bReg b] (fma16 F neg d a b) :=
  fpWord_congr _ _ _ _ fun _ _ => two_eq_pack16 _

theorem cvtuOf_eq (G : Fmt) (hi : Bool) (g : Group) (t : Nat) : cvtuOf G hi (g.bval b t) = unpackFp8 G hi b g t := by
  simp only [cvtuOf, unpackFp8, Nat.mul_comm _ 4294967296]
  rfl

section
variable {op op' : Bin} (h : ∀ rm x y, op rm x y = op' rm x y)
include h

theorem fp32_eq : s.fp32 gd d a b op = s.fpWord gd d [.v a.val, bReg b] (on32 op' a b) :=
  fpWord_congr _ _ _ _ fun _ _ => congrArg one (h _ _ _)

theorem fp64_eq : s.fp64 gd d a b op = s.fpPairWord gd d (vRegs a.val 2 ++ bRegs 2 b) (on64 op' a b) :=
  fpPairWord_congr _ _ _ _ fun _ _ => congrArg one64 (h _ _ _)

theorem fpH2_eq : s.fpH2 gd d a b op = s.fpWord gd d [.v a.val, bReg b] (on16 op' a b) :=
  fpWord_congr _ _ _ _ fun _ _ => (two_eq_pack16 _).trans (congrArg₂ pack16 (h _ _ _) (h _ _ _))

end

end

/-- The words of R116 and R117 with a 32-bit result: FADD, FSUB, FMUL, FFMA, FMIN and FMAX of .f32, .h2 and .bh2, in that order. -/
theorem exec_of_floatValue {i : Instr} {gd : Guard} {d : Reg} {rs : List PReg} {f : Group → Nat → Word × Flags}
    (h : floatValue i = some (gd, d, rs, f)) (s : State) : exec i s = s.fpWord gd d rs f := by
  unfold floatValue at h
  split at h <;> cases h
  exacts [fp32_eq _ _ _ _ _ (fpAdd_eq _), fpH2_eq _ _ _ _ _ (fpAdd_eq _), fpH2_eq _ _ _ _ _ (fpAdd_eq _),
    fp32_eq _ _ _ _ _ (fpSub_eq _), fpH2_eq _ _ _ _ _ (fpSub_eq _), fpH2_eq _ _ _ _ _ (fpSub_eq _),
    fp32_eq _ _ _ _ _ (fpMul_eq _), fpH2_eq _ _ _ _ _ (fpMul_eq _), fpH2_eq _ _ _ _ _ (fpMul_eq _),
    rfl, fmaH2_eq _ _ _ _ _ _ _, fmaH2_eq _ _ _ _ _ _ _,
    fp32_eq _ _ _ _ _ (minMaxOp_eq _ _ _), fpH2_eq _ _ _ _ _ (minMaxOp_eq _ _ _), fpH2_eq _ _ _ _ _ (minMaxOp_eq _ _ _),
    fp32_eq _ _ _ _ _ (minMaxOp_eq _ _ _), fpH2_eq _ _ _ _ _ (minMaxOp_eq _ _ _), fpH2_eq _ _ _ _ _ (minMaxOp_eq _ _ _)]

/-- The .f64 words of R116 and R117. -/
theorem exec_of_floatPair {i : Instr} {gd : Guard} {d : Reg} {rs : List PReg} {f : Group → Nat → DWord × Flags}
    (h : floatPair i = some (gd, d, rs, f)) (s : State) : exec i s = s.fpPairWord gd d rs f := by
  unfold floatPair at h
  split at h <;> cases h
  exacts [fp64_eq _ _ _ _ _ (fpAdd_eq _), fp64_eq _ _ _ _ _ (fpSub_eq _), fp64_eq _ _ _ _ _ (fpMul_eq _), rfl,
    fp64_eq _ _ _ _ _ (minMaxOp_eq _ _ _), fp64_eq _ _ _ _ _ (minMaxOp_eq _ _ _)]

/-- The words of R122 and R123 with a 32-bit result, in the table's order. -/
theorem exec_of_convertValue {i : Instr} {gd : Guard} {d : Reg} {rs : List PReg} {f : Group → Nat → Word × Flags}
    (h : convertValue i = some (gd, d, rs, f)) (s : State) : exec i s = s.fpWord gd d rs f := by
  unfold convertValue at h
  split at h <;> cases h
  exacts [rfl, rfl, rfl, fpWord_congr _ _ _ _ fun _ _ => two_eq_pack16 _, fpWord_congr _ _ _ _ fun _ _ => two_eq_pack16 _, rfl, rfl,
    fpWord_congr _ _ _ _ fun _ _ => fpToInt_eq _ _ _ _ _, fpWord_congr _ _ _ _ fun _ _ => fpToInt_eq _ _ _ _ _,
    fpWord_congr _ _ _ _ fun _ _ => fpToInt_eq _ _ _ _ _, fpWord_congr _ _ _ _ (cvtpOf_eq _ _ _ _ _),
    fpWord_congr _ _ _ _ (cvtpOf_eq _ _ _ _ _)]

/-- The words of R122 and R124 with a pair result, in the table's order. -/
theorem exec_of_convertPair {i : Instr} {gd : Guard} {d : Reg} {rs : List PReg} {f : Group → Nat → DWord × Flags}
    (h : convertPair i = some (gd, d, rs, f)) (s : State) : exec i s = s.fpPairWord gd d rs f := by
  unfold convertPair at h
  split at h <;> cases h
  exacts [rfl, rfl, fpPairWord_congr _ _ _ _ (cvtuOf_eq _ _ _), fpPairWord_congr _ _ _ _ (cvtuOf_eq _ _ _)]

end Sys2Proof.Machine

namespace Sys2Proof.Proofs

open Sys2Proof.Machine Sys2Proof.Slice0

/-- Settles O3: each word is a flag-raising word whose value per thread is the table's. -/
theorem floatWordsRoundEachElementOnce : Obligations.FloatWordsRoundEachElementOnce :=
  ⟨fun _ _ _ _ _ s _ hi hs => wroteV_raised_of_fpWord hs (exec_of_floatValue hi s),
    fun _ _ _ _ _ s _ hi hs => wrotePair_raised_of_fpPairWord hs (exec_of_floatPair hi s)⟩

/-- Settles O4: as for O3, with the tables of the conversions. -/
theorem conversionsWriteTheirValue : Obligations.ConversionsWriteTheirValue :=
  ⟨fun _ _ _ _ _ s _ hi hs => wroteV_raised_of_fpWord hs (exec_of_convertValue hi s),
    fun _ _ _ _ _ s _ hi hs => wrotePair_raised_of_fpPairWord hs (exec_of_convertPair hi s)⟩

end Sys2Proof.Proofs
end

section
/-! ### Rigs that end, stop and stand still (R126, R184, R201 to R205, R405, R421) -/

namespace Sys2Proof.Machine

open Sys2Proof.Slice0

/-! ### The step's rig -/

section
variable {s : State} {r : Rig} {g : Group}

theorem State.rigAt_of_rigIn {p : RigPhase} (h : rigIn s r g p) : s.rigAt p = some (r, g) := by
  obtain ⟨hr, hg, -, -, hp⟩ := h
  simp [State.rigAt, hr, hg, hp]

theorem State.movingRig_of_rigMoves (h : rigMoves s r g) : s.movingRig = some (r, g) := by
  simp [State.movingRig, State.rigAt_of_rigIn h.1, h.2]

theorem State.firstLane_eq_none : s.firstLane r = none ↔ ∀ n, n < r.ops.length → s.fireLane r n = none := by
  simp [State.firstLane]

/-! ### The results of a load's WRREGs (R202, R233) -/

/-- What one lane's WRREG result writes. -/
def Rig.writeLane (r : Rig) (g : Group) (x : Lane × Nat) : Group :=
  match x.1.wr, (r.cfg x.2).reg with
  | some v, some (sc, n, t) =>
    let wide := ((r.ops[x.2]?).map fun w => (opFields w).w).getD false
    let one := fun (g : Group) (n : Nat) (w : Word) => if sc then g.sset n w else g.vput n t w
    if wide then one (one g n (loWord v)) (n + 1) (hiWord v) else one g n (loWord v)
  | _, _ => g

theorem Rig.writeRegs_eq_foldl (r : Rig) (g : Group) : r.writeRegs g = r.lanes.zipIdx.foldl r.writeLane g := rfl

theorem Rig.writeLane_none {x : Lane × Nat} (h : x.1.wr = none) (g : Group) : r.writeLane g x = g := by
  simp [Rig.writeLane, h]

theorem Rig.writeLane_scalar {x : Lane × Nat} {v : DWord} {k t : Nat} (hv : x.1.wr = some v) (hr : (r.cfg x.2).reg = some (true, k, t))
    (hw : ∀ w, r.ops[x.2]? = some w → (opFields w).w = false) (g : Group) : r.writeLane g x = g.sset k (loWord v) := by
  have hn : ((r.ops[x.2]?).map fun w => (opFields w).w).getD false = false := by
    cases h : r.ops[x.2]? with
    | none => rfl
    | some w => exact hw w h
  simp [Rig.writeLane, hv, hr, hn]

/-- A group without its vector and scalar registers. -/
def Group.regless (g : Group) : Group := { g with v := [], s := Vector.replicate 64 0 }

theorem Rig.regless_writeLane (g : Group) (x : Lane × Nat) : (r.writeLane g x).regless = g.regless := by
  have hone : ∀ (sc : Bool) (g : Group) (n t : Nat) (w : Word), (if sc then g.sset n w else g.vput n t w).regless = g.regless := by
    intro sc g n t w
    cases sc <;> rfl
  unfold Rig.writeLane
  split
  · dsimp only
    split <;> simp only [hone]
  · rfl

theorem Rig.regless_writeRegs (g : Group) : (r.writeRegs g).regless = g.regless := by
  rw [r.writeRegs_eq_foldl]
  exact List.foldlRecOn (motive := fun h : Group => h.regless = g.regless) _ _ rfl fun h hh x _ => (r.regless_writeLane h x).trans hh

theorem Rig.writeRegs_frame (r : Rig) (g : Group) :
    (r.writeRegs g).id = g.id ∧ (r.writeRegs g).p = g.p ∧ (r.writeRegs g).fpsr = g.fpsr ∧ (r.writeRegs g).restore = g.restore := by
  have h := r.regless_writeRegs g
  exact ⟨(congrArg Group.id h :), (congrArg Group.p h :), (congrArg Group.fpsr h :), (congrArg Group.restore h :)⟩

theorem foldl_eq_self {α β : Type} {f : β → α → β} {l : List α} (h : ∀ x ∈ l, ∀ b, f b x = b) (b : β) : l.foldl f b = b :=
  List.foldlRecOn (motive := fun c => c = b) l f rfl fun c hc x hx => (h x hx c).trans hc

theorem Rig.writeRegs_of_no_results (h : ∀ l ∈ r.lanes, l.wr = none) (g : Group) : r.writeRegs g = g := by
  rw [r.writeRegs_eq_foldl]
  exact foldl_eq_self (fun x hx => r.writeLane_none (h x.1 (List.fst_mem_of_mem_zipIdx hx))) g

theorem Rig.lane_eq_of_mem {x : Lane × Nat} (hx : x ∈ r.lanes.zipIdx) : r.lane x.2 = x.1 := by
  rw [Rig.lane, List.getD_eq_getElem?_getD, List.mem_zipIdx_iff_getElem?.1 hx]
  rfl

/-- Where lane `n` alone holds a result, it alone writes. -/
theorem Rig.writeRegs_of_one_result {n : Nat} (hn : n < r.lanes.length) (h : ∀ m, m ≠ n → (r.lane m).wr = none) (g : Group) :
    r.writeRegs g = r.writeLane g (r.lane n, n) := by
  have hmem : (r.lane n, n) ∈ r.lanes.zipIdx := List.mem_zipIdx_iff_getElem?.2 (by simp [Rig.lane, hn])
  obtain ⟨as, bs, hl⟩ := List.append_of_mem hmem
  have hd := List.nodup_zipIdx_map_snd r.lanes
  rw [hl, List.map_append, List.map_cons, List.nodup_append, List.nodup_cons] at hd
  obtain ⟨-, ⟨hbs, -⟩, has⟩ := hd
  have hkeep : ∀ x ∈ as ++ (r.lane n, n) :: bs, x.2 ≠ n → ∀ g, r.writeLane g x = g := fun x hx hxn =>
    r.writeLane_none (r.lane_eq_of_mem (hl ▸ hx) ▸ h x.2 hxn)
  rw [r.writeRegs_eq_foldl, hl, List.foldl_append, List.foldl_cons,
    foldl_eq_self fun x hx => hkeep x (by simp [hx]) (has _ (List.mem_map_of_mem hx) n (by simp)),
    foldl_eq_self fun x hx => hkeep x (by simp [hx]) fun e => hbs (List.mem_map.2 ⟨x, hx, e⟩)]

/-! ### The drain back to SIMT (R126, R203) -/

/-- The group of a rig as the drain leaves it. -/
def Rig.drainedGroup (r : Rig) (g : Group) : Group :=
  let h := ({ g.raiseFlags r.flags with status := .running } : Group).jumpTo (r.retpc + BitVec.ofNat 64 (4 * (r.widx + 1)))
  { h with serial := h.serial.orElse fun _ => g.serial }

theorem State.keepFlags_eq (hg : s.group? r.group = some g) : s.keepFlags r = s.put (g.raiseFlags r.flags) := by
  simp [State.keepFlags, hg]

theorem State.group?_dropRig (s : State) (i j : GroupId) : (s.dropRig i).group? j = s.group? j := s.group?_modCore _ _ j

theorem State.drainToSimt_eq (hg : s.group? r.group = some g) :
    s.drainToSimt r = ((s.put (g.raiseFlags r.flags)).dropRig r.group).put (r.drainedGroup g) := by
  have hid : (g.raiseFlags r.flags).id = r.group := (State.group?_some hg).2
  have hk : ((s.put (g.raiseFlags r.flags)).dropRig r.group).group? r.group = some (g.raiseFlags r.flags) := by
    rw [State.group?_dropRig, ← hid]
    exact State.group?_put (hid ▸ hg)
  rw [State.drainToSimt, State.keepFlags_eq hg]
  simp only [hk]
  rfl

theorem Rig.drainedGroup_id (r : Rig) (g : Group) : (r.drainedGroup g).id = g.id := by
  simp [Rig.drainedGroup, Group.jumpTo]

/-- The group runs on at the header after the SPAT clause, with the load's flags in FPSR and its registers as they were (R203). -/
theorem Rig.drainedGroup_runs (r : Rig) (h : g.restore = none) : let k := r.drainedGroup g
    k.status = .running ∧ k.stage = .header ∧ k.pc = r.retpc + BitVec.ofNat 64 (4 * (r.widx + 1)) ∧ k.fpsr = (g.raiseFlags r.flags).fpsr ∧
      k.p = g.p ∧ k.v = g.v ∧ k.s = g.s := by
  simp [Rig.drainedGroup, Group.jumpTo, Group.restoreMask, h]

theorem not_of_mem_dropRigs {p : Rig → Bool} (hp : ∀ x : Rig, p { x with compact := true } = p x) {l : List Rig} {x : Rig}
    (hx : x ∈ dropRigs p l) : p x = false := by
  unfold dropRigs at hx
  split at hx
  · obtain ⟨y, hy, rfl⟩ := List.mem_map.1 hx
    simpa [hp] using (List.mem_filter.1 hy).2
  · simpa using (List.mem_filter.1 hx).2

/-- The rig's pages, claim and request are given up (R203). -/
theorem State.coreD_dropRig (s : State) (i : GroupId) :
    (∀ x ∈ ((s.dropRig i).coreD i.coreId).rigs, x.group ≠ i) ∧ ((s.dropRig i).coreD i.coreId).claim ≠ some i := by
  rw [State.dropRig, State.coreD_modCore, if_pos rfl]
  case hf => exact fun _ => rfl
  refine ⟨fun x hx => of_decide_eq_false (not_of_mem_dropRigs (p := fun r => decide (r.group = i)) (fun _ => rfl) hx), ?_⟩
  dsimp only
  split
  · simp
  · assumption

theorem State.group?_drainToSimt (hg : s.group? r.group = some g) : (s.drainToSimt r).group? r.group = some (r.drainedGroup g) := by
  have hid := (State.group?_some hg).2
  have hk : (s.put (g.raiseFlags r.flags)).group? g.id = some (g.raiseFlags r.flags) := State.group?_put (g := g.raiseFlags r.flags) (hid ▸ hg)
  rw [State.drainToSimt_eq hg, ← hid, ← r.drainedGroup_id g]
  exact State.group?_put (by rw [r.drainedGroup_id, State.group?_dropRig, hk])

theorem State.drainToSimt_mem (hg : s.group? r.group = some g) : (s.drainToSimt r).mem = s.mem := by
  simp [State.drainToSimt_eq hg, State.dropRig]

theorem State.coreD_drainToSimt (hg : s.group? r.group = some g) : let k := (s.drainToSimt r).coreD r.group.coreId
    (∀ x ∈ k.rigs, x.group ≠ r.group) ∧ k.claim ≠ some r.group := by
  rw [State.drainToSimt_eq hg]
  exact State.coreD_dropRig _ r.group

/-! ### The next load on the pages that it keeps (R184, R202) -/

theorem State.rig?_modCore {f : Core → Core} (hf : ∀ k, (f k).id = k.id) (hr : ∀ k, (f k).rigs = k.rigs) (s : State) (c : CoreId)
    (i : GroupId) : (s.modCore c f).rig? i = s.rig? i := by
  rw [State.rig?, State.coreD_modCore _ _ _ _ hf]
  split
  · next h => rw [hr, ← h]; rfl
  · rfl

/-- A load that begins stands in its rig, under the core's next context (R190, R198). -/
theorem State.rig?_beginLoad {q : Rig} {b : Block} (h : s.rig? q.group = some r) (hg : q.gated = false) (hb : q.block = some b) :
    (s.beginLoad q).rig? q.group = some { q with
      context := (s.coreD q.group.coreId).context + 1, phase := .config, lanes := List.replicate (8 * 2 ^ b.rigLog) {}
      ahead := .none, compact := false } := by
  rw [State.beginLoad]
  simp only [hg, hb]
  refine State.rig?_putRig (r := r) ?_
  rw [State.rig?_modCore]
  exacts [h, fun _ => rfl, fun _ => rfl]

/-- A block of the same number of pages and no more granules is loaded where its predecessor stands (R184, R202). -/
theorem State.nextLoad_keeps {b n : Block} (hb : r.block = some b) (hc : r.compact = false) (hmx : n.mx = false)
    (hclaim : (s.coreD r.group.coreId).claim = none) (hp : r.pages.length = 2 ^ n.rigLog) (hgr : n.granules ≤ b.granules) :
    s.nextLoad r n = s.beginLoad { r with
      block := some n, k := r.k + 1, next := n.addr, past := b.addr :: r.past
      grans := (r.grans.filter fun x => r.pages.any fun o => o / 4 == x.1).map fun x => (x.1, n.granules) } := by
  simp only [State.nextLoad, State.placesAfresh, hb, hc, hmx, hclaim, ← hp, List.take_length]
  simp [hgr]

/-! ### A rig in which nothing can move (R204, R205, R405) -/

/-- Not gated, not quiescent, nothing on its way or outstanding, and no operator can fire (R204). -/
def State.StuckRig (s : State) (r : Rig) : Prop :=
  r.gated = false ∧ r.quiescent = false ∧ r.flight = [] ∧ r.returns = [] ∧ r.accs = [] ∧ r.recs = [] ∧
    ∀ n, n < r.ops.length → s.fireLane r n = none

theorem State.stuckRig_iff : (r.gated || r.quiescent || !r.flight.isEmpty || !r.returns.isEmpty || !r.accs.isEmpty || !r.recs.isEmpty ||
    (s.firstLane r).isSome) = false ↔ s.StuckRig r := by
  rw [State.StuckRig, ← State.firstLane_eq_none]
  simp [and_assoc]

theorem execRigStuck_waits (h : rigMoves s r g) (hs : ¬ s.StuckRig r) : execRigStuck s = .next s := by
  simp only [execRigStuck, State.movingRig_of_rigMoves h, Bool.eq_true_of_not_eq_false (mt State.stuckRig_iff.1 hs), if_true]

theorem execRigStuck_no_token (h : rigMoves s r g) (hs : s.StuckRig r) (hu : r.unmatched = none) :
    execRigStuck s = .next (s.failRig r cFabricToken r.hdr (fabWords r.hdr 3 15 0 0x7F 0 0)) := by
  simp only [execRigStuck, State.movingRig_of_rigMoves h, State.stuckRig_iff.2 hs, Bool.false_eq_true, if_false, hu]

theorem execRigStuck_token {n : Nat} {k : Nat × Nat} {t : Token} (h : rigMoves s r g) (hs : s.StuckRig r) (hu : r.unmatched = some (n, k, t)) :
    execRigStuck s = .next (s.failRig r cFabricToken r.hdr (fabWords r.hdr 3 (min k.1 14) k.2 n (n + 1) t.tag)) := by
  simp only [execRigStuck, State.movingRig_of_rigMoves h, State.stuckRig_iff.2 hs, Bool.false_eq_true, if_false, hu]

theorem findSome?_range_of_first {α : Type} {f : Nat → Option α} {n m : Nat} {x : α} (hn : n < m) (hx : f n = some x)
    (hf : ∀ k, k < n → f k = none) : (List.range m).findSome? f = some x := by
  obtain ⟨k, rfl⟩ := Nat.exists_eq_add_of_lt hn
  rw [List.findSome?_eq_some_iff]
  exact ⟨List.range n, n, (List.range k).map (n + 1 + ·), by rw [Nat.add_right_comm, List.range_add, List.range_succ]; simp, hx,
    fun i hi => hf i (List.mem_range.1 hi)⟩

/-- The first token of a queue that has no partner, with its lane and queue. -/
def Rig.unmatchedIn (r : Rig) (n : Nat) (k : Nat × Nat) : Option (Nat × (Nat × Nat) × Token) :=
  (((r.lane n).queue k.1 k.2)[r.matched n k]?).map fun t => (n, k, t)

theorem Rig.unmatched_eq (r : Rig) :
    r.unmatched = (List.range r.lanes.length).findSome? fun n => (r.queueKeys n).findSome? (r.unmatchedIn n) := rfl

theorem Rig.unmatchedIn_eq_none {n : Nat} {k : Nat × Nat} :
    r.unmatchedIn n k = none ↔ ((r.lane n).queue k.1 k.2).length ≤ r.matched n k := by
  simp [Rig.unmatchedIn]

theorem Rig.unmatched_eq_none
    (h : ∀ n k, n < r.lanes.length → k ∈ r.queueKeys n → ((r.lane n).queue k.1 k.2).length ≤ r.matched n k) : r.unmatched = none := by
  rw [Rig.unmatched_eq, List.findSome?_eq_none_iff]
  exact fun n hn => List.findSome?_eq_none_iff.2 fun k hk => Rig.unmatchedIn_eq_none.2 (h n k (List.mem_range.1 hn) hk)

/-- Lanes and queues are looked at in ascending order (R405). -/
theorem Rig.unmatched_eq_some {n q : Nat} {t : Token} (hn : n < r.lanes.length)
    (hl : ∀ m k, m < n → k ∈ r.queueKeys m → ((r.lane m).queue k.1 k.2).length ≤ r.matched m k) (hq : q < 15)
    (hp : ∀ p, p < q → ((r.lane n).queue p 0).length ≤ r.matched n (p, 0)) (ht : ((r.lane n).queue q 0)[r.matched n (q, 0)]? = some t) :
    r.unmatched = some (n, (q, 0), t) := by
  rw [Rig.unmatched_eq]
  refine findSome?_range_of_first hn ?_ fun m hm => List.findSome?_eq_none_iff.2 fun k hk => Rig.unmatchedIn_eq_none.2 (hl m k hm hk)
  have hfound : (List.range 15).findSome? (r.unmatchedIn n ∘ fun q => (q, 0)) = some (n, (q, 0), t) :=
    findSome?_range_of_first hq (by simp [Rig.unmatchedIn, ht]) fun p hpq => Rig.unmatchedIn_eq_none.2 (hp p hpq)
  rw [Rig.queueKeys, List.findSome?_append, List.findSome?_map, hfound]
  rfl

/-! ### A rig of a team that is pre-empted (R203, R421) -/

/-- Whether the drain back to SIMT has begun, with no port fault record left (R203, R422). -/
def Rig.leaving (r : Rig) : Bool := r.ending && !r.open_ && r.recs.isEmpty

theorem Rig.leaving_iff : r.leaving = true ↔
    (∃ b, r.block = some b ∧ b.last = true) ∧ r.sourcesDone = true ∧ r.open_ = false ∧ r.recs = [] := by
  cases h : r.block <;> simp [Rig.leaving, Rig.ending, h, and_assoc]

section
variable {u : Team} (h : rigIn s r g .running)
include h

theorem execRigSave_eq (hu : s.teamOf g = some u) : execRigSave s =
    if !u.taken || (!r.gated && r.leaving) then .next s
    else if !r.gated then .next (s.putRig { r with gated := true })
    else .next (if r.drained then s.putRig { r with phase := .quiet } else s) := by
  simp only [execRigSave, State.rigAt_of_rigIn h, State.rigTaken, hu, Rig.leaving, ← Bool.and_assoc]
  rfl

theorem execRigSaveTimeout_eq : execRigSaveTimeout s =
    if r.gated && r.flight.isEmpty && r.returns.isEmpty && (r.open_ || (s.firstLane r).isNone) then
      .next (s.putRig { r with phase := .quiet })
    else .next s := by
  simp only [execRigSaveTimeout, State.rigAt_of_rigIn h]

end

/-! ### Quiescence (R201 to R203) -/

section
variable {b : Block} (hs : rigMoves s r g) (hb : r.block = some b)
include hs hb

theorem execQuiescence_waits (hq : r.quiescent = false) : execQuiescence s = .next s := by
  simp [execQuiescence, State.movingRig_of_rigMoves hs, hb, hq]

section
variable (hq : r.quiescent = true)
include hq

theorem execQuiescence_last (hl : b.last = true) : execQuiescence s = .next ((s.put (r.writeRegs g)).drainToSimt r) := by
  simp [execQuiescence, State.movingRig_of_rigMoves hs, hb, hq, hl]

theorem execQuiescence_loads {n : Block} (hl : b.last = false) (ha : r.ahead = .block n) :
    execQuiescence s = .next ((s.put (r.writeRegs g)).loadNext r (r.writeRegs g) n) := by
  simp [execQuiescence, State.movingRig_of_rigMoves hs, hb, hq, hl, ha]

theorem execQuiescence_fetches (hl : b.last = false) (ha : r.ahead = .none) :
    execQuiescence s = .next ((s.put (r.writeRegs g)).putRig { r with phase := .fetch, next := b.nextAddr }) := by
  simp [execQuiescence, State.movingRig_of_rigMoves hs, hb, hq, hl, ha]

end

end

end

end Sys2Proof.Machine

namespace Sys2Proof.Proofs

open Sys2Proof.Machine Sys2Proof.Slice0

theorem quiescenceEndsALoad : QuiescenceEndsALoad := by
  intro s r g b hs hb c
  obtain ⟨⟨hr, hg, hrg, hgi, -⟩, -⟩ := id hs
  refine ⟨execQuiescence_waits hs hb, fun hq hl hres => ?_, fun n x hq hl ha hwr hbad => ?_,
    fun n hq hl ha hwr hgood hgate hcomp hmx hnmx hclaim hlog hpages hgr => ?_, fun hq hl ha hwr => ?_⟩
  · obtain ⟨hid, hwp, hwf, hwres⟩ := r.writeRegs_frame g
    have hput : (s.put (r.writeRegs g)).group? r.group = some (r.writeRegs g) := by
      rw [hrg, ← hgi, ← hid]
      exact State.group?_put (by rw [hid, hgi, hg])
    obtain ⟨hstatus, hstage, hpc, hfpsr, hp, hv, hsc⟩ := r.drainedGroup_runs (hwres.trans hres)
    obtain ⟨hrigs, hfree⟩ := State.coreD_drainToSimt hput
    refine ⟨_, r.drainedGroup (r.writeRegs g), execQuiescence_last hs hb hq hl, ?_, State.drainToSimt_mem hput,
      hstatus, hstage, hpc, fun k => ?_, hrigs, hfree, hp.trans hwp, fun hwr => ?_, fun n v k x hn hlane hone hreg hk hw m => ?_⟩
    · rw [hgi, ← hrg, State.group?_drainToSimt hput]
    · rw [hfpsr, Group.getLsbD_raiseFlags, hwf]
    · rw [hv, hsc, r.writeRegs_of_no_results hwr]
      exact ⟨rfl, rfl⟩
    · have hw1 : r.writeRegs g = g.sset k (loWord v) := (r.writeRegs_of_one_result hn hone g).trans (r.writeLane_scalar hlane hreg hw g)
      rw [Group.sget, hsc, hw1, ← Group.sget, Group.sget_sset]
      simp [hk, loWord]
  · refine (execQuiescence_loads hs hb hq hl ha).trans ?_
    rw [r.writeRegs_of_no_results hwr, State.loadNext, hbad]
    rfl
  · have hrig : (s.put g).rig? r.group = some r := hrg ▸ hr
    have hx : execQuiescence s = .next ((s.put g).nextLoad r n) := by
      rw [execQuiescence_loads hs hb hq hl ha, r.writeRegs_of_no_results hwr, State.loadNext, hgood]
    rw [State.nextLoad_keeps (s := s.put g) hb hcomp hnmx hclaim (hlog ▸ hpages) hgr] at hx
    exact ⟨_, _, hx, State.rig?_beginLoad hrig hgate rfl, rfl, rfl, rfl, rfl, rfl, rfl, rfl⟩
  · refine (execQuiescence_fetches hs hb hq hl ha).trans ?_
    rw [r.writeRegs_of_no_results hwr]
    rfl

theorem stuckRigsStop : StuckRigsStop := by
  intro s r g hs stuck
  refine ⟨execRigStuck_waits hs, fun hst hall => execRigStuck_no_token hs hst (Rig.unmatched_eq_none hall),
    fun n q t hst hn hl hq hp ht => (execRigStuck_token hs hst (Rig.unmatched_eq_some hn hl hq hp ht)).trans ?_⟩
  rw [Nat.min_eq_left (Nat.le_of_lt_succ hq)]
  rfl

theorem rigsAreGatedAndSaved : RigsAreGatedAndSaved := by
  intro s r g u hs hu ends
  refine ⟨fun ht => ?_, fun ht hgate hne => ?_, fun hgate he => ?_, fun ht hgate => ?_, fun hgate hf hret hfire => ?_, fun hgate => ?_⟩
  · exact (execRigSave_eq hs hu).trans (by simp [ht])
  · have hnl : r.leaving = false := Bool.eq_false_of_not_eq_true (mt Rig.leaving_iff.1 hne)
    exact (execRigSave_eq hs hu).trans (by simp [ht, hgate, hnl])
  · have hl : r.leaving = true := Rig.leaving_iff.2 he
    exact (execRigSave_eq hs hu).trans (by simp [hgate, hl])
  · exact (execRigSave_eq hs hu).trans (by simp [ht, hgate])
  · exact (execRigSaveTimeout_eq hs).trans (by simp [hgate, hf, hret, State.firstLane_eq_none.2 hfire])
  · exact (execRigSaveTimeout_eq hs).trans (by simp [hgate])

/-- Settles O46: the drain and the next load, the rig in which nothing can move, and the rigs of a team that is taken. -/
theorem rigsEndStopAndAreSaved : Obligations.RigsEndStopAndAreSaved :=
  ⟨quiescenceEndsALoad, stuckRigsStop, rigsAreGatedAndSaved⟩

end Sys2Proof.Proofs
end

section
/-! ### Branches, calls and TRAP (R8, R9, R15, R71, R129, R130, R140, R142) -/

namespace Sys2Proof.Machine

open Sys2Proof.Slice0

/-! ### The threads that pass a guard -/

theorem maskOf_eq_zero_iff (f : Nat → Bool) : maskOf f = 0 ↔ ∀ t, t < 96 → f t = false := by
  constructor
  · intro h t ht
    rw [← maskBit_maskOf f ht, h]
    exact BitVec.getLsbD_zero
  · intro h
    refine BitVec.eq_of_getLsbD_eq fun t ht => ?_
    exact (maskBit_maskOf f ht).trans ((h t ht).trans BitVec.getLsbD_zero.symm)

theorem Group.passed_eq_zero_iff {g : Group} {gd : Guard} : g.passed gd = 0 ↔ ∀ t, t < 96 → g.on gd t = false :=
  maskOf_eq_zero_iff _

theorem Group.passed_ne_zero_iff {g : Group} {gd : Guard} : g.passed gd ≠ 0 ↔ ∃ t, t < 96 ∧ g.on gd t = true := by
  simp only [ne_eq, Group.passed_eq_zero_iff, not_forall, exists_prop, Bool.not_eq_false]

/-- A guard lets active threads pass alone, so that every active thread passes where just the mask does. -/
theorem Group.passed_eq_mask_iff {g : Group} {gd : Guard} :
    g.passed gd = g.mask ↔ ∀ t, t < 96 → g.isActive t = true → g.on gd t = true := by
  constructor
  · intro h t ht ha
    rw [← maskBit_maskOf (g.on gd) ht]
    exact (congrArg (maskBit · t) h).trans ha
  · intro h
    refine BitVec.eq_of_getLsbD_eq fun t ht => (maskBit_maskOf (g.on gd) ht).trans ?_
    cases ha : g.isActive t with
    | true => exact (h t ht ha).trans ha.symm
    | false =>
      change maskBit g.mask t = false at ha
      change (maskBit g.mask t && g.guardBit gd t) = maskBit g.mask t
      rw [ha, Bool.false_and]

/-! ### Targets and the link -/

theorem Group.target_eq (g : Group) (disp : BitVec 20) : g.target disp = branchTarget g disp := by
  have h : (4 : DWord) * disp.signExtend 64 = BitVec.ofInt 64 (4 * disp.toInt) := by
    rw [BitVec.signExtend, BitVec.ofInt_mul]
    rfl
  rw [Group.target, branchTarget, h]

/-- An address is aligned to 4 where its bits [1:0] are zero. -/
theorem and_three_eq_zero_iff (x : DWord) : x &&& 3 = 0 ↔ x.toNat % 4 = 0 := by
  rw [← BitVec.toNat_inj, BitVec.toNat_and]
  exact iff_of_eq (congrArg (· = 0) (Nat.and_two_pow_sub_one_eq_mod x.toNat 2))

/-- Bits [1:0] cleared. -/
theorem and_not_three (x : DWord) : x &&& ~~~(3 : DWord) = BitVec.ofNat 64 (x.toNat / 4 * 4) := by
  have hmask : ~~~(3 : DWord) = BitVec.allOnes 64 <<< 2 := by decide
  rw [hmask, ← BitVec.shiftLeft_ushiftRight, ← BitVec.toNat_inj]
  simp [Nat.shiftRight_eq_div_pow, Nat.shiftLeft_eq]

theorem Group.link_eq (g : Group) : g.link = { g with s := g.link.s } := rfl

theorem Group.sget_link (g : Group) (n : Nat) : g.link.sget n =
    if n = 56 then (Slice0.afterClause g).extractLsb' 0 32
    else if n = 57 then (Slice0.afterClause g).extractLsb' 32 32 else g.sget n := by
  simp only [Group.link, Group.ssetPair, Group.sget_sset, loWord_eq, hiWord_eq]
  by_cases h : n = 56
  · simp [h, Group.afterClause, Slice0.afterClause]
  · simp [h, Group.afterClause, Slice0.afterClause]

/-- A word that jumps leaves its group with the clause ended. -/
theorem Group.ended_jumpTo (g : Group) (pc : DWord) : ended g (g.jumpTo pc) pc := g.ended_endClause_restoreMask pc

section
variable {s : State} {g : Group}

theorem exec_of_jumpWord {rs : List PReg} (hs : issues s g rs) {pc : Group → DWord} {o : Out} (h : o = s.jumpWord rs pc) :
    o = .next (s.put (g.jumpTo (pc g))) := h.trans (State.word_ok _ hs.1 (Group.issueFault_of_issues hs))

/-- A conditional branch whose condition holds just where `taken` does. -/
theorem branch_continues {gd : Guard} (hs : issues s g (vecRegs gd)) {disp : BitVec 20} {cond : Group → Bool} {taken : Prop}
    {o : Out} (ho : o = s.branch gd disp cond) (hc : cond g = true ↔ taken) :
    ∃ h : Group, o = .next (s.put h) ∧ (taken → ended g h (branchTarget g disp)) ∧ (¬ taken → ended g h (Slice0.afterClause g)) := by
  refine ⟨_, exec_of_jumpWord hs ho, fun ht => ?_, fun ht => ?_⟩
  · rw [if_pos (hc.2 ht), g.target_eq]
    exact g.ended_jumpTo _
  · rw [if_neg fun h => ht (hc.1 h)]
    exact g.ended_jumpTo _

theorem exec_call (hs : issues s g (sRegs 56 2)) (disp : BitVec 20) :
    exec (.call disp) s = .next (s.put (g.link.jumpTo (g.target disp))) :=
  State.word_ok _ hs.1 (Group.issueFault_of_issues hs)

section
variable {a : Reg} (hs : issues s g (sRegs a.val 2 ++ sRegs 56 2))
include hs

theorem exec_callr_aligned (h : (g.spair a.val).toNat % 4 = 0) :
    exec (.callr a) s = .next (s.put (g.link.jumpTo (g.spair a.val))) := by
  refine (State.word_ok _ hs.1 (Group.issueFault_of_issues hs)).trans ?_
  rw [if_neg (not_not.2 ((and_three_eq_zero_iff _).2 h))]

theorem exec_callr_misaligned (h : (g.spair a.val).toNat % 4 ≠ 0) : exec (.callr a) s = .next (s.raise g (atWord g 0x04)) := by
  refine (State.word_ok _ hs.1 (Group.issueFault_of_issues hs)).trans ?_
  rw [if_pos (fun h' => h ((and_three_eq_zero_iff _).1 h'))]
  rfl

end

section
variable {gd : Guard} (hs : issues s g (vecRegs gd)) (code : BitVec 14)
include hs

theorem exec_trap_none (h : g.passed gd = 0) : exec (.trap gd code) s = .next (s.put (g.jumpTo g.afterClause)) := by
  refine (State.word_ok _ hs.1 (Group.issueFault_of_issues hs)).trans ?_
  rw [if_pos h]

theorem exec_trap_some (h : g.passed gd ≠ 0) : exec (.trap gd code) s =
    .next (s.raise g { atWord g 0x13 with mask := g.passed gd, imm := code.toNat, rp := false }) := by
  refine (State.word_ok _ hs.1 (Group.issueFault_of_issues hs)).trans ?_
  rw [if_neg h]
  rfl

end

end

theorem Group.issueFault_privilege {g : Group} (hp : g.pv = false) (rs : List PReg) : g.issueFault true rs = some cPrivilege := by
  simp [Group.issueFault, hp]

end Sys2Proof.Machine

namespace Sys2Proof.Proofs

open Sys2Proof.Machine Sys2Proof.Slice0

theorem branchesContinueByTheirCondition : BranchesContinueByTheirCondition := fun _ _ _ _ hs =>
  ⟨branch_continues hs rfl (bne_iff_ne.trans Group.passed_ne_zero_iff),
    branch_continues hs rfl (beq_iff_eq.trans Group.passed_eq_mask_iff),
    branch_continues hs rfl (beq_iff_eq.trans Group.passed_eq_zero_iff)⟩

theorem jumpsAndCallsContinueAtTheirTarget : JumpsAndCallsContinueAtTheirTarget := by
  intro disp a s g _ linked
  have hlink : linked g.link := ⟨g.link_eq, fun n _ => g.sget_link n⟩
  refine ⟨fun hs => ⟨_, exec_of_jumpWord hs rfl, ?_⟩, fun hs => ⟨_, g.link, exec_call hs disp, hlink, ?_⟩,
    fun hs => ⟨_, exec_of_jumpWord hs rfl, ?_⟩,
    fun hs => ⟨fun ha => ⟨_, g.link, exec_callr_aligned hs ha, hlink, g.link.ended_jumpTo _⟩, exec_callr_misaligned hs⟩⟩
  · rw [g.target_eq]
    exact g.ended_jumpTo _
  · rw [g.target_eq]
    exact g.link.ended_jumpTo _
  · rw [and_not_three]
    exact g.ended_jumpTo _

/-- Settles O12: the condition of each branch, thread by thread, and the pair that a call links. -/
theorem controlWordsContinueAtTheirTarget : Obligations.ControlWordsContinueAtTheirTarget :=
  ⟨branchesContinueByTheirCondition, jumpsAndCallsContinueAtTheirTarget⟩

theorem privilegedWordsTrapInUserMode : PrivilegedWordsTrapInUserMode := by
  intro i f s g hi hp hg hu hpv
  obtain ⟨qs, body, -, -, he⟩ := checksAs_of_issueForm hi hg hu
  rw [he, hp]
  exact State.word_atWord body hg (Group.issueFault_privilege hpv qs)

theorem trapRaisesUserTrap : TrapRaisesUserTrap := fun _ code _ g hs =>
  ⟨fun hn => ⟨_, exec_trap_none hs code (Group.passed_eq_zero_iff.2 hn), g.ended_jumpTo _⟩,
    fun hn => ⟨_, exec_trap_some hs code (Group.passed_ne_zero_iff.2 hn), rfl, fun _ ht => maskBit_maskOf _ ht⟩⟩

/-- Settles O14: a privileged word comes to the checks of its form, of which PV is the first; TRAP by its two cases. -/
theorem privilegedAndTrapWordsTrap : Obligations.PrivilegedAndTrapWordsTrap :=
  ⟨privilegedWordsTrapInUserMode, trapRaisesUserTrap⟩

end Sys2Proof.Proofs
end

section
/-! ### Lines given up: invalidations, evictions, write-backs and drops (R283 to R286, R417) -/

namespace Sys2Proof.Machine

open Sys2Proof.Slice0

/-! ### The directory -/

theorem State.dirOf_line (s : State) (l : Nat) : (s.dirOf l).line = l := by
  unfold State.dirOf
  cases h : s.dir.find? fun e => e.line = l with
  | none => rfl
  | some e => simpa using List.find?_some h

/-- An entry stored back is read back; one without copies reads as a line that is not listed. -/
theorem State.dirOf_putDir (s : State) (e : DirEntry) : (s.putDir e).dirOf e.line = e := by
  have hrest : (s.dir.filter fun x => x.line ≠ e.line).find? (fun x => x.line = e.line) = none := by simp
  cases hb : e.dies.isEmpty && !e.host with
  | false => simp [State.dirOf, State.putDir, hb]
  | true =>
    simp only [State.dirOf, State.putDir, hb, if_true, List.nil_append, hrest, Option.getD_none]
    obtain ⟨line, dies, host⟩ := e
    simp_all

theorem State.dirOf_putDir_of_line (s : State) {e : DirEntry} {l : Nat} (h : e.line = l) : (s.putDir e).dirOf l = e :=
  h ▸ s.dirOf_putDir e

theorem State.dirOf_putDir_other (s : State) {e : DirEntry} {l : Nat} (h : l ≠ e.line) : (s.putDir e).dirOf l = s.dirOf l := by
  have hnew : (if e.dies.isEmpty && !e.host then [] else [e]).find? (fun x => x.line = l) = none := by
    split <;> simp [Ne.symm h]
  have hrest : (s.dir.filter fun x => x.line ≠ e.line).find? (fun x => x.line = l) = s.dir.find? fun x => x.line = l := by
    rw [List.find?_filter]
    refine congrArg (List.find? · s.dir) (funext fun x => ?_)
    by_cases hx : x.line = l <;> simp [hx, h]
  simp only [State.dirOf, State.putDir, List.find?_append, hnew, hrest, Option.none_or]

/-! ### Invalidations in flight -/

theorem keepsInvals_refl (s : State) : keepsInvals s s := fun i hi => ⟨i, hi, rfl, rfl, rfl, rfl⟩

theorem keepsInvals_trans {s t u : State} (h : keepsInvals s t) (k : keepsInvals t u) : keepsInvals s u := fun i hi =>
  let ⟨j, hj, hline, hdie, hdropped, hyielded⟩ := h i hi
  let ⟨m, hm, kline, kdie, kdropped, kyielded⟩ := k j hj
  ⟨m, hm, kline.trans hline, kdie.trans hdie, kdropped.trans hdropped, kyielded.trans hyielded⟩

theorem keepsInvals_foldl {α : Type} {f : State → α → State} (h : ∀ s a, keepsInvals s (f s a)) (l : List α) (s : State) :
    keepsInvals s (l.foldl f s) := by
  induction l generalizing s with
  | nil => exact keepsInvals_refl s
  | cons a l ih => exact keepsInvals_trans (h s a) (ih _)

section
variable (s : State) (line : Nat) (want : List (Option Nat)) (outside evict : Bool)

/-- An invalidation that is on its way is asked for once more and stays as far as it has come. -/
theorem State.keepsInvals_sendInvals : keepsInvals s (s.sendInvals line want outside evict) := by
  intro i hi
  refine ⟨_, List.mem_append_left _ (List.mem_map_of_mem hi), ?_⟩
  split
  · exact ⟨rfl, rfl, rfl, rfl⟩
  · exact ⟨rfl, rfl, rfl, rfl⟩

/-- Every holder that invalidations are sent to has one on its way. -/
theorem State.exists_sendInvals {d : Option Nat} (hd : d ∈ want) :
    ∃ i ∈ (s.sendInvals line want outside evict).invals, i.line = line ∧ i.die = d := by
  cases h : s.invals.any fun i => i.line = line ∧ i.die = d with
  | true =>
    obtain ⟨i, hi, hb⟩ := List.any_eq_true.1 h
    obtain ⟨hline, hdie⟩ := of_decide_eq_true hb
    obtain ⟨j, hj, jline, jdie, -⟩ := s.keepsInvals_sendInvals line want outside evict i hi
    exact ⟨j, hj, jline.trans hline, jdie.trans hdie⟩
  | false =>
    have hnew : d ∈ want.filter fun d => !s.invals.any fun i => i.line = line ∧ i.die = d :=
      List.mem_filter.2 ⟨hd, by rw [h]; rfl⟩
    exact ⟨_, List.mem_append_right _ (List.mem_map_of_mem hnew), rfl, rfl⟩

end

theorem State.keepsInvals_claimBack (s : State) (c : CoreId) (p : Nat → Bool) : keepsInvals s (s.claimBack c p) := by
  refine keepsInvals_foldl (fun s a => ?_) _ s
  unfold State.claimLine
  split
  · exact s.keepsInvals_sendInvals _ _ _ _
  · exact keepsInvals_refl s

/-! ### A line dropped by its die -/

/-- What `State.still` holds of memory, the directory and the invalidations in flight. -/
theorem State.lines_of_still {s t : State} (h : t.still = s.still) : t.mem = s.mem ∧ t.dir = s.dir ∧ t.invals = s.invals := by
  have hmem : t.still.mem = s.still.mem := by rw [h]
  have hdir : t.still.dir = s.still.dir := by rw [h]
  have hinv : t.still.invals = s.still.invals := by rw [h]
  exact ⟨hmem, hdir, hinv⟩

/-- The L2 lines without a die's copy of one line. -/
def l2Without (l : List L2Line) (die line : Nat) : List L2Line := l.filter fun x => ¬ (x.die = die ∧ x.line = line)

theorem mem_l2Without {l : List L2Line} {die line : Nat} {x : L2Line} :
    x ∈ l2Without l die line ↔ x ∈ l ∧ ¬ (x.die = die ∧ x.line = line) := by
  rw [l2Without, List.mem_filter, decide_eq_true_eq]

/-- A core without the D copy of a line, where it is of a die. -/
def Core.undie (die line : Nat) (k : Core) : Core :=
  if k.id.die = die then { k with l1d := k.l1d.filter fun l => l ≠ line } else k

theorem Core.not_mem_undie {die line : Nat} {k : Core} (h : (k.undie die line).id.die = die) : line ∉ (k.undie die line).l1d := by
  unfold Core.undie at h ⊢
  split
  · simp
  next hn => rw [if_neg hn] at h; exact absurd h hn

/-- The copies leave the L2 and the L1s of the die; beside them only what an abort and a landing poison may stir. -/
theorem State.dropLine_eq (s : State) (die line : Nat) (quiet : Bool) : ∃ t : State, t.still = s.still ∧
    s.dropLine die line quiet = { t with l2 := l2Without s.l2 die line, cores := t.cores.map (Core.undie die line) } := by
  have hl2 : (s.landPoison die line).l2 = s.l2 := by
    have h : (s.landPoison die line).still.l2 = s.still.l2 := by rw [s.still_landPoison]
    exact h
  refine ⟨if quiet then s.landPoison die line else (s.landPoison die line).loseMarks fun c l =>
    decide (c.die = die ∧ l = line) && ((s.landPoison die line).coreD c).l1d.contains line, ?_, ?_⟩
  · split
    · exact s.still_landPoison die line
    · exact (State.still_abortWhere _ _ _).trans (s.still_landPoison die line)
  · unfold State.dropLine
    dsimp only
    rw [hl2]
    rfl

section
variable {s : State} {i : Inval} {d : Nat}

/-- R284: an invalidation reaches its die. -/
theorem exec_coherenceInvalidation (hi : s.invals[s.args.k]? = some i) (hd : i.die = some d) :
    exec .coherenceInvalidation s = .next ((s.dropLine d i.line i.outside).putInval s.args.k { i with dropped := true }) := by
  show execCoherenceInvalidation s = _
  simp only [execCoherenceInvalidation, hi, hd]

/-- R284: an acknowledgement at the directory. -/
theorem exec_invalidationAck (hx : s.args.x ≠ 1) (hi : s.invals[s.args.k]? = some i) :
    exec .invalidationAck s = .next (if i.dropped then s.acknowledge s.args.k i else s) := by
  show execInvalidationAck s = _
  simp only [execInvalidationAck, if_neg hx, hi]

/-- An acknowledgement takes its die out of the line's entry and the invalidation away; what the device owes may change beside. -/
theorem State.acknowledge_die (hd : i.die = some d) (k : Nat) : ∃ owed, s.acknowledge k i =
    State.putDir { s with invals := s.invals.eraseIdx k, owed := owed }
      { s.dirOf i.line with dies := (s.dirOf i.line).dies.filter fun x => x ≠ d } := by
  unfold State.acknowledge
  rw [hd]
  exact ⟨_, rfl⟩

end

end Sys2Proof.Machine

namespace Sys2Proof.Proofs

open Sys2Proof.Machine Sys2Proof.Slice0

section
variable {s : State}

theorem coherenceInvalidation_dropsCopies {i : Inval} {d : Nat} (hi : s.invals[s.args.k]? = some i) (hd : i.die = some d) :
    ∃ t, exec .coherenceInvalidation s = .next t ∧ t.mem = s.mem ∧ t.dir = s.dir ∧
      t.invals = s.invals.set s.args.k { i with dropped := true } ∧ (∀ x, x ∈ t.l2 ↔ x ∈ s.l2 ∧ ¬ (x.die = d ∧ x.line = i.line)) ∧
      ∀ c, c.id.die = d → c ∈ t.cores → i.line ∉ c.l1d := by
  obtain ⟨t, ht, he⟩ := s.dropLine_eq d i.line i.outside
  obtain ⟨hmem, hdir, hinv⟩ := State.lines_of_still ht
  refine ⟨_, exec_coherenceInvalidation hi hd, ?_⟩
  rw [he]
  refine ⟨hmem, hdir, congrArg (List.set · _ _) hinv, fun x => mem_l2Without, fun c hc hm => ?_⟩
  obtain ⟨k, -, rfl⟩ := List.mem_map.1 hm
  exact Core.not_mem_undie hc

theorem invalidationAck_leavesDirectory {i : Inval} {d : Nat} (hx : s.args.x ≠ 1) (hi : s.invals[s.args.k]? = some i)
    (hd : i.die = some d) : (i.dropped = false → exec .invalidationAck s = .next s) ∧
      (i.dropped = true → ∃ t, exec .invalidationAck s = .next t ∧ t.mem = s.mem ∧ t.invals = s.invals.eraseIdx s.args.k ∧
        (∀ x, x ∈ (t.dirOf i.line).dies ↔ x ∈ (s.dirOf i.line).dies ∧ x ≠ d) ∧ (∀ l, l ≠ i.line → t.dirOf l = s.dirOf l) ∧ t.l2 = s.l2) := by
  have he := exec_invalidationAck hx hi
  refine ⟨fun hn => by rw [he, hn]; rfl, fun hy => ⟨s.acknowledge s.args.k i, by rw [he, hy, if_pos rfl], ?_⟩⟩
  obtain ⟨owed, hack⟩ := s.acknowledge_die hd s.args.k
  have hline : ({ s.dirOf i.line with dies := (s.dirOf i.line).dies.filter fun x => x ≠ d } : DirEntry).line = i.line := s.dirOf_line i.line
  rw [hack]
  refine ⟨rfl, rfl, fun x => ?_, fun l hl => ?_, rfl⟩
  · rw [State.dirOf_putDir_of_line _ hline]
    simp
  · exact State.dirOf_putDir_other _ (hline.symm ▸ hl)

theorem directoryEviction_sendsToEveryCopy : let line := s.args.pa / 128 * 128
    ∃ t, exec .directoryEviction s = .next t ∧ t = { s with invals := t.invals } ∧ keepsInvals s t ∧
      (∀ d ∈ (s.dirOf line).dies, ∃ i ∈ t.invals, i.line = line ∧ i.die = some d) ∧
      ((s.dirOf line).host = true → ∃ i ∈ t.invals, i.line = line ∧ i.die = none) := by
  refine ⟨_, rfl, rfl, s.keepsInvals_sendInvals _ _ _ _, fun d hd => ?_, fun hh => ?_⟩
  · exact s.exists_sendInvals _ _ _ _ (List.mem_append_left _ (List.mem_map_of_mem hd))
  · have hm : none ∈ if (s.dirOf (lineOf s.args.pa)).host then [none (α := Nat)] else [] := by
      rw [show (s.dirOf (lineOf s.args.pa)).host = true from hh, if_pos rfl]
      exact List.mem_singleton_self _
    exact s.exists_sendInvals _ _ _ _ (List.mem_append_right _ hm)

end

end Sys2Proof.Proofs

namespace Sys2Proof.Machine

open Sys2Proof.Slice0

/-! ### A die's line written back or dropped (R283, R284) -/

theorem State.dropLine_lines (s : State) (die line : Nat) (quiet : Bool) :
    (s.dropLine die line quiet).mem = s.mem ∧ (s.dropLine die line quiet).dir = s.dir ∧
      (s.dropLine die line quiet).l2 = l2Without s.l2 die line := by
  obtain ⟨t, ht, he⟩ := s.dropLine_eq die line quiet
  obtain ⟨hmem, hdir, -⟩ := State.lines_of_still ht
  rw [he]
  exact ⟨hmem, hdir, rfl⟩

theorem not_mem_l2Without (l : List L2Line) (die line : Nat) : ∀ x ∈ l2Without l die line, ¬ (x.die = die ∧ x.line = line) :=
  fun _ hx => (mem_l2Without.1 hx).2

theorem State.holdHome_eq (s : State) (line : Nat) (dirty u : Bool) :
    s.holdHome line dirty u = { s with homes := (s.holdHome line dirty u).homes } := by
  unfold State.holdHome
  split <;> rfl

section
variable {s : State}

theorem exec_lineWriteback_l2 (hok : s.args.ok = true) (h : ⟨s.args.n, lineOf s.args.pa, .dirty⟩ ∈ s.l2) :
    exec .lineWriteback s = .next (((s.dropLine s.args.n (lineOf s.args.pa)).putDir { s.dirOf (lineOf s.args.pa) with
      dies := (s.dirOf (lineOf s.args.pa)).dies.filter fun d => d ≠ s.args.n }).holdHome (lineOf s.args.pa) true false) := by
  have hany : s.l2.any (fun x => x.die = s.args.n ∧ x.line = lineOf s.args.pa ∧ x.state = .dirty) = true :=
    List.any_eq_true.2 ⟨_, h, by simp⟩
  show execLineWriteback s = _
  simp only [execLineWriteback, hok, hany, if_true]

theorem exec_cleanLineDrop_l2 (hok : s.args.ok = true) {st : L2State} (h : ⟨s.args.n, lineOf s.args.pa, st⟩ ∈ s.l2) (hst : st ≠ .dirty) :
    ∃ l, exec .cleanLineDrop s = .next (State.dropLine { s with decidedL2 := l } s.args.n (lineOf s.args.pa)) := by
  have hany : s.l2.any (fun x => x.die = s.args.n ∧ x.line = lineOf s.args.pa ∧ x.state ≠ .dirty) = true :=
    List.any_eq_true.2 ⟨_, h, by simp [hst]⟩
  refine ⟨s.decidedL2.setIfInBounds s.args.n
    ((s.decidedL2[s.args.n]?.getD []).filter fun x => decide (lineOf x.pa ≠ lineOf s.args.pa)), ?_⟩
  show execCleanLineDrop s = _
  simp only [execCleanLineDrop, hok, hany, if_true]

/-! ### S bytes of a core written back (R282, R286) -/

theorem lineOf_lineOf (a : Nat) : lineOf (lineOf a) = lineOf a := by
  unfold lineOf
  omega

/-- The ranges of memory begin and end at lines (R272). -/
theorem hasLines_lineOf (a : Nat) : hasLines (lineOf a) = hasLines a := by
  have hhbm : isHbm (lineOf a) = isHbm a := decide_eq_decide.2 (by unfold lineOf; omega)
  have hcap : isCap (lineOf a) = isCap a := decide_eq_decide.2 (by unfold lineOf; omega)
  have hhost : isHost (lineOf a) = isHost a := decide_eq_decide.2 (by unfold lineOf; omega)
  rw [hasLines, isDevice, hhbm, hcap, hhost]
  rfl

theorem linesOf_one (a : Nat) : linesOf a 1 = [lineOf a] := by
  have h : (a + 1 + 127) / 128 - a / 128 = 1 := by omega
  simp [linesOf, h]

theorem State.ownable_lineOf (s : State) (die : Option Nat) (a : Nat) : s.ownable die (lineOf a) = s.ownable die a := by
  rw [State.ownable, hasLines_lineOf, lineOf_lineOf]
  rfl

theorem State.backable_of_no_l1s {c : CoreId} (h : (s.coreD c).l1s = []) (p : Nat → Bool) : s.backable c p = true := by
  simp [State.backable, State.dirtyS, State.ownableAll, h]

section
variable {c : CoreId} {b : L1Byte} {p : Nat → Bool} (hl : (s.coreD c).l1s = [b]) (hd : b.dirty = true) (hp : p b.pa = true)
include hl hd hp

/-- One dirty byte may be written back where its line may be written. -/
theorem State.backable_one : s.backable c p = s.ownable (some c.die) b.pa := by
  simp [State.backable, State.dirtyS, State.ownableAll, hl, hd, hp, linesOf_one, State.ownable_lineOf]

end

end

/-! ### One byte's run -/

/-- One place of a granule's scan: the byte that the list holds of it joins the open run, or the open run ends. -/
def granuleStep (buf : List (Spot × Byte)) (x : Spot) (acc : List (Spot × List Byte) × Option (Spot × List Byte)) (i : Nat) :
    List (Spot × List Byte) × Option (Spot × List Byte) :=
  match buf.find? fun b => b.1 = x.shift i, acc.2 with
  | some b, some (y, bs) => (acc.1, some (y, bs ++ [b.2]))
  | some b, none => (acc.1, some (x.shift i, [b.2]))
  | none, some run => (acc.1 ++ [run], none)
  | none, none => acc

theorem granuleRuns_eq (buf : List (Spot × Byte)) (x : Spot) : granuleRuns buf x =
    ((List.range 64).foldl (granuleStep buf x) ([], none)).1 ++ ((List.range 64).foldl (granuleStep buf x) ([], none)).2.toList := rfl

/-- Places of which the list holds no byte begin no run and lose none. -/
theorem granuleStep_passes {buf : List (Spot × Byte)} {x : Spot} {l : List Nat}
    (h : ∀ i ∈ l, (buf.find? fun b => b.1 = x.shift i) = none) (acc : List (Spot × List Byte) × Option (Spot × List Byte)) :
    (l.foldl (granuleStep buf x) acc).1 ++ (l.foldl (granuleStep buf x) acc).2.toList = acc.1 ++ acc.2.toList := by
  induction l generalizing acc with
  | nil => rfl
  | cons i l ih =>
    rw [List.foldl_cons, ih (fun j hj => h j (List.mem_cons_of_mem i hj))]
    obtain ⟨rs, run⟩ := acc
    cases run <;> simp [granuleStep, h i List.mem_cons_self]

/-- One byte of a granule is one run. -/
theorem granuleRuns_byte (a : Nat) (v : Byte) : granuleRuns [(.pa a, v)] (.pa (a / 64 * 64)) = [(.pa a, [v])] := by
  have hfind : ∀ i, ([(Spot.pa a, v)].find? fun b => b.1 = (Spot.pa (a / 64 * 64)).shift i) = if i = a % 64 then some (.pa a, v) else none := by
    intro i
    have hi : a = a / 64 * 64 + i ↔ i = a % 64 := by omega
    by_cases h : i = a % 64
    · rw [if_pos h, List.find?_cons_of_pos (by simpa [Spot.shift] using hi.2 h)]
    · rw [if_neg h, List.find?_cons_of_neg (by simpa [Spot.shift] using mt hi.1 h), List.find?_nil]
  have hsplit : List.range 64 = List.range (a % 64) ++ a % 64 :: List.range' (a % 64 + 1) (63 - a % 64) := by
    have h63 : 63 - a % 64 + 1 = 64 - a % 64 := by omega
    rw [← List.range'_succ, h63, List.range_eq_range', List.range_eq_range', List.range'_eq_append_iff]
    exact ⟨a % 64, by omega, rfl, by rw [Nat.zero_add, Nat.mul_one]⟩
  have hbefore : (List.range (a % 64)).foldl (granuleStep [(.pa a, v)] (.pa (a / 64 * 64))) ([], none) = ([], none) := by
    have h := granuleStep_passes (buf := [(.pa a, v)]) (x := .pa (a / 64 * 64)) (l := List.range (a % 64))
      (fun i hi => (hfind i).trans (if_neg (List.mem_range.1 hi).ne)) ([], none)
    simp only [Option.toList_none, List.append_nil, List.append_eq_nil_iff, Option.toList_eq_nil_iff] at h
    exact Prod.ext h.1 h.2
  have hat : granuleStep [(.pa a, v)] (.pa (a / 64 * 64)) ([], none) (a % 64) = ([], some (.pa a, [v])) := by
    have hf := (hfind (a % 64)).trans (if_pos rfl)
    have hx : (Spot.pa (a / 64 * 64)).shift (a % 64) = .pa a := congrArg Spot.pa (Nat.div_add_mod' a 64)
    simp only [granuleStep, hf]
    rw [hx]
  rw [granuleRuns_eq, hsplit, List.foldl_append, hbefore, List.foldl_cons, hat, granuleStep_passes]
  · rfl
  · intro i hi
    rw [hfind, if_neg]
    have := (List.mem_range'_1.1 hi).1
    omega

theorem State.fetched_taint (s : State) (d a : Nat) : s.Fetched (s.taint d a) := by
  unfold State.taint
  generalize (if s.inL2 d (lineOf a) then Poison.l2 d (eccAt a) else .cell (s.eccOf (.pa a))) = e
  dsimp only
  split
  · exact .refl s
  · exact s.fetched_poison _

theorem State.cores_taint (s : State) (d a : Nat) : (s.taint d a).cores = s.cores := by
  unfold State.taint
  generalize (if s.inL2 d (lineOf a) then Poison.l2 d (eccAt a) else .cell (s.eccOf (.pa a))) = e
  dsimp only
  split <;> rfl

theorem State.cores_putL2 (s : State) (d l : Nat) (st : L2State) : (s.putL2 d l st).cores = s.cores := by
  unfold State.putL2 State.fetchPoison
  dsimp only
  split
  · split
    · rfl
    · split <;> rfl
  · rfl

theorem State.cores_takeDirty (s : State) (d a : Nat) : (s.takeDirty d a).cores = s.cores := by
  unfold State.takeDirty
  dsimp only
  split
  · rw [State.cores_putL2]
    split <;> rfl
  · rfl

/-- The write of a core's byte at its place, which conflicts with the transactions of other cores alone (R286, R414). -/
def State.byteBack (s : State) (c : CoreId) (b : L1Byte) : State :=
  ((s.markIf (fun i => decide (i.coreId ≠ c)) (.pa b.pa) 1).noteWrite (.pa b.pa) 1).outsideWrite (.pa b.pa) [b.val]

theorem State.still_byteBack (s : State) (c : CoreId) (b : L1Byte) : (s.byteBack c b).still = (s.writePaBytes b.pa [b.val]).still := by
  rw [State.byteBack, State.still_outsideWrite, State.writeSpots_pa, State.keepsBytes_still.writePaBytes, State.still_noteWrite,
    State.still_markIf, ← State.keepsBytes_still.writePaBytes]

/-- The L1 of a core whose one dirty byte has been written back, and the line dirty in its die's L2. -/
def State.byteClean (s : State) (c : CoreId) (b : L1Byte) : State :=
  (s.modCore c fun k => { k with l1s := [{ b with dirty := false }] }).takeDirty c.die b.pa

theorem State.byteClean_l1s (s : State) (c : CoreId) (b : L1Byte) : ((s.byteClean c b).coreD c).l1s = [{ b with dirty := false }] := by
  rw [State.byteClean, State.coreD_of_cores (State.cores_takeDirty _ _ _),
    State.coreD_modCore s c c (fun k => { k with l1s := [{ b with dirty := false }] }) fun _ => rfl, if_pos rfl]

theorem State.fetched_byteClean (s : State) (c : CoreId) (b : L1Byte) : s.Fetched (s.byteClean c b) :=
  (s.fetched_modCore c _).trans (State.fetched_takeDirty _ _ _)

/-- A core's one byte, dirty, written back: at its place, clean in the L1, and poisoned in the L2 where it was in the L1. -/
theorem State.writeBackS_one {s : State} {c : CoreId} {b : L1Byte} {p : Nat → Bool} (hl : (s.coreD c).l1s = [b]) (hd : b.dirty = true)
    (hp : p b.pa = true) : ∃ bad : List Nat, s.writeBackS c p = bad.foldl (fun s a => s.taint c.die a) ((s.byteBack c b).byteClean c b) := by
  refine ⟨([b].filter fun x => s.poison.contains (.l1 c x.pa)).map (·.pa), ?_⟩
  have hout : [b].filter (fun x => x.dirty && p x.pa) = [b] := by simp [hd, hp]
  have hruns : (([b].map fun x => x.pa / 64 * 64).dedup.flatMap fun a => granuleRuns ([b].map fun x => (.pa x.pa, x.val)) (.pa a)) =
      [(.pa b.pa, [b.val])] := by
    simp [granuleRuns_byte]
  have hclean : ([b].map fun x => if p x.pa then { x with dirty := false } else x) = [{ b with dirty := false }] := by simp [hp]
  unfold State.writeBackS
  dsimp only
  rw [hl, hout, hruns, hclean]
  rfl

/-! ### A group's transaction as an abort reaches it (R414, R415) -/

/-- A group without the accesses that it has in flight. -/
def Group.unread (g : Group) : Group := { g with out := [], stores := [] }

theorem Group.unread_readBy (g : Group) (q thread : Nat) (ps : List Piece) : (g.readBy q thread ps).unread = g.unread := by
  unfold Group.readBy
  dsimp only
  split <;> rfl

theorem State.unread_readInto (s : State) (g : Group) (o : Outst) (t : Target) : (s.readInto g o t).unread = g.unread := by
  unfold State.readInto
  split
  · split
    · exact g.unread_readBy _ _ _
    · rfl
  · rfl

theorem State.unread_settleReads (s : State) (g : Group) : (s.settleReads g).unread = g.unread := by
  unfold State.settleReads State.settleLoads
  refine List.foldlRecOn (motive := fun h : Group => h.unread = g.unread) _ _ rfl fun h ih o _ => ?_
  refine List.foldlRecOn (motive := fun h : Group => h.unread = g.unread) _ _ ih fun h ih t _ => ?_
  split
  · exact (s.unread_readInto _ _ _).trans ih
  · exact ih

theorem State.tx_settleReads (s : State) (g : Group) : (s.settleReads g).tx = g.tx := by
  have h : (s.settleReads g).unread.tx = g.unread.tx := by rw [s.unread_settleReads g]
  exact h

/-- A cause that a transaction sees first is the one that it keeps. -/
theorem Group.seen_seeAbort {g : Group} {y : Tx} (ht : g.tx = some y) (hs : y.seen = none) (cause code : Nat) :
    ∃ z, (g.seeAbort cause code).tx = some z ∧ z.seen = some (cause, code) := by
  simp [Group.seeAbort, ht, hs]

section
variable {s : State} {p : Group → Tx → Bool} {cause : Nat}

/-- Without a transaction nothing is aborted. -/
theorem State.abortWhere_of_no_tx (h : ∀ g ∈ s.groups, g.tx = none) : s.abortWhere p cause = s := by
  have hnil : (s.groups.filter fun g => (g.tx.map fun t => t.seen.isNone && p g t).getD false) = [] :=
    List.filter_eq_nil_iff.mpr fun g hg => by rw [h g hg]; exact Bool.false_ne_true
  unfold State.abortWhere
  dsimp only
  rw [hnil]
  rfl

/-- A transaction that has seen no cause and that `p` admits sees the cause. -/
theorem State.group?_abortWhere {i : GroupId} {g : Group} {y : Tx} (hg : s.group? i = some g) (ht : g.tx = some y) (hs : y.seen = none)
    (hp : p g y = true) : (s.abortWhere p cause).group? i = some ((s.settleReads g).seeAbort cause 0) := by
  have hhit : (g.tx.map fun t => t.seen.isNone && p g t).getD false = true := by simp [ht, hs, hp]
  have hne : (s.groups.filter fun g => (g.tx.map fun t => t.seen.isNone && p g t).getD false).isEmpty = false := by
    rw [List.isEmpty_eq_false_iff_exists_mem]
    exact ⟨g, List.mem_filter.2 ⟨(State.group?_some hg).1, hhit⟩⟩
  have hdis : ∀ (t : State) q, (t.disown q).group? i = t.group? i := by
    intro t q
    unfold State.disown
    split <;> rfl
  have hid : ∀ (k : Group) c, ((s.settleReads k).seeAbort c 0).id = k.id := fun k c =>
    ((s.steady_settleLoads _ k).trans (Group.steady_seeAbort _ c 0)).id
  unfold State.abortWhere
  dsimp only
  rw [hne, if_neg Bool.false_ne_true, State.foldl_view (fun t : State => t.group? i) fun t c => t.group?_modCore c _ i, hdis,
    State.group?_mapGroups, hg]
  · exact congrArg some (if_pos hhit)
  · intro k
    split
    · exact hid k _
    split
    · exact hid k _
    · rfl

end

/-! ### A line that leaves a core (R284, R414, R417) -/

/-- A core without its clean copies of a line. -/
def Core.unline (line : Nat) (k : Core) : Core :=
  { k.dropClean fun a => decide (lineOf a = line) with
    l1d := k.l1d.filter fun l => l ≠ line
    icache := k.icache.filter fun x => lineOf x.1 ≠ line
    decided := k.decided.filter fun x => lineOf x.pa ≠ line }

theorem Core.mem_l1s_unline {line : Nat} {k : Core} {x : L1Byte} :
    x ∈ (k.unline line).l1s ↔ x ∈ k.l1s ∧ (x.dirty = true ∨ lineOf x.pa ≠ line) := by
  simp [Core.unline, Core.dropClean]

/-- The transactions of a core that mark a line lose it, and its clean copies leave. -/
def State.unline (s : State) (c : CoreId) (line : Nat) : State :=
  (s.loseMarks fun k l => decide (k = c ∧ l = line)).modCore c (Core.unline line)

section
variable {s : State} {c : CoreId} {line : Nat}

theorem State.coreD_unline : (s.unline c line).coreD c =
    ((s.loseMarks fun k l => decide (k = c ∧ l = line)).coreD c).unline line := by
  rw [State.unline, State.coreD_modCore _ c c (Core.unline line) fun _ => rfl, if_pos rfl]

theorem State.mem_unline : (s.unline c line).mem = s.mem :=
  (State.modCore_mem _ _ _).trans (State.lines_of_still (s.still_abortWhere _ _)).1

/-- The L1 keeps the dirty S bytes, and beside the line every byte where no group has a transaction. -/
theorem State.l1s_unline_keeps {x : L1Byte} (hx : x ∈ (s.coreD c).l1s)
    (h : x.dirty = true ∨ (lineOf x.pa ≠ line ∧ ∀ g ∈ s.groups, g.tx = none)) : x ∈ ((s.unline c line).coreD c).l1s := by
  rw [State.coreD_unline, Core.mem_l1s_unline]
  rcases h with hd | ⟨hl, ht⟩
  · exact ⟨(s.mild_abortWhere _ _).dirty c x hx hd, .inl hd⟩
  · rw [State.loseMarks, State.abortWhere_of_no_tx ht]
    exact ⟨hx, .inr hl⟩

/-- A group whose transaction marks the line, larger than R417 promises for, sees CAPACITY. -/
theorem State.group?_unline {i : GroupId} {g : Group} {y : Tx} (hg : s.group? i = some g) (hc : g.id.coreId = c) (ht : g.tx = some y)
    (hl : line ∈ y.lines) (hbig : y.small = false) (hs : y.seen = none) :
    ∃ h z, (s.unline c line).group? i = some h ∧ h.tx = some z ∧ z.seen = some (2, 0) := by
  have hp : (!y.small && y.lines.any fun l => decide (g.id.coreId = c ∧ l = line)) = true := by simp [hbig, hc, hl]
  obtain ⟨z, hz, hseen⟩ := Group.seen_seeAbort ((s.tx_settleReads g).trans ht) hs 2 0
  exact ⟨_, z, (State.group?_modCore _ _ _ _).trans (State.group?_abortWhere hg ht hs hp), hz, hseen⟩

theorem State.kept_iff : (s.groups.any fun g => decide (g.id.coreId = c) &&
    (g.tx.map fun t => t.lines.contains line && t.small).getD false) = true ↔
    ∃ g ∈ s.groups, g.id.coreId = c ∧ ∃ t, g.tx = some t ∧ line ∈ t.lines ∧ t.small = true := by
  simp only [List.any_eq_true, Bool.and_eq_true, decide_eq_true_eq]
  refine exists_congr fun g => and_congr_right fun _ => and_congr_right fun _ => ?_
  cases g.tx <;> simp

end

section
variable {s : State} (hok : s.args.ok = false)
include hok

theorem exec_cleanLineDrop_small (h : ∃ g ∈ s.groups, g.id.coreId = s.args.core ∧ ∃ t, g.tx = some t ∧ lineOf s.args.pa ∈ t.lines ∧
    t.small = true) : exec .cleanLineDrop s = .next s := by
  show execCleanLineDrop s = _
  simp only [execCleanLineDrop, hok, Bool.false_eq_true, if_false, State.kept_iff.2 h, if_true]

theorem exec_cleanLineDrop_core (h : ¬ ∃ g ∈ s.groups, g.id.coreId = s.args.core ∧ ∃ t, g.tx = some t ∧ lineOf s.args.pa ∈ t.lines ∧
    t.small = true) : exec .cleanLineDrop s = .next (s.unline s.args.core (lineOf s.args.pa)) := by
  show execCleanLineDrop s = _
  simp only [execCleanLineDrop, hok, Bool.false_eq_true, if_false, mt State.kept_iff.1 h]
  rfl

/-- R286: a core's dirty S bytes of a line go back, or the invalidations for which they wait are sent. -/
theorem exec_lineWriteback_core : exec .lineWriteback s =
    .next (if s.backable s.args.core (fun a => decide (lineOf a = lineOf s.args.pa))
      then s.writeBackS s.args.core fun a => decide (lineOf a = lineOf s.args.pa)
      else s.claimBack s.args.core fun a => decide (lineOf a = lineOf s.args.pa)) := by
  show execLineWriteback s = _
  simp only [execLineWriteback, hok, Bool.false_eq_true, if_false]

end

/-! ### PUBLISH (R291, R346) -/

theorem State.Fetched.mem {s t : State} (h : s.Fetched t) : t.mem = s.mem := by
  have hm : t.uncached.mem = s.uncached.mem := by rw [h.rest]
  exact hm

section
variable {s : State} (h : ∀ k ∈ s.cores, k.l1s = [])
include h

/-- Where no L1 holds an S byte, a PUBLISH writes nothing back. -/
theorem State.fetched_publishRuns (c : CoreId) (sc : Scope) (rs : List (Nat × Nat)) : s.Fetched (s.publishRuns c sc rs) := by
  have hback : ∀ l : List Core, l.foldl (fun s k => s.writeBackS k.id (inRuns rs)) s = s := by
    intro l
    induction l with
    | nil => rfl
    | cons k l ih => rwa [List.foldl_cons, State.writeBackS_of_no_l1s (State.coreD_l1s_nil h k.id)]
  unfold State.publishRuns
  rw [hback]
  exact (s.fetched_abortWhere _ _).trans (.of_eq rfl rfl)

/-- A PUBLISH whose earlier accesses are performed completes where no L1 holds an S byte. -/
theorem State.performPublish_done {g : Group} {o : Outst} {sc : Scope} (lo hi : Nat) (hg : s.group? g.id = some g) (htx : g.tx = none)
    (hr : o.ready = false) (hb : g.settledBefore o.seq = true) : (s.performPublish g o sc lo hi).group? g.id =
      some (g.putOut { o with ready := true }) ∧ (s.performPublish g o sc lo hi).mem = s.mem := by
  have hl := State.coreD_l1s_nil h
  have hcs : ∀ rs, (((s.cores.filter fun k => coreWithin g.id.coreId sc k.id).map Core.id).filter fun c => !s.backable c (inRuns rs)) = [] :=
    fun rs => List.filter_eq_nil_iff.2 fun c _ => by simp [State.backable_of_no_l1s (hl c)]
  have hrel : ∀ f, s.releasing g.id.coreId sc f = f s := by
    intro f
    rw [State.releasing, State.releasable, State.backable_of_no_l1s (hl _), Bool.or_true, if_pos rfl, State.releaseL1,
      State.writeBackS_of_no_l1s (hl _), ite_self]
  have hf := State.fetched_publishRuns h g.id.coreId sc (s.physRuns g.id.coreId g.ctx hi ((hi - lo) / 65536 + 2) lo)
  obtain ⟨k, hk, hq⟩ := hf.groups g.id g hg
  obtain rfl : k = g := hq.same htx
  have he : s.performPublish k o sc lo hi = (s.publishRuns k.id.coreId sc
      (s.physRuns k.id.coreId k.ctx hi ((hi - lo) / 65536 + 2) lo)).put (k.putOut { o with ready := true }) := by
    simp only [State.performPublish, hr, hb, Bool.not_true, Bool.or_self, Bool.false_eq_true, if_false, hcs, ne_eq, not_true_eq_false, hrel, hk]
  rw [he]
  exact ⟨State.group?_put hk, hf.mem⟩

end

end Sys2Proof.Machine

namespace Sys2Proof.Proofs

open Sys2Proof.Machine Sys2Proof.Slice0

theorem lineWriteback_emptiesL2 {s : State} (hok : s.args.ok = true) (h : ⟨s.args.n, lineOf s.args.pa, .dirty⟩ ∈ s.l2) :
    ∃ t, exec .lineWriteback s = .next t ∧ t.mem = s.mem ∧ (∀ x ∈ t.l2, ¬ (x.die = s.args.n ∧ x.line = lineOf s.args.pa)) ∧
      s.args.n ∉ (t.dirOf (lineOf s.args.pa)).dies := by
  obtain ⟨hmem, -, hl2⟩ := s.dropLine_lines s.args.n (lineOf s.args.pa) false
  refine ⟨_, exec_lineWriteback_l2 hok h, ?_⟩
  rw [State.holdHome_eq]
  refine ⟨hmem, fun x hx => ?_, fun hm => ?_⟩
  · exact not_mem_l2Without _ _ _ x (hl2 ▸ hx)
  · have hget := State.dirOf_putDir_of_line (s.dropLine s.args.n (lineOf s.args.pa)) (e := { s.dirOf (lineOf s.args.pa) with
      dies := (s.dirOf (lineOf s.args.pa)).dies.filter fun d => d ≠ s.args.n }) (s.dirOf_line _)
    have hm' := hget ▸ hm
    simp at hm'

theorem cleanLineDrop_emptiesL2 {s : State} (hok : s.args.ok = true) {st : L2State} (h : ⟨s.args.n, lineOf s.args.pa, st⟩ ∈ s.l2)
    (hst : st ≠ .dirty) : ∃ t, exec .cleanLineDrop s = .next t ∧ t.mem = s.mem ∧ t.dir = s.dir ∧
      ∀ x ∈ t.l2, ¬ (x.die = s.args.n ∧ x.line = lineOf s.args.pa) := by
  obtain ⟨l, he⟩ := exec_cleanLineDrop_l2 hok h hst
  obtain ⟨hmem, hdir, hl2⟩ := State.dropLine_lines { s with decidedL2 := l } s.args.n (lineOf s.args.pa) false
  exact ⟨_, he, hmem, hdir, fun x hx => not_mem_l2Without _ _ _ x (hl2 ▸ hx)⟩

theorem invalidationsRunTheirCourse : InvalidationsRunTheirCourse := fun _ =>
  ⟨fun _ _ => coherenceInvalidation_dropsCopies, fun _ _ => invalidationAck_leavesDirectory, directoryEviction_sendsToEveryCopy,
    fun hok => ⟨lineWriteback_emptiesL2 hok, fun _ => cleanLineDrop_emptiesL2 hok⟩⟩

section
variable {s : State} (hok : s.args.ok = false)
include hok

theorem lineWriteback_waits {b : L1Byte} (hl : (s.coreD s.args.core).l1s = [b]) (hd : b.dirty = true)
    (hb : lineOf b.pa = lineOf s.args.pa) (ho : s.ownable (some s.args.core.die) b.pa = false) :
    ∃ t, exec .lineWriteback s = .next t ∧ t = { s with invals := t.invals } ∧ keepsInvals s t := by
  have hback := (State.backable_one (p := fun a => decide (lineOf a = lineOf s.args.pa)) hl hd (decide_eq_true hb)).trans ho
  exact ⟨_, (exec_lineWriteback_core hok).trans (by rw [hback, if_neg Bool.false_ne_true]), s.claimBack_eq _ _, s.keepsInvals_claimBack _ _⟩

theorem lineWriteback_cleansByte {b : L1Byte} (hl : (s.coreD s.args.core).l1s = [b]) (hd : b.dirty = true)
    (hb : lineOf b.pa = lineOf s.args.pa) (ho : s.ownable (some s.args.core.die) b.pa = true) :
    ∃ t, exec .lineWriteback s = .next t ∧ wroteBytes s t b.pa (some [b.val]) ∧
      (t.coreD s.args.core).l1s = [{ b with dirty := false }] := by
  have hp : decide (lineOf b.pa = lineOf s.args.pa) = true := decide_eq_true hb
  have hback := (State.backable_one (p := fun a => decide (lineOf a = lineOf s.args.pa)) hl hd hp).trans ho
  obtain ⟨bad, he⟩ := State.writeBackS_one (p := fun a => decide (lineOf a = lineOf s.args.pa)) hl hd hp
  have hf := (State.fetched_byteClean (s.byteBack s.args.core b) s.args.core b).trans
    (.foldl (fun t a => t.fetched_taint s.args.core.die a) bad _)
  refine ⟨_, (exec_lineWriteback_core hok).trans (by rw [hback, if_pos rfl, he]), fun x => ?_, ?_⟩
  · rw [hf.readPa, ← State.keepsBytes_still.readPa, State.still_byteBack, State.keepsBytes_still.readPa]
  · rw [State.coreD_of_cores (State.foldl_view State.cores (fun t a => t.cores_taint _ a) bad _), State.byteClean_l1s]

theorem cleanLineDrop_emptiesL1 (h : ∀ g ∈ s.groups, g.id.coreId = s.args.core → ∀ t, g.tx = some t → lineOf s.args.pa ∈ t.lines →
    t.small = false) : ∃ t, exec .cleanLineDrop s = .next t ∧
      t.mem = s.mem ∧ lineOf s.args.pa ∉ (t.coreD s.args.core).l1d ∧
      (∀ x ∈ (t.coreD s.args.core).l1s, x ∈ (s.coreD s.args.core).l1s ∧ (x.dirty = true ∨ x.pa / 128 * 128 ≠ lineOf s.args.pa)) ∧
      (∀ x ∈ (s.coreD s.args.core).l1s, (x.dirty = true ∨ (x.pa / 128 * 128 ≠ lineOf s.args.pa ∧ ∀ g ∈ s.groups, g.tx = none)) →
        x ∈ (t.coreD s.args.core).l1s) ∧
      (∀ x ∈ (t.coreD s.args.core).icache, x.1 / 128 * 128 ≠ lineOf s.args.pa) ∧
      ∀ i g y, s.group? i = some g → g.id.coreId = s.args.core → g.tx = some y → lineOf s.args.pa ∈ y.lines → y.seen = none →
        ∃ h z, t.group? i = some h ∧ h.tx = some z ∧ z.seen = some (2, 0) := by
  have hkept : ¬ ∃ g ∈ s.groups, g.id.coreId = s.args.core ∧ ∃ t, g.tx = some t ∧ lineOf s.args.pa ∈ t.lines ∧ t.small = true := by
    rintro ⟨g, hg, hc, t, ht, hl, hs⟩
    simp [h g hg hc t ht hl] at hs
  refine ⟨_, exec_cleanLineDrop_core hok hkept, State.mem_unline, ?_, fun x hx => ?_, fun x => State.l1s_unline_keeps, ?_,
    fun i g y hg hc ht hl hs => State.group?_unline hg hc ht hl (h g (State.group?_some hg).1 hc y ht hl) hs⟩
  · rw [State.coreD_unline]
    simp [Core.unline]
  · rw [State.coreD_unline] at hx
    obtain ⟨hm, hd⟩ := Core.mem_l1s_unline.1 hx
    exact ⟨(s.mild_abortWhere _ _).l1s _ hm, hd⟩
  · rw [State.coreD_unline]
    intro x hx
    exact of_decide_eq_true (List.mem_filter.1 hx).2

end

theorem coresGiveUpTheirCopies : CoresGiveUpTheirCopies := by
  intro s hok line c
  refine ⟨fun b => lineWriteback_waits hok, fun b => lineWriteback_cleansByte hok, cleanLineDrop_emptiesL1 hok,
    exec_cleanLineDrop_small hok, fun g o sc lo hi hx hg ho hk hr htx => ?_⟩
  have he : exec .invalidationAck s = .next (s.performPublish g o sc lo hi) := by
    show execInvalidationAck s = _
    simp only [execInvalidationAck, hx, if_true, hg, ho, hk]
  refine ⟨fun hb => ?_, fun hb _ hl => ⟨_, he, ?_⟩⟩
  · rw [he, State.performPublish, hb, Bool.not_false, Bool.or_true, if_pos rfl]
  · have hid : s.group? g.id = some g := by rw [(State.group?_some hg).2, hg]
    exact State.performPublish_done hl lo hi hid htx hr hb

end Sys2Proof.Proofs
end
section
/-! ### Translations cached and dropped, HMASK values applied, and completions that time out (R146, R298, R350, R390, R391, R401) -/

namespace Sys2Proof.Machine

open Sys2Proof.Slice0

/-! ### Translation caches -/

theorem State.tlb_tlbFill (s : State) (c : CoreId) (ctx : Nat) (p : Page) :
    ((s.tlbFill c ctx p).coreD c).tlb = tlbPut coreTlbSize (s.coreD c).tlb ctx p := by
  change ((s.modCore c fun k => { k with tlb := tlbPut coreTlbSize k.tlb ctx p }).coreD c).tlb = _
  rw [State.coreD_modCore s c c (fun k => { k with tlb := tlbPut coreTlbSize k.tlb ctx p }) fun _ => rfl, if_pos rfl]

theorem State.dieTlb_tlbFill (s : State) {c : CoreId} (h : c.die < 8) (ctx : Nat) (p : Page) :
    (s.tlbFill c ctx p).dieTlb[c.die]? = some (tlbPut dieTlbSize (s.dieTlb[c.die]?.getD []) ctx p) := by
  simp [State.tlbFill, h]

/-- Whether a TLBINV of a context and an address, or of the whole context, takes an entry away (R146). -/
def TlbEntry.hit (ctx : Nat) (all : Bool) (va : Nat) (e : TlbEntry) : Prop := e.ctx = ctx ∧ (all = true ∨ (e.base ≤ va ∧ va < e.base + e.size))

theorem not_hit_of_mem_tlbDrop {l : List TlbEntry} {ctx : Nat} {all : Bool} {va : Nat} {e : TlbEntry} (h : e ∈ tlbDrop l ctx all va) :
    ¬ e.hit ctx all va := by
  rw [TlbEntry.hit]
  exact of_decide_eq_true (List.mem_filter.1 h).2

/-- A core's translation caches without the entries of a TLBINV, where it lies within the scope (R146). -/
def Core.untlb (c : CoreId) (sc : Scope) (ctx : Nat) (all : Bool) (va : Nat) (k : Core) : Core :=
  if coreWithin c sc k.id then { k with tlb := tlbDrop k.tlb ctx all va, walkTlb := tlbDrop k.walkTlb ctx all va } else k

section
variable (s : State) (c : CoreId) (sc : Scope) (ctx : Nat) (all : Bool) (va : Nat)

theorem State.tlbInvalidate_cores : (s.tlbInvalidate c sc ctx all va).cores = s.cores.map (Core.untlb c sc ctx all va) := by
  cases sc <;> rfl

/-- Beside translation caches a TLBINV changes nothing. -/
theorem State.tlbInvalidate_eq : s.tlbInvalidate c sc ctx all va =
    { s with cores := (s.tlbInvalidate c sc ctx all va).cores, dieTlb := (s.tlbInvalidate c sc ctx all va).dieTlb } := by
  cases sc <;> rfl

theorem coreWithin_self : coreWithin c sc c = true := by
  cases sc <;> simp [coreWithin]

theorem Core.id_untlb (k : Core) : (k.untlb c sc ctx all va).id = k.id := by
  unfold Core.untlb
  split <;> rfl

theorem Core.not_hit_untlb {k : Core} (h : coreWithin c sc k.id = true) :
    ∀ e ∈ (k.untlb c sc ctx all va).tlb ++ (k.untlb c sc ctx all va).walkTlb, ¬ e.hit ctx all va := by
  intro e he
  rw [Core.untlb, if_pos h] at he
  exact (List.mem_append.1 he).elim not_hit_of_mem_tlbDrop not_hit_of_mem_tlbDrop

theorem State.coreD_tlbInvalidate (h : ∃ k ∈ s.cores, k.id = c) :
    (s.tlbInvalidate c sc ctx all va).coreD c = (s.coreD c).untlb c sc ctx all va := by
  have hfind : (s.tlbInvalidate c sc ctx all va).core? c = (s.core? c).map (Core.untlb c sc ctx all va) := by
    rw [State.core?, State.tlbInvalidate_cores, List.find?_map]
    simp only [Function.comp_def, Core.id_untlb]
    rfl
  cases hk : s.core? c with
  | some k => simp [State.coreD, hfind, hk]
  | none =>
    obtain ⟨k, hm, hc⟩ := h
    have := List.find?_eq_none.1 hk k hm
    simp [hc] at this

theorem State.id_coreD : (s.coreD c).id = c := by
  unfold State.coreD
  cases h : s.core? c with
  | none => rfl
  | some k => simpa using List.find?_some h

/-- The die's second-level TLB is emptied at every scope, the other dies' at .dev and .sys alone (log entry 9). -/
theorem State.dieTlb_tlbInvalidate (d : Fin 8) : (s.tlbInvalidate c sc ctx all va).dieTlb[d] =
    if d.val = c.die ∨ sc = .dev ∨ sc = .sys then tlbDrop s.dieTlb[d] ctx all va else s.dieTlb[d] := by
  have hown : (s.dieTlb.setIfInBounds c.die (tlbDrop (s.dieTlb[c.die]?.getD []) ctx all va))[d] =
      if d.val = c.die then tlbDrop s.dieTlb[d] ctx all va else s.dieTlb[d] := by
    by_cases h : d.val = c.die
    · simp [h.symm]
    · simp [h, Ne.symm h]
  cases sc
  case dev | sys => simp [State.tlbInvalidate]
  case grp | core | die =>
    simp only [reduceCtorEq, or_false]
    exact hown

end

/-! ### HMASK (R298, R350) -/

/-- One value of one stack's HMASK applied. -/
theorem getElem_setIfInBounds_setIfInBounds {α : Type} (v : Vector (Vector α 6) 12) (z : Vector α 6) {st k : Nat} (x : α)
    (a : Fin 12) (b : Fin 6) :
    (v.setIfInBounds st ((v[st]?.getD z).setIfInBounds k x))[a][b] = if a.val = st ∧ b.val = k then x else v[a][b] := by
  by_cases ha : a.val = st
  · subst ha
    by_cases hb : b.val = k
    · simp [hb.symm]
    · simp [hb, Ne.symm hb]
  · simp [ha, Ne.symm ha]

/-- The state with a waiting value applied, and taken from the queue. -/
def State.hmaskApplied (s : State) (r : HmaskReq) : State := { s with
  hmaskQ := s.hmaskQ.eraseIdx s.args.k
  hmask := s.hmask.setIfInBounds r.stack ((s.hmask[r.stack]?.getD (Vector.replicate 6 0)).setIfInBounds r.i r.val) }

section
variable {s : State} {r : HmaskReq} (hr : s.hmaskQ[s.args.k]? = some r)
include hr

theorem exec_hmaskApply_frees {i : GroupId} {g : Group} {w : Wait} (hi : r.group = some i) (hg : s.group? i = some g)
    (hw : g.wait = some w) (hk : w.kind = .hmask) : exec .hmaskApply s = .next ((s.hmaskApplied r).put g.unhold) := by
  have hb : (r.group.bind (s.hmaskApplied r).group?) = some g := by rw [hi]; exact hg
  show execHmaskApply s = _
  unfold execHmaskApply
  rw [hr]
  dsimp only
  split
  next k hk' =>
    obtain rfl : k = g := Option.some.inj (hk'.symm.trans hb)
    split
    · rfl
    next hn => exact absurd (by rw [hw, Option.map_some, hk]) hn
  next hn => exact absurd (hb.symm.trans hn) (Option.some_ne_none g)

/-- Beside the value applied, at most the group whose SWR wrote it changes. -/
theorem exec_hmaskApply : ∃ t, exec .hmaskApply s = .next t ∧ t.hmaskQ = (s.hmaskApplied r).hmaskQ ∧ t.hmask = (s.hmaskApplied r).hmask := by
  show ∃ t, execHmaskApply s = .next t ∧ _
  unfold execHmaskApply
  rw [hr]
  dsimp only
  split
  · split
    · exact ⟨_, rfl, rfl, rfl⟩
    · exact ⟨_, rfl, rfl, rfl⟩
  · exact ⟨_, rfl, rfl, rfl⟩

end

/-! ### Accesses lost with their port (R401) -/

/-- An outstanding operation without one thread's access, which is the thread's late fault. -/
def Outst.loses (o : Outst) (t : Target) : Outst := { o.lost t cLinkLost with held := o.held.filter fun u => u.thread ≠ t.thread }

theorem Outst.foldl_loses (l : List Target) (o : Outst) : (l.foldl Outst.loses o).todo = o.todo.filter (fun u => l.all fun t => u.thread ≠ t.thread) ∧
    (l.foldl Outst.loses o).late = o.late ++ l.map fun t => (t.thread, cLinkLost, t.va) := by
  induction l generalizing o with
  | nil => simp
  | cons t l ih =>
    obtain ⟨htodo, hlate⟩ := ih (o.loses t)
    rw [List.foldl_cons, htodo, hlate]
    refine ⟨?_, ?_⟩
    · simp only [Outst.loses, Outst.lost, List.filter_filter, List.all_cons, Bool.and_comm]
    · simp [Outst.loses, Outst.lost]

/-- The accesses left are those that do not go through the port, where each thread has one. -/
theorem filter_not_through {l : List Target} (h : l.Pairwise fun x y => x.thread ≠ y.thread) (p : Target → Bool) :
    l.filter (fun u => (l.filter p).all fun t => u.thread ≠ t.thread) = l.filter fun u => !p u := by
  refine List.filter_congr fun u hu => ?_
  cases hp : p u with
  | true =>
    exact List.all_eq_false.2 ⟨u, List.mem_filter.2 ⟨hu, hp⟩, by simp⟩
  | false =>
    refine List.all_eq_true.2 fun t ht => ?_
    obtain ⟨hm, ht⟩ := List.mem_filter.1 ht
    have hne : u ≠ t := by
      rintro rfl
      simp [hp] at ht
    have hsymm : Std.Symm fun x y : Target => x.thread ≠ y.thread := ⟨fun _ _ => Ne.symm⟩
    exact decide_eq_true (h.forall hu hm hne)

section
variable {s : State}

theorem State.dropThrough_of_no_stores {p : Port} {g : Group} (h : g.stores = []) : s.dropThrough p g = s := by
  simp [State.dropThrough, h]

/-- With nothing asleep and no store to discard, a port that is lost takes the groups' accesses through it. -/
theorem State.losePort_eq (hs : s.Sleepless) (h : ∀ g ∈ s.groups, g.stores = []) (p : Port) :
    s.losePort p = s.mapGroups (s.loseThrough p) := by
  have hkeep : ∀ (l : List Group) (t : State), (∀ g ∈ l, g.stores = []) → l.foldl (fun t g => t.dropThrough p g) t = t := by
    intro l
    induction l with
    | nil => exact fun _ _ => rfl
    | cons g l ih =>
      intro t hl
      rw [List.foldl_cons, State.dropThrough_of_no_stores (hl g List.mem_cons_self), ih t fun k hk => hl k (List.mem_cons_of_mem g hk)]
  rw [State.losePort, State.wakeIf_of_sleepless hs]
  refine hkeep _ _ fun k hk => ?_
  obtain ⟨g, hg, rfl⟩ := List.mem_map.1 hk
  exact h g hg

/-- The one operation that a group has outstanding, without its accesses through a port. -/
theorem State.out_loseThrough {g : Group} {o : Outst} (p : Port) (ho : g.out = [o]) (hh : o.held = []) (ha : o.kind.accesses = true) :
    (s.loseThrough p g).out = [(o.todo.filter fun t => s.targetThrough p t.pieces).foldl Outst.loses o] := by
  simp only [State.loseThrough, ho, List.map_cons, List.map_nil, ha, if_true, hh, List.append_nil]
  rfl

end

end Sys2Proof.Machine

namespace Sys2Proof.Proofs

open Sys2Proof.Machine Sys2Proof.Slice0

section
variable {s : State}

theorem pageWalk_fillsCaches {p : Page} (hw : s.walk s.args.n s.args.x.toNat = .page p) (hd : s.args.core.die < 8) :
    ∃ t, exec .pageWalk s = .next t ∧ (t.coreD s.args.core).tlb.head? = some ⟨s.args.n, p.base, p.size, p.pte, p.entry⟩ ∧
      (t.dieTlb[s.args.core.die]?.getD []).head? = some ⟨s.args.n, p.base, p.size, p.pte, p.entry⟩ ∧ t.mem = s.mem ∧ t.groups = s.groups := by
  refine ⟨s.tlbFill s.args.core s.args.n p, ?_, ?_, ?_, s.modCore_mem _ _, s.modCore_groups _ _⟩
  · show execPageWalk s = _
    simp only [execPageWalk, hw]
  · rw [State.tlb_tlbFill]
    rfl
  · rw [State.dieTlb_tlbFill s hd]
    rfl

theorem pageWalk_unmapped (h : ∀ p, s.walk s.args.n s.args.x.toNat ≠ .page p) : exec .pageWalk s = .next s := by
  show execPageWalk s = _
  unfold execPageWalk
  split
  next p hp => exact absurd hp (h p)
  · rfl

/-- What a TLBINV leaves of the caches, whatever its scope and beyond (R146). -/
theorem tlbInvalidate_empties (c : CoreId) (sc : Scope) (ctx : Nat) (all : Bool) (va : Nat) (hc : ∃ k ∈ s.cores, k.id = c) :
    let t := s.tlbInvalidate c sc ctx all va
    (∀ e ∈ (t.coreD c).tlb ++ (t.coreD c).walkTlb, ¬ e.hit ctx all va) ∧
      (sc = .dev ∨ sc = .sys → (∀ k ∈ t.cores, ∀ e ∈ k.tlb, ¬ e.hit ctx all va) ∧ ∀ d : Fin 8, ∀ e ∈ t.dieTlb[d], ¬ e.hit ctx all va) ∧
      (∀ d : Fin 8, d.val = c.die → ∀ e ∈ t.dieTlb[d], ¬ e.hit ctx all va) ∧
      (sc = .core ∨ sc = .die → ∀ d : Fin 8, d.val ≠ c.die → t.dieTlb[d] = s.dieTlb[d]) := by
  refine ⟨?_, fun hsc => ⟨fun k hk e he => ?_, fun d e he => ?_⟩, fun d hd e he => ?_, fun hsc d hd => ?_⟩
  · rw [s.coreD_tlbInvalidate c sc ctx all va hc]
    exact Core.not_hit_untlb c sc ctx all va (by rw [s.id_coreD, coreWithin_self])
  · rw [State.tlbInvalidate_cores] at hk
    obtain ⟨j, -, rfl⟩ := List.mem_map.1 hk
    have hw : coreWithin c sc j.id = true := by rcases hsc with rfl | rfl <;> rfl
    exact Core.not_hit_untlb c sc ctx all va hw e (List.mem_append_left _ he)
  · rw [State.dieTlb_tlbInvalidate, if_pos (.inr hsc)] at he
    exact not_hit_of_mem_tlbDrop he
  · rw [State.dieTlb_tlbInvalidate, if_pos (.inl hd)] at he
    exact not_hit_of_mem_tlbDrop he
  · rw [State.dieTlb_tlbInvalidate, if_neg]
    rcases hsc with rfl | rfl <;> simp [hd]

theorem tlbinvComplete_empties {g : Machine.Group} {o : Outst} {sc : Scope} {all : Bool} {va : DWord}
    (hg : s.group? s.args.group = some g) (ho : g.out.find? (fun o => o.seq = s.args.k ∧ o.ready = false) = some o)
    (hk : o.kind = .tlbinv sc all va) :
    ∃ t, exec .tlbinvComplete s = .next t ∧ t.group? g.id = some (g.putOut { o with ready := true }) ∧ t.mem = s.mem ∧
      t.cores = (s.tlbInvalidate g.id.coreId sc g.ctx all va.toNat).cores ∧
      t.dieTlb = (s.tlbInvalidate g.id.coreId sc g.ctx all va.toNat).dieTlb := by
  have hid : s.group? g.id = some g := by rw [(State.group?_some hg).2, hg]
  refine ⟨(s.tlbInvalidate g.id.coreId sc g.ctx all va.toNat).put (g.putOut { o with ready := true }), ?_, ?_, ?_, rfl, rfl⟩
  · show execTlbinvComplete s = _
    simp only [execTlbinvComplete, hg, ho, hk]
  · refine State.group?_put (g := g.putOut { o with ready := true }) (h := g) ?_
    rw [State.tlbInvalidate_eq]
    exact hid
  · rw [State.put_mem, State.tlbInvalidate_eq]

theorem hmaskApply_appliesValue {r : HmaskReq} (hr : s.hmaskQ[s.args.k]? = some r) :
    ∃ t, exec .hmaskApply s = .next t ∧ t.hmaskQ = s.hmaskQ.eraseIdx s.args.k ∧
      (∀ (a : Fin 12) (b : Fin 6), t.hmask[a][b] = if a.val = r.stack ∧ b.val = r.i then r.val else s.hmask[a][b]) ∧
      ∀ i g w, r.group = some i → s.group? i = some g → g.wait = some w → w.kind = .hmask → t.group? i = some g.unhold := by
  obtain ⟨t, he, hq, hm⟩ := exec_hmaskApply hr
  refine ⟨t, he, hq, fun a b => ?_, fun i g w hi' hg hw hk => ?_⟩
  · rw [hm]
    exact getElem_setIfInBounds_setIfInBounds _ _ _ a b
  · obtain rfl : t = (s.hmaskApplied r).put g.unhold :=
      Host.Outcome.next.inj (he.symm.trans (exec_hmaskApply_frees hr hi' hg hw hk))
    have hid : g.unhold.id = i := (Machine.Group.nextWord_id _ 1).trans (State.group?_some hg).2
    rw [← hid] at hg ⊢
    exact State.group?_put (s := s.hmaskApplied r) hg

end

theorem translationsAreCachedAndDropped : TranslationsAreCachedAndDropped := by
  refine fun s => ⟨fun p => pageWalk_fillsCaches, pageWalk_unmapped, fun g o sc all va hg ho hk hc => ?_,
    fun r hr _ _ => hmaskApply_appliesValue hr⟩
  obtain ⟨t, he, hput, hmem, hcores, hdie⟩ := tlbinvComplete_empties hg ho hk
  obtain ⟨hcore, hall, hown, hother⟩ := tlbInvalidate_empties g.id.coreId sc g.ctx all va.toNat hc
  refine ⟨t, he, hput, hmem, ?_, ?_, ?_, ?_⟩
  · rw [State.coreD_of_cores hcores]
    exact hcore
  · rw [hcores, hdie]
    exact hall
  · rw [hdie]
    exact hown
  · rw [hdie]
    exact hother

theorem timeoutsLoseTheirAccesses : TimeoutsLoseTheirAccesses := by
  intro s i g o hg hsl ho hh hst ha through
  have he : exec .completionTimeout s = .next (s.mapGroups (s.loseThrough s.args.port)) :=
    congrArg Host.Outcome.next (State.losePort_eq hsl hst s.args.port)
  obtain ⟨htodo, hlate⟩ := Outst.foldl_loses (o.todo.filter through) o
  exact ⟨_, _, _, he, (s.group?_mapGroups (f := s.loseThrough s.args.port) (fun _ => rfl) i).trans (congrArg _ hg),
    State.out_loseThrough _ ho hh ha, fun hp => ⟨htodo.trans (filter_not_through hp through), hlate⟩, rfl⟩

/-- Settles O48: what a drop of a line, an abort and a write-back leave, and the translation caches and accesses entry by entry. -/
theorem copiesTranslationsAndTimeoutsAct : Obligations.CopiesTranslationsAndTimeoutsAct :=
  ⟨invalidationsRunTheirCourse, coresGiveUpTheirCopies, translationsAreCachedAndDropped, timeoutsLoseTheirAccesses⟩

end Sys2Proof.Proofs
end
